-- ==== Sys2Proof/Word.lean ====
section
/-! DEFINITION. The word types of the OZ768-A (spec/00_scope.md R5, spec/04_encoding.md R58, R61). -/

namespace Sys2Proof

/-- One byte of memory. -/
abbrev Byte := BitVec 8
/-- One element of a v-register or of an accumulator. -/
abbrev Word32 := BitVec 32
/-- An s-register, a special register, a program counter. -/
abbrev Word64 := BitVec 64
/-- One instruction word: a slot of a fetch line (R58). -/
abbrev Word96 := BitVec 96
/-- The execution mask or a k-register: mask words 0 to 31, word i at bits 32i+31..32i (R34). -/
abbrev Mask := BitVec 1024
/-- A shape record as an h-register holds it: eight 64-bit words, w0 lowest (R216). -/
abbrev Record := BitVec 512
/-- The 128 bytes of a line, byte 0 lowest (R11). -/
abbrev LineData := BitVec 1024

end Sys2Proof
end

