-- ==== Sys2Proof/Config.lean ====
section
/-! DEFINITION. What an implementation fixes and the manual leaves open: the free values.
Each is an opaque constant with no body, so that no proof can know what it is. -/

namespace Sys2Proof.Config

/-- A transcendental's result bits, a fixed function of the operation (0 VRCP, 1 VRSQ, 2 VEXP2,
3 VLOG2, 4 VTANH), the format (TY code 6, 7 or 8), MODE.FTZ, MODE.DAZ and the input bits
(spec/05_numbers.md R116, R117).  UNVERIFIED; log entry 1. -/
opaque transcendental : Nat → Nat → Bool → Bool → BitVec 32 → BitVec 32

/-- Whether an image verifies against the fused key digest (spec/15_platform.md R334, R336). Log entry 2. -/
opaque imageVerifies : List Byte → Bool

/-- Whether a transition token is signed by the owner key whose digest an image carries and names this device and the
current life-cycle state (spec/15_platform.md R338). Log entry 2. -/
opaque tokenVerifies : List Byte → Nat → Nat → List Byte → Bool

/-- The XMSS signature over an attestation body with a signature index (spec/15_platform.md R337). Log entry 2. -/
opaque signature : List Byte → Nat → List Byte

/-- The measurements of the boot ROM, of an image, and of the configuration with the repaired banks of each die
(spec/15_platform.md R334, R337). Log entry 2. -/
opaque romMeasurement : BitVec 256
opaque imageMeasurement : List Byte → BitVec 256
opaque configMeasurement : List (List Nat) → BitVec 256

/-- The amperes that filler MMAs draw on one idle matrix array (spec/14_power.md R302). Log entry 3. -/
opaque fillerAmps : Nat

/-- The estimated package draw in watts at a column level, from the draw at level 0
(spec/14_power.md R317, R318). Log entry 3. -/
opaque drawAtLevel : Nat → Nat → Nat

/-- The body of an answer to an MCTP control message (spec/15_platform.md R332). Log entry 4. -/
opaque mctpAnswer : List Byte → List Byte

/-- The supply trim in millivolts that start-up firmware gives a column, 0 to 150 (spec/14_power.md R299). Log entry 6. -/
opaque trim : Nat → Fin 151

/-- The package power that the sideband's sensor reads, in watts, at the n-th reading (spec/15_platform.md R332). Log entry 3. -/
opaque packagePower : Nat → Nat

/-- The SRAM die, 0 or 1, over whose sensor a bank's temperature is judged (spec/06_well.md R144). Log entry 9. -/
opaque bankSram : Nat → Nat

end Sys2Proof.Config
end

