-- ==== Sys2Proof/Syntax.lean ====
section
/-! DEFINITION. Abstract syntax: one constructor for each row of spec/opcode_table.json.
A program instruction carries the fields of its format (spec/04_encoding.md R69 to R88), every bit of
the word in one field or another, because a field that breaks a rule is a trap the machine takes at
issue (R92), and some of those checks need the team that issues.  A step of the device itself carries
the numbers that name what it acts on. -/

namespace Sys2Proof

/-- V format (R69, R72). -/
structure VF where
  sw  : Bool := false
  pm  : BitVec 4 := 0
  pn  : Bool := false
  vd  : BitVec 10 := 0
  va  : BitVec 10 := 0
  vb  : BitVec 10 := 0
  vc  : BitVec 10 := 0
  ty  : BitVec 4 := 0
  rnd : BitVec 3 := 0
  sat : Bool := false
  res : BitVec 2 := 0
  imm : BitVec 32 := 0
  deriving DecidableEq, Repr

/-- S format (R69, R78). -/
structure SF where
  sw  : Bool := false
  pm  : BitVec 4 := 0
  pn  : Bool := false
  sd  : BitVec 6 := 0
  sa  : BitVec 6 := 0
  sb  : BitVec 6 := 0
  imm : BitVec 64 := 0
  deriving DecidableEq, Repr

/-- M format (R69, R80). -/
structure MF where
  sw    : Bool := false
  pm    : BitVec 4 := 0
  pn    : Bool := false
  data  : BitVec 10 := 0
  base  : BitVec 6 := 0
  idx   : BitVec 10 := 0
  sz    : BitVec 3 := 0
  sx    : Bool := false
  scope : BitVec 3 := 0
  ord   : BitVec 2 := 0
  well  : BitVec 2 := 0
  aop   : BitVec 4 := 0
  shift : BitVec 3 := 0
  res   : BitVec 6 := 0
  disp  : BitVec 32 := 0
  deriving DecidableEq, Repr

/-- X format (R69, R84). -/
structure XF where
  sw   : Bool := false
  pm   : BitVec 4 := 0
  pn   : Bool := false
  ha   : BitVec 5 := 0
  hb   : BitVec 5 := 0
  hc   : BitVec 5 := 0
  zd   : BitVec 4 := 0
  nega : Bool := false
  negb : Bool := false
  acd  : Bool := false
  bar  : BitVec 6 := 0
  s1   : BitVec 6 := 0
  sub  : BitVec 48 := 0
  deriving DecidableEq, Repr

/-- C format (R69, R86). -/
structure CF where
  sw   : Bool := false
  pm   : BitVec 4 := 0
  pn   : Bool := false
  sa   : BitVec 6 := 0
  ksel : BitVec 4 := 0
  cc   : BitVec 3 := 0
  slot : BitVec 3 := 0
  res  : BitVec 34 := 0
  disp : BitVec 32 := 0
  deriving DecidableEq, Repr

/-- Y format (R69, R88). -/
structure YF where
  sw   : Bool := false
  pm   : BitVec 4 := 0
  pn   : Bool := false
  sa   : BitVec 6 := 0
  sb   : BitVec 6 := 0
  code : BitVec 7 := 0
  sub  : BitVec 63 := 0
  deriving DecidableEq, Repr

/-- What a peer asks of the export: a read, a write, or an atomic operation by its AOP or as a compare-and-swap (R329,
R421). -/
inductive PeerOp where
  | read
  | write (data : LineData)
  | atomic (aop : Nat) (val : BitVec 64)
  | cas (cmp val : BitVec 64)
  deriving DecidableEq, Repr

/-- The rows of the opcode table: those with operands in the table's order, then the twenty that name nothing. -/
inductive Instr where
  /-- VADD (R409). -/
  | vadd (f : VF)
  /-- VSUB (R426). -/
  | vsub (f : VF)
  /-- VMUL (R409). -/
  | vmul (f : VF)
  /-- VMULH (R426). -/
  | vmulh (f : VF)
  /-- VMAD (R409). -/
  | vmad (f : VF)
  /-- VMIN (R409). -/
  | vmin (f : VF)
  /-- VMAX (R409). -/
  | vmax (f : VF)
  /-- VAND (R409). -/
  | vand (f : VF)
  /-- VOR (R426). -/
  | vor (f : VF)
  /-- VXOR (R426). -/
  | vxor (f : VF)
  /-- VSHL (R426). -/
  | vshl (f : VF)
  /-- VSHR (R426). -/
  | vshr (f : VF)
  /-- VSRA (R426). -/
  | vsra (f : VF)
  /-- VCMP (R410). -/
  | vcmp (f : VF)
  /-- VSEL (R427). -/
  | vsel (f : VF)
  /-- VMOV (R417). -/
  | vmov (f : VF)
  /-- VCVT (R412). -/
  | vcvt (f : VF)
  /-- VPOPC (R426). -/
  | vpopc (f : VF)
  /-- VCLZ (R409). -/
  | vclz (f : VF)
  /-- VEXTR (R413). -/
  | vextr (f : VF)
  /-- VINS (R413). -/
  | vins (f : VF)
  /-- VFADD (R414). -/
  | vfadd (f : VF)
  /-- VFSUB (R414). -/
  | vfsub (f : VF)
  /-- VFMUL (R414). -/
  | vfmul (f : VF)
  /-- VFMA (R414). -/
  | vfma (f : VF)
  /-- VFMIN (R414). -/
  | vfmin (f : VF)
  /-- VFMAX (R414). -/
  | vfmax (f : VF)
  /-- VFCMP (R410). -/
  | vfcmp (f : VF)
  /-- VFCLASS (R414). -/
  | vfclass (f : VF)
  /-- VFRND (R414). -/
  | vfrnd (f : VF)
  /-- VRCP (R428). -/
  | vrcp (f : VF)
  /-- VRSQ (R428). -/
  | vrsq (f : VF)
  /-- VEXP2 (R415). -/
  | vexp2 (f : VF)
  /-- VLOG2 (R415). -/
  | vlog2 (f : VF)
  /-- VTANH (R428). -/
  | vtanh (f : VF)
  /-- VSHFL (R429). -/
  | vshfl (f : VF)
  /-- VROT (R429). -/
  | vrot (f : VF)
  /-- VMATCH (R416). -/
  | vmatch (f : VF)
  /-- VSCAN (R430). -/
  | vscan (f : VF)
  /-- KAND (R383). -/
  | kand (f : VF)
  /-- KOR (R383). -/
  | kor (f : VF)
  /-- KXOR (R383). -/
  | kxor (f : VF)
  /-- KANDN (R383). -/
  | kandn (f : VF)
  /-- KSET (R383). -/
  | kset (f : VF)
  /-- KPOPC (R383). -/
  | kpopc (f : VF)
  /-- KFIRST (R383). -/
  | kfirst (f : VF)
  /-- KGET (R383). -/
  | kget (f : VF)
  /-- KPUT (R383). -/
  | kput (f : VF)
  /-- SADD (R395). -/
  | sadd (f : SF)
  /-- SADDI (R395). -/
  | saddi (f : SF)
  /-- SSUB (R395). -/
  | ssub (f : SF)
  /-- SMUL (R395). -/
  | smul (f : SF)
  /-- SMULH (R395). -/
  | smulh (f : SF)
  /-- SDIV (R397). -/
  | sdiv (f : SF)
  /-- SREM (R397). -/
  | srem (f : SF)
  /-- SAND (R395). -/
  | sand (f : SF)
  /-- SOR (R395). -/
  | sor (f : SF)
  /-- SXOR (R395). -/
  | sxor (f : SF)
  /-- SSHL (R395). -/
  | sshl (f : SF)
  /-- SSHR (R395). -/
  | sshr (f : SF)
  /-- SSRA (R395). -/
  | ssra (f : SF)
  /-- SMIN (R395). -/
  | smin (f : SF)
  /-- SMAX (R395). -/
  | smax (f : SF)
  /-- SCMP (R396). -/
  | scmp (f : SF)
  /-- SSEL (R395). -/
  | ssel (f : SF)
  /-- SMOV (R395). -/
  | smov (f : SF)
  /-- SMOVI (R395). -/
  | smovi (f : SF)
  /-- SREAD (R399). -/
  | sread (f : SF)
  /-- SREAD_V (R399). -/
  | sreadV (f : SF)
  /-- SWRITE (R399). -/
  | swrite (f : SF)
  /-- SHSET (R391). -/
  | shset (f : SF)
  /-- VLD (R419). -/
  | vld (f : MF)
  /-- VST (R432). -/
  | vst (f : MF)
  /-- VLDX (R419). -/
  | vldx (f : MF)
  /-- VSTX (R432). -/
  | vstx (f : MF)
  /-- SLD (R393). -/
  | sld (f : MF)
  /-- SST (R393). -/
  | sst (f : MF)
  /-- VLDS (R419). -/
  | vlds (f : MF)
  /-- VSTS (R432). -/
  | vsts (f : MF)
  /-- VATOM (R421). -/
  | vatom (f : MF)
  /-- VCAS (R421). -/
  | vcas (f : MF)
  /-- VATOMS (R421). -/
  | vatoms (f : MF)
  /-- PREF (R387). -/
  | pref (f : MF)
  /-- SHLD (R390). -/
  | shld (f : MF)
  /-- SHST (R390). -/
  | shst (f : MF)
  /-- WDEPTH (R435). -/
  | wdepth (f : MF)
  /-- WPIN (R435). -/
  | wpin (f : MF)
  /-- WUNPIN (R435). -/
  | wunpin (f : MF)
  /-- WEVICT (R435). -/
  | wevict (f : MF)
  /-- WCLEAN (R435). -/
  | wclean (f : MF)
  /-- CFLUSH (R354). -/
  | cflush (f : MF)
  /-- CINV (R355). -/
  | cinv (f : MF)
  /-- WAITCNT (R433). -/
  | waitcnt (f : MF)
  /-- XFENCE (R437). -/
  | xfence (f : MF)
  /-- MMA (R384). -/
  | mma (f : XF)
  /-- ZCLR (R440). -/
  | zclr (f : XF)
  /-- ZRD (R440). -/
  | zrd (f : XF)
  /-- ZWR (R440). -/
  | zwr (f : XF)
  /-- ZDRAIN (R441). -/
  | zdrain (f : XF)
  /-- CPY (R358). -/
  | cpy (f : XF)
  /-- CPYM (R361). -/
  | cpym (f : XF)
  /-- RROT (R388). -/
  | rrot (f : XF)
  /-- BARINIT (R345). -/
  | barinit (f : XF)
  /-- BARARV (R346). -/
  | bararv (f : XF)
  /-- BARWAIT (R347). -/
  | barwait (f : XF)
  /-- GJOIN (R379). -/
  | gjoin (f : XF)
  /-- GJOIN_ANY (R379). -/
  | gjoinAny (f : XF)
  /-- GLEAVE (R379). -/
  | gleave (f : XF)
  /-- GBAR (R379). -/
  | gbar (f : XF)
  /-- BR (R351). -/
  | br (f : CF)
  /-- BCOND (R349). -/
  | bcond (f : CF)
  /-- BANY (R343). -/
  | bany (f : CF)
  /-- BNONE (R343). -/
  | bnone (f : CF)
  /-- CALL (R352). -/
  | call (f : CF)
  /-- JMP (R381). -/
  | jmp (f : CF)
  /-- RET (R381). -/
  | ret (f : CF)
  /-- DIVG (R370). -/
  | divg (f : CF)
  /-- DELSE (R370). -/
  | delse (f : CF)
  /-- DJOIN (R370). -/
  | djoin (f : CF)
  /-- DLOOP (R370). -/
  | dloop (f : CF)
  /-- DBRK (R370). -/
  | dbrk (f : CF)
  /-- EXIT (R377). -/
  | exit (f : CF)
  /-- YIELD (R438). -/
  | yield (f : CF)
  /-- NOP (R386). -/
  | nop (f : CF)
  /-- TRAP (R403). -/
  | trap (f : YF)
  /-- TRET (R406). -/
  | tret (f : YF)
  /-- BELLARM (R305). -/
  | bellarm (f : YF)
  /-- MODEWR (R385). -/
  | modewr (f : YF)
  /-- CTXRD (R366). -/
  | ctxrd (f : YF)
  /-- CTXWR (R367). -/
  | ctxwr (f : YF)
  /-- EVPOP (R374). -/
  | evpop (f : YF)
  /-- EVPUSH (R376). -/
  | evpush (f : YF)
  /-- EVWAIT (R375). -/
  | evwait (f : YF)
  /-- TREL (R404). -/
  | trel (f : YF)
  /-- TREL_RELEASE (R254): The release reaches the distributor port and the held block's teams start together. -/
  | trelRelease (col : Nat)
  /-- REGISTER_RESULT_RETURN (R45): An outstanding register result returns and is written, readying a parked team whose results are all back. -/
  | registerResultReturn (ctx uid : Nat) (lanes : Mask)
  /-- ACCESS_COMPLETE (R178): A counted instruction's accesses are all performed and its counter falls and in-flight entry leaves. -/
  | accessComplete (ctx ent : Nat)
  /-- TRAP_DELIVERY (R276): After outstanding results return, the trap record is written and the team enters its handler. -/
  | trapDelivery (ctx : Nat)
  /-- FATAL_FAULT_DELIVERY (R166): A fatal fault is delivered to its team at a switch point or while it waits. -/
  | fatalFaultDelivery (ctx : Nat)
  /-- BELL_DELIVERY (R307): A pending bell is delivered to the lowest ready team at its next instruction boundary. -/
  | bellDelivery (frame : Nat)
  /-- DRUM_ANNOUNCEMENT_ACT (R192): An announcement reaches every listener of the die 20 beats later and acts on L1s and the gang table in Drum order. -/
  | drumAnnouncementAct (die : Nat)
  /-- WELL_BEAT_ADMIT (R122): Each Well beat the mouth admits up to 8 requests in Drum order and applies touches one at a time. -/
  | wellBeatAdmit (die : Nat)
  /-- TRANSIT_ARRIVAL (R126): A tile in transit reaches the mouth and its held requests are applied in Drum order. -/
  | transitArrival (die tile : Nat)
  /-- L1_FILL (R193): A line arriving for a load fills the L1 unless an invalidating announcement was heard meanwhile. -/
  | l1Fill (core line : Nat)
  /-- L1_HOLD_EXPIRY (R194): An L1 copy held for an atomic is released after 32 cycles and queued announcements act. -/
  | l1HoldExpiry (core line : Nat)
  /-- WELL_UE (R141): An uncorrectable error in a dirty Well line drops it, posts a machine check and terminates the ASID's contexts. -/
  | wellUe (die line : Nat)
  /-- MEMUE (R274): Data read from LPDDR-6 has an uncorrectable error and the access is made fatal. -/
  | memue (die line : Nat)
  /-- WRESTITCH_RETIRE (R143): Host command OP 1 starts a restitch retiring a bank, or reports refusal or no change. -/
  | wrestitchRetire (die bank : Nat)
  /-- WRESTITCH_RESTORE (R143): Host command OP 2 starts a restitch restoring a bank, or reports refusal or no change. -/
  | wrestitchRestore (die bank : Nat)
  /-- RESTITCH_COMPLETE (R143): A restitch finishes renumbering depths and held requests resume in Drum order. -/
  | restitchComplete (die : Nat)
  /-- WELL_THERMAL_RESTORE (R144): A bank whose sensor stays below WTHERM.RESTORE for 100 ms is restored. -/
  | wellThermalRestore (die bank : Nat)
  /-- PAGE_WALK_COMPLETE (R157): A translation walk ends, granting the access or failing with a fault type. -/
  | pageWalkComplete (die walk : Nat)
  /-- FCMD_REPLAY_RECORD (R164): Frees a named fault record and replays its attached accesses. -/
  | fcmdReplayRecord (die id : Nat)
  /-- FCMD_CANCEL_RECORD (R165): Frees a named fault record and makes its attached accesses fatal. -/
  | fcmdCancelRecord (die id : Nat)
  /-- FCMD_REPLAY_ASID (R164): Frees and replays every pending record of an ASID. -/
  | fcmdReplayAsid (die asid : Nat)
  /-- FCMD_CANCEL_ASID (R165): Frees every pending record of an ASID and makes its accesses fatal. -/
  | fcmdCancelAsid (die asid : Nat)
  /-- SIDE_LOG_PERFORM (R164): The core's memory unit performs a replayed side-logged store and frees its entry. -/
  | sideLogPerform (core idx : Nat)
  /-- INVCMD_PAGE (R167): Removes matching TLB entries and tagged lines for one page of an ASID, whose address INVVA is given. -/
  | invcmdPage (asid va size : Nat)
  /-- INVCMD_ASID (R167): Removes every TLB entry and tagged line of an ASID. -/
  | invcmdAsid (asid : Nat)
  /-- RDS (R199): A die's read for a clean copy reaches the home and is served by the directory entry. -/
  | rds (agent line : Nat)
  /-- RDX (R199): A die's read with write permission reaches the home. -/
  | rdx (agent line : Nat)
  /-- OWN (R199): A die's request for write permission without data reaches the home. -/
  | own (agent line : Nat)
  /-- UPG (R199): A die's upgrade of a shared or owned line reaches the home. -/
  | upg (agent line : Nat)
  /-- WB (R199): A die's write-back with drop reaches the home and is accepted or discarded. -/
  | wb (agent line : Nat)
  /-- WBK (R199): A die's write-back keeping a clean copy reaches the home. -/
  | wbk (agent line : Nat)
  /-- CMP (R199): The requester's completion message lets the home leave Granting. -/
  | cmp (agent line : Nat)
  /-- HOME_QUEUE_SERVE (R197): The home takes the next queued request for a line once the previous one reaches a stable state. -/
  | homeQueueServe (line : Nat)
  /-- GNT_S (R198): A clean shared grant with data arrives at the die. -/
  | gntS (agent line : Nat)
  /-- GNT_E (R198): An exclusive grant with data arrives at the die. -/
  | gntE (agent line : Nat)
  /-- GNT_X (R198): A write-permission grant without data arrives and the die takes E, applying any waiting atomic. -/
  | gntX (agent line : Nat)
  /-- WBA (R205): The home's write-back acceptance frees the die's write-back buffer entry. -/
  | wba (agent line : Nat)
  /-- PR_SHR (R200): A sharing probe arrives at a die and is answered from its die state or found stale. -/
  | prShr (agent line : Nat)
  /-- PR_INV (R200): An invalidating probe arrives at a die and is answered from its die state or found stale. -/
  | prInv (agent line : Nat)
  /-- ACK_I (R199): A probe answer without data reaches the home. -/
  | ackI (agent line : Nat)
  /-- ACK_D (R199): A probe answer with dirty data reaches the home. -/
  | ackD (agent line : Nat)
  /-- ACK_WB (R205): A probe answer naming an outstanding write-back reaches the home, which waits for the WB. -/
  | ackWb (agent line : Nat)
  /-- ACK_ST (R202): A stale-probe answer reaches the home. -/
  | ackSt (agent line : Nat)
  /-- CXL_MEM_READ_SHARED (R206): A host CXL.mem read caching Shared is served as RDS. -/
  | cxlMemReadShared (hpa : Nat)
  /-- CXL_MEM_READ_EXCLUSIVE (R206): A host CXL.mem read caching exclusively is served as RDX. -/
  | cxlMemReadExclusive (hpa : Nat)
  /-- CXL_MEM_READ_UNCACHED (R206): A host uncached CXL.mem read reclaims with PR-SHR and returns data. -/
  | cxlMemReadUncached (hpa : Nat)
  /-- CXL_MEM_WRITE (R206): A host CXL.mem write reclaims with PR-INV and writes memory. -/
  | cxlMemWrite (hpa : Nat) (data : LineData)
  /-- BIRSP (R206): The host's back-invalidate response is taken as ACK-I or ACK-D. -/
  | birsp (line : Nat) (data : Option LineData)
  /-- SNPINV (R208): A host SnpInv is answered from the snoop filter after probing the dies. -/
  | snpinv (line : Nat)
  /-- SNPDATA (R208): A host SnpData is answered from the snoop filter after probing the dies. -/
  | snpdata (line : Nat)
  /-- SNPCUR (R208): A host SnpCur is answered from the snoop filter without changing states. -/
  | snpcur (line : Nat)
  /-- PEER_REQUEST (R330): A peer request for an offset of the export is served by the home or refused with an error completion. -/
  | peerRequest (off n : Nat) (op : PeerOp)
  /-- PEERERR (R331): A peer answers with an error and the access is made fatal. -/
  | peererr (die line : Nat)
  /-- PEER_LINK_TIMEOUT (R331): No port reaches the destination within 1 ms after a link failure and the access is made fatal. -/
  | peerLinkTimeout (dest : Nat)
  /-- MMA_START (R226): The array starts a queued MMA once all its operands are in hand. -/
  | mmaStart (core job : Nat)
  /-- MMA_COMMIT (R227): A finished MMA commits all 1,024 elements of its accumulator at once. -/
  | mmaCommit (core job : Nat)
  /-- COPY_ELEMENT (R229): The copy engine performs one window element, counting its bytes on a barrier object. -/
  | copyElement (copy : Nat)
  /-- COUNTING_EVENT (R240): The bank applies an arrival or byte count to a barrier object, flipping the phase or setting BAROVF. -/
  | countingEvent (core : Nat)
  /-- EVENT_RECORD_ENTER (R250): A copy, drain, HELD or BLOCKEND record enters the cluster event queue once room exists. -/
  | eventRecordEnter (col : Nat)
  /-- NOTIFY_WRITE (R257): An 8-byte write to a queue's notify page sets TAIL and may take a slot. -/
  | notifyWrite (queue off : Nat) (val : Word64)
  /-- QCMD_ENABLE (R258): QCMD OP 1 reads the descriptor and enables the queue if valid. -/
  | qcmdEnable (queue : Nat)
  /-- QCMD_DISABLE (R258): QCMD OP 2 disables a queue and frees its slot. -/
  | qcmdDisable (queue : Nat)
  /-- QUEUE_IDLE_EXPIRY (R259): An active queue idle for 10 µs gives up its slot to the FIFO head. -/
  | queueIdleExpiry (queue : Nat)
  /-- LAUNCH_PACKET_READ (R262): A head launch's packet is read and checked, refusing it with a reason if needed. -/
  | launchPacketRead (queue : Nat)
  /-- LOTTERY_DRAW (R264): Each cycle with an eligible slot, the die's distributor advances its generator and picks a winner. -/
  | lotteryDraw (die : Nat)
  /-- CLUSTER_GATING_COMMIT (R267): Power gating of a dispatch-free cluster commits after its L1s write through. -/
  | clusterGatingCommit (col : Nat)
  /-- CLUSTER_WAKE_COMPLETE (R267): A gated cluster chosen for a block finishes waking and the block starts. -/
  | clusterWakeComplete (col : Nat)
  /-- BLOCK_END (R42): A block's last team ends and its resources and frame are released after entries complete. -/
  | blockEnd (frame : Nat)
  /-- LAUNCH_COMPLETE (R268): All blocks of a launch have ended; the completion record and ring entry are written and HEAD rises. -/
  | launchComplete (queue : Nat)
  /-- EVTAIL_WRITE (R271): The host writes EVTAIL with the entries consumed, freeing ring room. -/
  | evtailWrite (val : Word64)
  /-- FRZCMD_FREEZE_BLOCK (R286): FRZCMD OP 1 requests a host freeze of a block and starts its deadline. -/
  | frzcmdFreezeBlock (frame : Nat)
  /-- FRZCMD_RESUME_BLOCK (R292): FRZCMD OP 2 resumes a frozen block. -/
  | frzcmdResumeBlock (frame : Nat)
  /-- FRZCMD_TERMINATE_BLOCK (R289): FRZCMD OP 3 terminates a block with HOSTKILL and frees its frame. -/
  | frzcmdTerminateBlock (frame : Nat)
  /-- FRZCMD_FREEZE_QUEUE (R286): FRZCMD OP 4 requests a host freeze of every block of a queue. -/
  | frzcmdFreezeQueue (queue : Nat)
  /-- FRZCMD_RESUME_QUEUE (R292): FRZCMD OP 5 resumes every frozen block of a queue. -/
  | frzcmdResumeQueue (queue : Nat)
  /-- DEADLINE_EXPIRY (R286): A host freeze deadline expires and every unstopped team stops at its next instruction boundary. -/
  | deadlineExpiry (frame : Nat)
  /-- WINDOW_IMAGE_WRITTEN (R288): A sealed window's image is written and waiting CP accesses are applied to it. -/
  | windowImageWritten (frame : Nat)
  /-- RESUME_PLACE (R292): A due resume finds a fitting core, restores the block and replays its in-flight entries. -/
  | resumePlace (die : Nat)
  /-- MIGRATION_TRANSFER_COMPLETE (R294): The frame's contents reach the target core and the migrated block resumes there. -/
  | migrationTransferComplete (frame : Nat)
  /-- DBG_ENABLE (R296): Setting or clearing EN starts the debug monitor on core 7 or ends it. -/
  | dbgEnable (col : Nat) (val : Word64)
  /-- DBGRUN_STOP (R296): DBGRUN OP 1 requests a debug freeze of the named team's block. -/
  | dbgrunStop (col handle : Nat)
  /-- DBGRUN_STEP (R296): DBGRUN OP 2 lets one team issue one instruction and stops the block with DBGSTEP. -/
  | dbgrunStep (col handle : Nat)
  /-- DBGRUN_RESUME (R296): DBGRUN OP 3 resumes a block stopped by the monitor. -/
  | dbgrunResume (col handle : Nat)
  /-- RSPSEQ_WRITE (R296): A write of the monitor's response count raises MSI-X vector 2. -/
  | rspseqWrite (col : Nat) (val : Word64)
  /-- NT_WINDOW (R301): At each 4,096-cycle boundary the core sets its lane groups to N or near-threshold. -/
  | ntWindow (core : Nat)
  /-- COLUMN_LEVEL_STEP (R299): A column's LEVEL moves one step toward the greater of its thermal and clamp levels. -/
  | columnLevelStep (col : Nat)
  /-- PUMP_RAMP_STEP (R302): The slope pump lowers filler MMA duty one step so die current falls at SLOPE. -/
  | pumpRampStep (die : Nat)
  /-- TEMP_SAMPLE (R308): Every 10 µs all sensors are sampled and hot cores, migrations and trips are judged. -/
  | tempSample (readings : List (Nat × BitVec 16))
  /-- MIGWAIT_EXPIRY (R310): A migration not frozen within MIGWAIT is withdrawn and its reservation released. -/
  | migwaitExpiry (frame : Nat)
  /-- THERMAL_LEVEL_TICK (R311): Each millisecond a column's thermal level rises while a core is hot or falls once all are cool. -/
  | thermalLevelTick (col : Nat)
  /-- STP_FRAME (R314): A shelf frame is received, validated and counted, and updates the measurements and cap. -/
  | stpFrame (bits : Word64)
  /-- SHED_FORCE_TIMEOUT (R319): A shed team not stopped 1.5 ms after the request stops at its next instruction boundary. -/
  | shedForceTimeout (frame : Nat)
  /-- CLASS_RESTORE (R320): A shed class whose condition has held 100 ms is restored and its blocks resume. -/
  | classRestore (cls : Nat)
  /-- START_UP (R334): The boot ROM verifies the image, trains memory, tests banks, wipes and trains the link, retrying on failure. -/
  | startUp (step reason : Nat) (faulty : List (Nat × Nat))
  /-- MCTP_CONTROL (R332): An MCTP control message on the sideband is answered. -/
  | mctpControl (msg : List Byte)
  /-- PLDM_SENSOR_READ (R332): A PLDM Type 2 request returns sensor readings. -/
  | pldmSensorRead (sensor : Nat)
  /-- FIRMWARE_UPDATE (R336): A whole image received by PLDM Type 5 or the recovery mailbox is verified and written to flash. -/
  | firmwareUpdate (image : List Byte)
  /-- ATTEST (R337): Vendor command 0x03 returns a signed attestation report over a nonce. -/
  | attest (nonce : BitVec 256)
  /-- TRANSITION (R338): Vendor command 0x05 checks a signed token and changes life-cycle state with a warm reset. -/
  | transition (target : Nat) (token : List Byte)
  /-- REGISTER_WRITE (R328): A write to a register with no behaviour of its own updates its writable fields. -/
  | registerWrite (off : Nat) (val : Word64)
  /-- RESERVED_OPCODE (R93): A team comes to issue a word whose OP is 0x00, a dash of the opcode map or 0xD0 to 0xFF, and it traps precisely with ILLOP. -/
  | reservedOpcode (w : Word96)
  /-- CXL_CACHE_HOST_RESPONSE (R207): The host answers a RdShared, RdOwn, RdOwnNoData, DirtyEvict or CleanEvictNoData of the host cache agent, and the agent updates its snoop filter and grants the waiting die. -/
  | cxlCacheHostResponse (line : Nat) (data : LineData) (excl : Bool)
  /-- PORT_LINK_FAILURE (R331): A UALink port's link to a destination fails, so requests are spread over the remaining ports and the 1 ms wait for another port begins. -/
  | portLinkFailure (dest : Nat)
  /-- INVCMD_ALL (R167): Removes every TLB entry and tagged line on the device. -/
  | invcmdAll
  /-- INVALIDATION_COMPLETE (R167): Every matching line has gone and old translations are performed, and BUSY clears. -/
  | invalidationComplete
  /-- HOST_RING_ENTRY_WRITE (R271): The device writes a held entry to the host event ring when room exists and advances EVHEAD. -/
  | hostRingEntryWrite
  /-- MSI_COALESCE_TIMEOUT (R272): The oldest unreported entry has waited TIMEUS µs and vector 0 fires. -/
  | msiCoalesceTimeout
  /-- STP_LOSS_TIMEOUT (R315): 500 µs without a valid frame sets LOST. -/
  | stpLossTimeout
  /-- STP_LOSS_HOLD_EXPIRY (R315): After LOSSMS without frames the cap becomes LOSSFRAC. -/
  | stpLossHoldExpiry
  /-- CLAMP_STEP (R318): The clamp moves one level per microsecond toward its target. -/
  | clampStep
  /-- CLAMP_LOWER (R318): Every 100 µs the clamp drops a level while the lower estimate fits the cap. -/
  | clampLower
  /-- RESETCTL_WARM_RESET (R212): RESETCTL OP 1 performs a warm reset with write-backs, then a wipe. -/
  | resetctlWarmReset
  /-- CXL_RESET (R328): A CXL Reset acts as a warm reset. -/
  | cxlReset
  /-- SECONDARY_BUS_RESET (R328): A secondary bus reset acts as a warm reset. -/
  | secondaryBusReset
  /-- COLD_RESET (R334): A power-on reset starts the boot sequence. -/
  | coldReset
  /-- FATAL_RESET (R213): A fatal reset wipes without writing back dirty host lines. -/
  | fatalReset
  /-- CXL_TRAIN_TIMEOUT (R335): The CXL link does not train within 1 s and the start fails with REASON 7. -/
  | cxlTrainTimeout
  /-- WIPE_COMPLETE (R339): The wipe finishes leaving all storage zero and CXL.mem is served normally again. -/
  | wipeComplete
  /-- STATUS (R333): Vendor command 0x01 returns the device status word and start count. -/
  | status
  /-- REASON (R333): Vendor command 0x02 returns REASON, FAILS and the last start step. -/
  | reason
  /-- WIPE (R333): Vendor command 0x04 answers and performs a warm reset. -/
  | wipe
  /-- LINE_CHECKS (R92): When a slot is to issue, the line checks (parity and LINEPAR after refetch, reserved line-word bits, malformed line, PC at a pair's second member) and the checks of a saved or fallen-through PC (BADSLOT, NONCANON) trap with no word decoded. -/
  | lineChecks
  /-- POWER_LOSS (R336): The package input supply is lost, leaving flash without a valid image if an update was being written and keeping the monotonic signature counter. -/
  | powerLoss
  deriving DecidableEq, Repr

end Sys2Proof
end

