-- ==== Sys2Proof/Machine/State.lean ====
section
/-! DEFINITION. The state of the OZ768-A as plain data: every team, core, cluster, die, queue, launch,
frame and register block that spec/ names, and the schedule that says which agent moves next. -/

namespace Sys2Proof.Machine

/-- A sparse table: keys rising, no key twice. -/
abbrev Tab (α : Type) := List (Nat × α)

/-- Memory in canonical form: addresses rising, no byte that an unlisted address reads as (zero). -/
abbrev Memory := List Host.Cell

/-- A seven-bit cause code (spec/13_preemption.md R274). -/
abbrev Cause := BitVec 7

namespace Cause
abbrev none : Cause := 0x00
abbrev illop : Cause := 0x01
abbrev rsvfld : Cause := 0x02
abbrev badreg : Cause := 0x03
abbrev badpair : Cause := 0x04
abbrev badtgt : Cause := 0x05
abbrev linepar : Cause := 0x06
abbrev badtype : Cause := 0x07
abbrev privop : Cause := 0x08
abbrev badspan : Cause := 0x09
abbrev divovf : Cause := 0x0A
abbrev divunf : Cause := 0x0B
abbrev badslot : Cause := 0x0C
abbrev badacc : Cause := 0x0D
abbrev badshape : Cause := 0x0E
abbrev badctl : Cause := 0x0F
abbrev badtret : Cause := 0x10
abbrev badctx : Cause := 0x11
abbrev misalign : Cause := 0x20
abbrev noncanon : Cause := 0x21
abbrev spbound : Cause := 0x22
abbrev permls : Cause := 0x23
abbrev permcp : Cause := 0x24
abbrev permmx : Cause := 0x25
abbrev permfetch : Cause := 0x26
abbrev cancells : Cause := 0x27
abbrev cancelcp : Cause := 0x28
abbrev cancelmx : Cause := 0x29
abbrev cancelfetch : Cause := 0x2A
abbrev lostline : Cause := 0x2B
abbrev memue : Cause := 0x2C
abbrev peererr : Cause := 0x2D
abbrev saveflt : Cause := 0x2E
abbrev sdivzero : Cause := 0x40
abbrev barovf : Cause := 0x48
abbrev gangfull : Cause := 0x49
abbrev gangnot : Cause := 0x4A
abbrev evovf : Cause := 0x4B
abbrev bellon : Cause := 0x50
abbrev belloff : Cause := 0x51
abbrev forced : Cause := 0x52
abbrev shed : Cause := 0x53
abbrev migrated : Cause := 0x54
abbrev hostfrz : Cause := 0x55
abbrev hostkill : Cause := 0x57
abbrev dbgstop : Cause := 0x60
abbrev dbgstep : Cause := 0x61
abbrev trap0 : Cause := 0x70
end Cause

/-- Why the machine stops. -/
inductive Fault where
  /-- Raised by the meaning of a program instruction when the state names no team that can issue it:
  there is no agent to execute it.  Safe: the schedule never issues for a team that is not ready. -/
  | noIssuingTeam
  deriving DecidableEq, Repr

/-- Why an instruction has no meaning. -/
inductive Refusal where
  /-- Raised only by an arm of the dispatch that has no meaning yet.  Safe. -/
  | notModelled (mnemonic : String)
  deriving DecidableEq, Repr

/-! ## Memory requests -/

/-- Page attributes kept with a tile or an L1 line (spec/07_translation.md R150, R153). -/
structure Attr where
  w : Bool := true
  x : Bool := true
  u : Bool := true
  ord : Nat := 0
  swm : Bool := false
  peer : Bool := false
  nowell : Bool := false
  deriving DecidableEq, Repr

/-- What a Well request asks (spec/06_well.md R120 to R138). -/
inductive ReqOp where
  | load | store | atomic (aop : Nat) | cas | pref
  | commit                      -- the write of a block-, cluster- or die-scope atomic that has read (R201)
  | own                         -- an engine asks for write permission of a line
  | wdepth | wpin | wunpin | wclean | wevict | cflush | cinv
  | probe (inv clean : Bool) (pl stamp : Nat) -- a home's probe; `clean`: the owner keeps a clean copy (R208)
  deriving DecidableEq, Repr

/-- The bytes one lane reads or writes within one line: `off` is where they stand in the lane's element. -/
structure Piece where
  lane : Nat
  va : Nat
  off : Nat := 0
  n : Nat
  data : BitVec 512 := 0
  cmp : BitVec 512 := 0
  deriving DecidableEq, Repr

/-- One request to the Well: an instruction's accesses to one tile (R121). -/
structure Req where
  uid : Nat
  ent : Nat            -- uid of the in-flight entry, 0 for none
  ctx : Nat
  tag : Nat := 0       -- class-T tag, 0 for class N
  core : Nat
  asid : Nat
  op : ReqOp
  va : Nat
  pieces : List Piece := []
  scope : Nat := 0
  bypass : Bool := false
  user : Bool := true
  strong : Bool := false
  replay : Bool := false
  low : Nat := 0       -- the team's low-water when it was sent (R285)
  resent : Bool := false -- a replay after a freeze sends it, perhaps again (R190, R292)
  found : Nat := 0     -- of a WPIN or WDEPTH that a walk follows: its answer where the walk shows no NOWELL page (R134, R136)
  deriving DecidableEq, Repr

/-- Work that the load/store path of a team has issued and not yet sent (spec/08_ordering.md R170, R175). -/
inductive LsWork where
  | glob (r : Req)
  | win (op : ReqOp) (pieces : List Piece)
  | barinit (off target : Nat) (expect : Nat)
  | bararv (off : Nat)
  | barexam (off : Nat) (wanted : Bool) -- the first examination of a BARWAIT that is held
  | evpush (w0 w1 : Word64)
  | gbar (gang : Nat)
  deriving DecidableEq, Repr

structure LsItem where
  uid : Nat
  ent : Nat
  tag : Nat := 0
  work : LsWork
  acq : Bool := false
  rel : Bool := false
  strong : Bool := false
  unordered : Bool := false
  reexam : Bool := false       -- an examination made again, by a BARWAIT whose first one is over (R289)
  seen : Option Cause := none  -- of a held examination: what a change has shown meanwhile, Cause.none for a phase (R347)
  deriving DecidableEq, Repr

/-- An XFENCE still in force: path sets (bit 0 LS, 1 CP, 2 MX, 3 EV) and its place in issue order (R187). -/
structure Fence where
  first : BitVec 4
  second : BitVec 4
  uid : Nat
  deriving DecidableEq, Repr

/-! ## The engines -/

/-- A scratchpad range of a core that an engine instruction reaches, and the block that held it at issue (R221, R288). -/
structure Win where
  core : Nat
  base : Nat
  len : Nat
  frame : Nat
  deriving DecidableEq, Repr

/-- Which engine instruction a copy-engine job carries out (spec/10_matrix.md R228). -/
inductive CopyKind where
  | cpy | cpym | drain | rrot
  deriving DecidableEq, Repr

/-- A job of a cluster's copy engine, performed element by element (R229, R235, R236). -/
structure Copy where
  uid : Nat
  ent : Nat
  ctx : Nat
  col : Nat
  kind : CopyKind
  src : Record
  dst : Record
  n : Nat
  m : Nat
  idx : Nat := 0
  red : Nat := 0
  sat : Bool := false
  be : Bool := false
  bar : Nat := 0
  tag : Nat := 0               -- class-T tag, 0 for class N
  evt : Bool := false
  wins : List Win := []
  user : Bool := true          -- issued outside a handler
  formed : Bool := false       -- a rotation's round has formed
  tiles : List (List Nat) := [] -- the tiles that a rotation brings, as its round's formation found them
  senders : List (Nat × Nat × Record) := [] -- their senders, with entry and source
  early : Tab Nat := []        -- source elements read and not yet written (R229, R236)
  ahead : List Nat := []       -- elements past the next one whose writes are performed (R229)
  snap : List Word32 := []     -- the drain's snapshot
  gang : Nat := 0              -- a rotation's gang
  kept : Bool := false         -- complete, and kept for a replay with its entry (R292)
  bytes : Nat := 0             -- destination bytes performed
  before : Nat := 0            -- destination bytes performed before a freeze
  counted : Nat := 0           -- bytes counted on barrier objects
  skip : Nat := 0              -- bytes that a replay performs and does not count (R292)
  fatal : Cause := 0
  sent : Bool := false         -- the event record is on its way
  posted : Bool := false       -- the event record has entered the queue
  landed : Bool := false       -- its bytes are visible and counted: it owes nothing more on CP (R170, R187)
  held : Bool := false         -- attached to a fault record
  rep : Bool := false          -- its next fault is a repeated one (R160)
  deriving DecidableEq, Repr

/-- Operands of an MMA once fetched (R226), row by row: floating-point bits, or d for q8 and q4 (R99). -/
structure MmaOps where
  a : List Word32
  b : List Word32
  sa : List Word32
  sb : Word32
  raw : List Nat := []         -- as they were read: A, B, the scales and the zero points, which a freeze saves (R284)
  deriving DecidableEq, Repr

/-- An MMA in the array queue of a core (R226). -/
structure MmaJob where
  uid : Nat
  ent : Nat
  ctx : Nat
  zd : Nat
  ra : Record
  rb : Record
  nega : Bool
  negb : Bool
  acd : Bool
  sat : Bool
  after : Nat := 0             -- uid of the CPYM copy it waits for, 0 for none
  be : Bool := false
  bar : Nat := 0
  tag : Nat := 0
  wins : List Win := []
  user : Bool := true
  started : Bool := false
  early : Tab Nat := []        -- operands read ahead of the others, by their place among its reads (R226, R238)
  ops : Option MmaOps := none
  held : Bool := false         -- attached to a fault record
  rep : Bool := false
  deriving DecidableEq, Repr

/-! ## Teams -/

/-- A place that a register result is written to (spec/03_execution.md R45). -/
inductive Cell where
  | v (r l : Nat)
  | s (n : Nat)
  | k (n l : Nat)
  | h (n : Nat)
  | zrow (tile row : Nat)
  | commit (tile uid : Nat)    -- a plain MMA's commit (R227)
  deriving DecidableEq, Repr

/-- An outstanding register result: absent value while memory has not answered. -/
structure Result where
  uid : Nat
  cell : Cell
  val : Option (BitVec 1024)
  late : Bool := false         -- data of a CTXRD, which a stop of the team does not wait for (R287, R368)
  deriving DecidableEq, Repr

/-- A mask-stack frame (R47). -/
structure MaskFrame where
  loop : Bool
  saved : Mask
  cond : Mask
  deriving DecidableEq, Repr

/-- A trap or fatal fault on its way to the handler (spec/13_preemption.md R275, R276). -/
structure TrapInfo where
  cause : Cause
  deliv : Nat := 0
  level : BitVec 8 := 0
  pc : Word64
  resume : Word64
  rewait : Bool := false
  word : Word96 := 0
  addr : Word64 := 0
  lanes : Option Mask := none
  objs : List (Nat × Nat) := []  -- barrier objects (frame, offset) whose fault flag the delivery sets (R244)
  deriving DecidableEq, Repr

/-- What a waiting team waits for (R43). -/
inductive WaitFor where
  | counters (ld st cp : Option Nat)
  | bar (off : Nat) (wanted : Bool)
  | gbar (gang : Nat) (sent : Bool)   -- sent: the arrival has been announced
  | events
  | gangChange
  | fetchHold
  deriving DecidableEq, Repr

/-- The scheduling state of a team (R43). `trapping` is the park that a trap's delivery makes (R276). -/
inductive Sched where
  | ready | parked | waiting (w : WaitFor) | trapping | frozen | exited
  deriving DecidableEq, Repr

/-- An entry of the in-flight record (R284). -/
structure Entry where
  uid : Nat
  tag : Nat
  kind : Nat
  clsT : Bool
  ld : Bool := false           -- counted on LDCNT
  st : Bool := false           -- counted on STCNT
  cp : Bool := false           -- counted on CPCNT
  path : Nat := 0              -- 0 LS, 1 CP, 2 MX, 3 EV
  acq : Bool := false
  rel : Bool := false
  strong : Bool := false
  done : Bool := false
  fault : Bool := false
  slog : Bool := false
  pc : Word64
  word : Word96
  addr : Word64 := 0
  left : Nat                   -- accesses not yet performed
  perf : List Nat := []        -- the accesses performed: lane * 2 and the half, or a line key
  reserve : Nat := 0           -- bytes reserved in the block's data area (R444)
  resUid : Nat := 0
  works : List LsItem := []    -- for replay
  copy : Option Copy := none
  mma : Option MmaJob := none
  got : List (Nat × Byte) := [] -- bytes of loads that have returned, at lane * 64 + byte
  deriving DecidableEq, Repr

/-- One team (R33 to R39, R43, R47, R55, R283). -/
structure Team where
  v : Tab Word32 := []         -- key reg * 1024 + lane
  s : Tab Word64 := []
  exec : Mask := 0
  k : Tab Mask := []
  h : Tab Record := []
  z : Tab Word32 := []         -- key tile * 1024 + row * 32 + column
  mode : Word64 := 0
  stack : List MaskFrame := []
  pc : Word64 := 0
  sched : Sched := .ready
  waitWord : Word96 := 0       -- the word of the waiting instruction
  suspWait : Option Nat := none -- the gang whose phase a GBAR still waits for while a handler runs (REWAIT)
  suspWord : Word96 := 0       -- the word of that GBAR
  rewait : Bool := false       -- TRET has left the wait of the instruction at the PC to be resumed (R406)
  saved : Sched := .ready      -- what a frozen team was doing when it stopped
  pend : List Result := []
  ldcnt : Nat := 0
  stcnt : Nat := 0
  cpcnt : Nat := 0
  inflight : List Entry := []
  lsq : List LsItem := []
  fences : List Fence := []
  nextTag : Nat := 1
  handler : Bool := false
  faultpc : Word64 := 0
  trap : Option TrapInfo := none
  fatal : List TrapInfo := []  -- undelivered fatal faults (R166); of a team that has ended, those whose flags are to be set
  fatalRun : Bool := false     -- the handler that runs is that of a fatal fault (R166)
  atBarrier : Bool := false    -- released from a GBAR while frozen: it resumes at a barrier boundary (R247)
  gangs : BitVec 64 := 0
  bell : BitVec 16 := 0        -- SREAD BELL: [6:0] cause, [15:8] level
  live : Nat := 768
  fresh : Bool := true         -- no instruction issued since start or resume: entry checks (R39, R64)
  entryTgt : Bool := true      -- the PC is a launch or handler entry, whose TGT is checked
  fhold : List Nat := []       -- requests whose fault holds the team (R161)
  fetchRep : Bool := false     -- its next fetch fault is a repeated one (R160)
  resumeHold : List Nat := []  -- results that a resume waits for before the first issue (R287)
  endCause : Cause := 0
  deriving DecidableEq, Repr

/-! ## Blocks, launches and queues -/

/-- A launch packet's fields (spec/12_launch.md R261). -/
structure Packet where
  entry : Word64 := 0
  blocks : Nat := 0
  ctrl : Bool := false
  serial : Bool := false
  event : Bool := false
  hold : Bool := false
  cls : Nat := 0
  acc : Nat := 0
  vregs : Nat := 0
  span : Nat := 0
  wlog : Nat := 0
  teams : Nat := 0
  deadline : Nat := 0
  scratch : Nat := 0
  params : Word64 := 0
  complete : Word64 := 0
  handler : Word64 := 0
  column : Nat := 0
  deriving DecidableEq, Repr

/-- A source of a freeze (spec/13_preemption.md R286), PREQ codes 0 to 3. -/
inductive FreezeSrc where
  | host | migration | shedding | debug
  deriving DecidableEq, Repr

/-- Where a block stands (R282 STATE 1 to 3, and held before its release).  A restore is one step of the model, so
STATE 4 is never seen. -/
inductive Place where
  | running | held | freezing | frozen
  deriving DecidableEq, Repr

/-- Resources of a core reserved for a migration (spec/14_power.md R309). -/
structure Resv where
  core : Nat
  slots : List Nat
  base : Nat
  deriving DecidableEq, Repr

/-- One placed block (R40, R42, R280, R282). -/
structure Block where
  asid : Nat
  queue : Nat
  seq : Nat
  index : Word64
  teams : Nat
  width : Nat
  span : Nat
  vregs : Nat
  acc : Nat
  scratch : Nat
  spbase : Nat
  core : Nat
  lcore : Nat
  slots : List Nat
  cls : Nat                    -- PCLASS as last written
  clsEff : Nat                 -- the class in effect since the last barrier boundary
  deadline : Nat
  deadlineLeft : Nat
  params : Word64
  handler : Word64
  ctrl : Bool := false
  monitor : Bool := false
  event : Bool := false
  place : Place := .running
  heldAt : Bool := false       -- held when frozen: held again after its resume
  resumeAsked : Bool := false  -- the host has asked for a resume that its shed class holds back (R321)
  freeze : Option FreezeSrc := none
  freezeAt : Nat := 0
  forced : Bool := false       -- a team was stopped by the deadline, or by the end of a single step (R286, R296)
  hit : Bool := false          -- an expired deadline has stopped a team (R286)
  cause : Cause := 0
  frozenAt : Nat := 0
  window : Option Memory := none   -- the window image while frozen
  imaged : Bool := false           -- the image has been written (R288)
  bellAddr : Word64 := 0
  bellPend : Option (Cause × Nat) := none
  bellLast : Cause := Cause.belloff
  migTarget : Option Resv := none
  migAt : Option Nat := none       -- when it last resumed on a migration target
  stepping : Option Nat := none    -- the team that the debug monitor steps
  stepped : Bool := false          -- its instruction has issued
  deriving DecidableEq, Repr

/-- A launch of a queue (R262, R268, R269). -/
structure Launch where
  seq : Nat
  pkt : Packet
  refused : Nat := 0               -- REASON, 0 when not refused
  placed : Nat := 0
  ended : Nat := 0
  fcount : Nat := 0
  fcause : Cause := 0
  faddr : Word64 := 0
  term : Bool := false
  posted : Bool := false           -- its completion waits for the host ring (R271)
  doneAt : Option Nat := none      -- when it completed (R269)
  deriving DecidableEq, Repr

/-- A queue that the host has touched (R255 to R260). -/
structure Queue where
  enabled : Bool := false
  known : Bool := false            -- enabled at least once since reset
  ring : Nat := 0
  asid : Nat := 0
  tickets : Nat := 0
  sizelog : Nat := 0
  tail : Nat := 0
  head : Nat := 0
  nread : Nat := 0                 -- packets read
  launches : List Launch := []     -- read and not yet completed, oldest first
  slot : Option Nat := none
  fifo : Bool := false
  idleAt : Nat := 0
  energy : Nat := 0                -- microjoules
  deriving DecidableEq, Repr

/-! ## Dies -/

/-- Die state of a line (spec/09_coherence.md R191); I is the line's absence. -/
inductive DSt where
  | s | e | m | o
  deriving DecidableEq, Repr

/-- A line held on a die under its tag. -/
structure DLine where
  line : Nat                       -- physical line, PEER at bit 45
  st : DSt
  stamp : Nat := 0
  data : LineData := 0
  inWell : Bool := true
  leaving : Bool := false          -- it has left the Well and is written back when its home has answered (R203)
  swm : Bool := false
  smask : BitVec 128 := 0
  deriving DecidableEq, Repr

/-- A tile in the chain or the pin ring (spec/06_well.md R118, R135). -/
structure Tile where
  attr : Option Attr := none
  made : Nat := 0                    -- the request whose miss allocated it (R132)
  pinned : Bool := false
  transit : Bool := false
  held : List Req := []
  deriving DecidableEq, Repr

/-- A Drum announcement on its way to every listener (R12, R192). -/
inductive Ann where
  | req (r : Req)
  | gjoin (ctx gang : Nat) (any : Bool) (sd : Nat)
  | gleave (ctx gang : Nat)
  | gbar (ctx gang : Nat)
  deriving DecidableEq, Repr

/-- A request's pieces of one line, waiting for translation or for the line's home (R128). -/
structure WaitEnt where
  key : Nat
  req : Req
  tr : Option (Nat × Attr) := none -- the line and attributes that its walk found
  seg : Nat := 0                   -- which part of a strongly ordered run it is (R175)
  sent : Bool := false             -- it is on its way to a peer, which performs it (R331)
  deriving DecidableEq, Repr

/-- A walk at a translation agent of the die (R157). -/
structure Walk where
  key : Nat
  req : Req
  recheck : Bool := false          -- drop the TLB's entry first (R156)
  deriving DecidableEq, Repr

/-- A leaf held in the TLB of one of a die's four translation agents (R156). -/
structure TlbEnt where
  agent : Nat := 0
  asid : Nat
  va : Nat
  size : Nat                       -- log2 of the page's bytes
  pa : Nat
  attr : Attr
  deriving DecidableEq, Repr

/-- What is attached to a fault record (R159, R161). -/
inductive Att where
  | req (r : Req)
  | copy (uid : Nat)
  | mma (core uid : Nat)
  | fetch (ctx : Nat)
  deriving DecidableEq, Repr

/-- A fault record (R160). -/
structure FRec where
  va : Nat
  asid : Nat
  type : Nat
  level : Nat
  rep : Bool
  write : Bool
  path : Nat
  pcore : Nat
  time : Nat
  att : List Att
  deriving DecidableEq, Repr

/-- A write-back that waits for WBA (R205). -/
structure WbEnt where
  line : Nat
  data : LineData
  stamp : Nat
  key : Nat
  mask : Option (BitVec 128) := none
  waits : List (Nat × Nat) := []   -- (team, entry) whose STCNT waits for it
  deriving DecidableEq, Repr

/-- Data on its way to an L1 (R193). -/
structure Fill where
  core : Nat
  key : Nat
  uid : Nat                    -- the load whose announcement asked for it
  data : Option LineData := none
  attr : Attr := {}
  keep : Bool := true
  own : Bool := false          -- the copy that an announced atomic of block or cluster scope makes when performed (R192)
  ctx : Nat := 0               -- the team of that atomic (R194)
  deriving DecidableEq, Repr

/-- An entry of a suppression table (spec/13_preemption.md R290). -/
structure Supp where
  ctx : Nat
  tag : Nat
  elems : List Nat
  vals : List (Nat × BitVec 512) := []
  deriving DecidableEq, Repr

/-- A restitch asked for or running (spec/06_well.md R143). -/
structure Restitch where
  bank : Nat
  retire : Bool
  thermal : Bool := false
  deriving DecidableEq, Repr

/-- One compute die. -/
structure Die where
  anns : List Ann := []
  mouthq : List Req := []
  chain : List (Option Nat) := []  -- front first; tile keys; what lies past the list is empty
  tiles : Tab Tile := []
  lines : Tab DLine := []
  waits : List WaitEnt := []
  walks : List Walk := []
  outst : List (Nat × Nat) := []   -- (line key, physical line) asked of a home
  wbuf : List WbEnt := []
  fills : List Fill := []
  tlb : List TlbEnt := []
  walked : List TlbEnt := []       -- leaves of 64 KiB pages walked since the last invalidation of their range (R155)
  frecs : Tab FRec := []
  frwait : List (Att × FRec) := []
  logged : Nat := 0
  supp : List Supp := []           -- the Well mouth's suppression table
  hsupp : Tab (List Supp) := []    -- the tables of the die's four home agents (R13)
  retired : List Nat := []
  repair : List Nat := []
  restitch : Option Restitch := none
  restitchq : List Restitch := []
  rstatus : Nat := 0
  ue : Nat := 0
  corr : Nat := 0
  refetch : Nat := 0
  wrestore : BitVec 16 := 0x05F0
  wretire : BitVec 16 := 0x06E0
  seed : Word64 := 1
  lastCluster : Option Nat := none
  resumeq : List Nat := []         -- frames whose resume is due, in order (R292)
  pump : Nat := 0                  -- amperes that the slope pump still carries (R302)
  pumpQueues : List (Nat × Nat) := []  -- the queues whose work ended, with the current each drew
  pumpCols : List Nat := []        -- the columns whose idle arrays carry the ramp
  pumpAt : Nat := 0                -- when the ramp last stepped
  pumpEnergy : Nat := 0            -- nanojoules of the ramp so far (R304)
  ended : List (Option Nat) := []  -- queues whose work has ended since the current was last measured; none for a gating (R302)
  heat : List Nat := []            -- banks that heat has retired (R144)
  touched : List (Nat × Nat) := [] -- (work, tile): the tiles that an engine's present element has touched
  stuck : List (Nat × Nat × Nat) := [] -- (work, address, line): accesses of engines that wait for a port to their peer (R331)
  away : List (Nat × Nat × Nat) := [] -- (team, PC, line): instruction fetches that have gone to a peer (R331)
  deriving DecidableEq, Repr

/-! ## Cores and clusters -/

/-- L1 states (R191); I is absence. -/
inductive L1St where
  | s | e | m
  deriving DecidableEq, Repr

/-- A line held in an L1, with the announcements that wait for its hold to end (R194). -/
structure L1Line where
  st : L1St
  data : LineData
  attr : Attr
  held : Bool := false
  heldBy : Nat := 0                -- the team whose atomic holds it
  queued : List Bool := []         -- true: to I, false: to S
  deriving DecidableEq, Repr

/-- A counting event on its way to a scratchpad bank (spec/11_completion.md R240). -/
structure CountEvt where
  frame : Nat                      -- the block whose window holds the object
  off : Nat                        -- the object's offset in that window
  a : Nat
  n : Nat
  ctx : Nat := 0
  ent : Nat := 0                   -- the entry whose arrival it is
  id : Nat := 0                    -- the access of that entry
  tag : Nat := 0                   -- class-T tag of an arrival
  low : Nat := 0                   -- the team's low-water when it was sent
  copy : Nat := 0                  -- the copy whose bytes it counts
  deriving DecidableEq, Repr

/-- A side-log entry (spec/07_translation.md R161). -/
structure SlogEnt where
  req : Req
  replay : Bool := false
  sent : Bool := false         -- the core's memory unit has sent it again
  deriving DecidableEq, Repr

/-- One core, numbers 0 to 767, or a control core, 768 to 863 (spec/01_device.md R9). -/
structure Core where
  last : Nat := 31                 -- the slot that issued last (R44); before any has, the order begins at slot 0 (log entry 88)
  l1 : Tab L1Line := []
  fbuf : Tab (BitVec 512 × Attr) := []
  sp : Memory := []
  cpbuf : List (Nat × Byte) := []  -- CP writes not yet seen by LS and MX (R188)
  slog : List SlogEnt := []
  arrq : List MmaJob := []
  bankq : List CountEvt := []
  supp : List Supp := []
  l1supp : List Supp := []
  temp : BitVec 16 := 0
  nt : BitVec 4 := 0               -- lane groups in near-threshold mode (R300)
  stallHigh : Bool := false
  stalled : Nat := 0               -- stalled cycles of the open window (R301)
  windowAt : Nat := 0              -- the cycle at which the open window began
  busy : BitVec 4 := 0             -- groups with an active lane in the open window
  hot : Bool := false
  gaveUp : Option Nat := none      -- when a block that left it resumed elsewhere (R310)
  relieved : Bool := false         -- a block of it has resumed elsewhere since it became hot (R311)
  deriving DecidableEq, Repr

/-- A live gang (R50). -/
structure Gang where
  asid : Nat
  members : List Nat
  phase : Bool := false
  arrived : List Nat := []
  deriving DecidableEq, Repr

/-- A member's share of an open RROT round (R236). -/
structure Rrot where
  ctx : Nat
  gang : Nat
  ent : Nat
  src : Record
  dst : Record
  dir : Bool
  be : Bool
  bar : Nat
  deriving DecidableEq, Repr

/-- The debug registers of a cluster (R296). -/
structure Dbg where
  en : Bool := false
  started : Bool := false          -- the monitor has taken its reserved slot since EN was set
  asid : Nat := 0
  entry : Word64 := 0
  reqseq : Word64 := 0
  rspseq : Word64 := 0
  req : Tab Word64 := []
  rsp : Tab Word64 := []
  deriving DecidableEq, Repr

/-- An event record on its way into a cluster's queue (R250). -/
structure EvRec where
  w0 : Word64
  w1 : Word64
  copy : Nat := 0                  -- the copy whose completion waits for it
  start : Nat := 0                 -- frame + 1 of a held block whose start waits for it
  deriving DecidableEq, Repr

/-- One cluster with its column, number die * 24 + cluster. -/
structure Cluster where
  gangs : Tab Gang := []
  rrots : List Rrot := []
  evq : List (Word64 × Word64) := []
  evwait : List EvRec := []
  relq : List (Nat × Nat) := []    -- TREL handles and ASIDs on their way to the distributor port
  gated : Bool := false
  waking : Bool := false
  thermal : Nat := 0
  level : Nat := 0
  lag : Nat := 0                   -- cycles of level 0 that the column's clock has not made (R299)
  part : Nat := 0                  -- sixteenths of a cycle that its clock has begun
  thermalAt : Nat := 0             -- when the thermal level was last judged (R311)
  noTarget : Bool := false         -- a migration found no target or was withdrawn (R311)
  dbg : Dbg := {}
  deriving DecidableEq, Repr

/-! ## Homes -/

/-- Directory states (R195). -/
inductive DirSt where
  | uncached | shared | owned | exclusive | granting | probing | reclaiming
  deriving DecidableEq, Repr

/-- What a home is asked for (R198, R206, R209). -/
inductive HomeOp where
  | rds | rdx | own | upg
  | bstore (uid : Nat) (data : LineData) (mask : BitVec 128)
  | reclaim                         -- invalidation command, or a filter eviction
  | recall                          -- a warm reset takes back what the host holds (R212)
  | pull                            -- a walker's read of a line that the host owns (R156)
  | swmRead (excl bare : Bool)      -- a request for a line of host memory that no die's tag is recorded for (R210); bare: no data
  | merge (data : LineData) (mask : BitVec 128) -- masked bytes written back to such a line
  | hostShared | hostExcl | hostRead
  | hostWrite (data : LineData)
  | snoop (kind : Nat)              -- host snoop of a host line: 0 SnpInv, 1 SnpData, 2 SnpCur
  deriving DecidableEq, Repr

/-- A request in a home's queue. Agent 4 is the host. -/
structure HomeReq where
  agent : Nat
  op : HomeOp
  asid : Nat := 0
  key : Nat := 0                    -- line key of the tag
  atomic : Bool := false
  deriving DecidableEq, Repr

/-- The directory entry of a line with the home's transient record (R195 to R197). -/
structure DirEnt where
  st : DirSt := .uncached
  sharers : BitVec 5 := 0
  owner : Nat := 0
  stamp : Nat := 0
  key : Nat := 0
  queue : List HomeReq := []
  cur : Option HomeReq := none
  waitAck : List (Nat × Nat) := []  -- agents, with the probe's stamp, whose answer the home waits for; 5 is the host's reply
  waitWb : List Nat := []           -- agents that answered ACK-WB and whose WB has not come
  dirty : Option LineData := none   -- data an answer brought
  again : Bool := false             -- an answer named a write-back: the request is served anew (R199)
  base : DirSt := .uncached         -- the stable state the service started from, or that it grants
  asked : Bool := false             -- the host cache agent has asked the host for the line
  deriving DecidableEq, Repr

/-- Messages between homes and agents (R198, R200). -/
inductive MsgKind where
  | rds | rdx | own | upg | wb | wbk | cmp
  | gntS | gntE | gntX | wba | prShr | prInv
  | ackI | ackD | ackWb | ackSt
  deriving DecidableEq, Repr

structure Msg where
  kind : MsgKind
  agent : Nat                       -- the die (or 4, the host) at the other end
  line : Nat
  key : Nat := 0
  stamp : Nat := 0
  data : LineData := 0
  mask : Option (BitVec 128) := none
  swm : Bool := false
  atomic : Bool := false
  clean : Bool := false             -- a PR-SHR after which the owner's copy is clean (R208)
  wb : Nat := 0                     -- the stamp of the write-back that an ACK-WB names (R205)
  deriving DecidableEq, Repr

/-- A line of host memory held on the device (R207). -/
structure FiltEnt where
  excl : Bool                       -- state granted by the host
  order : Nat                       -- when last granted
  deriving DecidableEq, Repr

/-- What the device has sent to the host or a peer: seen from outside only. -/
inductive OutMsg where
  | rdShared (line : Nat) | rdOwn (line : Nat) | rdOwnNoData (line : Nat)
  | dirtyEvict (line : Nat) (data : LineData) | cleanEvict (line : Nat)
  | biSnpData (line : Nat) | biSnpInv (line : Nat)
  | memData (line : Nat) (data : LineData) | memPoison (line : Nat) | memDone (line : Nat) | memUnmapped (hpa : Nat)
  | snpResp (line : Nat) (resp : String) (data : Option LineData)
  | snpError (line : Nat)
  | peerData (off : Nat) (data : LineData) | peerDone (off : Nat) | peerError (off : Nat)
  | msix (vector : Nat)
  | sideband (bytes : List Byte)
  | mctp (bytes : List Byte)
  | sensor (n : Nat) (val : Nat)
  deriving DecidableEq, Repr

/-! ## Registers of the package -/

/-- An entry on its way to the host event ring (R270, R271). -/
structure RingEnt where
  type : Nat
  die : Nat := 0
  nowrite : Bool := false
  body : List Word64
  comp : Option Nat := none        -- queue of a completion whose record and HEAD wait with it (R271)
  deriving DecidableEq, Repr

/-- Queue and event-ring registers (R273). -/
structure LaunchRegs where
  qtab : Nat := 0
  evEn : Bool := false
  evBase : Nat := 0
  evSizelog : Nat := 6
  evHead : Nat := 0
  evTail : Nat := 0
  timeus : Nat := 0
  cnt : Nat := 1
  held : List RingEnt := []
  reported : Nat := 0
  oldest : Nat := 0                 -- time of the oldest unreported entry
  deriving DecidableEq, Repr

/-- Translation registers (R163). -/
structure TransRegs where
  base : Nat := 0
  en : Bool := false
  invva : Nat := 0
  inval : List (Nat × Option Nat × Option (Nat × Nat)) := []  -- running: kind, ASID, (va, log2 size)
  old : List (Nat × TlbEnt) := []  -- (die, entry): removed by an invalidation that is still running (R167)
  deriving DecidableEq, Repr

/-- Save-pool registers (R280). -/
structure PoolRegs where
  en : Bool := false
  base : Nat := 0
  frames : Nat := 0
  saveva : Nat := 0
  deriving DecidableEq, Repr

/-- A droop breakpoint (R316, R322): the threshold is signed for frequency. -/
structure Breakpoint where
  en : Bool := false
  frac : Nat := 1024
  thr : BitVec 32 := 0
  deriving DecidableEq, Repr

/-- The power registers and what stands behind them (R313 to R323). -/
structure Power where
  stpEn : Bool := false
  nomf : Nat := 0xC350
  hystv : Nat := 10
  hystf : Nat := 20
  lost : Bool := false
  lostAt : Nat := 0
  crcerr : Nat := 0
  seqskip : Nat := 0
  valid : Nat := 0
  lastAt : Nat := 0                 -- time of the last valid frame
  lastSeq : Option Nat := none
  stplast : Word64 := 0
  freq : Nat := 0
  vbus : Nat := 0
  batt : Bool := false
  seen : Bool := false              -- a measuring frame has come
  fIn : Option Nat := none          -- breakpoint in use, frequency set
  vIn : Option Nat := none
  pbudget : Nat := 0x07D0
  lossfrac : Nat := 1024
  lossms : Nat := 10
  battfrac : Nat := 1024
  shedfloor : Nat := 1
  cap : Nat := 1024
  frameFrac : Nat := 1024           -- the fraction that the last measuring frame set (R317)
  shed : BitVec 8 := 0
  clamp : Nat := 0
  clampTarget : Nat := 0
  clampAt : Nat := 0                -- when the clamp last moved (R318)
  pumpen : Bool := true
  slope : Nat := 40
  ttrip : BitVec 16 := 0x0730
  thot : BitVec 16 := 0x05F0
  tmaxtgt : BitVec 16 := 0x0550
  tmargin : BitVec 8 := 8
  migwait : BitVec 8 := 10
  classdraw : Tab Nat := []         -- watts, class 0 to 7
  basedraw : Nat := 0
  fbp : Tab Breakpoint := []
  vbp : Tab Breakpoint := []
  shedDraw : Tab Nat := []          -- CLASSDRAW as it stood when the class was shed
  restoreAt : Nat := 0              -- when a class was last restored
  holdFrom : Tab Nat := []          -- shed classes whose restore condition holds, since when (R320)
  rampAt : Option Nat := none       -- when RAMP was last set
  lowerAt : Nat := 0
  sramTemp : Tab (BitVec 16) := []  -- SRAM-die and power-die sensors by sensor number
  coolFrom : Tab Nat := []          -- SRAM sensor: since when it has stayed below RESTORE (R144)
  deriving DecidableEq, Repr

/-- What a host enables through configuration space: the options that the device supports (R325), and those that it does
not (R326). -/
inductive CfgOption where
  | memorySpace | busMaster | msix | aer | cxlCache | cxlMem | hdmDecoder | ideIo | ideCache | ideMem
  | hdmH | hdmD | secondDecoder | interleave | multiLogical | dynamicCapacity | persistent | globalFlush | sriov | pasid | ats | typeOne
  deriving DecidableEq, Repr

/-- Device block, custody and peers (R325 to R338). -/
structure Platform where
  minimal : Bool := false
  lc : Nat := 2
  reason : Nat := 0
  fails : Nat := 0
  starts : Nat := 0                 -- starts that have succeeded
  step : Nat := 5                   -- steps of the present start that are done
  stopped : Nat := 5                -- the step at which the last start stopped
  hdmbase : Nat := 0
  wiping : Bool := false
  booting : Bool := false
  warming : Bool := false           -- the steps of a warm reset before its wipe (R212)
  lcNext : Option Nat := none       -- a transition's state, in effect after the wipe (R339)
  trainFrom : Nat := 0              -- when the link's training began (R335)
  cxl : Bool := true                -- the link runs CXL; else PCIe, and only CXL.io works (R325)
  cfg : List CfgOption := []        -- options that the host has enabled
  barBase : Option Nat := none      -- the host physical address of the register BAR
  sigIndex : Nat := 0
  flash : Option (List Byte) := some []  -- the image that flash holds, none when it is not valid (R336)
  boot : Option (List Byte) := some []   -- the image that this start runs
  incoming : Option (List Byte) := none  -- a verified image that is being written to flash
  sbBusy : Bool := false            -- a sideband request is being served
  off : Bool := false               -- the package has no supply
  peerEn : Bool := false
  peerSize : Nat := 0
  peerSelf : Nat := 0
  peerBase : Nat := 0
  peertab : Tab (Bool × Nat) := []
  deadPeers : List Nat := []        -- accelerator IDs that no port reaches
  failAt : Tab Nat := []            -- when a destination's last port failed
  lostLines : List Nat := []        -- host lines lost dirty in a fatal reset (R213)
  deriving DecidableEq, Repr

/-! ## The schedule -/

/-- One move of the schedule: a team issues, the device takes a step of the table, time passes, or a
choice that no rule times is made (log entry 5). -/
inductive Act where
  | issue (ctx : Nat)
  | event (i : Instr)
  | announce (ctx idx : Nat)        -- an item of a team's load/store queue goes to its point
  | lane (ctx idx piece : Nat)      -- of a window access, one lane's (R184)
  | tick (cycles : Nat)             -- cycles of a column at level 0 go by, and with them the time (R6)
  | pick (copy elem : Nat)          -- a copy's element is performed ahead of its turn (R229)
  | early (copy elem : Nat)         -- a copy's source element is read ahead of its write (R229, R236)
  | operand (core job read : Nat)   -- one read of a queued MMA is made ahead of the others (R238)
  | drainCp (core : Nat)            -- CP writes become visible to LS and MX
  | evictL1 (core line : Nat)
  | evictTlb (die : Nat)
  | shareTlb (src idx die agent : Nat) -- an agent answers from a leaf of a 64 KiB page that some agent has walked (R155)
  | oldTlb (idx : Nat)              -- while BUSY is set, a translation uses an entry that the invalidation removed (R167)
  | dropFetch (core : Nat)
  | measure (cls watts : Nat)       -- a draw is measured; class 8 is BASEDRAW
  | charge (queue uj : Nat)         -- energy of a queue's blocks is measured (R304)
  | ramp (die : Nat) (shares : List (Option Nat × Nat)) -- the current of work that has ended is measured (R302)
  | monitor (col : Nat)             -- a monitor that waits for its slot starts (R296)
  | sideband (busy : Bool)          -- the service of a sideband request begins or ends (R332)
  | flashDone                       -- an update's flash write ends (R336)
  | mailbox (image : List Byte)     -- an image comes through the recovery mailbox (R336)
  | config (opt : CfgOption) (on : Bool) -- the host writes an enable bit of configuration space (R326)
  | placeBar (hpa : Nat)            -- the host places the register BAR
  | regWrite (off n : Nat) (val : Word64) -- the host writes the register BAR with an access of some size (R328)
  | link (cxl : Bool)               -- the link has trained, as CXL or as PCIe (R325)
  | otherCommand (cmd : Nat)        -- a vendor request with some other command byte (R333)
  | beginWipe                       -- a warm reset's wipe begins (R212)
  | peerOwn (dest off : Nat) (b : Byte) -- a peer writes its own memory (R329)
  | peerUp (dest : Nat)             -- a port reaches a peer again (R331)
  | mmio (die idx : Nat)            -- a team's access to a mapped register is performed (R146, R296)
  | corrected (die : Nat)           -- a corrected error, or a parity refetch, of the Well (R141, R146)
  | refetched (die : Nat)
  deriving DecidableEq, Repr

/-- The whole machine. -/
structure State where
  agenda : List Act := []
  cur : Option Nat := none          -- the team that issues now
  pairSecond : Option Instr := none -- the second member while the first member of a pair issues
  pairMark : Bool := false          -- the first member of the pair carried a switch marker
  uid : Nat := 1                    -- next identity of a request, entry, job or result
  free : Nat := 0                   -- MODEL: counter behind free values, no part of the device
  time : Nat := 0                   -- nanoseconds since device reset
  cycles : Nat := 0                 -- cycles since device reset of a column that stays at level 0
  mem : Memory := []                -- device memory, 1.5 TiB from physical 0
  hostMem : Memory := []            -- host memory by host physical address
  peerMem : Memory := []            -- peer memory by accelerator ID * 2^42 + offset
  dir : Tab DirEnt := []            -- by physical line
  filter : Tab FiltEnt := []        -- the host cache agent's snoop filter
  msgs : List Msg := []
  draws : Option (List (Nat × List (Nat × Nat × Nat))) := none -- once a cycle's draws have begun, the dies still to draw in it,
                                    -- with (queue, launch, tickets) (R264)
  dies : Tab Die := []
  cores : Tab Core := []
  clusters : Tab Cluster := []
  copies : List Copy := []
  teams : Tab Team := []            -- by CTXID = frame * 32 + team
  blocks : Tab Block := []          -- by frame
  queues : Tab Queue := []
  fifos : Tab (List Nat) := []      -- by mapper
  launchRegs : LaunchRegs := {}
  trans : TransRegs := {}
  pool : PoolRegs := {}
  power : Power := {}
  plat : Platform := {}
  out : List OutMsg := []           -- newest first
  deriving DecidableEq, Repr

/-- The machine after reset and a start that has succeeded: the post-wipe state of
spec/15_platform.md R339 with every register at its stated reset value. Values that the spec does not
state stand in log entries 6 (LC, time, trims, temperatures) and 7 (banks). -/
def State.reset : State :=
  { dies := [(0, { seed := 1 }), (1, { seed := 2 }), (2, { seed := 3 }), (3, { seed := 4 })] }

end Sys2Proof.Machine
end

