-- ==== Sys2Proof/Machine/Bits.lean ====
section
/-! DEFINITION. Bit fields, sign extension, byte order, lane masks and sparse tables. -/

namespace Sys2Proof.Machine

/-! ## Fields and numbers -/

/-- Bits `lo` to `lo + n - 1` of a number. -/
def bitsAt (x lo n : Nat) : Nat := x / 2 ^ lo % 2 ^ n

/-- Bit `i` of a number. -/
def bitAt (x i : Nat) : Bool := x.testBit i

/-- A field of `n` bits placed at `lo`, its excess bits dropped. -/
def place (x lo n : Nat) : Nat := x % 2 ^ n * 2 ^ lo

/-- A flag as a number. -/
def b2n (b : Bool) : Nat := if b then 1 else 0

/-- The low `n` bits of a number read as two's complement. -/
def signed (n x : Nat) : Int :=
  if x % 2 ^ n < 2 ^ (n - 1) then (x % 2 ^ n : Nat) else (x % 2 ^ n : Nat) - (2 ^ n : Nat)

/-- An integer modulo 2^n. -/
def wrapN (n : Nat) (i : Int) : Nat := (i % (2 ^ n : Nat)).toNat

/-- An integer as a 64-bit word. -/
def wrap64 (i : Int) : Word64 := BitVec.ofInt 64 i

/-- Rounds up to a multiple of `k`. -/
def roundUp (n k : Nat) : Nat := (n + (k - 1)) / k * k

/-- The ones of the low `n` bits. -/
def popcount : Nat → Nat → Nat
  | 0, _ => 0
  | n + 1, x => x % 2 + popcount n (x / 2)

/-- Whether the low `n` bits hold an odd number of ones. -/
def odd (n x : Nat) : Bool := popcount n x % 2 == 1

/-! ## Bytes, lowest first (spec/00_scope.md R5) -/

/-- The `n` bytes of a number, lowest first. -/
def toBytes : Nat → Nat → List Byte
  | 0, _ => []
  | n + 1, x => BitVec.ofNat 8 x :: toBytes n (x / 256)

/-- The number that bytes hold, lowest first. -/
def ofBytes : List Byte → Nat
  | [] => 0
  | b :: bs => b.toNat + 256 * ofBytes bs

/-- The bytes of a list of 64-bit words. -/
def wordsBytes (ws : List Word64) : List Byte := (ws.map fun w => toBytes 8 w.toNat).flatten

/-- `n` 64-bit words from bytes. -/
def bytesWords : Nat → List Byte → List Word64
  | 0, _ => []
  | n + 1, bs => BitVec.ofNat 64 (ofBytes (bs.take 8)) :: bytesWords n (bs.drop 8)

/-- A list that answers zero past its end. -/
def wordAt (ws : List Word64) (i : Nat) : Nat := (ws[i]?.getD 0).toNat

/-! ## Lines of 128 bytes (R11) -/

/-- Byte `i` of a line. -/
def lineByte (d : LineData) (i : Nat) : Byte := d.extractLsb' (8 * i) 8

/-- `n` bytes of a line from byte `off`, as a number. -/
def lineGet (d : LineData) (off n : Nat) : Nat := d.toNat / 2 ^ (8 * off) % 2 ^ (8 * n)

/-- A line with its `n` bytes from byte `off` replaced by those of `x`. -/
def linePut (d : LineData) (off n x : Nat) : LineData :=
  BitVec.ofNat 1024 (d.toNat - lineGet d off n * 2 ^ (8 * off) + x % 2 ^ (8 * n) * 2 ^ (8 * off))

/-- A line from its bytes. -/
def lineOfBytes (bs : List Byte) : LineData := BitVec.ofNat 1024 (ofBytes bs)

/-- A byte mask of `n` bytes from byte `off`. -/
def byteMask (off n : Nat) : BitVec 128 := BitVec.ofNat 128 ((2 ^ n - 1) * 2 ^ off)

/-- The bits of a line that a byte mask covers. -/
def maskBits (m : BitVec 128) : LineData :=
  (List.range 128).foldr (fun i acc => acc * 256 + if m.getLsbD i then 255 else 0) 0 |> BitVec.ofNat 1024

/-- `new` where the byte mask is set, `old` elsewhere. -/
def lineMerge (old new : LineData) (m : BitVec 128) : LineData :=
  (old &&& ~~~ maskBits m) ||| (new &&& maskBits m)

/-! ## Lanes (R34) -/

/-- Lanes 0 to `w - 1`. -/
def lanesBelow (w : Nat) : Mask := BitVec.ofNat 1024 (2 ^ w - 1)

/-- The lanes below `w` that a mask holds, ascending. -/
def lanesOf (w : Nat) (m : Mask) : List Nat := (List.range w).filter fun l => m.getLsbD l

/-- A mask with one lane. -/
def laneMask (l : Nat) : Mask := BitVec.ofNat 1024 (2 ^ l)

/-- The mask of a list of lanes. -/
def maskOf (ls : List Nat) : Mask := ls.foldl (fun m l => m ||| laneMask l) 0

/-- Mask word `i` of a mask. -/
def maskWord (m : Mask) (i : Nat) : Nat := m.toNat / 2 ^ (32 * i) % 2 ^ 32

/-- A mask with mask word `i` replaced. -/
def setMaskWord (m : Mask) (i x : Nat) : Mask :=
  BitVec.ofNat 1024 (m.toNat - maskWord m i * 2 ^ (32 * i) + x % 2 ^ 32 * 2 ^ (32 * i))

/-- The summary word: bit i set exactly when mask word i is not zero (R34). -/
def summary (m : Mask) : Nat :=
  (List.range 32).foldl (fun acc i => if maskWord m i = 0 then acc else acc + 2 ^ i) 0

/-! ## Sparse tables: keys rising, no key twice -/

/-- The entry of a key. -/
def Tab.get? {α : Type} : Tab α → Nat → Option α
  | [], _ => none
  | (k, a) :: t, x => if k = x then some a else Tab.get? t x

/-- The table with a key's entry written. -/
def Tab.put {α : Type} : Tab α → Nat → α → Tab α
  | [], x, a => [(x, a)]
  | (k, b) :: t, x, a =>
    if x < k then (x, a) :: (k, b) :: t
    else if x = k then (x, a) :: t
    else (k, b) :: Tab.put t x a

/-- The table without a key. -/
def Tab.del {α : Type} (t : Tab α) (x : Nat) : Tab α := t.filter fun e => e.1 != x

/-- The entry of a key, or a default. -/
def Tab.getD {α : Type} (t : Tab α) (x : Nat) (d : α) : α := (Tab.get? t x).getD d

/-- The table with every entry changed. -/
def Tab.mapVal {α : Type} (t : Tab α) (f : Nat → α → α) : Tab α := t.map fun e => (e.1, f e.1 e.2)

/-- The lowest number from `lo` below `lo + n` that a predicate accepts. -/
def firstBelow (n lo : Nat) (p : Nat → Bool) : Option Nat :=
  match n with
  | 0 => none
  | k + 1 => if p lo then some lo else firstBelow k (lo + 1) p

/-- A list without the first element that a predicate accepts. -/
def dropFirst {α : Type} (p : α → Bool) : List α → List α
  | [] => []
  | a :: as => if p a then as else a :: dropFirst p as

/-- Distinct elements of a list. -/
def distinct : List Nat → List Nat
  | [] => []
  | x :: xs => if xs.contains x then distinct xs else x :: distinct xs

/-! ## Memory: addresses rising, zero bytes not listed -/

/-- The byte at an address: what nothing lists is zero (log entry 8). -/
def Memory.read (m : Memory) (a : Nat) : Byte := (Tab.get? m a).getD 0

/-- Memory with one byte written, in canonical form. -/
def Memory.write (m : Memory) (a : Nat) (b : Byte) : Memory :=
  if b = 0 then Tab.del m a else Tab.put m a b

/-- Bytes from an address. -/
def Memory.readN (m : Memory) (a : Nat) : Nat → List Byte
  | 0 => []
  | n + 1 => m.read a :: Memory.readN m (a + 1) n

/-- Memory with bytes written from an address. -/
def Memory.writeN (m : Memory) (a : Nat) : List Byte → Memory
  | [] => m
  | b :: bs => Memory.writeN (m.write a b) (a + 1) bs

/-- Addresses rise from `lo` and no zero byte is listed. -/
def Memory.wfFrom : Nat → Memory → Bool
  | _, [] => true
  | lo, (a, b) :: t => decide (lo ≤ a) && decide (b ≠ 0) && Memory.wfFrom (a + 1) t

/-- The canonical form of a memory. -/
def Memory.wf (m : Memory) : Bool := Memory.wfFrom 0 m

end Sys2Proof.Machine
end

