-- ==== Sys2Proof/Machine/Float.lean ====
section
/-! DEFINITION. Floating-point formats, exact values and rounding (spec/05_numbers.md R96 to R117). -/

namespace Sys2Proof.Machine

/-- A floating-point format (R96): mantissa bits, exponent of the last place of a subnormal, the largest
finite magnitude, the canonical NaN (R97), and whether it has infinities. -/
structure Fmt where
  w : Nat
  mb : Nat
  emin : Int
  maxFin : Nat
  nan : Nat
  hasInf : Bool := true
  deriving DecidableEq, Repr

def fF32 : Fmt := { w := 32, mb := 23, emin := -149, maxFin := 0x7F7FFFFF, nan := 0x7FC00000 }
def fF16 : Fmt := { w := 16, mb := 10, emin := -24, maxFin := 0x7BFF, nan := 0x7E00 }
def fBF16 : Fmt := { w := 16, mb := 7, emin := -133, maxFin := 0x7F7F, nan := 0x7FC0 }
def fE5M2 : Fmt := { w := 8, mb := 2, emin := -16, maxFin := 0x7B, nan := 0x7E }
def fE4M3 : Fmt := { w := 8, mb := 3, emin := -9, maxFin := 0x7E, nan := 0x7F, hasInf := false }

/-- A floating-point value: NaN, an infinity, or sign, magnitude m and exponent e with |x| = m * 2^e. -/
inductive FV where
  | nan
  | inf (neg : Bool)
  | fin (neg : Bool) (m : Nat) (e : Int)
  deriving DecidableEq, Repr

/-- The magnitude bits of an element. -/
def magOf (f : Fmt) (x : Nat) : Nat := x % 2 ^ (f.w - 1)
/-- The sign bit of an element. -/
def negOf (f : Fmt) (x : Nat) : Bool := x / 2 ^ (f.w - 1) % 2 == 1
/-- A sign bit over magnitude bits. -/
def withSign (f : Fmt) (neg : Bool) (mag : Nat) : Nat := mag + b2n neg * 2 ^ (f.w - 1)

/-- The value that an element's bits stand for. -/
def unpack (f : Fmt) (x : Nat) : FV :=
  let mag := magOf f x
  let ef := mag / 2 ^ f.mb
  if mag > f.maxFin then
    if f.hasInf && mag == f.maxFin + 1 then .inf (negOf f x) else .nan
  else if ef = 0 then .fin (negOf f x) mag f.emin
  else .fin (negOf f x) (mag % 2 ^ f.mb + 2 ^ f.mb) (f.emin + (ef - 1 : Nat))

/-- A subnormal element: a non-zero magnitude below the smallest normal. -/
def isSub (f : Fmt) (x : Nat) : Bool := 0 < magOf f x && magOf f x < 2 ^ f.mb

/-- DAZ (R104): a subnormal source becomes a zero of its sign. -/
def dazIn (daz : Bool) (f : Fmt) (x : Nat) : Nat := if daz && isSub f x then withSign f (negOf f x) 0 else x

/-- Whether a magnitude with `lo` of 2^sh left over rounds up, in mode 0 RNE, 1 RTZ, 2 RUP, 3 RDN (R103). -/
def roundsUp (mode : Nat) (neg : Bool) (hi lo sh : Nat) : Bool :=
  match mode with
  | 0 => 2 ^ sh < 2 * lo || (2 ^ sh == 2 * lo && hi % 2 == 1)
  | 2 => !neg && 0 < lo
  | 3 => neg && 0 < lo
  | _ => false

/-- Bits needed for a number. -/
def bitLen (m : Nat) : Nat := if m = 0 then 0 else Nat.log2 m + 1

/-- The rounded magnitude bits of m * 2^e, as if the exponent range had no upper end (R103). -/
def roundMag (f : Fmt) (mode : Nat) (neg : Bool) (m : Nat) (e : Int) : Nat :=
  if m = 0 then 0
  else
    let q := max (e + (bitLen m : Int) - (f.mb + 1 : Nat)) f.emin
    let base := (q - f.emin).toNat * 2 ^ f.mb
    if q ≤ e then base + m * 2 ^ (e - q).toNat
    else
      let sh := (q - e).toNat
      let hi := m / 2 ^ sh
      let lo := m % 2 ^ sh
      base + hi + b2n (roundsUp mode neg hi lo sh)

/-- A finite result that overflows f32, f16 or bf16 (R106). -/
def overflow (f : Fmt) (mode : Nat) (neg sat : Bool) : Nat :=
  let toInf := mode == 0 || (mode == 2 && !neg) || (mode == 3 && neg)
  withSign f neg (if toInf && !sat then f.maxFin + 1 else f.maxFin)

/-- A finite exact value rounded to f32, f16 or bf16 with FTZ (R103, R104, R106). -/
def roundFin (f : Fmt) (mode : Nat) (sat ftz neg : Bool) (m : Nat) (e : Int) : Nat :=
  let mag := roundMag f mode neg m e
  if mag > f.maxFin then overflow f mode neg sat
  else if ftz && 0 < mag && mag < 2 ^ f.mb then withSign f neg 0
  else withSign f neg mag

/-- A value rounded to f32, f16 or bf16. -/
def roundFV (f : Fmt) (mode : Nat) (sat ftz : Bool) : FV → Nat
  | .nan => f.nan
  | .inf neg => withSign f neg (f.maxFin + 1)
  | .fin neg m e => roundFin f mode sat ftz neg m e

/-- A value converted into e4m3 or e5m2 (R108). -/
def roundNarrow (f : Fmt) (mode : Nat) (sat : Bool) : FV → Nat
  | .nan => f.nan
  | .inf neg => if sat then withSign f neg f.maxFin else if f.hasInf then withSign f neg (f.maxFin + 1) else f.nan
  | .fin neg m e =>
    let mag := roundMag f mode neg m e
    if mag > f.maxFin then
      if sat then withSign f neg f.maxFin else if f.hasInf then withSign f neg (f.maxFin + 1) else f.nan
    else withSign f neg mag

/-! ## Exact arithmetic (R103, R105) -/

/-- The signed integer m * 2^(e - lo). -/
def scaled (neg : Bool) (m : Nat) (e lo : Int) : Int :=
  let x : Int := (m * 2 ^ (e - lo).toNat : Nat)
  if neg then -x else x

/-- An exact sum; an exactly zero sum takes the sign that R103 gives in the mode. -/
def addFV (mode : Nat) : FV → FV → FV
  | .nan, _ => .nan
  | _, .nan => .nan
  | .inf a, .inf b => if a = b then .inf a else .nan
  | .inf a, .fin .. => .inf a
  | .fin .., .inf b => .inf b
  | .fin na ma ea, .fin nb mb eb =>
    let lo := min ea eb
    let x := scaled na ma ea lo + scaled nb mb eb lo
    if x = 0 then .fin (if ma = 0 ∧ mb = 0 ∧ na = nb then na else mode == 3) 0 lo
    else .fin (decide (x < 0)) x.natAbs lo

/-- The opposite value. -/
def negFV : FV → FV
  | .nan => .nan
  | .inf n => .inf !n
  | .fin n m e => .fin (!n) m e

/-- An exact product; 0 × ∞ is invalid. -/
def mulFV : FV → FV → FV
  | .nan, _ => .nan
  | _, .nan => .nan
  | .inf a, .inf b => .inf (a != b)
  | .inf a, .fin b m _ => if m = 0 then .nan else .inf (a != b)
  | .fin a m _, .inf b => if m = 0 then .nan else .inf (a != b)
  | .fin a ma ea, .fin b mb eb => .fin (a != b) (ma * mb) (ea + eb)

/-- The order of two values that are not NaN, −0.0 equal to +0.0. -/
def cmpFV : FV → FV → Ordering
  | .inf true, .inf true => .eq
  | .inf false, .inf false => .eq
  | .inf true, _ => .lt
  | _, .inf true => .gt
  | .inf false, _ => .gt
  | _, .inf false => .lt
  | .fin na ma ea, .fin nb mb eb =>
    let lo := min ea eb
    compare (scaled na ma ea lo) (scaled nb mb eb lo)
  | _, _ => .eq

/-- Whether a value is NaN. -/
def FV.isNan : FV → Bool
  | .nan => true
  | _ => false
/-- Whether a value is zero. -/
def FV.isZero : FV → Bool
  | .fin _ m _ => m == 0
  | _ => false
/-- Whether a value carries the minus sign. -/
def FV.neg : FV → Bool
  | .nan => false
  | .inf n => n
  | .fin n _ _ => n

/-- The lesser (or greater) of two elements: −0.0 below +0.0, a single NaN gives the other, two give the
canonical NaN (R414).  DAZ acts on the sources first (R104, log entry 65); the selected bits are not rounded. -/
def minMaxBits (f : Fmt) (daz gt : Bool) (a0 b0 : Nat) : Nat :=
  let a := dazIn daz f a0
  let b := dazIn daz f b0
  let x := unpack f a
  let y := unpack f b
  match x.isNan, y.isNan with
  | true, true => f.nan
  | true, false => b
  | false, true => a
  | false, false =>
    let lt := match cmpFV x y with
      | .lt => true
      | .gt => false
      | .eq => x.neg && !y.neg
    if lt != gt then a else b

/-- m * 2^e rounded to an integer magnitude. -/
def roundInt (mode : Nat) (neg : Bool) (m : Nat) (e : Int) : Nat :=
  if 0 ≤ e then m * 2 ^ e.toNat
  else
    let sh := (-e).toNat
    m / 2 ^ sh + b2n (roundsUp mode neg (m / 2 ^ sh) (m % 2 ^ sh) sh)

/-- A value converted to an integer type of `n` bits: rounded, then clamped; NaN gives 0 (R110). -/
def toIntBits (mode n : Nat) (sgn : Bool) (v : FV) : Nat :=
  let lo : Int := if sgn then -(2 ^ (n - 1) : Nat) else 0
  let hi : Int := if sgn then (2 ^ (n - 1) : Nat) - 1 else (2 ^ n : Nat) - 1
  match v with
  | .nan => 0
  | .inf neg => wrapN n (if neg then lo else hi)
  | .fin neg m e =>
    let x : Int := roundInt mode neg m e
    wrapN n (max lo (min hi (if neg then -x else x)))

/-- The class word of an element (R414). -/
def classBits (f : Fmt) (x : Nat) : Nat :=
  let mag := magOf f x
  let neg := negOf f x
  if mag > f.maxFin + 1 then 256
  else if mag = f.maxFin + 1 then (if neg then 1 else 128)
  else if mag ≥ 2 ^ f.mb then (if neg then 2 else 64)
  else if mag > 0 then (if neg then 4 else 32)
  else if neg then 8 else 16

/-- Rounds an element to an integral value in the format (R414). -/
def integralBits (f : Fmt) (mode : Nat) (ftz daz : Bool) (x : Nat) : Nat :=
  match unpack f (dazIn daz f x) with
  | .nan => f.nan
  | .inf n => withSign f n (f.maxFin + 1)
  | .fin n m e => roundFin f mode false ftz n (roundInt mode n m e) 0

/-- The canonical NaN in place of any NaN (R97). -/
def canon (f : Fmt) (x : Nat) : Nat := if (unpack f x).isNan then f.nan else x

/-- An f32 sum rounded in a mode, subnormals kept. -/
def addF32 (mode : Nat) (a b : Nat) : Nat :=
  roundFV fF32 mode false false (addFV mode (unpack fF32 a) (unpack fF32 b))
/-- An f32 product rounded with RNE, subnormals kept. -/
def mulF32 (a b : Nat) : Nat := roundFV fF32 0 false false (mulFV (unpack fF32 a) (unpack fF32 b))

/-! ## Transcendentals (R116, R117) -/

/-- 1/|x| rounded with RNE, by division with a sticky bit. -/
def rcpNear (f : Fmt) (m : Nat) (e : Int) : Nat :=
  let k := bitLen m + 40
  let q := 2 ^ k / m
  let st := b2n (2 ^ k % m != 0)
  roundMag f 0 false (2 * q + st) (-e - (k : Int) - 1)

/-- 1/√x rounded with RNE, by an integer square root with a sticky bit. -/
def rsqNear (f : Fmt) (m : Nat) (e : Int) : Nat :=
  let m' := if e % 2 = 0 then m else 2 * m
  let e' := if e % 2 = 0 then e else e - 1
  let k := 2 * (bitLen m' + 40)
  let q := 2 ^ k / m'
  let r := Nat.sqrt q
  let st := b2n (r * r * m' != 2 ^ k)
  roundMag f 0 false (2 * r + st) (-(e' / 2) - (k / 2 : Nat) - 1)

/-- Whether a * 2^e is at most 1. -/
def atMostOne (a : Nat) (e : Int) : Bool := a * 2 ^ (e - min e 0).toNat ≤ 2 ^ (-(min e 0)).toNat
/-- Whether a * 2^e is at least 1. -/
def atLeastOne (a : Nat) (e : Int) : Bool := 2 ^ (-(min e 0)).toNat ≤ a * 2 ^ (e - min e 0).toNat

/-- The magnitude bits as mantissa and exponent. -/
def magParts (f : Fmt) (mag : Nat) : Nat × Int :=
  if mag < 2 ^ f.mb then (mag, f.emin) else (mag % 2 ^ f.mb + 2 ^ f.mb, f.emin + (mag / 2 ^ f.mb - 1 : Nat))

/-- Whether the finite magnitude `c` lies within `k` ulp of 1 / (m * 2^e): |c x - 1| ≤ k ulp x, where the ulp
is the spacing of the format at the exact result (R116). -/
def rcpWithin (f : Fmt) (k c m : Nat) (e : Int) : Bool :=
  let l := Nat.log2 m
  let top : Int := -(e + (l : Int)) - (if m = 2 ^ l then 0 else 1)
  let u := max (top - (f.mb : Int)) f.emin
  let (mc, ec) := magParts f c
  let lo := min (min (ec + e) 0) (u + e)
  let d : Int := (mc * m * 2 ^ (ec + e - lo).toNat : Nat) - (2 ^ (-lo).toNat : Nat)
  decide (c ≤ f.maxFin) && decide (d.natAbs ≤ k * m * 2 ^ (u + e - lo).toNat)

/-- Whether the finite magnitude `c` lies within `k` ulp of 1 / √(m * 2^e) (R116). -/
def rsqWithin (f : Fmt) (k c m : Nat) (e : Int) : Bool :=
  let l := Nat.log2 m
  let lx : Int := e + (l : Int)
  let top : Int := if lx % 2 = 0 then -(lx / 2) - (if m = 2 ^ l then 0 else 1) else -((lx + 1) / 2)
  let u := max (top - (f.mb : Int)) f.emin
  let (mc, ec) := magParts f c
  let lo := min ec u
  let mid := mc * 2 ^ (ec - lo).toNat
  let wide := k * 2 ^ (u - lo).toNat
  decide (c ≤ f.maxFin) && (decide (mid ≤ wide) || atMostOne ((mid - wide) * (mid - wide) * m) (2 * lo + e)) &&
    atLeastOne ((mid + wide) * (mid + wide) * m) (2 * lo + e)

/-- Enclosures (lo, hi, e) of an exact positive value: lo * 2^e ≤ value < hi * 2^e. -/
abbrev Encl := Nat × Nat × Int

/-- Whether the magnitude `c` lies within `k` ulp of a value in an enclosure, an ulp being the format's spacing at the value
(R116); an infinity may stand for a value above the largest finite one, and with `low` a value below the smallest normal gives
no normal one, which R116 says of VEXP2 alone. -/
def enclWithin (f : Fmt) (k c : Nat) (low : Bool) (v : Encl) : Bool :=
  let (lo, hi, e) := v
  let top : Int := e + (bitLen (hi - 1) : Int)
  let u := max (top - (f.mb + 1 : Nat)) f.emin
  let (mc, ec) := magParts f c
  let base := min (min ec u) e
  let x := mc * 2 ^ (ec - base).toNat
  let w := k * 2 ^ (u - base).toNat
  let big := magParts f f.maxFin
  if c = f.maxFin + 1 then decide (big.1 * 2 ^ (big.2 - min big.2 e).toNat < hi * 2 ^ (e - min big.2 e).toNat)
  else
    decide (c ≤ f.maxFin) && decide (lo * 2 ^ (e - base).toNat ≤ x + w) && decide (x ≤ hi * 2 ^ (e - base).toNat + w) &&
      (!low || decide (c < 2 ^ f.mb) || decide (top > f.emin + (f.mb : Int)))

/-- The magnitude that a transcendental returns for an enclosed value: the free one where the bound of R116 allows it,
else the one nearest to the value. -/
def enclPick (f : Fmt) (k c : Nat) (low : Bool) (v : Encl) : Nat :=
  if enclWithin f k c low v then c
  else
    let near := min (roundMag f 0 false v.1 v.2.2) (f.maxFin + 1)
    if enclWithin f k near low v then near else near - 1

/-- Terms of the exponential series of t * 2^-128, from term `k` on, each cut off at 2^-128. -/
def expTerms (t : Nat) : Nat → Nat → Nat → Nat
  | 0, _, _ => 0
  | n + 1, k, term => term + expTerms t n (k + 1) (term * t / 2 ^ 128 / (k + 1))

/-- An enclosure of exp(t * 2^-128) for t from 0 to 2^128, by 48 terms. -/
def expEncl (t : Nat) : Nat × Nat := let lo := expTerms t 48 0 (2 ^ 128); (lo, lo + 1024)

/-- An enclosure of 2^x for x = ±m * 2^e, which is no integer and no greater than 2^9. -/
def exp2Encl (f : Fmt) (neg : Bool) (m : Nat) (e : Int) : Encl :=
  let sh := (-e).toNat
  let i := m / 2 ^ sh
  let fr := m % 2 ^ sh
  if neg ∧ (-f.emin).toNat + 1 ≤ i then (0, 1, f.emin - 1)
  else
    let k : Int := if neg then -(i : Int) - 1 else i
    let g := if neg then 2 ^ sh - fr else fr
    let (lo, hi) := expEncl (g * 0xB17217F7D1CF79ABC9E3B39803F2F6AF / 2 ^ sh)
    (lo, min hi (2 ^ 129), k - 128)

/-- Bits of log2 of y * 2^-256 in [1, 2), by squaring. -/
def log2Bits : Nat → Nat → Nat → Nat
  | 0, _, acc => acc
  | n + 1, y, acc =>
    let z := y * y / 2 ^ 256
    if 2 ^ 257 ≤ z then log2Bits n (z / 2) (2 * acc + 1) else log2Bits n z (2 * acc)

/-- The sign of log2 (m * 2^e), which is not 0, and an enclosure of its magnitude. -/
def log2Encl (m : Nat) (e : Int) : Bool × Encl :=
  let l := Nat.log2 m
  let fr := log2Bits 128 (m * 2 ^ (256 - l)) 0
  let k : Int := (e + (l : Int)) * (2 ^ 128 : Nat) + (fr : Int)
  if m = 2 ^ l then (decide (k < 0), (k.natAbs, k.natAbs + 1, -128))
  else if k < 0 then (true, (k.natAbs - 2, k.natAbs + 1, -128)) else (false, (k.natAbs, k.natAbs + 2, -128))

/-- An enclosure of tanh (m * 2^e), m above 0; below 2^-8, from its series to the thirteenth power. -/
def tanhEncl (m : Nat) (e : Int) : Encl :=
  let top : Int := e + (bitLen m : Int)
  if top ≤ -8 then
    let a := (-e).toNat
    let t := fun (p n d : Nat) => n * m ^ p * 2 ^ ((13 - p) * a) / d
    let up := t 1 1 1 + t 5 2 15 + t 9 62 2835
    let down := t 3 1 3 + t 7 17 315 + t 11 1382 155925
    (up - (down + 3), up + 2 - down + (t 13 21844 6081075 + 1), 13 * e)
  else if 6 ≤ top then (2 ^ 96 - 2 ^ 5, 2 ^ 96, -96)
  else
    let t := m * 2 ^ (e + 123).toNat
    let sq := fun (x : Nat × Nat) => (x.1 * x.1 / 2 ^ 128, x.2 * x.2 / 2 ^ 128 + 1)
    let (lo, hi) := sq (sq (sq (sq (sq (sq (expEncl t))))))
    (2 ^ 128 - (2 ^ 257 / (lo + 2 ^ 128) + 1), 2 ^ 128 - 2 ^ 257 / (hi + 2 ^ 128), -128)

/-- The result of operation 0 VRCP, 1 VRSQ, 2 VEXP2, 3 VLOG2 or 4 VTANH on one element: the special inputs,
exact cases and properties of R116 decide it where they apply, and the free value of log entry 1 elsewhere. -/
def transBits (op ty : Nat) (f : Fmt) (ftz daz : Bool) (x0 : Nat) : Nat :=
  let x := dazIn daz f x0
  let free := (Config.transcendental op ty ftz daz (BitVec.ofNat 32 x)).toNat % 2 ^ f.w
  let one := roundMag f 0 false 1 0
  let inf := fun neg => withSign f neg (f.maxFin + 1)
  let flush := fun y => if ftz && isSub f y then withSign f (negOf f y) 0 else y
  let ulps := if f.w = 32 then 2 else 1
  match unpack f x with
  | .nan => f.nan
  | .inf neg =>
    match op with
    | 0 => withSign f neg 0
    | 1 => if neg then f.nan else 0
    | 2 => if neg then 0 else inf false
    | 3 => if neg then f.nan else inf false
    | _ => withSign f neg one
  | .fin neg m e =>
    if m = 0 then
      match op with
      | 0 => inf neg
      | 1 => inf neg
      | 2 => one
      | 3 => inf true
      | _ => withSign f neg 0
    else if op = 0 then
      let r := rcpNear f m e
      let mag := if x = one then one else if rcpWithin f ulps (magOf f free) m e then magOf f free else r
      flush (withSign f neg (if r > f.maxFin then f.maxFin + 1 else mag))
    else if op = 1 then
      if neg then f.nan
      else if x = one then one
      else flush (if rsqWithin f ulps (magOf f free) m e then magOf f free else rsqNear f m e)
    else if op = 2 then
      let k : Int := if neg then -(roundInt 1 neg m e : Int) else (roundInt 1 neg m e : Int)
      let isInt := e ≥ 0 || m % 2 ^ (-e).toNat == 0
      let top : Int := f.emin + (f.maxFin / 2 ^ f.mb - 1 : Nat) + f.mb
      if !neg && decide (top + 1 < k + b2n !isInt) then inf false
      else if isInt then
        if f.emin ≤ k ∧ k ≤ top then flush (roundMag f 0 false 1 k)
        else flush (enclPick f ulps (magOf f free) true (if k < f.emin then (0, 1, f.emin - 1) else (256, 257, k - 8)))
      else flush (enclPick f ulps (magOf f free) true (exp2Encl f neg m e))
    else if op = 3 then
      if neg then f.nan
      else
        let l := Nat.log2 m
        if m = 2 ^ l ∧ 0 ≤ e + (l : Int) then roundFin f 0 false false false (e + (l : Int)).toNat 0
        else
          let (n, v) := log2Encl m e
          flush (withSign f n (enclPick f ulps (magOf f free) false v))
    else
      let free' := (Config.transcendental op ty ftz daz (BitVec.ofNat 32 (magOf f x))).toNat % 2 ^ f.w
      flush (withSign f neg (min one (enclPick f ulps (magOf f free') false (tanhEncl m e))))

end Sys2Proof.Machine
end

