-- ==== Sys2Proof/WellFormed.lean ====
section
/-! DEFINITION. Which terms of the syntax stand for a word of the opcode map (spec/04_encoding.md R89). -/

namespace Sys2Proof

/-- An opcode that R89 leaves reserved: 0x00, a dash of the map, or 0xD0 to 0xFF. -/
def reservedOp (op : Nat) : Bool :=
  op == 0x00 || op == 0x16 || op == 0x17 || op == 0x26 || op == 0x27 ||
  (0x2C ≤ op && op ≤ 0x2F) || (0x39 ≤ op && op ≤ 0x3F) || (0x56 ≤ op && op ≤ 0x5F) ||
  op == 0x6E || op == 0x6F || op == 0x77 || (0x7A ≤ op && op ≤ 0x7F) ||
  (0x85 ≤ op && op ≤ 0x87) || (0x8B ≤ op && op ≤ 0x8F) || op == 0x93 || (0x97 ≤ op && op ≤ 0x9F) ||
  op == 0xA7 || (0xAD ≤ op && op ≤ 0xAF) || (0xB3 ≤ op && op ≤ 0xBF) || op == 0xC6 || op == 0xC7 ||
  (0xCC ≤ op)

/-- The bits that tell two rows of one opcode apart are the ones the row has (R79 SREAD, R378 GJOIN), a reserved word's
opcode is reserved, and a step that names a die, core, cluster or queue names one of the package (R9, R18). -/
def Instr.wellFormed : Instr → Bool
  | .sread f => !f.imm.getLsbD 12
  | .sreadV f => f.imm.getLsbD 12
  | .gjoin f => !f.sub.getLsbD 0
  | .gjoinAny f => f.sub.getLsbD 0
  | .reservedOpcode w => reservedOp (w.extractLsb' 88 8).toNat
  | .drumAnnouncementAct die => die < 4
  | .wellBeatAdmit die => die < 4
  | .transitArrival die _ => die < 4
  | .wellUe die _ => die < 4
  | .wrestitchRetire die bank => die < 4 && bank < 1024
  | .wrestitchRestore die bank => die < 4 && bank < 1024
  | .restitchComplete die => die < 4
  | .wellThermalRestore die bank => die < 4 && bank < 1024
  | .pageWalkComplete die _ => die < 4
  | .lotteryDraw die => die < 4
  | .l1Fill core _ => core < 864
  | .l1HoldExpiry core _ => core < 864
  | .mmaStart core _ => core < 768
  | .mmaCommit core _ => core < 768
  | .countingEvent core => core < 864
  | .ntWindow core => core < 864
  | .clusterGatingCommit col => col < 96
  | .clusterWakeComplete col => col < 96
  | .columnLevelStep col => col < 96
  | .thermalLevelTick col => col < 96
  | .trelRelease col => col < 96
  | .eventRecordEnter col => col < 96
  | .dbgEnable col _ => col < 96
  | .notifyWrite q _ _ => q < 131072
  | .qcmdEnable q => q < 131072
  | .qcmdDisable q => q < 131072
  | .launchPacketRead q => q < 131072
  | .classRestore c => c < 8
  | _ => true

end Sys2Proof
end

