-- ==== Sys2Proof/Decode.lean ====
section
/-! DEFINITION. Decoding and encoding of instruction words (spec/04_encoding.md R58, R69 to R89). -/

namespace Sys2Proof

/-- Why bytes are not an instruction word. -/
inductive DecodeError where
  /-- fewer than the twelve bytes of a slot (R58) -/
  | tooShort
  deriving DecidableEq, Repr

/-! ## Fields of a word -/

/-- The fields of a V-format word (R69, R72). -/
def getV (w : Word96) : VF where
  sw := w.getLsbD 87
  pm := w.extractLsb' 83 4
  pn := w.getLsbD 82
  vd := w.extractLsb' 72 10
  va := w.extractLsb' 62 10
  vb := w.extractLsb' 52 10
  vc := w.extractLsb' 42 10
  ty := w.extractLsb' 38 4
  rnd := w.extractLsb' 35 3
  sat := w.getLsbD 34
  res := w.extractLsb' 32 2
  imm := w.extractLsb' 0 32

/-- The fields of a S-format word (R69, R78). -/
def getS (w : Word96) : SF where
  sw := w.getLsbD 87
  pm := w.extractLsb' 83 4
  pn := w.getLsbD 82
  sd := w.extractLsb' 76 6
  sa := w.extractLsb' 70 6
  sb := w.extractLsb' 64 6
  imm := w.extractLsb' 0 64

/-- The fields of a M-format word (R69, R80). -/
def getM (w : Word96) : MF where
  sw := w.getLsbD 87
  pm := w.extractLsb' 83 4
  pn := w.getLsbD 82
  data := w.extractLsb' 72 10
  base := w.extractLsb' 66 6
  idx := w.extractLsb' 56 10
  sz := w.extractLsb' 53 3
  sx := w.getLsbD 52
  scope := w.extractLsb' 49 3
  ord := w.extractLsb' 47 2
  well := w.extractLsb' 45 2
  aop := w.extractLsb' 41 4
  shift := w.extractLsb' 38 3
  res := w.extractLsb' 32 6
  disp := w.extractLsb' 0 32

/-- The fields of a X-format word (R69, R84). -/
def getX (w : Word96) : XF where
  sw := w.getLsbD 87
  pm := w.extractLsb' 83 4
  pn := w.getLsbD 82
  ha := w.extractLsb' 77 5
  hb := w.extractLsb' 72 5
  hc := w.extractLsb' 67 5
  zd := w.extractLsb' 63 4
  nega := w.getLsbD 62
  negb := w.getLsbD 61
  acd := w.getLsbD 60
  bar := w.extractLsb' 54 6
  s1 := w.extractLsb' 48 6
  sub := w.extractLsb' 0 48

/-- The fields of a C-format word (R69, R86). -/
def getC (w : Word96) : CF where
  sw := w.getLsbD 87
  pm := w.extractLsb' 83 4
  pn := w.getLsbD 82
  sa := w.extractLsb' 76 6
  ksel := w.extractLsb' 72 4
  cc := w.extractLsb' 69 3
  slot := w.extractLsb' 66 3
  res := w.extractLsb' 32 34
  disp := w.extractLsb' 0 32

/-- The fields of a Y-format word (R69, R88). -/
def getY (w : Word96) : YF where
  sw := w.getLsbD 87
  pm := w.extractLsb' 83 4
  pn := w.getLsbD 82
  sa := w.extractLsb' 76 6
  sb := w.extractLsb' 70 6
  code := w.extractLsb' 63 7
  sub := w.extractLsb' 0 63

/-! ## The opcode map (R89) -/

/-- The instruction a word holds.  Every word has a meaning: a word with a reserved opcode is
`reservedOpcode`, which traps ILLOP (R93). -/
def decode (w : Word96) : Instr :=
  match (w.extractLsb' 88 8).toNat with
  | 0x01 => .vadd (getV w)
  | 0x02 => .vsub (getV w)
  | 0x03 => .vmul (getV w)
  | 0x04 => .vmulh (getV w)
  | 0x05 => .vmad (getV w)
  | 0x06 => .vmin (getV w)
  | 0x07 => .vmax (getV w)
  | 0x08 => .vand (getV w)
  | 0x09 => .vor (getV w)
  | 0x0A => .vxor (getV w)
  | 0x0B => .vshl (getV w)
  | 0x0C => .vshr (getV w)
  | 0x0D => .vsra (getV w)
  | 0x0E => .vcmp (getV w)
  | 0x0F => .vsel (getV w)
  | 0x10 => .vmov (getV w)
  | 0x11 => .vcvt (getV w)
  | 0x12 => .vpopc (getV w)
  | 0x13 => .vclz (getV w)
  | 0x14 => .vextr (getV w)
  | 0x15 => .vins (getV w)
  | 0x18 => .vfadd (getV w)
  | 0x19 => .vfsub (getV w)
  | 0x1A => .vfmul (getV w)
  | 0x1B => .vfma (getV w)
  | 0x1C => .vfmin (getV w)
  | 0x1D => .vfmax (getV w)
  | 0x1E => .vfcmp (getV w)
  | 0x1F => .vfclass (getV w)
  | 0x20 => .vfrnd (getV w)
  | 0x21 => .vrcp (getV w)
  | 0x22 => .vrsq (getV w)
  | 0x23 => .vexp2 (getV w)
  | 0x24 => .vlog2 (getV w)
  | 0x25 => .vtanh (getV w)
  | 0x28 => .vshfl (getV w)
  | 0x29 => .vrot (getV w)
  | 0x2A => .vmatch (getV w)
  | 0x2B => .vscan (getV w)
  | 0x30 => .kand (getV w)
  | 0x31 => .kor (getV w)
  | 0x32 => .kxor (getV w)
  | 0x33 => .kandn (getV w)
  | 0x34 => .kset (getV w)
  | 0x35 => .kpopc (getV w)
  | 0x36 => .kfirst (getV w)
  | 0x37 => .kget (getV w)
  | 0x38 => .kput (getV w)
  | 0x40 => .sadd (getS w)
  | 0x41 => .saddi (getS w)
  | 0x42 => .ssub (getS w)
  | 0x43 => .smul (getS w)
  | 0x44 => .smulh (getS w)
  | 0x45 => .sdiv (getS w)
  | 0x46 => .srem (getS w)
  | 0x47 => .sand (getS w)
  | 0x48 => .sor (getS w)
  | 0x49 => .sxor (getS w)
  | 0x4A => .sshl (getS w)
  | 0x4B => .sshr (getS w)
  | 0x4C => .ssra (getS w)
  | 0x4D => .smin (getS w)
  | 0x4E => .smax (getS w)
  | 0x4F => .scmp (getS w)
  | 0x50 => .ssel (getS w)
  | 0x51 => .smov (getS w)
  | 0x52 => .smovi (getS w)
  | 0x53 => if (getS w).imm.getLsbD 12 then .sreadV (getS w) else .sread (getS w)
  | 0x54 => .swrite (getS w)
  | 0x55 => .shset (getS w)
  | 0x60 => .vld (getM w)
  | 0x61 => .vst (getM w)
  | 0x62 => .vldx (getM w)
  | 0x63 => .vstx (getM w)
  | 0x64 => .sld (getM w)
  | 0x65 => .sst (getM w)
  | 0x66 => .vlds (getM w)
  | 0x67 => .vsts (getM w)
  | 0x68 => .vatom (getM w)
  | 0x69 => .vcas (getM w)
  | 0x6A => .vatoms (getM w)
  | 0x6B => .pref (getM w)
  | 0x6C => .shld (getM w)
  | 0x6D => .shst (getM w)
  | 0x70 => .wdepth (getM w)
  | 0x71 => .wpin (getM w)
  | 0x72 => .wunpin (getM w)
  | 0x73 => .wevict (getM w)
  | 0x74 => .wclean (getM w)
  | 0x75 => .cflush (getM w)
  | 0x76 => .cinv (getM w)
  | 0x78 => .waitcnt (getM w)
  | 0x79 => .xfence (getM w)
  | 0x80 => .mma (getX w)
  | 0x81 => .zclr (getX w)
  | 0x82 => .zrd (getX w)
  | 0x83 => .zwr (getX w)
  | 0x84 => .zdrain (getX w)
  | 0x88 => .cpy (getX w)
  | 0x89 => .cpym (getX w)
  | 0x8A => .rrot (getX w)
  | 0x90 => .barinit (getX w)
  | 0x91 => .bararv (getX w)
  | 0x92 => .barwait (getX w)
  | 0x94 => if (getX w).sub.getLsbD 0 then .gjoinAny (getX w) else .gjoin (getX w)
  | 0x95 => .gleave (getX w)
  | 0x96 => .gbar (getX w)
  | 0xA0 => .br (getC w)
  | 0xA1 => .bcond (getC w)
  | 0xA2 => .bany (getC w)
  | 0xA3 => .bnone (getC w)
  | 0xA4 => .call (getC w)
  | 0xA5 => .jmp (getC w)
  | 0xA6 => .ret (getC w)
  | 0xA8 => .divg (getC w)
  | 0xA9 => .delse (getC w)
  | 0xAA => .djoin (getC w)
  | 0xAB => .dloop (getC w)
  | 0xAC => .dbrk (getC w)
  | 0xB0 => .exit (getC w)
  | 0xB1 => .yield (getC w)
  | 0xB2 => .nop (getC w)
  | 0xC0 => .trap (getY w)
  | 0xC1 => .tret (getY w)
  | 0xC2 => .bellarm (getY w)
  | 0xC3 => .modewr (getY w)
  | 0xC4 => .ctxrd (getY w)
  | 0xC5 => .ctxwr (getY w)
  | 0xC8 => .evpop (getY w)
  | 0xC9 => .evpush (getY w)
  | 0xCA => .evwait (getY w)
  | 0xCB => .trel (getY w)
  | _ => .reservedOpcode w

/-- A word from its bytes, byte 0 lowest (R58). -/
def wordOfBytes : List Byte → Nat
  | [] => 0
  | b :: bs => b.toNat + 256 * wordOfBytes bs

/-- Decoding total on any bytes: the first twelve are one slot, the rest is returned. -/
def decodeBytes (bs : List Byte) : Except DecodeError (Instr × List Byte) :=
  if bs.length < 12 then .error .tooShort
  else .ok (decode (BitVec.ofNat 96 (wordOfBytes (bs.take 12))), bs.drop 12)

/-- The bytes of a slot in memory order. -/
def bytesOfWord (w : Word96) : List Byte :=
  (List.range 12).map fun i => w.extractLsb' (8 * i) 8

/-- The host's reading of a table word: its bits, low bits first, laid out as a slot and decoded.  Only the
96-bit words of the map have bits; a longer one is no word. -/
def decodeTableWord (nbits w : Nat) : Option Instr :=
  if nbits > 96 then none
  else match decodeBytes (bytesOfWord (BitVec.ofNat 96 (w % 2 ^ nbits))) with
    | .ok (i, _) => some i
    | .error _ => none

/-! ## Encoding -/

/-- A flag as one bit. -/
def bit1 (b : Bool) : BitVec 1 := if b then 1 else 0

/-- The word with opcode `op` and the fields of a V-format instruction (R69, R72). -/
def putV (op : BitVec 8) (f : VF) : Word96 :=
  (op ++ bit1 f.sw ++ f.pm ++ bit1 f.pn ++ f.vd ++ f.va ++ f.vb ++ f.vc ++ f.ty ++ f.rnd ++ bit1 f.sat ++ f.res ++ f.imm)

/-- The word with opcode `op` and the fields of a S-format instruction (R69, R78). -/
def putS (op : BitVec 8) (f : SF) : Word96 :=
  (op ++ bit1 f.sw ++ f.pm ++ bit1 f.pn ++ f.sd ++ f.sa ++ f.sb ++ f.imm)

/-- The word with opcode `op` and the fields of a M-format instruction (R69, R80). -/
def putM (op : BitVec 8) (f : MF) : Word96 :=
  (op ++ bit1 f.sw ++ f.pm ++ bit1 f.pn ++ f.data ++ f.base ++ f.idx ++ f.sz ++ bit1 f.sx ++ f.scope ++ f.ord ++ f.well ++ f.aop ++ f.shift ++ f.res ++ f.disp)

/-- The word with opcode `op` and the fields of a X-format instruction (R69, R84). -/
def putX (op : BitVec 8) (f : XF) : Word96 :=
  (op ++ bit1 f.sw ++ f.pm ++ bit1 f.pn ++ f.ha ++ f.hb ++ f.hc ++ f.zd ++ bit1 f.nega ++ bit1 f.negb ++ bit1 f.acd ++ f.bar ++ f.s1 ++ f.sub)

/-- The word with opcode `op` and the fields of a C-format instruction (R69, R86). -/
def putC (op : BitVec 8) (f : CF) : Word96 :=
  (op ++ bit1 f.sw ++ f.pm ++ bit1 f.pn ++ f.sa ++ f.ksel ++ f.cc ++ f.slot ++ f.res ++ f.disp)

/-- The word with opcode `op` and the fields of a Y-format instruction (R69, R88). -/
def putY (op : BitVec 8) (f : YF) : Word96 :=
  (op ++ bit1 f.sw ++ f.pm ++ bit1 f.pn ++ f.sa ++ f.sb ++ f.code ++ f.sub)

/-- The word of a program instruction; a step of the device has none. -/
def encode : Instr → Option Word96
  | .vadd f => some (putV 0x01 f)
  | .vsub f => some (putV 0x02 f)
  | .vmul f => some (putV 0x03 f)
  | .vmulh f => some (putV 0x04 f)
  | .vmad f => some (putV 0x05 f)
  | .vmin f => some (putV 0x06 f)
  | .vmax f => some (putV 0x07 f)
  | .vand f => some (putV 0x08 f)
  | .vor f => some (putV 0x09 f)
  | .vxor f => some (putV 0x0A f)
  | .vshl f => some (putV 0x0B f)
  | .vshr f => some (putV 0x0C f)
  | .vsra f => some (putV 0x0D f)
  | .vcmp f => some (putV 0x0E f)
  | .vsel f => some (putV 0x0F f)
  | .vmov f => some (putV 0x10 f)
  | .vcvt f => some (putV 0x11 f)
  | .vpopc f => some (putV 0x12 f)
  | .vclz f => some (putV 0x13 f)
  | .vextr f => some (putV 0x14 f)
  | .vins f => some (putV 0x15 f)
  | .vfadd f => some (putV 0x18 f)
  | .vfsub f => some (putV 0x19 f)
  | .vfmul f => some (putV 0x1A f)
  | .vfma f => some (putV 0x1B f)
  | .vfmin f => some (putV 0x1C f)
  | .vfmax f => some (putV 0x1D f)
  | .vfcmp f => some (putV 0x1E f)
  | .vfclass f => some (putV 0x1F f)
  | .vfrnd f => some (putV 0x20 f)
  | .vrcp f => some (putV 0x21 f)
  | .vrsq f => some (putV 0x22 f)
  | .vexp2 f => some (putV 0x23 f)
  | .vlog2 f => some (putV 0x24 f)
  | .vtanh f => some (putV 0x25 f)
  | .vshfl f => some (putV 0x28 f)
  | .vrot f => some (putV 0x29 f)
  | .vmatch f => some (putV 0x2A f)
  | .vscan f => some (putV 0x2B f)
  | .kand f => some (putV 0x30 f)
  | .kor f => some (putV 0x31 f)
  | .kxor f => some (putV 0x32 f)
  | .kandn f => some (putV 0x33 f)
  | .kset f => some (putV 0x34 f)
  | .kpopc f => some (putV 0x35 f)
  | .kfirst f => some (putV 0x36 f)
  | .kget f => some (putV 0x37 f)
  | .kput f => some (putV 0x38 f)
  | .sadd f => some (putS 0x40 f)
  | .saddi f => some (putS 0x41 f)
  | .ssub f => some (putS 0x42 f)
  | .smul f => some (putS 0x43 f)
  | .smulh f => some (putS 0x44 f)
  | .sdiv f => some (putS 0x45 f)
  | .srem f => some (putS 0x46 f)
  | .sand f => some (putS 0x47 f)
  | .sor f => some (putS 0x48 f)
  | .sxor f => some (putS 0x49 f)
  | .sshl f => some (putS 0x4A f)
  | .sshr f => some (putS 0x4B f)
  | .ssra f => some (putS 0x4C f)
  | .smin f => some (putS 0x4D f)
  | .smax f => some (putS 0x4E f)
  | .scmp f => some (putS 0x4F f)
  | .ssel f => some (putS 0x50 f)
  | .smov f => some (putS 0x51 f)
  | .smovi f => some (putS 0x52 f)
  | .sread f => some (putS 0x53 f)
  | .sreadV f => some (putS 0x53 f)
  | .swrite f => some (putS 0x54 f)
  | .shset f => some (putS 0x55 f)
  | .vld f => some (putM 0x60 f)
  | .vst f => some (putM 0x61 f)
  | .vldx f => some (putM 0x62 f)
  | .vstx f => some (putM 0x63 f)
  | .sld f => some (putM 0x64 f)
  | .sst f => some (putM 0x65 f)
  | .vlds f => some (putM 0x66 f)
  | .vsts f => some (putM 0x67 f)
  | .vatom f => some (putM 0x68 f)
  | .vcas f => some (putM 0x69 f)
  | .vatoms f => some (putM 0x6A f)
  | .pref f => some (putM 0x6B f)
  | .shld f => some (putM 0x6C f)
  | .shst f => some (putM 0x6D f)
  | .wdepth f => some (putM 0x70 f)
  | .wpin f => some (putM 0x71 f)
  | .wunpin f => some (putM 0x72 f)
  | .wevict f => some (putM 0x73 f)
  | .wclean f => some (putM 0x74 f)
  | .cflush f => some (putM 0x75 f)
  | .cinv f => some (putM 0x76 f)
  | .waitcnt f => some (putM 0x78 f)
  | .xfence f => some (putM 0x79 f)
  | .mma f => some (putX 0x80 f)
  | .zclr f => some (putX 0x81 f)
  | .zrd f => some (putX 0x82 f)
  | .zwr f => some (putX 0x83 f)
  | .zdrain f => some (putX 0x84 f)
  | .cpy f => some (putX 0x88 f)
  | .cpym f => some (putX 0x89 f)
  | .rrot f => some (putX 0x8A f)
  | .barinit f => some (putX 0x90 f)
  | .bararv f => some (putX 0x91 f)
  | .barwait f => some (putX 0x92 f)
  | .gjoin f => some (putX 0x94 f)
  | .gjoinAny f => some (putX 0x94 f)
  | .gleave f => some (putX 0x95 f)
  | .gbar f => some (putX 0x96 f)
  | .br f => some (putC 0xA0 f)
  | .bcond f => some (putC 0xA1 f)
  | .bany f => some (putC 0xA2 f)
  | .bnone f => some (putC 0xA3 f)
  | .call f => some (putC 0xA4 f)
  | .jmp f => some (putC 0xA5 f)
  | .ret f => some (putC 0xA6 f)
  | .divg f => some (putC 0xA8 f)
  | .delse f => some (putC 0xA9 f)
  | .djoin f => some (putC 0xAA f)
  | .dloop f => some (putC 0xAB f)
  | .dbrk f => some (putC 0xAC f)
  | .exit f => some (putC 0xB0 f)
  | .yield f => some (putC 0xB1 f)
  | .nop f => some (putC 0xB2 f)
  | .trap f => some (putY 0xC0 f)
  | .tret f => some (putY 0xC1 f)
  | .bellarm f => some (putY 0xC2 f)
  | .modewr f => some (putY 0xC3 f)
  | .ctxrd f => some (putY 0xC4 f)
  | .ctxwr f => some (putY 0xC5 f)
  | .evpop f => some (putY 0xC8 f)
  | .evpush f => some (putY 0xC9 f)
  | .evwait f => some (putY 0xCA f)
  | .trel f => some (putY 0xCB f)
  | .reservedOpcode w => some w
  | _ => none

end Sys2Proof
end

