-- ==== Sys2Proof/Machine/Ops.lean ====
section
/-! DEFINITION. The shared operations: access to the tables of the state, registers and their outstanding
results, coherent memory, the ends of teams, and taking and returning from a trap. -/

namespace Sys2Proof.Machine

/-! ## The tables of the state -/

/-- A team by its CTXID (spec/13_preemption.md R285). -/
def State.team (s : State) (ctx : Nat) : Team := Tab.getD s.teams ctx {}
/-- A team written. -/
def State.setTeam (s : State) (ctx : Nat) (t : Team) : State := { s with teams := Tab.put s.teams ctx t }
/-- A compute die. -/
def State.die (s : State) (d : Nat) : Die := Tab.getD s.dies d {}
/-- A die written. -/
def State.setDie (s : State) (d : Nat) (x : Die) : State := { s with dies := Tab.put s.dies d x }
/-- A core. -/
def State.core (s : State) (c : Nat) : Core := Tab.getD s.cores c {}
/-- A core written. -/
def State.setCore (s : State) (c : Nat) (x : Core) : State := { s with cores := Tab.put s.cores c x }
/-- A cluster. -/
def State.cluster (s : State) (c : Nat) : Cluster := Tab.getD s.clusters c {}
/-- A cluster written. -/
def State.setCluster (s : State) (c : Nat) (x : Cluster) : State := { s with clusters := Tab.put s.clusters c x }
/-- A queue. -/
def State.queue (s : State) (q : Nat) : Queue := Tab.getD s.queues q {}
/-- A queue written. -/
def State.setQueue (s : State) (q : Nat) (x : Queue) : State := { s with queues := Tab.put s.queues q x }
/-- A placed block, by its frame. -/
def State.block? (s : State) (f : Nat) : Option Block := Tab.get? s.blocks f
/-- A block written. -/
def State.setBlock (s : State) (f : Nat) (b : Block) : State := { s with blocks := Tab.put s.blocks f b }
/-- A message sent. -/
def State.send (s : State) (m : Msg) : State := { s with msgs := s.msgs ++ [m] }
/-- Something sent to an outside agent. -/
def State.emit (s : State) (o : OutMsg) : State := { s with out := o :: s.out }
/-- Whether the device serves its register and notify BARs: it has started, no warm reset is under way, and it is not in
minimal mode (spec/15_platform.md R334). -/
def State.up (s : State) : Bool := !s.plat.minimal && !s.plat.booting && !s.plat.wiping && !s.plat.warming
/-- A host's command on the register BAR: ignored while the BAR is not served. -/
def State.onBar (s : State) (f : State → State) : State := if s.up then f s else s
/-- A fresh identity. -/
def State.bumpUid (s : State) : State := { s with uid := s.uid + 1 }

/-- The directory entry of a line. -/
def State.dirEnt (s : State) (pl : Nat) : DirEnt := Tab.getD s.dir pl {}
/-- A directory entry written. -/
def State.setDir (s : State) (pl : Nat) (e : DirEnt) : State := { s with dir := Tab.put s.dir pl e }

/-- The frame of a context. -/
def frameOf (ctx : Nat) : Nat := ctx / 32
/-- The team index of a context. -/
def teamIx (ctx : Nat) : Nat := ctx % 32
/-- The block of a context. -/
def State.blockOf? (s : State) (ctx : Nat) : Option Block := s.block? (frameOf ctx)

/-- The cluster column, die * 24 + cluster, of a core or control core (spec/01_device.md R9). -/
def colOf (core : Nat) : Nat := if core < 768 then core / 8 else core - 768
/-- The die of a core or control core. -/
def dieOf (core : Nat) : Nat := colOf core / 24
/-- The core that a context's block is on. -/
def State.coreOf (s : State) (ctx : Nat) : Nat := (s.blockOf? ctx).elim 0 (·.core)
/-- The die that a context's block is on. -/
def State.dieOfCtx (s : State) (ctx : Nat) : Nat := dieOf (s.coreOf ctx)
/-- The column that a context's block is on. -/
def State.colOfCtx (s : State) (ctx : Nat) : Nat := colOf (s.coreOf ctx)
/-- The cycles that a column's clock has made since reset (spec/14_power.md R298, R299). -/
def State.cyclesOf (s : State) (col : Nat) : Nat := s.cycles - (s.cluster col).lag
/-- A context's address space. -/
def State.asidOf (s : State) (ctx : Nat) : Nat := (s.blockOf? ctx).elim 0 (·.asid)
/-- A context's width. -/
def State.widthOf (s : State) (ctx : Nat) : Nat := (s.blockOf? ctx).elim 16 (·.width)

/-- The contexts of a block. -/
def ctxsOf (f : Nat) (b : Block) : List Nat := (List.range b.teams).map fun t => f * 32 + t

/-! ## Registers (spec/03_execution.md R34, R45; spec/04_encoding.md R73, R78) -/

/-- An s-register; s0 reads zero. -/
def Team.sreg (t : Team) (n : Nat) : Word64 := if n = 0 then 0 else Tab.getD t.s n 0
/-- A lane of a v-register. -/
def Team.vreg (t : Team) (r l : Nat) : Word32 := Tab.getD t.v (r * 1024 + l) 0
/-- A k-register; k0 is the execution mask. -/
def Team.kreg (t : Team) (n : Nat) : Mask := if n = 0 then t.exec else Tab.getD t.k n 0
/-- A shape register. -/
def Team.hreg (t : Team) (n : Nat) : Record := Tab.getD t.h n 0
/-- An element of an accumulator tile (R85). -/
def Team.zelem (t : Team) (j i c : Nat) : Word32 := Tab.getD t.z (j * 1024 + i * 32 + c) 0

/-- Row of 32 elements as bits, element 0 lowest. -/
def packRow (es : List Word32) : BitVec 1024 :=
  BitVec.ofNat 1024 (es.foldr (fun e acc => acc * 2 ^ 32 + e.toNat) 0)
/-- Element `c` of a packed row. -/
def rowElem (r : BitVec 1024) (c : Nat) : Word32 := r.extractLsb' (32 * c) 32

/-- The accumulator tile `j` with its elements replaced. -/
def Team.setTile (t : Team) (j : Nat) (es : List Word32) : Team :=
  { t with z := (es.zipIdx).foldl (fun z (e, i) => Tab.put z (j * 1024 + i) e) t.z }

/-- A register result written to its cell.  A write to s0 is discarded (R78), k0 is no result (R73). -/
def Team.writeCell (t : Team) (c : Cell) (val : BitVec 1024) : Team :=
  match c with
  | .v r l => { t with v := Tab.put t.v (r * 1024 + l) (val.setWidth 32) }
  | .s n => if n = 0 then t else { t with s := Tab.put t.s n (val.setWidth 64) }
  | .k n l =>
    if n = 0 then t
    else
      let m := t.kreg n
      { t with k := Tab.put t.k n (if val.getLsbD 0 then m ||| laneMask l else m &&& ~~~ laneMask l) }
  | .h n => { t with h := Tab.put t.h n (val.setWidth 512) }
  | .zrow j i => { t with z := (List.range 32).foldl (fun z c => Tab.put z (j * 1024 + i * 32 + c) (rowElem val c)) t.z }
  | .commit _ _ => t

/-- A register result made outstanding: an earlier result of the same cell is discarded (R45). -/
def Team.post (t : Team) (uid : Nat) (c : Cell) (val : Option (BitVec 1024)) : Team :=
  { t with pend := (t.pend.filter fun r => r.cell != c) ++ [{ uid, cell := c, val }] }

/-- Several results of one instruction made outstanding. -/
def Team.postAll (t : Team) (uid : Nat) (rs : List (Cell × Option (BitVec 1024))) : Team :=
  rs.foldl (fun t r => t.post uid r.1 r.2) t

/-- A parked team with no result outstanding and no fatal fault to take is ready (R43). -/
def Team.settle (t : Team) : Team :=
  if t.sched = .parked ∧ t.pend.isEmpty ∧ t.fatal.isEmpty then { t with sched := .ready } else t

/-- The marker of an instruction passed: the team parks until its results are back (R43, R45). -/
def Team.mark (t : Team) (sw : Bool) : Team :=
  if sw ∧ t.sched = .ready then Team.settle { t with sched := .parked } else t

/-! ## The program counter (spec/04_encoding.md R61, R62) -/

/-- Bits [63:6] of a program counter, as an address. -/
def pcLine (pc : Word64) : Word64 := pc &&& ~~~ 63
/-- The slot of a program counter. -/
def pcSlot (pc : Word64) : Nat := (pc.extractLsb' 0 3).toNat
/-- The slot after a slot, or slot 0 of the next line. -/
def nextPc (pc : Word64) : Word64 := if pcSlot pc < 4 then pc + 1 else pcLine pc + 64
/-- A bad slot (R61). -/
def badSlot (pc : Word64) : Bool := pcSlot pc > 4 || pc.extractLsb' 3 3 != 0
/-- A canonical address: bits [63:57] equal bit 56 (spec/07_translation.md R148). -/
def canonical (a : Word64) : Bool := let h := a.extractLsb' 56 8; h == 0 || h == 255

/-! ## Physical lines and coherent copies (spec/07_translation.md R151, spec/09_coherence.md R191) -/

/-- A physical address that R151 does not reserve: device memory, host memory, or PEER (bit 52). -/
def paValid (pa : Nat) : Bool := pa < 0x18000000000 || (2 ^ 51 ≤ pa && pa < 2 ^ 53)

/-- The die that is home to a physical line: host lines have the host cache agent's die 0 (R207). -/
def homeDie (pl : Nat) : Nat := if pl < 2 ^ 44 then pl * 128 / 0x6000000000 % 4 else 0

/-- Where a peer line lies in the memory of the peers: the accelerator that its window's DEST names, and the offset in that
one's export (spec/15_platform.md R330). -/
def State.peerSpot (s : State) (pl : Nat) : Nat :=
  let a := (pl - 2 ^ 45) * 128
  (Tab.get? s.plat.peertab (a / 2 ^ 42)).elim 0 (·.2) * 2 ^ 42 + a % 2 ^ 42

/-- A physical line as its home's memory holds it. -/
def State.homeRead (s : State) (pl : Nat) : LineData :=
  if pl < 2 ^ 44 then lineOfBytes (s.mem.readN (pl * 128) 128)
  else if pl < 2 ^ 45 then lineOfBytes (s.hostMem.readN ((pl - 2 ^ 44) * 128) 128)
  else lineOfBytes (s.peerMem.readN (s.peerSpot pl) 128)

/-- The bytes of a list that a mask covers, written to a memory. -/
def writeMasked (m : Memory) (a : Nat) (d : LineData) (mask : BitVec 128) : Memory :=
  (List.range 128).foldl (fun m i => if mask.getLsbD i then m.write (a + i) (lineByte d i) else m) m

/-- A physical line's bytes under a mask, taken into its home's memory. -/
def State.homeWrite (s : State) (pl : Nat) (d : LineData) (mask : BitVec 128) : State :=
  if pl < 2 ^ 44 then { s with mem := writeMasked s.mem (pl * 128) d mask }
  else if pl < 2 ^ 45 then { s with hostMem := writeMasked s.hostMem ((pl - 2 ^ 44) * 128) d mask }
  else { s with peerMem := writeMasked s.peerMem (s.peerSpot pl) d mask }

/-- All 128 bytes of a line. -/
def fullMask : BitVec 128 := BitVec.allOnes 128

/-- A die that holds the line dirty answers for it, then what its home has taken of an answer, then a write-back on its way,
then memory (R196, R199, R205). -/
def State.lineNow (s : State) (pl : Nat) : LineData :=
  let dirty := (s.dies.map fun d => d.2.lines).flatten.filter fun e =>
    e.2.line == pl && !e.2.swm && (e.2.st == .m || e.2.st == .o)
  match dirty with
  | e :: _ => e.2.data
  | [] =>
    match (s.dirEnt pl).dirty with
    | some d => d
    | none =>
      match s.msgs.filter fun m => m.line == pl && !m.swm && (m.kind == .ackD || ((m.kind == .wb || m.kind == .wbk) &&
          (s.dirEnt pl).owner == m.agent)) with
      | m :: _ => m.data
      | [] => s.homeRead pl

/-- Every copy of a coherent line changed in one step: memory, dies, L1s, fills, write-backs, messages and what its home has
taken.
The order of the write in the line's coherence order (spec/08_ordering.md R174) is the step's place. -/
def State.mapCopies (s : State) (pl : Nat) (f : LineData → LineData) : State :=
  let s := s.homeWrite pl (f (s.homeRead pl)) fullMask
  let keys := (s.dies.map fun d => (d.2.lines.filter fun e => e.2.line == pl && !e.2.swm).map fun e => (d.1, e.1)).flatten
  { s with
    dies := Tab.mapVal s.dies fun d x =>
      { x with
        lines := Tab.mapVal x.lines fun _ e => if e.line == pl && !e.swm then { e with data := f e.data } else e
        fills := x.fills.map fun e => if keys.contains (d, e.key) then { e with data := e.data.map f } else e
        wbuf := x.wbuf.map fun e => if e.line == pl && e.mask == none then { e with data := f e.data } else e }
    cores := Tab.mapVal s.cores fun c x =>
      { x with l1 := Tab.mapVal x.l1 fun k e => if keys.contains (dieOf c, k) then { e with data := f e.data } else e }
    dir := Tab.mapVal s.dir fun l e => if l == pl then { e with dirty := e.dirty.map f } else e
    msgs := s.msgs.map fun m => if m.line == pl && !m.swm then { m with data := f m.data } else m }

/-- Bytes of coherent memory at a physical address; `fuel` bounds the lines crossed. -/
def State.cohRead (s : State) (fuel pa n : Nat) : List Byte :=
  match fuel with
  | 0 => []
  | k + 1 =>
    if n = 0 then []
    else
      let off := pa % 128
      let m := min n (128 - off)
      toBytes m (lineGet (s.lineNow (pa / 128)) off m) ++ s.cohRead k (pa + m) (n - m)

/-- Bytes written to coherent memory at a physical address. -/
def State.cohWrite (s : State) (fuel pa : Nat) (bs : List Byte) : State :=
  match fuel with
  | 0 => s
  | k + 1 =>
    if bs.isEmpty then s
    else
      let off := pa % 128
      let m := min bs.length (128 - off)
      let s := s.mapCopies (pa / 128) fun d => linePut d off m (ofBytes (bs.take m))
      s.cohWrite k (pa + m) (bs.drop m)

/-- Up to 128 lines read. -/
def State.physRead (s : State) (pa n : Nat) : List Byte := s.cohRead (n / 128 + 2) pa n
/-- A byte string written. -/
def State.physWrite (s : State) (pa : Nat) (bs : List Byte) : State := s.cohWrite (bs.length / 128 + 2) pa bs
/-- One aligned 64-bit word read. -/
def State.physWord (s : State) (pa : Nat) : Nat := ofBytes (s.physRead pa 8)

/-! ## Save frames (spec/13_preemption.md R280, R281) -/

/-- The size of a frame, 4 MiB. -/
def frameSize : Nat := 0x400000
/-- The physical address of a byte of a frame. -/
def State.framePA (s : State) (f off : Nat) : Nat := s.pool.base + f * frameSize + off
/-- Whether a frame can be read and written: it lies in memory. -/
def State.frameOk (s : State) (f : Nat) : Bool := paValid (s.framePA f 0) && paValid (s.framePA f (frameSize - 1))
/-- Where a team's state area begins. -/
def stateArea (t : Nat) : Nat := 0x10000 + 0x4000 * t
/-- Where a team's trap area begins (R275, R283). -/
def trapArea (t : Nat) : Nat := stateArea t + 0x3400
/-- The virtual address of a byte of a frame. -/
def State.frameVA (s : State) (f off : Nat) : Nat := (s.pool.saveva + f * frameSize + off) % 2 ^ 64

/-! ## Ends of teams (spec/03_execution.md R53, spec/12_launch.md R269, spec/13_preemption.md R277, R279) -/

/-- Causes of kind X end a team without a handler (R274). -/
def Cause.kindX (c : Cause) : Bool := c == Cause.lostline || c == Cause.saveflt || c == Cause.hostkill

/-- A launch with one more team counted in FCOUNT. -/
def Launch.count (l : Launch) (c : Cause) (addr : Word64) : Launch :=
  { l with
    fcount := if l.fcount < 2 ^ 32 - 1 then l.fcount + 1 else l.fcount
    fcause := if l.fcount = 0 then c else l.fcause
    faddr := if l.fcount = 0 then addr else l.faddr
    term := l.term || Cause.kindX c }

/-- A launch whose blocks have all ended, or that is refused (spec/12_launch.md R268). -/
def Launch.isOver (l : Launch) : Bool := l.refused != 0 || (l.placed == l.pkt.blocks && l.ended == l.pkt.blocks)

/-- One more block of a launch has ended: with the last one the launch completes (spec/12_launch.md R268, R269). -/
def Launch.blockEnds (l : Launch) (time : Nat) : Launch :=
  let l := { l with ended := l.ended + 1 }
  { l with doneAt := if l.isOver then some time else none }

/-- A change of the launch that a block belongs to. -/
def State.onLaunch (s : State) (b : Block) (f : Launch → Launch) : State :=
  let q := s.queue b.queue
  if b.monitor then s
  else s.setQueue b.queue { q with launches := q.launches.map fun l => if l.seq = b.seq then f l else l }

/-- One more team of the context's launch ended by a cause other than EXIT. -/
def State.countFault (s : State) (ctx : Nat) (c : Cause) (addr : Word64) : State :=
  match s.blockOf? ctx with
  | none => s
  | some b => s.onLaunch b fun l => l.count c addr

/-- An announcement queued at the Drum of a die (R12). -/
def State.announce (s : State) (d : Nat) (a : Ann) : State :=
  let x := s.die d
  s.setDie d { x with anns := x.anns ++ [a] }

/-- The gangs of a membership set, ascending. -/
def gangList (g : BitVec 64) : List Nat := (List.range 64).filter fun i => g.getLsbD i

/-- A team leaves its gangs in ascending number, each by an announcement (R53). -/
def State.leaveGangs (s : State) (ctx : Nat) : State :=
  (gangList (s.team ctx).gangs).foldl (fun s g => s.announce (s.dieOfCtx ctx) (.gleave ctx g)) s

/-- A team that has ended: one of a frozen block keeps in its record what it still has in flight (spec/17_ref_evpop_sxor.md
R377). -/
def Team.gone (t : Team) : Bool := t.sched == .exited || (t.sched == .frozen && t.saved == .exited)

/-- Work of a queue has ended on a die, or for none a cluster has been gated: the pump acts on the fall of current that
follows (spec/14_power.md R302). -/
def State.noteEnd (s : State) (d : Nat) (q : Option Nat) : State :=
  let x := s.die d
  if x.ended.contains q then s else s.setDie d { x with ended := x.ended ++ [q] }

/-- The queue of a block, if it has one. -/
def Block.queue? (b : Block) : Option Nat := if b.monitor then none else some b.queue

/-- The end of a context's work noted at its die. -/
def State.noteEndOf (s : State) (ctx : Nat) : State :=
  match s.blockOf? ctx with
  | none => s
  | some b => s.noteEnd (dieOf b.core) b.queue?

/-- Fatal faults whose delivery would set the flag of a barrier object (R244). -/
def flagging (l : List TrapInfo) : List TrapInfo := l.filter fun i => !i.objs.isEmpty

/-- A team ends: it leaves its gangs and issues nothing more; what it has in flight goes on (R268, R377).
A cause other than NONE is counted in the launch (R269).  Fatal faults that are pending are not delivered, but the flags of
the objects that their work counted on are still to be set (R244). -/
def State.endTeam (s : State) (ctx : Nat) (c : Cause) (addr : Word64) : State :=
  let s := (s.leaveGangs ctx).noteEndOf ctx
  let t := s.team ctx
  let s := s.setTeam ctx
    { t with
      sched := .exited, pend := [], trap := none, fatal := flagging (t.trap.toList ++ t.fatal), endCause := c
      handler := false, fatalRun := false }
  if c = Cause.none then s else s.countFault ctx c addr

/-- Every team of a block that has not ended is ended with a cause of kind X. -/
def State.terminateTeams (s : State) (f : Nat) (c : Cause) : State :=
  match s.block? f with
  | none => s
  | some b => (ctxsOf f b).foldl (fun s ctx =>
      let t := s.team ctx
      if t.gone then s.setTeam ctx { t with sched := .exited } else s.endTeam ctx c 0) s

/-! ## Traps (spec/13_preemption.md R275 to R279) -/

/-- The 64 bytes of a trap record (R275). -/
def trapRecord (i : TrapInfo) (time : Nat) : List Byte :=
  let w0 := place (b2n i.rewait) 25 1 + place (b2n i.lanes.isSome) 24 1 + place i.level.toNat 16 8 + place i.deliv 8 2 +
    i.cause.toNat
  toBytes 8 w0 ++ toBytes 8 i.pc.toNat ++ toBytes 8 i.resume.toNat ++ toBytes 8 (i.word.toNat / 2 ^ 32) ++
    toBytes 8 (i.word.toNat % 2 ^ 32) ++ toBytes 8 i.addr.toNat ++ toBytes 8 (summary (i.lanes.getD 0)) ++ toBytes 8 time

/-- The handler that a trap or bell enters, if the team has one (R276, R279). -/
def State.handlerFor (s : State) (ctx : Nat) (i : TrapInfo) : Option Word64 :=
  match s.blockOf? ctx with
  | none => none
  | some b =>
    let h := if i.deliv = 2 then b.bellAddr else b.handler
    if h = 0 then none else some h

/-- A trap of a team whose instruction at the PC is still to resume its wait keeps that for TRET (R276, R406). -/
def Team.keepWait (t : Team) (i : TrapInfo) : TrapInfo := { i with rewait := i.rewait || (t.rewait && i.resume == t.pc) }

/-- Taking a trap, a fatal fault or a bell once every register result is back: the record and the two mask
images are written, FAULTPC is set, the team enters handler mode with all its lanes, and continues at the
handler, whose entry is checked as a target (R276, R64).  In handler mode, or without a handler, the team
ends with the cause (R277, R279), but a bell disarmed meanwhile is not delivered; a frame that cannot be written terminates the block (R280). -/
def State.deliver (s : State) (ctx : Nat) (i : TrapInfo) : State :=
  let t := s.team ctx
  if t.handler then s.endTeam ctx i.cause i.addr
  else
    match s.handlerFor ctx i with
    | none => if i.deliv = 2 then s.setTeam ctx { t with trap := none, sched := .ready } else s.endTeam ctx i.cause i.addr
    | some h =>
      let f := frameOf ctx
      if !s.frameOk f then s.terminateTeams f Cause.saveflt
      else
        let pa := s.framePA f (trapArea (teamIx ctx))
        let s := s.physWrite pa
          (trapRecord (t.keepWait i) s.time ++ toBytes 128 (i.lanes.getD 0).toNat ++ toBytes 128 t.exec.toNat)
        let t := s.team ctx
        s.setTeam ctx
          { t with
            faultpc := i.pc, handler := true, exec := lanesBelow (s.widthOf ctx), pc := h
            sched := .ready, trap := none, fresh := true, entryTgt := true, fetchRep := false, waitWord := 0, rewait := false
            fatalRun := decide (i.deliv = 1) }

/-- A trap raised on a team: it is delivered once the register results outstanding have returned (R276). -/
def State.raise (s : State) (ctx : Nat) (i : TrapInfo) : State :=
  let t := s.team ctx
  if t.pend.isEmpty then s.deliver ctx i
  else s.setTeam ctx { t with trap := some i, sched := .trapping }

/-- The fatal faults of a team that are pending or whose handler runs (R166). -/
def Team.fatalKept (t : Team) : Nat := t.fatal.length + b2n (t.trap.any fun i => i.deliv == 1) + b2n t.fatalRun

/-- A fatal fault made on a team's access (R166): it is kept while fewer than two are pending or have their handler running,
and one on an exited team is only counted (R377). -/
def State.addFatal (s : State) (ctx : Nat) (i : TrapInfo) : State :=
  let t := s.team ctx
  if t.gone then
    if t.endCause = Cause.none then
      (s.setTeam ctx { t with endCause := i.cause }).countFault ctx i.cause i.addr
    else s
  else if t.fatalKept < 2 then s.setTeam ctx { t with fatal := t.fatal ++ [{ i with deliv := 1 }] }
  else s

/-- Returning from a trap: handler mode is left, the execution mask and RESUME are taken from the trap area
as memory holds them, and RESUME is checked when the team next issues (R278, R64).  The saved image's mask
words beyond the width stay zero (R34).  With REWAIT the wait of the instruction at RESUME is still to be resumed (R406). -/
def State.leaveHandler (s : State) (ctx : Nat) : State :=
  let t := s.team ctx
  let f := frameOf ctx
  if !s.frameOk f then s.terminateTeams f Cause.saveflt
  else
    let pa := s.framePA f (trapArea (teamIx ctx))
    let rewait := bitAt (s.physWord pa) 25
    let resume := BitVec.ofNat 64 (s.physWord (pa + 16))
    let mask := BitVec.ofNat 1024 (ofBytes (s.physRead (pa + 192) 128)) &&& lanesBelow (s.widthOf ctx)
    s.setTeam ctx
      { t with
        handler := false, fatalRun := false, exec := mask, pc := resume, fresh := true, entryTgt := false, sched := .ready, rewait
        suspWait := if rewait then t.suspWait else none, suspWord := if rewait then t.suspWord else 0 }

/-! ## The scratchpad as LS and MX see it (spec/08_ordering.md R171, R188) -/

/-- A window address of a core's scratchpad: the block's base and an offset. -/
def padAddr (b : Block) (off : Nat) : Nat := b.spbase + off

/-- The CP writes of a core become visible to LS and MX. -/
def Core.flush (x : Core) : Core := { x with sp := x.cpbuf.foldl (fun m w => m.write w.1 w.2) x.sp, cpbuf := [] }

/-! ## Which team can issue (R43, R44) -/

/-- Whether a fault holds the team: a request of its list still owes an access (spec/07_translation.md R161). -/
def Team.holding (t : Team) : Bool :=
  t.fhold.any fun uid => t.inflight.any fun e => e.works.any fun i =>
    match i.work with
    | .glob r => r.uid == uid && r.pieces.any fun p => !e.perf.contains (p.lane * 2 + b2n (p.off != 0))
    | _ => false


/-- A block whose teams may issue: placed, not held and not frozen. -/
def Block.issuing (b : Block) (t : Nat) : Bool :=
  b.place == .running || (b.place == .freezing && b.stepping == none) || b.stepping == some t

/-- A team that can issue now. -/
def State.canIssue (s : State) (ctx : Nat) : Bool :=
  match s.blockOf? ctx, Tab.get? s.teams ctx with
  | some b, some t => b.issuing (teamIx ctx) && !(s.cluster (colOf b.core)).waking && decide (t.sched = .ready) && t.pend.all (fun r => !t.resumeHold.contains r.uid) && !t.holding
  | _, _ => false

/-- A handler team: in handler mode, or the debug monitor (R277, R296). -/
def State.isHandler (s : State) (ctx : Nat) : Bool :=
  (s.team ctx).handler || (s.blockOf? ctx).elim false (·.monitor)

/-- A team of a control core. -/
def State.isControl (s : State) (ctx : Nat) : Bool := decide (768 ≤ s.coreOf ctx)

end Sys2Proof.Machine
end

