-- ==== Sys2Proof/Machine/Operands.lean ====
section
/-! DEFINITION. Operand forms: element types, V-format operands, active lanes, and the addresses of the
M format (spec/04_encoding.md R72 to R83, spec/03_execution.md R35 to R37, spec/05_numbers.md R95). -/

namespace Sys2Proof.Machine

/-! ## Element types (R76, R95) -/

/-- Elements in one lane of a type. -/
def tyCount (ty : Nat) : Nat :=
  match ty with
  | 2 | 3 | 7 | 8 => 2
  | 4 | 5 | 9 | 10 => 4
  | _ => 1

/-- Bits of an element of a type. -/
def tyBits (ty : Nat) : Nat :=
  match ty with
  | 2 | 3 | 7 | 8 => 16
  | 4 | 5 | 9 | 10 => 8
  | 11 | 12 => 64
  | _ => 32

/-- A 64-bit type, held in a register pair (R74). -/
def ty64 (ty : Nat) : Bool := ty == 11 || ty == 12
/-- A signed integer type. -/
def tySigned (ty : Nat) : Bool := ty == 0 || ty == 2 || ty == 4 || ty == 11
/-- An integer type. -/
def tyInt (ty : Nat) : Bool := ty < 6 || ty == 11 || ty == 12
/-- f32, f16x2 or bf16x2. -/
def tyF (ty : Nat) : Bool := ty == 6 || ty == 7 || ty == 8

/-- Element `i` of a value of a type. -/
def elemAt (ty x i : Nat) : Nat := bitsAt x (i * tyBits ty) (tyBits ty)

/-- The value whose element `i` is `f i`, its excess bits dropped. -/
def buildElems (ty : Nat) (f : Nat → Nat) : Nat :=
  (List.range (tyCount ty)).foldl (fun acc i => acc + f i % 2 ^ tyBits ty * 2 ^ (i * tyBits ty)) 0

/-- An element read as the type's integer (R98). -/
def elemInt (ty x : Nat) : Int := if tySigned ty then signed (tyBits ty) x else (x : Int)

/-- An exact integer result brought into a type: clamped with SAT, wrapped without (R107). -/
def narrowInt (ty : Nat) (sat : Bool) (x : Int) : Nat :=
  let n := tyBits ty
  let lo : Int := if tySigned ty then -(2 ^ (n - 1) : Nat) else 0
  let hi : Int := if tySigned ty then (2 ^ (n - 1) : Nat) - 1 else (2 ^ n : Nat) - 1
  wrapN n (if sat then max lo (min hi x) else x)

/-! ## V-format operands (R73, R74) -/

/-- The value of a V-format source field for one lane: a v-register (a pair for a 64-bit type), a broadcast
s-register, or IMM32 extended as the type says. -/
def Team.operand (t : Team) (ty fld imm l : Nat) : Nat :=
  if fld < 768 then
    if ty64 ty then (t.vreg fld l).toNat + (t.vreg (fld + 1) l).toNat * 2 ^ 32 else (t.vreg fld l).toNat
  else if fld < 832 then
    if ty64 ty then (t.sreg (fld - 768)).toNat else (t.sreg (fld - 768)).toNat % 2 ^ 32
  else if ty = 11 then wrapN 64 (signed 32 imm)
  else imm

/-- The predicate of an instruction for one lane (R35). -/
def Team.pred (t : Team) (pm : BitVec 4) (pn : Bool) (l : Nat) : Bool := (t.kreg pm.toNat).getLsbD l != pn

/-- The active lanes of an instruction, ascending (R35). -/
def Team.active (t : Team) (w : Nat) (pm : BitVec 4) (pn : Bool) : List Nat :=
  (List.range w).filter fun l => t.exec.getLsbD l && t.pred pm pn l

/-- The results of a lane's value of a type written to v-register `r` (a pair for a 64-bit type). -/
def laneResult (ty r l x : Nat) : List (Cell × Option (BitVec 1024)) :=
  if ty64 ty then
    [(.v r l, some (BitVec.ofNat 1024 (x % 2 ^ 32))), (.v (r + 1) l, some (BitVec.ofNat 1024 (x / 2 ^ 32 % 2 ^ 32)))]
  else [(.v r l, some (BitVec.ofNat 1024 (x % 2 ^ 32)))]

/-! ## M-format addresses (R83) -/

/-- The size of an access in bytes. -/
def szBytes (sz : BitVec 3) : Nat := 2 ^ sz.toNat

/-- The per-lane offset: IDX as a signed 32-bit value shifted, or zero. -/
def Team.idxOff (t : Team) (f : MF) (l : Nat) : Int :=
  if f.idx.toNat = 1023 then 0 else signed 64 (wrapN 64 (signed 32 (t.vreg f.idx.toNat l).toNat * (2 ^ f.shift.toNat : Nat)))

/-- The effective address or window offset of a lane; `elem` is the per-lane term of the entry. -/
def Team.ea (t : Team) (f : MF) (elem l : Nat) : Word64 :=
  BitVec.ofNat 64 (wrapN 64 ((t.sreg f.base.toNat).toNat + t.idxOff f l + signed 32 f.disp.toNat + elem))

/-- The unit-stride term: the lane times the access size without IDX (R419, R432). -/
def unitElem (f : MF) (n l : Nat) : Nat := if f.idx.toNat = 1023 then l * n else 0

/-- An access whose bytes lie in two 4 KiB regions and is not aligned (R149). -/
def crosses4K (a n : Nat) : Bool := decide (a / 4096 ≠ (a + n - 1) / 4096) && decide (a % n ≠ 0)

/-! ## Where addresses stand in the die's tables -/

/-- The 57 address bits under which storage is tagged. -/
def va57 (va : Nat) : Nat := va % 2 ^ 57
/-- The key of a line's (ASID, virtual address) tag. -/
def lineKey (asid va : Nat) : Nat := asid * 2 ^ 50 + va57 va / 128
/-- The key of a tile's tag. -/
def tileKey (asid va : Nat) : Nat := asid * 2 ^ 45 + va57 va / 4096
/-- The tile of a line key. -/
def tileOfLine (k : Nat) : Nat := k / 32
/-- The address space of a line key. -/
def asidOfLine (k : Nat) : Nat := k / 2 ^ 50
/-- The canonical virtual address of a line key. -/
def vaOfLine (k : Nat) : Nat :=
  let a := k % 2 ^ 50 * 128
  if a < 2 ^ 56 then a else a + 127 * 2 ^ 57

end Sys2Proof.Machine
end

