-- ==== Sys2Proof/Machine/Flags.lean ====
section
/-! DEFINITION. Conditions: the machine keeps no flags, so its flag computations are the conditions of
compares and branches and the rounding mode in force (R86, R396, R410, spec/05_numbers.md R77, R100). -/

namespace Sys2Proof.Machine

/-- An integer compare: codes 0 eq, 1 ne, 2 lt, 3 ge, 4 le, 5 gt (R410, R396). -/
def condInt (cc : Nat) (a b : Int) : Bool :=
  match cc with
  | 0 => a == b
  | 1 => a != b
  | 2 => a < b
  | 3 => b ≤ a
  | 4 => a ≤ b
  | _ => b < a

/-- A scalar compare; codes 6 ltu and 7 geu are unsigned (R396). -/
def condScalar (cc : Nat) (a b : Word64) : Bool :=
  match cc with
  | 6 => a.toNat < b.toNat
  | 7 => b.toNat ≤ a.toNat
  | _ => condInt cc a.toInt b.toInt

/-- A floating-point compare; codes 6 ord and 7 uno (R410). -/
def condFloat (cc : Nat) (a b : FV) : Bool :=
  let un := a.isNan || b.isNan
  let o := cmpFV a b
  match cc with
  | 0 => !un && o == .eq
  | 1 => un || o != .eq
  | 2 => !un && o == .lt
  | 3 => !un && o != .lt
  | 4 => !un && o != .gt
  | 5 => !un && o == .gt
  | 6 => !un
  | _ => un

/-- A branch condition on an s-register: 0 z, 1 nz, 2 lt, 3 ge (R86). -/
def condBranch (cc : Nat) (x : Word64) : Bool :=
  match cc with
  | 0 => x == 0
  | 1 => x != 0
  | 2 => x.toInt < 0
  | _ => 0 ≤ x.toInt

/-- MODE's fields (R100). -/
def modeRnd (m : Word64) : Nat := bitsAt m.toNat 0 2
def modeFtz (m : Word64) : Bool := bitAt m.toNat 2
def modeDaz (m : Word64) : Bool := bitAt m.toNat 3
def modeNt (m : Word64) : Nat := bitsAt m.toNat 4 2
/-- A MODE value with a reserved bit or NT = 3 (R100). -/
def badMode (m : Word64) : Bool := decide (m.toNat / 64 ≠ 0) || modeNt m == 3

/-- The rounding mode that an instruction's RND selects, as MODE.RND codes it (R77, R100). -/
def rndOf (mode : Word64) (rnd : BitVec 3) : Nat := if rnd.toNat = 0 then modeRnd mode else rnd.toNat - 1

/-- The format of TY 6, 7, 8, 9 or 10. -/
def fmtOf (ty : Nat) : Fmt :=
  match ty with
  | 7 => fF16
  | 8 => fBF16
  | 9 => fE4M3
  | 10 => fE5M2
  | _ => fF32

end Sys2Proof.Machine
end

