-- ==== Sys2Proof/Machine/Check.lean ====
section
/-! DEFINITION. The decode checks of one word in the order of spec/04_encoding.md R92: a reserved opcode, the
role, reserved fields and codes, register fields, types and sizes, and the accumulator index. -/

namespace Sys2Proof.Machine

/-- What the checks need of the issuing team. -/
structure Limits where
  vregs : Nat
  acc : Nat
  width : Nat
  control : Bool
  handler : Bool
  deriving DecidableEq, Repr

/-- Which of the checks of R92 step 2 fail. -/
structure Flaws where
  ill : Bool := false
  ctl : Bool := false
  priv : Bool := false
  rsv : Bool := false
  reg : Bool := false
  typ : Bool := false
  acc : Bool := false
  deriving DecidableEq, Repr

/-- The first check that fails raises its trap (R92). -/
def Flaws.cause (x : Flaws) : Option Cause :=
  if x.ill then some Cause.illop
  else if x.ctl then some Cause.badctl
  else if x.priv then some Cause.privop
  else if x.rsv then some Cause.rsvfld
  else if x.reg then some Cause.badreg
  else if x.typ then some Cause.badtype
  else if x.acc then some Cause.badacc
  else none

/-- A value that must be zero is not. -/
def nz {n : Nat} (x : BitVec n) : Bool := x != 0

/-! ## V format (R70 to R77, R382, R407, R425) -/

/-- A v-register, or an even pair, below the declared count. -/
def badV (lim : Limits) (pair : Bool) (r : Nat) : Bool :=
  decide (768 ≤ r) || decide (lim.vregs ≤ r) || (pair && (r % 2 == 1 || decide (lim.vregs ≤ r + 1)))
/-- A source: a v-register, a broadcast s-register, or 1023 where the field takes an immediate (R73). -/
def badSrc (lim : Limits) (pair imm : Bool) (r : Nat) : Bool :=
  if r < 768 then badV lim pair r else if r < 832 then false else !(imm && r == 1023)
/-- A field that must name an s-register. -/
def badS (r : Nat) : Bool := r < 768 || 832 ≤ r
/-- A field that must name a k-register; a destination may not be k0. -/
def badK (dst : Bool) (r : Nat) : Bool := 16 ≤ r || (dst && r == 0)

/-- What the common fields of the V format break, given what the entry accepts. -/
def rsvV (f : VF) (rnd sat freeImm : Bool) : Bool :=
  nz f.res || (f.pn && f.pm == 0) || decide (4 < f.rnd.toNat) || (!rnd && nz f.rnd) || (!sat && f.sat) ||
    (!freeImm && f.vb.toNat != 1023 && nz f.imm)

/-- Integer types of the moulds. -/
def tysI : List Nat := [0, 1, 2, 3, 4, 5, 11, 12]
/-- Floating-point types of the moulds. -/
def tysF : List Nat := [6, 7, 8]

/-- The mould `op.T vD, vA[, b][, vC]`. -/
def chkV (lim : Limits) (f : VF) (tys : List Nat) (useB useC rnd sat : Bool) : Flaws :=
  let p := ty64 f.ty.toNat
  { rsv := rsvV f rnd sat false || (!useB && nz f.vb) || (!useC && nz f.vc)
    reg := badV lim p f.vd.toNat || badSrc lim p false f.va.toNat || (useB && badSrc lim p true f.vb.toNat) ||
      (useC && badSrc lim p false f.vc.toNat)
    typ := !tys.contains f.ty.toNat }

/-- VCMP and VFCMP (R410). -/
def chkCmp (lim : Limits) (f : VF) (tys : List Nat) (top : Nat) : Flaws :=
  let p := ty64 f.ty.toNat
  { rsv := rsvV f false false false || decide (top < f.vc.toNat)
    reg := badK true f.vd.toNat || badSrc lim p false f.va.toNat || badSrc lim p true f.vb.toNat
    typ := !tys.contains f.ty.toNat }

/-- VMOV (R417). -/
def chkMov (lim : Limits) (f : VF) : Flaws :=
  let p := ty64 f.ty.toNat
  let isImm := f.vb.toNat == 1023
  { rsv := rsvV f false false false || nz f.vc || (isImm && nz f.va) || (!isImm && nz f.vb)
    reg := badV lim p f.vd.toNat || badSrc lim p false f.va.toNat
    typ := decide (12 < f.ty.toNat) }

/-- The source type and part of a VCVT (R411). -/
def cvtSrc (f : VF) : Nat := bitsAt f.vc.toNat 0 4
def cvtPart (f : VF) : Nat := bitsAt f.vc.toNat 4 3

/-- VCVT (R411). -/
def chkCvt (lim : Limits) (f : VF) : Flaws :=
  let d := f.ty.toNat
  let s := cvtSrc f
  let ok := d < 13 && s < 13
  let hi := max (tyCount d) (tyCount s)
  let lo := min (tyCount d) (tyCount s)
  { rsv := rsvV f true true false || nz f.vb || decide (128 ≤ f.vc.toNat) || (ok && decide (hi / lo ≤ cvtPart f)) ||
      (ok && tyInt d && tyInt s && nz f.rnd)
    reg := badV lim (ty64 d) f.vd.toNat || badSrc lim (ty64 s) false f.va.toNat
    typ := !ok || d == s }

/-- A lane index of VEXTR or VINS: immediate below the width, or an s-register (R413). -/
def chkLane (lim : Limits) (f : VF) (dstS : Bool) : Flaws :=
  let p := ty64 f.ty.toNat
  let isImm := f.vb.toNat == 1023
  { rsv := rsvV f false false false || nz f.vc || nz f.pm || f.pn || (isImm && decide (lim.width ≤ f.imm.toNat))
    reg := (if dstS then badS f.vd.toNat || badV lim p f.va.toNat else badS f.va.toNat || badV lim p f.vd.toNat) ||
      (!isImm && badS f.vb.toNat)
    typ := ! [0, 11].contains f.ty.toNat }

/-- VSEL (R427). -/
def chkSel (lim : Limits) (f : VF) : Flaws :=
  let p := ty64 f.ty.toNat
  { rsv := rsvV f false false false
    reg := badV lim p f.vd.toNat || badSrc lim p false f.va.toNat || badSrc lim p true f.vb.toNat || badK false f.vc.toNat
    typ := ! [0, 11].contains f.ty.toNat }

/-- VSHFL and VROT (R425, R429): the count is one 32-bit operand. -/
def chkShfl (lim : Limits) (f : VF) (rot : Bool) : Flaws :=
  let p := ty64 f.ty.toNat
  { rsv := rsvV f false false false || decide ((if rot then 0 else 3) < f.vc.toNat)
    reg := badV lim p f.vd.toNat || badSrc lim p false f.va.toNat || badSrc lim false true f.vb.toNat ||
      (rot && decide (f.vb.toNat < 768))
    typ := ! [0, 11].contains f.ty.toNat }

/-- The types of a reduction code of VMATCH and VSCAN. -/
def redTys (op : Nat) : List Nat := if op < 3 then [0, 1, 6, 11, 12] else if op < 6 then [0, 1, 11, 12] else [0]

/-- VMATCH (R416): the key is one 32-bit operand; `.cnt` and `.first` take no VB. -/
def chkMatch (lim : Limits) (f : VF) : Flaws :=
  let op := f.vc.toNat
  let p := ty64 f.ty.toNat
  { rsv := rsvV f (op == 0 && f.ty == 6) false false || decide (7 < op) || (decide (6 ≤ op) && nz f.vb)
    reg := badV lim p f.vd.toNat || badSrc lim false false f.va.toNat || (decide (op < 6) && badSrc lim p true f.vb.toNat)
    typ := !(redTys op).contains f.ty.toNat }

/-- VSCAN (R430). -/
def chkScan (lim : Limits) (f : VF) : Flaws :=
  let op := bitsAt f.vc.toNat 0 3
  let p := ty64 f.ty.toNat
  { rsv := rsvV f (op == 0 && f.ty == 6) false false || nz f.vb || decide (15 < f.vc.toNat) || decide (5 < op)
    reg := badV lim p f.vd.toNat || badSrc lim p false f.va.toNat
    typ := !(redTys op).contains f.ty.toNat }

/-- The mask instructions (R382): kinds of VD, VA and VB are 0 k, 1 s, 2 unused, 3 an immediate or s index, 4 only an immediate. -/
def chkK (f : VF) (kd ka kb : Nat) (immTop : Nat) : Flaws :=
  let bad := fun (kind : Nat) (dst : Bool) (r : Nat) =>
    match kind with
    | 0 => badK dst r
    | 1 => badS r
    | 3 => r != 1023 && badS r
    | 4 => r != 1023
    | _ => false
  { rsv := rsvV f false false false || nz f.vc || (ka == 2 && nz f.va) || (kb == 2 && nz f.vb) ||
      (f.vb.toNat == 1023 && decide (immTop < f.imm.toNat))
    reg := bad kd true f.vd.toNat || bad ka false f.va.toNat || bad kb false f.vb.toNat
    typ := nz f.ty }

/-! ## S format (R78, R79, R391, R394, R398) -/

/-- A scalar form: which of SA and SB it uses, and which bits of IMM64. -/
def chkS (f : SF) (useD useA useB : Bool) (immMask : BitVec 64) : Flaws :=
  { rsv := nz f.pm || f.pn || (!useD && nz f.sd) || (!useA && nz f.sa) || (!useB && nz f.sb) || nz (f.imm &&& ~~~ immMask) }

/-- SREAD into an s-register, or into a v-register (R398). -/
def chkSread (lim : Limits) (f : SF) : Flaws :=
  let v := f.imm.getLsbD 12
  { rsv := nz f.pm || f.pn || nz f.sa || nz f.sb || nz (f.imm.extractLsb' 23 41) ||
      (if v then nz f.sd else nz (f.imm.extractLsb' 13 10))
    reg := v && badV lim false (f.imm.extractLsb' 13 10).toNat }

/-- SHSET (R391). -/
def chkShset (f : SF) : Flaws :=
  { rsv := nz f.pm || f.pn || decide (12 < f.sb.toNat), reg := decide (31 < f.sd.toNat) }

/-! ## M format (R70, R80 to R82) -/

/-- What an M-format entry accepts.  `data` is 0 unused, 1 v, 2 s, 3 h, 4 the pair of VCAS; `idx` is 0 team-uniform,
1 none, 2 required, 3 either. -/
structure MSpec where
  data : Nat
  idx : Nat
  szs : List Nat
  sx : List Nat := []
  ords : List Nat := [0]
  scope : Bool := false
  well : Bool := false
  aop : Bool := false
  freeDisp : Bool := true
  deriving DecidableEq, Repr

/-- A v datum of a size: one register, an even pair, or four at a multiple of 4; VCAS takes twice as many (R81, R420). -/
def badData (lim : Limits) (sz : Nat) (cas : Bool) (r : Nat) : Bool :=
  let n := if sz = 3 then 2 else if sz = 4 then 4 else 1
  decide (768 ≤ r) || r % n != 0 || decide (lim.vregs < r + n * (if cas && (sz == 2 || sz == 3) then 2 else 1))

/-- The checks of an M-format word.  A VCAS whose AOP is 1 to 11 has a field that must be zero: RSVFLD (DESIGN CHOICE, log entry
98). -/
def chkM (lim : Limits) (f : MF) (m : MSpec) : Flaws :=
  let none := f.idx.toNat == 1023
  let uniform := m.idx == 0 || (m.data == 0 && m.idx == 3 && none)
  { rsv := nz f.res || decide (4 < f.sz.toNat) || decide (4 < f.scope.toNat) || decide (1 < f.well.toNat) ||
      decide (11 < f.aop.toNat) || (none && nz f.shift) || (f.pn && f.pm == 0) || (uniform && (nz f.pm || f.pn)) ||
      (decide (m.idx ≤ 1) && !none) || (m.idx == 2 && none) || (f.sx && !m.sx.contains f.sz.toNat) ||
      !m.ords.contains f.ord.toNat || (!m.scope && nz f.scope) || (!m.well && nz f.well) || (!m.aop && nz f.aop) ||
      (m.data == 0 && nz f.data) || (decide (m.idx ≤ 1) && nz f.shift)
    reg := (!none && decide (2 ≤ m.idx) && badV lim false f.idx.toNat) ||
      (match m.data with
        | 1 => badData lim f.sz.toNat false f.data.toNat
        | 2 => decide (64 ≤ f.data.toNat)
        | 3 => decide (32 ≤ f.data.toNat)
        | 4 => badData lim f.sz.toNat true f.data.toNat
        | _ => false)
    typ := !m.szs.contains f.sz.toNat || (m.aop && decide (9 ≤ f.aop.toNat) && f.sz == 3) }

def mVld : MSpec := { data := 1, idx := 1, szs := [0, 1, 2, 3, 4], sx := [0, 1], ords := [0, 1], scope := true, well := true }
def mVldx : MSpec := { mVld with idx := 2 }
def mVlds : MSpec := { mVld with idx := 3, well := false }
def mVst : MSpec := { data := 1, idx := 1, szs := [0, 1, 2, 3, 4], ords := [0, 2], scope := true, well := true }
def mVstx : MSpec := { mVst with idx := 2 }
def mVsts : MSpec := { mVst with idx := 3, well := false }
def mSld : MSpec := { data := 2, idx := 0, szs := [0, 1, 2, 3], sx := [0, 1, 2], ords := [0, 1], scope := true, well := true }
def mSst : MSpec := { data := 2, idx := 0, szs := [0, 1, 2, 3], ords := [0, 2], scope := true, well := true }
def mVatom : MSpec := { data := 1, idx := 3, szs := [2, 3], ords := [0, 1, 2, 3], scope := true, well := true, aop := true }
def mVcas : MSpec := { mVatom with data := 4, aop := false }
def mVatoms : MSpec := { mVatom with well := false }
def mPref : MSpec := { data := 0, idx := 3, szs := [0, 1, 2, 3, 4] }
def mShld : MSpec := { data := 3, idx := 0, szs := [0], ords := [0, 1], scope := true, well := true }
def mShst : MSpec := { mShld with ords := [0, 2] }
def mWell (d : Nat) : MSpec := { data := d, idx := 0, szs := [0] }

/-- WAITCNT's DISP (R433): a count under its ANY bit, or a reserved bit.  A size other than 0 is one that the entry does not
accept (R93; log entry 64). -/
def chkWait (lim : Limits) (f : MF) : Flaws :=
  let d := f.disp.toNat
  let base := chkM lim f (mWell 0)
  { base with
    rsv := base.rsv || nz f.base || decide (bitsAt d 27 5 ≠ 0) || (bitAt d 26 && decide (bitsAt d 16 8 ≠ 0)) ||
      (bitAt d 25 && decide (bitsAt d 8 8 ≠ 0)) || (bitAt d 24 && decide (bitsAt d 0 8 ≠ 0)) }

/-- XFENCE's sets and fields (R437). -/
def chkFence (lim : Limits) (f : MF) : Flaws :=
  let d := f.disp.toNat
  let base := chkM lim f { mWell 0 with scope := true }
  { base with
    rsv := base.rsv || nz f.base || decide (256 ≤ d) || decide (bitsAt d 0 4 = 0) || decide (bitsAt d 4 4 = 0) }

/-! ## X format (R84, R224, R344, R378, R439) -/

/-- Which X fields an entry uses; `sub` are the sub-field bits it defines. -/
structure XSpec where
  ha : Bool := false
  hb : Bool := false
  hc : Bool := false
  zd : Bool := false
  opts : Bool := false
  bar : Bool := false
  s1 : Bool := false
  sub : BitVec 48 := 0
  deriving DecidableEq, Repr

def chkX (lim : Limits) (f : XF) (m : XSpec) : Flaws :=
  { rsv := nz f.pm || f.pn || (!m.ha && nz f.ha) || (!m.hb && nz f.hb) || (!m.hc && nz f.hc) || (!m.zd && nz f.zd) ||
      (!m.opts && (f.nega || f.negb || f.acd)) || (!m.bar && nz f.bar) || (!m.s1 && nz f.s1) || nz (f.sub &&& ~~~ m.sub)
    acc := m.zd && decide (lim.acc ≤ f.zd.toNat) }

/-- The sub-fields of R224. -/
def xRed (f : XF) : Nat := (f.sub.extractLsb' 40 3).toNat
def xBe (f : XF) : Bool := f.sub.getLsbD 39
def xEvt (f : XF) : Bool := f.sub.getLsbD 38
def xHd (f : XF) : Nat := (f.sub.extractLsb' 43 5).toNat
def xSat (f : XF) : Bool := f.sub.getLsbD 0

/-- An engine instruction: RED at most `top`, and BAR zero without BE (R224).  ZDRAIN makes these checks after that of its tile,
as R441 writes them (log entry 66). -/
def chkEngine (lim : Limits) (f : XF) (m : XSpec) (top : Nat) : Flaws :=
  let base := chkX lim f m
  { base with rsv := base.rsv || decide (top < xRed f) || (!xBe f && nz f.bar) }

def xMma : XSpec := { ha := true, hb := true, zd := true, opts := true, sub := 1 }
def xDrain : XSpec := { ha := true, zd := true, bar := true, sub := 0x07C000000001 }
def xCpy : XSpec := { ha := true, hb := true, bar := true, s1 := true, sub := 0x07C000000000 }
def xCpym : XSpec := { ha := true, hb := true, hc := true, zd := true, opts := true, bar := true, s1 := true, sub := 0xFFC000000001 }
def xRrot : XSpec := { ha := true, hb := true, bar := true, s1 := true, sub := 0x008000000001 }

/-- Registers that a row of 32 elements takes: P lanes of each (R439). -/
def rowLanes (width : Nat) : Nat := min 32 width
def rowRegs (n width : Nat) : Nat := (n + (rowLanes width - 1)) / rowLanes width

/-- ZRD's and ZWR's sub-fields (R439). -/
def zVr (f : XF) : Nat := (f.sub.extractLsb' 38 10).toNat
def zRow (f : XF) : Nat := (f.sub.extractLsb' 33 5).toNat
def zSel (f : XF) : Bool := f.sub.getLsbD 32

/-- ZRD and ZWR (R439). -/
def chkZmove (lim : Limits) (f : XF) : Flaws :=
  let base := chkX lim f { zd := true, s1 := true, sub := 0xFFFF00000000 }
  { base with
    rsv := base.rsv || (zSel f && decide (zRow f ≠ 0)) || (!zSel f && nz f.s1)
    reg := decide (768 ≤ zVr f) || decide (lim.vregs < zVr f + rowRegs 32 lim.width) }

/-! ## C and Y formats (R86, R88) -/

/-- A C-format word: which fields the entry uses, and the greatest CC. -/
def chkC (f : CF) (useA useK useT : Bool) (ccTop : Nat) : Flaws :=
  { rsv := nz f.pm || f.pn || nz f.res || (!useA && nz f.sa) || (!useK && nz f.ksel) || decide (ccTop < f.cc.toNat) ||
      (!useT && (nz f.slot || nz f.disp)) }

/-- YIELD (R438). -/
def chkYield (f : CF) : Flaws :=
  { rsv := nz f.pm || f.pn || nz f.res || nz f.sa || nz f.ksel || nz f.cc || nz f.slot || decide (768 < f.disp.toNat) }

/-- A Y-format word: which registers, the greatest CODE, and the sub-field bits it defines. -/
def chkY (f : YF) (useA useB : Bool) (codeTop : Nat) (sub : BitVec 63) : Flaws :=
  { rsv := nz f.pm || f.pn || (!useA && nz f.sa) || (!useB && nz f.sb) || decide (codeTop < f.code.toNat) ||
      nz (f.sub &&& ~~~ sub) }

/-- The first data register of CTXRD and CTXWR (R363). -/
def yVr (f : YF) : Nat := (f.sub.extractLsb' 53 10).toNat

/-- CTXRD and CTXWR (R363, R90). -/
def chkCtx (lim : Limits) (f : YF) : Flaws :=
  let base := chkY f true true 0 (0x3FF <<< 53)
  { base with priv := !lim.handler, reg := decide (768 ≤ yVr f) || decide (lim.vregs ≤ yVr f) }

/-! ## The table -/

/-- What a word's decode checks find; a step of the device has none. -/
def flaws (lim : Limits) : Instr → Flaws
  | .vadd f => chkV lim f tysI true false false true
  | .vsub f => chkV lim f tysI true false false true
  | .vmul f => chkV lim f tysI true false false true
  | .vmulh f => chkV lim f tysI true false false false
  | .vmad f => chkV lim f tysI true true false true
  | .vmin f => chkV lim f tysI true false false false
  | .vmax f => chkV lim f tysI true false false false
  | .vand f => chkV lim f [0] true false false false
  | .vor f => chkV lim f [0] true false false false
  | .vxor f => chkV lim f [0] true false false false
  | .vshl f => chkV lim f tysI true false false false
  | .vshr f => chkV lim f tysI true false false false
  | .vsra f => chkV lim f tysI true false false false
  | .vcmp f => chkCmp lim f [0, 1, 11, 12] 5
  | .vsel f => chkSel lim f
  | .vmov f => chkMov lim f
  | .vcvt f => chkCvt lim f
  | .vpopc f => chkV lim f tysI false false false false
  | .vclz f => chkV lim f tysI false false false false
  | .vextr f => chkLane lim f true
  | .vins f => chkLane lim f false
  | .vfadd f => chkV lim f tysF true false true true
  | .vfsub f => chkV lim f tysF true false true true
  | .vfmul f => chkV lim f tysF true false true true
  | .vfma f => chkV lim f tysF true true true true
  | .vfmin f => chkV lim f tysF true false false false
  | .vfmax f => chkV lim f tysF true false false false
  | .vfcmp f => chkCmp lim f [6] 7
  | .vfclass f => chkV lim f tysF false false false false
  | .vfrnd f => chkV lim f tysF false false true false
  | .vrcp f => chkV lim f tysF false false false false
  | .vrsq f => chkV lim f tysF false false false false
  | .vexp2 f => chkV lim f tysF false false false false
  | .vlog2 f => chkV lim f tysF false false false false
  | .vtanh f => chkV lim f tysF false false false false
  | .vshfl f => chkShfl lim f false
  | .vrot f => chkShfl lim f true
  | .vmatch f => chkMatch lim f
  | .vscan f => chkScan lim f
  | .kand f => chkK f 0 0 0 0
  | .kor f => chkK f 0 0 0 0
  | .kxor f => chkK f 0 0 0 0
  | .kandn f => chkK f 0 0 0 0
  | .kset f => chkK f 0 2 4 1
  | .kpopc f => chkK f 1 0 2 0
  | .kfirst f => chkK f 1 0 2 0
  | .kget f => chkK f 1 0 3 31
  | .kput f => chkK f 0 1 3 31
  | .sadd f => chkS f true true true 0
  | .saddi f => chkS f true true false (BitVec.allOnes 64)
  | .ssub f => chkS f true true true 0
  | .smul f => chkS f true true true 0
  | .smulh f => chkS f true true true 0
  | .sdiv f => chkS f true true true 1
  | .srem f => chkS f true true true 1
  | .sand f => chkS f true true true 0
  | .sor f => chkS f true true true 0
  | .sxor f => chkS f true true true 0
  | .sshl f => chkS f true true true 0
  | .sshr f => chkS f true true true 0
  | .ssra f => chkS f true true true 0
  | .smin f => chkS f true true true 0
  | .smax f => chkS f true true true 0
  | .scmp f => chkS f true true true 7
  | .ssel f => chkS f true true true 0
  | .smov f => chkS f true true false 0
  | .smovi f => chkS f true false false (BitVec.allOnes 64)
  | .sread f => chkSread lim f
  | .sreadV f => chkSread lim f
  | .swrite f => chkS f false true false 0xFFF
  | .shset f => chkShset f
  | .vld f => chkM lim f mVld
  | .vst f => chkM lim f mVst
  | .vldx f => chkM lim f mVldx
  | .vstx f => chkM lim f mVstx
  | .sld f => chkM lim f mSld
  | .sst f => chkM lim f mSst
  | .vlds f => chkM lim f mVlds
  | .vsts f => chkM lim f mVsts
  | .vatom f => chkM lim f mVatom
  | .vcas f => chkM lim f mVcas
  | .vatoms f => chkM lim f mVatoms
  | .pref f => chkM lim f mPref
  | .shld f => chkM lim f mShld
  | .shst f => chkM lim f mShst
  | .wdepth f => chkM lim f (mWell 2)
  | .wpin f => chkM lim f (mWell 2)
  | .wunpin f => chkM lim f (mWell 0)
  | .wevict f => chkM lim f (mWell 0)
  | .wclean f => chkM lim f (mWell 0)
  | .cflush f => chkM lim f (mWell 0)
  | .cinv f => chkM lim f (mWell 0)
  | .waitcnt f => chkWait lim f
  | .xfence f => chkFence lim f
  | .mma f => { chkX lim f xMma with ctl := lim.control }
  | .zclr f => chkX lim f { zd := true }
  | .zrd f => chkZmove lim f
  | .zwr f => chkZmove lim f
  | .zdrain f => { chkX lim f xDrain with ctl := lim.control }
  | .cpy f => chkEngine lim f xCpy 3
  | .cpym f => { chkEngine lim f xCpym 0 with ctl := lim.control }
  | .rrot f => chkEngine lim f xRrot 0
  | .barinit f => chkX lim f { bar := true, s1 := true, sub := 0xFC0000000000 }
  | .bararv f => chkX lim f { bar := true }
  | .barwait f => chkX lim f { bar := true, s1 := true }
  | .gjoin f => chkX lim f { s1 := true, sub := 1 }
  | .gjoinAny f => chkX lim f { s1 := true, sub := 1 }
  | .gleave f => chkX lim f { s1 := true }
  | .gbar f => chkX lim f { s1 := true }
  | .br f => chkC f false false true 0
  | .bcond f => chkC f true false true 3
  | .bany f => chkC f false true true 0
  | .bnone f => chkC f false true true 0
  | .call f => chkC f true false true 0
  | .jmp f => chkC f true false false 0
  | .ret f => chkC f true false false 0
  | .divg f => chkC f false true false 0
  | .delse f => chkC f false false false 0
  | .djoin f => chkC f false false false 0
  | .dloop f => chkC f false false false 0
  | .dbrk f => chkC f false true false 0
  | .exit f => chkC f false false false 0
  | .yield f => chkYield f
  | .nop f => chkC f false false false 0
  | .trap f => chkY f false false 15 0
  | .tret f => chkY f false false 0 0
  | .bellarm f => chkY f true false 0 0
  | .modewr f => chkY f true false 0 0
  | .ctxrd f => chkCtx lim f
  | .ctxwr f => chkCtx lim f
  | .evpop f => { chkY f true true 0 0 with ctl := !lim.control }
  | .evpush f => chkY f true false 127 0
  | .evwait f => { chkY f false false 0 0 with ctl := !lim.control }
  | .trel f => { chkY f true false 0 0 with ctl := !lim.control }
  | .reservedOpcode _ => { ill := true }
  | _ => {}

/-- The switch marker of a word. -/
def swOf (i : Instr) : Bool := (encode i).elim false fun w => w.getLsbD 87

/-- What the checks need of a context (R40, R252, R277). -/
def State.limits (s : State) (ctx : Nat) : Limits :=
  match s.blockOf? ctx with
  | none => { vregs := 0, acc := 0, width := 16, control := false, handler := false }
  | some b => { vregs := b.vregs, acc := b.acc, width := b.width, control := s.isControl ctx, handler := s.isHandler ctx }

/-- The trap of a word's decode checks, if any (R92 step 2). -/
def State.decodeTrap (s : State) (ctx : Nat) (i : Instr) : Option Cause := (flaws (s.limits ctx) i).cause

/-! ## Pairs (R67) -/

/-- The registers a word reads (as VA, VB, VC fields below 1023) and those it writes, for the pairing rules:
v-registers r, s-registers 768 + n, k-registers 2000 + n. -/
structure PairRegs where
  vreads : List Nat := []
  reads : List Nat := []
  writes : List Nat := []
  pm : BitVec 4 := 0
  pn : Bool := false
  deriving DecidableEq, Repr

/-- A register field's registers: a pair for a 64-bit operand. -/
def fieldRegs (pair : Bool) (r : Nat) : List Nat :=
  if r < 768 then (if pair then [r, r + 1] else [r]) else if r < 832 then [r] else []

/-- The registers of a pair member; none when the word may not be a pair member (R67 rule 1).  The VD that a narrowing VCVT reads
is among the registers whose banks rule 3 counts (DESIGN CHOICE, log entry 99). -/
def pairRegs (i : Instr) : Option PairRegs :=
  let mk := fun (f : VF) (a b c d : List Nat) =>
    let rs := a ++ b ++ c
    some { vreads := rs.filter (· < 768), reads := rs ++ [2000 + f.pm.toNat], writes := d, pm := f.pm, pn := f.pn : PairRegs }
  let std := fun (f : VF) (useB useC : Bool) =>
    let p := ty64 f.ty.toNat
    mk f (fieldRegs p f.va.toNat) (if useB then fieldRegs p f.vb.toNat else []) (if useC then fieldRegs p f.vc.toNat else [])
      (fieldRegs p f.vd.toNat)
  match i with
  | .vadd f | .vsub f | .vmul f | .vmulh f | .vmin f | .vmax f | .vand f | .vor f | .vxor f | .vshl f | .vshr f | .vsra f
  | .vfadd f | .vfsub f | .vfmul f | .vfmin f | .vfmax f => std f true false
  | .vmad f | .vfma f => std f true true
  | .vpopc f | .vclz f | .vfclass f | .vfrnd f | .vscan f => std f false false
  | .vcmp f | .vfcmp f =>
    let p := ty64 f.ty.toNat
    mk f (fieldRegs p f.va.toNat) (fieldRegs p f.vb.toNat) [] [2000 + f.vd.toNat]
  | .vsel f =>
    let p := ty64 f.ty.toNat
    mk f (fieldRegs p f.va.toNat) (fieldRegs p f.vb.toNat) [2000 + f.vc.toNat] (fieldRegs p f.vd.toNat)
  | .vmov f => if f.vb.toNat = 1023 then mk f [] [] [] (fieldRegs (ty64 f.ty.toNat) f.vd.toNat) else std f false false
  | .vcvt f =>
    let d := fieldRegs (ty64 f.ty.toNat) f.vd.toNat
    mk f (fieldRegs (ty64 (cvtSrc f)) f.va.toNat) []
      (if tyCount (cvtSrc f) < tyCount f.ty.toNat then d else []) d
  | .vextr f | .vins f =>
    let p := ty64 f.ty.toNat
    mk f (fieldRegs p f.va.toNat) (fieldRegs false f.vb.toNat) [] (fieldRegs p f.vd.toNat)
  | .vshfl f | .vrot f =>
    let p := ty64 f.ty.toNat
    mk f (fieldRegs p f.va.toNat) (fieldRegs false f.vb.toNat) [] (fieldRegs p f.vd.toNat)
  | .vmatch f =>
    let p := ty64 f.ty.toNat
    mk f (fieldRegs false f.va.toNat) (if f.vc.toNat < 6 then fieldRegs p f.vb.toNat else []) [] (fieldRegs p f.vd.toNat)
  | _ => none

/-- Whether two words may issue as a pair (R67). -/
def pairOk (i j : Instr) : Bool :=
  match pairRegs i, pairRegs j with
  | some a, some b =>
    let vs := distinct (a.vreads ++ b.vreads)
    a.pm == b.pm && a.pn == b.pn && a.writes.all (fun r => !(b.reads ++ b.writes).contains r) &&
      b.writes.all (fun r => !(a.reads ++ a.writes).contains r) &&
      (List.range 4).all fun k => decide ((vs.filter fun r => r % 4 == k).length ≤ 2)
  | _, _ => false

end Sys2Proof.Machine
end

