-- ==== Sys2Proof/Machine/Record.lean ====
section
/-! DEFINITION. Shape records as words: the fields, and the sizes of formats (spec/10_matrix.md R216, R217, R225). -/

namespace Sys2Proof.Machine

namespace Shape
def base (r : Record) : Nat := bitsAt r.toNat 0 64
def fmt (r : Record) : Nat := bitsAt r.toNat 64 4
def space (r : Record) : Nat := bitsAt r.toNat 68 2
def cores (r : Record) : Nat := bitsAt r.toNat 70 8
def rows (r : Record) : Nat := bitsAt r.toNat 80 20
def cols (r : Record) : Nat := bitsAt r.toNat 100 20
def rowStride (r : Record) : Int := signed 40 (bitsAt r.toNat 128 40)
def elStride (r : Record) : Nat := bitsAt r.toNat 168 16
def row0 (r : Record) : Int := signed 32 (bitsAt r.toNat 192 32)
def col0 (r : Record) : Int := signed 32 (bitsAt r.toNat 224 32)
def scaleBase (r : Record) : Nat := bitsAt r.toNat 256 64
def scaleStride (r : Record) : Nat := bitsAt r.toNat 320 32
def zpBase (r : Record) : Nat := bitsAt r.toNat 384 64

/-- A reserved bit is set: w1 [15:14] and [63:56], w2 [63:56], w5 [63:32], w7 (R216). -/
def reserved (r : Record) : Bool :=
  bitsAt r.toNat 78 2 != 0 || bitsAt r.toNat 120 8 != 0 || bitsAt r.toNat 184 8 != 0 || bitsAt r.toNat 352 32 != 0 ||
    bitsAt r.toNat 448 64 != 0

/-- The bytes of an element of a format; q4 elements lie two to a byte (R217). -/
def bytes (fmt : Nat) : Nat :=
  match fmt with
  | 0 | 1 | 6 => 4
  | 2 | 3 | 7 | 8 => 2
  | 11 | 12 => 8
  | _ => 1
end Shape

/-- K of an MMA (R225). -/
def mmaK (fmt : Nat) : Nat :=
  match fmt with
  | 6 => 16
  | 7 | 8 => 32
  | 14 => 128
  | _ => 64

/-- The cores that a SPACE 2 record names, as core numbers of the column. -/
def namedCores (col : Nat) (r : Record) (dst : Bool) : List Nat :=
  if dst then ((List.range 8).filter fun c => bitAt (Shape.cores r) c).map fun c => col * 8 + c
  else [col * 8 + Shape.cores r % 8]

end Sys2Proof.Machine
end

