-- ==== Sys2Proof/Machine/Frame.lean ====
section
/-! DEFINITION. The save frame as memory: its header, the team state areas, accumulators, v-registers, in-flight records
and window image, written at a freeze and read back at a resume (spec/13_preemption.md R281 to R284, R287, R292). -/

namespace Sys2Proof.Machine

/-! ## Words of the layout -/

/-- STATE of the header: a held block is placed, so it runs (R282). -/
def Place.code : Place → Nat
  | .running => 1
  | .held => 1
  | .freezing => 2
  | .frozen => 3

/-- SPAN as a launch packet codes it (R261). -/
def spanCode (span : Nat) : Nat := if span ≤ 16 then 0 else if span = 32 then 1 else 2

/-- The first word of the header (R282). -/
def headerW0 (b : Block) (state : Nat) : Nat :=
  place b.asid 48 16 + place b.cls 44 3 + place state 40 3 + place b.cause.toNat 32 7 + place b.teams 24 6 + place b.scratch 0 20

/-- The header (R282). -/
def headerOf (b : Block) : List Byte :=
  toBytes 8 (headerW0 b b.place.code) ++
    toBytes 8 (place b.lcore 54 10 + place b.vregs 32 10 + place b.acc 24 5 + place (spanCode b.span) 16 2 +
      place (Nat.log2 b.width) 8 4) ++
    toBytes 8 (place b.core 54 10 + place b.queue 32 17 + place b.seq 0 32) ++
    toBytes 8 b.index.toNat ++ toBytes 8 b.frozenAt ++ toBytes 8 (place b.deadline 0 32) ++ toBytes 16 0

/-- STATUS (R283). -/
def Team.statusWord (t : Team) : Nat :=
  let now := if t.sched = .frozen then t.saved else t.sched
  let waits := match now with
    | .waiting _ => true
    | _ => false
  place t.ldcnt 0 9 + place t.stcnt 16 9 + place t.cpcnt 32 9 + place (b2n waits) 48 1 + place (b2n (now == .parked)) 49 1 +
    place (b2n t.handler) 50 1 + place (b2n (now == .exited)) 51 1 + place (b2n (t.suspWait.isSome || t.rewait)) 52 1

/-- The lowest tag among a team's class-T entries not yet acknowledged, or its next tag (R285). -/
def Team.lowWater (t : Team) : Nat :=
  (t.inflight.filter fun e => e.clsT && !e.done && decide (0 < e.left)).foldl (fun m e => min m e.tag) t.nextTag

/-- STACK (R283): frame 0 is the one pushed first (log entry 63). -/
def Team.stackWord (t : Team) : Nat :=
  place t.stack.length 32 6 + (t.stack.reverse.zipIdx.map fun e => b2n e.1.loop * 2 ^ e.2).sum

/-- PEND (R283). -/
def Team.pendWord (t : Team) (b : Block) : Nat :=
  let c := fun (i : Nat) => (t.fatal[i]?).elim 0 fun x => x.cause.toNat
  place (c 0) 0 7 + place (b.bellPend.elim 0 (·.1.toNat)) 8 7 + place (b.bellPend.elim 0 (·.2)) 16 8 + place (b2n !t.fatal.isEmpty) 24 1 +
    place (b2n b.bellPend.isSome) 25 1 + place (b2n (1 < t.fatal.length)) 26 1 + place (c 1) 32 7

/-- v-registers that a freeze saves. -/
def Team.liveRegs (t : Team) (b : Block) : Nat := min t.live b.vregs

/-- The words of a state area that only the device changes: STATUS and TAGS, PEND, and GANGS, with their offsets. -/
def Team.statusWords (t : Team) (b : Block) : List (Nat × Nat) :=
  [(0x10, t.statusWord), (0x18, t.nextTag * 2 ^ 32 + t.lowWater % 2 ^ 32), (0x28, t.pendWord b), (0x38, t.gangs.toNat)]

/-- The words that the frame keeps for the team: PC, MODE, STACK and LIVE. -/
def Team.stateWords (t : Team) (b : Block) : List (Nat × Nat) :=
  [(0, t.pc.toNat), (8, t.mode.toNat), (0x20, t.stackWord), (0x30, t.liveRegs b)]

/-! ## Where each part lies (R281) -/

/-- A team's accumulator tile. -/
def tileArea (b : Block) (t j : Nat) : Nat := 0x90000 + 4096 * (t * b.acc + j)
/-- A team's in-flight record. -/
def recordArea (t : Nat) : Nat := 0xA0000 + 0xA000 * t
/-- A team's v-register. -/
def vregArea (b : Block) (t n : Nat) : Nat := 0x1E0000 + t * b.width * b.vregs * 4 + 4 * n * b.width
/-- The window image. -/
def windowArea : Nat := 0x2A0000
/-! ## The in-flight record (R284) -/

/-- The lanes of a load whose result is still to be written, or of another access not yet performed. -/
def Team.maskImage (t : Team) (e : Entry) : Mask :=
  if e.ld ∧ !e.st then
    maskOf (distinct ((t.pend.filter fun r => r.uid == e.resUid).map fun r => match r.cell with
      | .v _ l => l
      | .k _ l => l
      | _ => 0))
  else
    maskOf (distinct ((e.works.map fun i => match i.work with
      | .glob r => r.pieces
      | .win _ ps => ps
      | _ => []).flatten.filterMap fun p => if e.perf.contains (p.lane * 2 + b2n (p.off != 0)) then none else some p.lane))

/-- One entry's 32 bytes; `off` is where its data stand in the data area. -/
def Entry.image (e : Entry) (off : Nat) : List Byte :=
  let counted := (e.copy.map (·.counted)).getD 0
  toBytes 8 (place e.tag 32 32 + place e.kind 24 8 + place (b2n e.clsT) 23 1 + place (b2n e.done) 22 1 + place (b2n e.fault) 21 1 +
      place (b2n e.slog) 20 1) ++
    toBytes 8 (e.word.toNat / 2 ^ 32) ++ toBytes 8 (place off 32 32 + e.word.toNat % 2 ^ 32) ++
    toBytes 8 (if 8 ≤ e.kind then counted else e.addr.toNat)

/-- The bytes that the entries of the teams before a team reserve in the block's data area (R444). -/
def State.dataBefore (s : State) (f ix : Nat) : Nat :=
  ((List.range ix).map fun t => ((s.team (f * 32 + t)).inflight.map fun e => roundUp e.reserve 16).sum).sum

/-- Where the data of a team's entries begin in the data area. -/
def State.dataOffs (s : State) (f ix : Nat) : List Nat :=
  ((s.team (f * 32 + ix)).inflight.foldl (fun (a : List Nat × Nat) e => (a.1 ++ [a.2], a.2 + roundUp e.reserve 16)) ([], s.dataBefore f ix)).1

/-- The in-flight record of a team: its entries, then their mask images. -/
def State.recordImage (s : State) (f ix : Nat) : List (Nat × List Byte) :=
  let t := s.team (f * 32 + ix)
  ((t.inflight.zip (s.dataOffs f ix)).zipIdx.map fun e => (recordArea ix + 32 * e.2, e.1.1.image e.1.2)) ++
    t.inflight.zipIdx.map fun e => (recordArea ix + 0x2000 + 128 * e.2, toBytes 128 (t.maskImage e.1).toNat)

/-! ## The data area (R284, R444): the order of the parts within an entry's bytes is log entry 40's -/

/-- The pieces of an entry. -/
def Entry.pieces (e : Entry) : List Piece :=
  (e.works.map fun i => match i.work with
    | .glob r => r.pieces
    | .win _ ps => ps
    | _ => []).flatten

/-- Whether a memory instruction takes per-lane addresses: it has IDX. -/
def indexed : Instr → Bool
  | .vld f | .vldx f | .vlds f | .vst f | .vstx f | .vsts f | .vatom f | .vcas f | .vatoms f => f.idx.toNat != 1023
  | _ => false

/-- Per-lane addresses, zero for a lane without an access. -/
def laneAddrs (ps : List Piece) (width : Nat) : List Byte :=
  ((List.range width).map fun l => toBytes 8 ((ps.find? fun p => p.lane == l && p.off == 0).elim 0 (·.va))).flatten

/-- Per-lane data of the accesses, each lane's bytes in its own place. -/
def laneData (ps : List Piece) (width : Nat) (f : Piece → Nat) : List Byte :=
  let n := ps.foldl (fun n p => max n (p.off + p.n)) 0
  ((List.range width).map fun l =>
    let bs := ((ps.filter fun p => p.lane == l).map fun p => toBytes p.n (f p)).flatten
    bs ++ List.replicate (n - bs.length) 0).flatten

/-- Elements of a format packed, q4 two to a byte. -/
def packElems (fmt : Nat) : List Nat → List Byte
  | x :: y :: rest => if fmt = 14 then toBytes 1 (x % 16 + y % 16 * 16) ++ packElems fmt rest
      else toBytes (Shape.bytes fmt) x ++ toBytes (Shape.bytes fmt) y ++ packElems fmt rest
  | [x] => toBytes (Shape.bytes fmt) x
  | [] => []

/-- Records and an extent. -/
def recordBytes (rs : List Record) (n m : Nat) : List Byte := (rs.map fun (r : Record) => toBytes 64 r.toNat).flatten ++ toBytes 16 (n + m * 2 ^ 32)

/-- The fetched operands of an MMA, with its scales and zero points. -/
def MmaJob.operandBytes (j : MmaJob) : List Byte :=
  match j.ops with
  | none => []
  | some o =>
    let n := 32 * mmaK (Shape.fmt j.ra)
    packElems (Shape.fmt j.ra) (o.raw.take n) ++ packElems (Shape.fmt j.rb) ((o.raw.drop n).take n) ++
      (((o.raw.drop (2 * n)).take 33).map (toBytes 4)).flatten ++ (((o.raw.drop (2 * n + 33)).take 33).map (toBytes 1)).flatten

/-- The data that a freeze saves of an entry of a team of some width. -/
def Entry.data (e : Entry) (width : Nat) : List Byte :=
  let ps := e.pieces
  let i := decode e.word
  let addrs := if indexed i then laneAddrs ps width else []
  let bs := match e.kind with
    | 1 => addrs
    | 2 => addrs ++ laneData ps width fun p => p.data.toNat
    | 3 => addrs ++ laneData ps width (fun p => p.data.toNat) ++ laneData ps width fun p => p.cmp.toNat
    | 8 => (e.copy.elim [] fun c => recordBytes [c.src, c.dst] c.n c.m)
    | 9 => (e.copy.elim [] fun c => e.mma.elim [] fun j => recordBytes [c.src, c.dst, j.ra, j.rb] c.n c.m ++ j.operandBytes)
    | 10 => e.mma.elim [] fun j => ([j.ra, j.rb].map fun (r : Record) => toBytes 64 r.toNat).flatten ++ j.operandBytes
    | 11 => e.copy.elim [] fun c => toBytes 64 c.dst.toNat ++ (c.snap.map fun (x : BitVec 32) => toBytes 4 x.toNat).flatten
    | 12 => e.copy.elim [] fun c => ([c.src, c.dst].map fun (r : Record) => toBytes 64 r.toNat).flatten ++ toBytes 16 c.gang
    | _ => (e.works.map fun (w : LsItem) => match w.work with
      | .barinit _ target expect => toBytes 8 target ++ toBytes 8 expect
      | .evpush _ w1 => toBytes 16 w1.toNat
      | _ => []).flatten
  bs.take (roundUp e.reserve 16)

/-- The data of a team's entries, where they stand in the frame (R281). -/
def State.dataImage (s : State) (f : Nat) (b : Block) (ix : Nat) : List (Nat × List Byte) :=
  ((s.team (f * 32 + ix)).inflight.zip (s.dataOffs f ix)).map fun e => (0x320000 + e.2, e.1.data b.width)

/-! ## Writing -/

/-- Byte strings written at offsets of a frame. -/
def State.putFrame (s : State) (f : Nat) (l : List (Nat × List Byte)) : State :=
  l.foldl (fun s w => s.physWrite (s.framePA f w.1) w.2) s

/-- Bytes of a frame. -/
def State.getFrame (s : State) (f off n : Nat) : List Byte := s.physRead (s.framePA f off) n

/-- What changes while a team is frozen: its first state words and its in-flight record. -/
def State.teamStatus (s : State) (f : Nat) (b : Block) (ix : Nat) : List (Nat × List Byte) :=
  let t := s.team (f * 32 + ix)
  ((t.statusWords b).map fun w => (stateArea ix + w.1, toBytes 8 w.2)) ++ s.recordImage f ix

/-- A team's registers (R283, R281). -/
def State.teamRegs (s : State) (f : Nat) (b : Block) (ix : Nat) : List (Nat × List Byte) :=
  let t := s.team (f * 32 + ix)
  let a := stateArea ix
  ((t.stateWords b).map fun w => (a + w.1, toBytes 8 w.2)) ++
  [(a + 0x40, ((List.range 64).map fun n => toBytes 8 (t.sreg n).toNat).flatten),
   (a + 0x240, ((List.range 32).map fun n => toBytes 64 (t.hreg n).toNat).flatten),
   (a + 0xA40, toBytes 128 t.exec.toNat),
   (a + 0xAC0, ((List.range 15).map fun n => toBytes 128 (t.kreg (n + 1)).toNat).flatten)] ++
    (t.stack.reverse.zipIdx.map fun e => (a + 0x1240 + 256 * e.2, toBytes 128 e.1.saved.toNat ++ toBytes 128 e.1.cond.toNat)) ++
    ((List.range b.acc).map fun j => (tileArea b ix j, ((List.range 1024).map fun e => toBytes 4 (t.zelem j (e / 32) (e % 32)).toNat).flatten)) ++
    (List.range b.vregs).map fun n =>
      (vregArea b ix n, ((List.range b.width).map fun l => toBytes 4 (if n < t.liveRegs b then (t.vreg n l).toNat else 0)).flatten)

/-- The header written; nothing where the frame is no memory. -/
def State.saveHeader (s : State) (f : Nat) : State :=
  match s.block? f with
  | none => s
  | some b => if b.monitor ∨ !s.frameOk f then s else s.putFrame f [(0, headerOf b)]

/-- STATE of the header written alone, as at a resume or a block's end. -/
def State.saveState (s : State) (f : Nat) (state : Nat) : State :=
  match s.block? f with
  | none => s
  | some b => if b.monitor ∨ !s.frameOk f then s else s.putFrame f [(0, toBytes 8 (headerW0 b state))]

/-- A frozen block's header, team state, registers, records and data written (R287). -/
def State.saveBlock (s : State) (f : Nat) : State :=
  match s.block? f with
  | none => s
  | some b =>
    s.putFrame f ((0, headerOf b) ::
      ((List.range b.teams).map fun ix => s.teamStatus f b ix ++ s.teamRegs f b ix ++ s.dataImage f b ix).flatten)

/-- A frozen team's status and record brought up to date in its frame. -/
def State.saveStatus (s : State) (ctx : Nat) : State :=
  match s.blockOf? ctx with
  | none => s
  | some b => if b.place = .frozen ∧ s.frameOk (frameOf ctx) then s.putFrame (frameOf ctx) (s.teamStatus (frameOf ctx) b (teamIx ctx)) else s

/-- A frozen team's saved PC moved past its instruction. -/
def State.savePc (s : State) (ctx : Nat) : State :=
  match s.blockOf? ctx with
  | none => s
  | some b =>
    let a := stateArea (teamIx ctx)
    let f := frameOf ctx
    if b.place = .frozen ∧ s.frameOk f then
      s.putFrame f [(a, toBytes 8 (nextPc (BitVec.ofNat 64 (ofBytes (s.getFrame f a 8)))).toNat)]
    else s

/-- A fatal fault made on a team's access; PEND of a frozen team shows it. -/
def State.fatalFault (s : State) (ctx : Nat) (i : TrapInfo) : State := (s.addFatal ctx i).saveStatus ctx

/-- A result that has come for a frozen team, in its saved image; LIVE covers a v-register (R287, R368). -/
def State.saveCell (s : State) (ctx : Nat) (c : Cell) (val : BitVec 1024) : State :=
  match s.blockOf? ctx with
  | none => s
  | some b =>
    let f := frameOf ctx
    let ix := teamIx ctx
    if b.place ≠ .frozen ∨ !s.frameOk f then s
    else
      let t := s.team ctx
      let live := fun (s : State) (n : Nat) =>
        (s.setTeam ctx { t with live := max t.live (n + 1) }).putFrame f [(stateArea ix + 0x30, toBytes 8 (max (t.liveRegs b) (n + 1)))]
      match c with
      | .v n l => (live s n).putFrame f [(vregArea b ix n + 4 * l, toBytes 4 val.toNat)]
      | .s n => if n = 0 then s else s.putFrame f [(stateArea ix + 0x40 + 8 * n, toBytes 8 val.toNat)]
      | .h n => s.putFrame f [(stateArea ix + 0x240 + 64 * n, toBytes 64 val.toNat)]
      | .k n l =>
        if n = 0 then s
        else
          let a := stateArea ix + 0xAC0 + 128 * (n - 1)
          let m := BitVec.ofNat 1024 (ofBytes (s.getFrame f a 128))
          s.putFrame f [(a, toBytes 128 (if val.getLsbD 0 then m ||| laneMask l else m &&& ~~~ laneMask l).toNat)]
      | .zrow j i => s.putFrame f [(tileArea b ix j + 128 * i, toBytes 128 val.toNat)]
      | .commit _ _ => s

/-! ## Reading back (R292) -/

/-- A frame's bytes as numbers of `n` bytes each. -/
def chunks (n : Nat) : Nat → List Byte → List Nat
  | 0, _ => []
  | k + 1, bs => ofBytes (bs.take n) :: chunks n k (bs.drop n)

/-- The non-zero values of a list under rising keys. -/
def sparse (key : Nat → Nat) (xs : List Nat) (n : Nat) : Tab (BitVec n) :=
  (xs.zipIdx.filter fun e => e.1 % 2 ^ n != 0).map fun e => (key e.2, BitVec.ofNat n e.1)

/-- A team with its PC, MODE, mask stack, registers and accumulators as its frame holds them. -/
def State.loadTeam (s : State) (f : Nat) (b : Block) (ix : Nat) (t : Team) : Team :=
  let a := stateArea ix
  let w := lanesBelow b.width
  let word := fun off => ofBytes (s.getFrame f (a + off) 8)
  let mask := fun off => BitVec.ofNat 1024 (ofBytes (s.getFrame f off 128)) &&& w
  let depth := min (bitsAt (word 0x20) 32 6) 32
  { t with
    pc := BitVec.ofNat 64 (word 0), mode := BitVec.ofNat 64 (bitsAt (word 8) 0 6)
    stack := ((List.range depth).map fun i =>
      { loop := bitAt (word 0x20) i, saved := mask (a + 0x1240 + 256 * i), cond := mask (a + 0x1240 + 256 * i + 128) }).reverse
    s := sparse (fun n => n) (0 :: (chunks 8 64 (s.getFrame f (a + 0x40) 512)).drop 1) 64
    h := sparse (fun n => n) (chunks 64 32 (s.getFrame f (a + 0x240) 2048)) 512
    exec := mask (a + 0xA40)
    k := sparse (fun n => n + 1) ((List.range 15).map fun n => (mask (a + 0xAC0 + 128 * n)).toNat) 1024
    z := ((List.range b.acc).map fun j => sparse (fun e => j * 1024 + e) (chunks 4 1024 (s.getFrame f (tileArea b ix j) 4096)) 32).flatten
    v := ((List.range b.vregs).map fun n =>
      sparse (fun l => n * 1024 + l) (chunks 4 b.width (s.getFrame f (vregArea b ix n) (4 * b.width))) 32).flatten }

/-! ## The window image (R288) -/

/-- Bytes of a sealed window: of its copy, or, once that is written, of the frame. -/
def State.windowRead (s : State) (f : Nat) (b : Block) (w : Memory) (off n : Nat) : List Byte :=
  if b.imaged then s.getFrame f (windowArea + off) n else w.readN off n

/-- Bytes of a sealed window written. -/
def State.windowWrite (s : State) (f : Nat) (b : Block) (w : Memory) (off : Nat) (bs : List Byte) : State :=
  if b.imaged then s.putFrame f [(windowArea + off, bs)] else s.setBlock f { b with window := some (w.writeN off bs) }


/-- A window's bytes as its frame takes them. -/
def State.saveWindow (s : State) (f : Nat) (b : Block) (w : Memory) : State :=
  s.putFrame f [(windowArea, w.readN 0 b.scratch)]

/-- A memory listing the non-zero bytes of a list from address 0. -/
def memoryOf (bs : List Byte) : Memory := (bs.zipIdx.filter fun e => e.1 != 0).map fun e => (e.2, e.1)

/-- The window that a frame holds. -/
def State.loadWindow (s : State) (f : Nat) (b : Block) : Memory := memoryOf (s.getFrame f windowArea b.scratch)

end Sys2Proof.Machine
end

