-- ==== Sys2Proof/Machine/Stop.lean ====
section
/-! DEFINITION. Stopping a team at an instruction boundary and freezing a block (spec/13_preemption.md R286,
R287, R289, R445; spec/03_execution.md R54, R56). -/

namespace Sys2Proof.Machine

/-! ## Capture of a team (R287) -/

/-- The v-registers that a team's YIELD does not save read zero from now on (R286). -/
def Team.keepLive (t : Team) : Team :=
  if t.live < 768 then { t with v := t.v.filter fun e => decide (e.1 / 1024 < t.live) } else t

/-- A result that comes for a stopped team; LIVE covers a v-register (R287, R368). -/
def Team.writeLate (t : Team) (c : Cell) (val : BitVec 1024) : Team :=
  let t := t.writeCell c val
  match c with
  | .v n _ => { t with live := max t.live (n + 1) }
  | _ => t

/-- Every result that has returned is written, those that a stop does not wait for behind the others; what memory still
owes stays outstanding. -/
def Team.flush (t : Team) : Team :=
  let back := t.pend.filter fun r => r.val.isSome
  let t' := ((back.filter fun r => !r.late).foldl (fun t r => t.writeCell r.cell (r.val.getD 0)) t).keepLive
  let t' := (back.filter (·.late)).foldl (fun t r => t.writeLate r.cell (r.val.getD 0)) t'
  { t' with pend := t.pend.filter fun r => r.val.isNone }

/-- Whether an attached access belongs to a context. -/
def State.attOf (s : State) (ctx : Nat) : Att → Bool
  | .req r => r.ctx == ctx
  | .copy uid => s.copies.any fun c => c.uid == uid && c.ctx == ctx
  | .mma core uid => (s.core core).arrq.any fun j => j.uid == uid && j.ctx == ctx
  | .fetch c => c == ctx

/-- The identities of the in-flight entries of a context that fault records hold. -/
def State.faultedEnts (s : State) (ctx : Nat) : List Nat :=
  let ofAtt : Att → List Nat
    | .req r => if r.ctx = ctx then [r.ent] else []
    | .copy uid => (s.copies.filter fun c => c.uid == uid && c.ctx == ctx).map (·.ent)
    | .mma core uid => ((s.core core).arrq.filter fun j => j.uid == uid && j.ctx == ctx).map (·.ent)
    | .fetch _ => []
  (s.dies.map fun d => (d.2.frecs.map fun r => (r.2.att.map ofAtt).flatten).flatten ++
    (d.2.frwait.map fun w => ofAtt w.1).flatten).flatten

/-- The lines that a request acts on: those of its accesses, its own line, or its tile's (R138, R354). -/
def Req.lines (r : Req) : List Nat :=
  match r.op with
  | .cflush | .cinv => [lineKey r.asid r.va]
  | .wclean | .wevict => (List.range 32).map fun i => tileKey r.asid r.va * 32 + i
  | _ => distinct (r.pieces.map fun p => lineKey r.asid p.va)

/-- A request's place in the issue order of its core: a replay gives a request a fresh identity, and not a new place (R190). -/
def Req.pos (r : Req) : Nat := if r.ent = 0 then r.uid else r.ent
/-- Whether a request comes before another in issue order. -/
def Req.before (q r : Req) : Bool := decide (q.pos < r.pos) || (q.pos == r.pos && decide (q.uid < r.uid))

/-- The requests of a context that the side log of its core or a fault record holds. -/
def State.heldReqs (s : State) (ctx : Nat) : List Req :=
  let ofAtt : Att → List Req
    | .req r => if r.ctx = ctx then [r] else []
    | _ => []
  (((s.core (s.coreOf ctx)).slog.filter fun e => e.req.ctx == ctx).map (·.req)) ++
    (s.dies.map fun d => (d.2.frecs.map fun r => (r.2.att.map ofAtt).flatten).flatten ++ (d.2.frwait.map fun w => ofAtt w.1).flatten).flatten

/-- The counted loads of a context that have been sent and not performed. -/
def State.loadsOut (s : State) (ctx : Nat) : List Req :=
  (s.dies.map fun d => ((d.2.anns.filterMap fun a => match a with
    | .req r => some r
    | _ => none) ++ d.2.mouthq ++ (d.2.tiles.map fun t => t.2.held).flatten ++ d.2.waits.map (·.req)).filter fun r =>
      r.ctx == ctx && r.ent != 0 && r.op == .load).flatten

/-- Whether a counted request on some lines stands behind one of a list, of its own context, that acts on one of them. -/
def Req.behind (r : Req) (l : List Req) (ks : List Nat) : Bool :=
  r.ent != 0 && l.any fun q => q.ctx == r.ctx && q.before r && ks.any q.lines.contains

/-- Requests that stand behind held ones of their context leave a die: they are sent again after them (R175, R190). -/
def Die.withdraw (d : Die) (l : List Req) : Die :=
  let stays := fun (r : Req) => !r.behind l r.lines
  { d with
    anns := d.anns.filter fun a => match a with
      | .req r => stays r
      | _ => true
    mouthq := d.mouthq.filter stays
    tiles := Tab.mapVal d.tiles fun _ t => { t with held := t.held.filter stays }
    waits := d.waits.filter fun w => !w.req.behind l [w.key] }

/-- The context's accesses leave the fault records and the side log; they walk again at replay (R169, R289).  Its later accesses
to their lines that wait behind them leave their die too, and its core's L1 gives up the copies that took their bytes.  So do
those behind a load that is still to be performed: the load is performed again at the replay, and they follow it (R190;
DEDUCED, log entry 101). -/
def State.detach (s : State) (ctx : Nat) : State :=
  let l := s.heldReqs ctx ++ s.loadsOut ctx
  let ks := (l.map (·.lines)).flatten
  let here := s.coreOf ctx
  { s with
    dies := Tab.mapVal s.dies fun _ d =>
      { d.withdraw l with
        frecs := Tab.mapVal d.frecs fun _ r => { r with att := r.att.filter fun a => !s.attOf ctx a }
        frwait := d.frwait.filter fun w => !s.attOf ctx w.1 }
    cores := Tab.mapVal s.cores fun i c =>
      { c with slog := c.slog.filter fun e => e.req.ctx != ctx, l1 := if i = here then c.l1.filter fun e => !ks.contains e.1 else c.l1 } }

/-- The touches that the engines' elements of some work have made are behind it. -/
def Die.untouch (x : Die) (works : List Nat) : Die := { x with touched := x.touched.filter fun e => !works.contains e.1 }

/-- The engines give up a stopped team's work, which its in-flight record keeps: its copies send no further element,
and its MMAs leave the array queue; the shadow of a running one is discarded (R227, R287). -/
def State.holdEngines (s : State) (ctx : Nat) : State :=
  let cs := s.copies.filter fun c => c.ctx == ctx
  let js := (s.core (s.coreOf ctx)).arrq.filter fun j => j.ctx == ctx
  let t := s.team ctx
  let t := { t with inflight := t.inflight.map fun e =>
    { e with copy := (cs.find? fun c => c.ent == e.uid).orElse fun _ => e.copy
             mma := (js.find? fun j => j.ent == e.uid).orElse fun _ => e.mma } }
  { s.setTeam ctx t with
    copies := s.copies.filter fun c => c.ctx != ctx
    dies := Tab.mapVal s.dies fun _ x => x.untouch (cs.map (·.uid) ++ js.map (·.uid))
    cores := Tab.mapVal s.cores fun _ c => { c with arrq := c.arrq.filter fun j => j.ctx != ctx } }

/-- Queued work that belongs to no entry and stays through a freeze, in its place in the team's order: an arrival not yet
announced, the first examination of a BARWAIT (R289), and the requests that hold no entry, whose results a resume waits for
(R287), but PREF, which a freeze drops (R387). -/
def LsItem.keeps (i : LsItem) : Bool :=
  match i.work with
  | .gbar _ => true
  | .barexam _ _ => true
  | .glob r => i.ent == 0 && r.op != .pref
  | _ => false

/-- The hold of an L1 copy ends and the announcements that waited for it act (R194).  A copy in M stays so until the Well
has accepted its atomic's write (R191). -/
def State.releaseHold (s : State) (c k : Nat) : State :=
  let x := s.core c
  match Tab.get? x.l1 k with
  | none => s
  | some e =>
    if e.queued.contains true then s.setCore c { x with l1 := Tab.del x.l1 k }
    else
      let st := if e.queued.contains false then .s else e.st
      s.setCore c { x with l1 := Tab.put x.l1 k { e with st, held := false, queued := [] } }

/-- The hold of an L1 copy for one atomic ends.  Where another atomic of the core on the line, of a team that runs and announced
before everything that waits for the hold's end, is still to complete, the copy is held for that one (R194). -/
def State.passHold (s : State) (d c k : Nat) (p : Fill → Bool) : State :=
  let x := s.core c
  match Tab.get? x.l1 k with
  | none => s
  | some e =>
    match (s.die d).fills.find? fun f => f.own && f.core == c && f.key == k && p f && (e.queued.isEmpty || !f.keep) &&
        (s.team f.ctx).sched != .frozen with
    | some f => s.setCore c { x with l1 := Tab.put x.l1 k { e with heldBy := f.ctx } }
    | none => s.releaseHold c k

/-- The holds of a team's atomics end (R194). -/
def State.releaseHolds (s : State) (ctx : Nat) : State :=
  let c := s.coreOf ctx
  ((s.core c).l1.filter fun e => e.2.held && e.2.heldBy == ctx).foldl (fun s e => s.passHold (dieOf c) c e.1 (·.ctx != ctx)) s

/-- A team's state is captured as it stands, and nothing is waited for (R287). -/
def State.capture (s : State) (ctx : Nat) (saved : Sched) : State :=
  let fl := s.faultedEnts ctx
  let sl := ((s.core (s.coreOf ctx)).slog.filter fun e => e.req.ctx == ctx).map fun e => e.req.ent
  let s := ((s.detach ctx).holdEngines ctx).releaseHolds ctx
  let t := (s.team ctx).flush
  s.setTeam ctx
    { t with
      saved, sched := .frozen, lsq := t.lsq.filter (·.keeps), fhold := []
      inflight := t.inflight.map fun e => { e with fault := e.fault || fl.contains e.uid, slog := e.slog || sl.contains e.uid } }

/-- Whether a team has stopped for a bell, which it takes once its register results are back (spec/14_power.md R307). -/
def Team.forBell (t : Team) : Bool := t.sched == .trapping && t.trap.isNone

/-- How a team stands at an instruction boundary: one that has stopped for a bell would go on. -/
def Team.stand (t : Team) : Sched := if t.forBell then .ready else t.sched

/-- A team stops.  One that a fault holds is saved WAITING (R43, R283). -/
def State.stopTeam (s : State) (ctx : Nat) : State :=
  let t := s.team ctx
  if t.sched = .frozen ∨ t.sched = .exited then s
  else s.capture ctx (if t.sched = .ready ∧ t.holding then .waiting .fetchHold else t.stand)

/-- What the ended teams of a block still have in flight is captured with the block (spec/17_ref_evpop_sxor.md R377). -/
def State.captureEnded (s : State) (f : Nat) (b : Block) : State :=
  (ctxsOf f b).foldl (fun s c =>
    let t := s.team c
    if t.sched = .exited ∧ (!t.inflight.isEmpty ∨ !t.lsq.isEmpty) then s.capture c .exited else s) s

/-! ## A block's freeze -/

/-- Precedence of freeze sources (R445). -/
def FreezeSrc.rank : FreezeSrc → Nat
  | .migration => 0
  | .shedding => 1
  | .host => 2
  | .debug => 3

/-- The PREQ source code (R55). -/
def FreezeSrc.code : FreezeSrc → Nat
  | .host => 0
  | .migration => 1
  | .shedding => 2
  | .debug => 3

/-- The freeze cause of a source; FORCED when the deadline stopped a team, DBGSTEP after a single step (R286, R296). -/
def FreezeSrc.cause (f : FreezeSrc) (forced : Bool) : Cause :=
  match f with
  | .host => if forced then Cause.forced else Cause.hostfrz
  | .migration => Cause.migrated
  | .shedding => Cause.shed
  | .debug => if forced then Cause.dbgstep else Cause.dbgstop

/-- A block's window cut out of its core's scratchpad, from offset 0. -/
def windowOf (sp : Memory) (base n : Nat) : Memory :=
  (sp.filter fun e => base ≤ e.1 && e.1 < base + n).map fun e => (e.1 - base, e.2)

/-- A migration of a column's block has been withdrawn (spec/14_power.md R311). -/
def State.withdrawn (s : State) (col : Nat) : State := s.setCluster col { s.cluster col with noTarget := true }

/-- The examination that a BARWAIT makes again (R289). -/
def Team.reexam (t : Team) (uid : Nat) : List LsItem :=
  match t.sched with
  | .waiting (.bar off wanted) =>
    if t.lsq.any (fun i => match i.work with
      | .barexam _ _ => true
      | _ => false) then [] else [{ uid, ent := 0, work := .barexam off wanted, reexam := true }]
  | _ => []

/-! ## Plain writes over an object (spec/11_completion.md R245) -/

/-- Window offsets of the objects that a team's work of the window aims at. -/
def LsWork.objectOff : LsWork → Option Nat
  | .barinit off _ _ => some off
  | .bararv off => some off
  | _ => none

/-- The objects of a team that are in use: a BARINIT or an arrival of it is to be performed, or it waits on one. -/
def Team.objectsUsed (t : Team) : List Nat :=
  ((t.inflight.filter fun e => decide (0 < e.left)).map fun e => e.works.filterMap fun i => i.work.objectOff).flatten ++
    match t.sched with
    | .waiting (.bar off _) => [off]
    | _ => []

/-- Window offsets in a block of the objects that the copies and MMA commits under way count on, wherever the block stands (R232,
R234). -/
def State.objectsAimed (s : State) (f : Nat) : List Nat :=
  (s.copies.map fun c =>
    if !c.be || c.landed then []
    else if Shape.space c.dst = 2 then
      (c.wins.filter fun w => (namedCores c.col c.dst true).contains w.core && w.frame == f && decide (w.base ≤ c.bar) &&
        decide (c.bar < w.base + w.len)).map fun w => c.bar - w.base
    else if frameOf c.ctx = f then [c.bar] else []).flatten ++
    (s.cores.map fun c => c.2.arrq.filterMap fun j => if j.be && frameOf j.ctx == f then some j.bar else none).flatten

/-- Window offsets of a block's objects that are in use: a counting event or a BARINIT aimed at one is in flight, that of a copy or
a CPYM's commit from its issue on, or a team waits on one (R245). -/
def State.objectsIn (s : State) (f : Nat) (b : Block) : List Nat :=
  ((ctxsOf f b).map fun c => (s.team c).objectsUsed).flatten ++ s.objectsAimed f ++
    (s.cores.map fun c => (c.2.bankq.filter fun v => v.frame == f).map (·.off)).flatten

/-- Scratchpad addresses of the objects of a core's windows that are in use. -/
def State.objectsUsed (s : State) (core : Nat) : List Nat :=
  ((s.blocks.filter fun e => e.2.core == core && e.2.window.isNone).map fun e => (s.objectsIn e.1 e.2).map (padAddr e.2)).flatten

/-- The bytes of a plain write, but for the PHASE of the objects in use, whose bytes stand as `old` says: only a counting event or a
BARINIT changes it (R245; DEDUCED, log entry 46). -/
def phaseKept (used : List Nat) (old : Nat → Byte) (w : List (Nat × Byte)) : List (Nat × Byte) :=
  let at24 := used.map (· + 24)
  w.map fun e => if at24.contains e.1 then (e.1, (e.2 &&& 0xFE) ||| (old e.1 &&& 1)) else e

/-- The bytes of a plain write to a core's scratchpad, with PHASE kept. -/
def State.keepPhase (s : State) (core : Nat) (w : List (Nat × Byte)) : List (Nat × Byte) :=
  phaseKept (s.objectsUsed core) (fun a => BitVec.ofNat 8 (ofBytes ((s.core core).sp.readN a 1))) w

/-- The bytes of a plain write to the image of a sealed window, with PHASE kept. -/
def State.keepImage (s : State) (f : Nat) (b : Block) (w : Memory) (off : Nat) (bs : List Byte) : List Byte :=
  (phaseKept (s.objectsIn f b) (fun a => BitVec.ofNat 8 (ofBytes (s.windowRead f b w a 1))) (bs.zipIdx.map fun e => (off + e.2, e.1))).map (·.2)

/-- The CP writes of a core land in its scratchpad. -/
def State.landCp (s : State) (core : Nat) : State :=
  let c := s.core core
  s.setCore core { c with sp := (s.keepPhase core c.cpbuf).foldl (fun m e => m.write e.1 e.2) c.sp, cpbuf := [] }

/-! ## Sealing a window -/

/-- The CP writes of a core become visible as a block of it is sealed; the teams of its other blocks that wait in BARWAIT are
to examine their objects again (R242, R287). -/
def State.sealFlush (s : State) (core f : Nat) : State :=
  if (s.core core).cpbuf.isEmpty then s
  else
    let s := s.landCp core
    let others := s.blocks.filter fun e => e.2.core == core && e.1 != f && e.2.window.isNone
    (others.map fun e => ctxsOf e.1 e.2).flatten.foldl (fun s c =>
      let t := s.team c
      (s.setTeam c { t with lsq := t.lsq ++ t.reexam s.uid }).bumpUid) s

/-- A block whose teams have all stopped or ended, one of them stopped, is frozen: its window is sealed (R286, R287), and
the pump acts on the fall of current (spec/14_power.md R302). -/
def State.finishFreeze (s : State) (f : Nat) : State :=
  match s.block? f with
  | none => s
  | some b =>
    let ts := (ctxsOf f b).map fun c => (s.team c).sched
    if b.place = .freezing ∧ ts.all (fun x => x == .frozen || x == .exited) ∧ ts.any (fun x => x == .frozen) then
      let src := b.freeze.getD .host
      let s := (s.captureEnded f b).noteEnd (dieOf b.core) b.queue?
      let s := s.sealFlush b.core f
      let s := s.setBlock f
        { b with
          place := .frozen, cause := src.cause (if src = .host then b.hit else b.forced), frozenAt := s.time
          window := some (windowOf (s.core b.core).sp b.spbase b.scratch), imaged := false, stepping := none, stepped := false }
      if s.frameOk f then s.saveBlock f else s.terminateTeams f Cause.saveflt
    else s

/-- Whether a request of a source stops a team at a boundary: the debugger and an expired deadline at any boundary,
migration and shedding at a barrier boundary, and shedding at any once its 1.5 ms are over (R286, R54, R319). -/
def Block.stopsAt (b : Block) (barrier : Bool) : Bool :=
  match b.freeze with
  | some .debug => true
  | some .host => b.forced
  | some .shedding => barrier || b.forced
  | some .migration => barrier
  | none => false

/-- A team whose scheduling state lies within an instruction: a trap on its way, or a gang change not yet acted. -/
def Sched.between : Sched → Bool
  | .trapping => false
  | .waiting .gangChange => false
  | .frozen => false
  | .exited => false
  | _ => true

/-- A team stopped where it stands by its block's freeze; an expired deadline is noted (R286). -/
def State.stopBy (s : State) (ctx : Nat) : State :=
  let s := s.stopTeam ctx
  match s.blockOf? ctx with
  | none => s
  | some b => if b.freeze = some .host then s.setBlock (frameOf ctx) { b with hit := true } else s

/-- Waits that migration and shedding stop at once (R310). -/
def Sched.softWait : Sched → Bool
  | .waiting (.bar _ _) => true
  | .waiting (.gbar _ _) => true
  | .waiting .events => true
  | _ => false

/-- Whether a team's stand at a boundary is one where its block's freeze takes it (R286, R310); a single step ends by
itself (R296). -/
def Block.takes (b : Block) (barrier : Bool) (w : Sched) : Bool :=
  b.stepping.isNone && w.between && (b.stopsAt barrier || (b.stopsAt true && w.softWait))

/-- The stops that a new request makes at once, for teams that stand at a boundary of its kind. -/
def State.stopDue (s : State) (f : Nat) : State :=
  match s.block? f with
  | none => s
  | some b =>
    if b.place ≠ .freezing then s
    else
      let s := (ctxsOf f b).foldl (fun s c =>
        if b.takes false (s.team c).stand then s.stopBy c else s) s
      s.finishFreeze f

/-- A freeze request (R286, R445).  A held block is frozen at once and stays held after its resume. -/
def State.requestFreeze (s : State) (f : Nat) (src : FreezeSrc) : State :=
  match s.block? f with
  | none => s
  | some b =>
    match b.place with
    | .running =>
      (s.setBlock f { b with place := .freezing, freeze := some src, freezeAt := s.time, deadlineLeft := b.deadline
                             forced := false, hit := false }).saveHeader f |>.stopDue f
    | .held =>
      let s := s.setBlock f { b with place := .freezing, freeze := some src, freezeAt := s.time, heldAt := true, forced := false, hit := false }
      let s := (ctxsOf f b).foldl (fun s c => s.stopTeam c) s
      (s.saveHeader f).finishFreeze f
    | .freezing =>
      match b.freeze with
      | some old =>
        if old.rank < src.rank then
          let s := if old = .migration then s.withdrawn (colOf b.core) else s
          (s.setBlock f { b with
            freeze := some src, migTarget := none
            deadlineLeft := if src = .host then b.deadline else b.deadlineLeft
            freezeAt := s.time, forced := false, hit := false }).stopDue f
        else s
      | none => s
    | _ => s

/-- A barrier boundary of a block: its class takes effect, and a block whose class is being shed is asked to stop (R56,
R321).  Control launches and the debug monitor are never shed (R319). -/
def State.takeClass (s : State) (f : Nat) : State :=
  match s.block? f with
  | none => s
  | some b =>
    let s := s.setBlock f { b with clsEff := b.cls }
    if s.power.shed.getLsbD b.cls ∧ !b.ctrl ∧ !b.monitor then s.requestFreeze f .shedding else s

/-- An instruction boundary of a team: at a barrier boundary the block's class takes effect, and a freeze
that stops here takes the team (R54, R56, R286). -/
def State.boundary (s : State) (ctx : Nat) (barrier : Bool) : State :=
  let f := frameOf ctx
  let s := if barrier then s.takeClass f else s
  match s.block? f with
  | none => s
  | some b =>
    if b.place = .freezing ∧ b.takes barrier (s.team ctx).stand then (s.stopBy ctx).finishFreeze f else s

/-- PREQ as a team reads it (R55). -/
def Block.preq (b : Block) : Nat :=
  match b.place, b.freeze with
  | .freezing, some src => 1 + 2 * src.code
  | _, _ => 0

end Sys2Proof.Machine
end

