-- ==== Sys2Proof/Machine/Translate.lean ====
section
/-! DEFINITION. Page tables, the walk, its checks and the TLBs (spec/07_translation.md R150 to R157). -/

namespace Sys2Proof.Machine

/-- What an access needs of its page. -/
structure Need where
  write : Bool := false
  fetch : Bool := false
  user : Bool := true
  deriving DecidableEq, Repr

/-- Where a walk ends: a well-formed leaf, or a fault TYPE (R160) with the level. -/
inductive Walked where
  | leaf (e : TlbEnt) (level : Nat)
  | fault (type level : Nat)
  deriving DecidableEq, Repr

/-- The bits of a page-table entry that must be zero when P is set (R154). -/
def pteReserved (e : Nat) : Bool := decide (bitsAt e 52 12 ≠ 0) || decide (bitsAt e 10 2 ≠ 0)

/-- The attributes of a leaf (R153). -/
def pteAttr (e : Nat) : Attr :=
  { w := bitAt e 1, x := bitAt e 2, u := bitAt e 3, ord := bitsAt e 4 2, swm := bitAt e 6, peer := bitAt e 9, nowell := bitAt e 8 }

/-- log2 of the bytes of a leaf at a level (R154). -/
def leafSize (level : Nat) (leaf : Bool) : Nat :=
  match level with
  | 0 => if leaf then 16 else 12
  | 1 => 21
  | _ => 30

/-- A table pointer that R151 reserves; tables carry no PEER bit. -/
def badPointer (pa : Nat) : Bool := !paValid pa || 2 ^ 52 ≤ pa

/-- The walk from the table at `table` of level `level` down (R153, R154). -/
def State.walkFrom (s : State) (asid va : Nat) : Nat → Nat → Walked
  | level, table =>
    let e := s.physWord (table + 8 * bitsAt va (12 + 9 * level) 9)
    let pa := bitsAt e 12 40 * 4096
    if !bitAt e 0 then .fault 0 level
    else if pteReserved e then .fault 4 level
    else
      let isLeaf := bitAt e 7 || level == 0
      if isLeaf then
        let a := pteAttr e
        let size := leafSize level (bitAt e 7)
        if 3 ≤ level ∨ a.ord = 3 ∨ pa % 2 ^ size ≠ 0 ∨ (a.peer ∧ !a.swm) then .fault 4 level
        else .leaf { asid, va := va57 va / 2 ^ size * 2 ^ size, size, pa := if a.peer then pa + 2 ^ 52 else pa, attr := a } level
      else if badPointer pa then .fault 5 level
      else
        match level with
        | 0 => .fault 4 0
        | l + 1 => s.walkFrom asid va l pa

/-- A whole walk: the ASID table entry, then the five levels (R152). -/
def State.walk (s : State) (asid va : Nat) : Walked :=
  let e := s.physWord (s.trans.base + 8 * asid)
  let root := bitsAt e 12 40 * 4096
  if !bitAt e 0 ∨ bitsAt e 52 12 ≠ 0 ∨ bitsAt e 1 11 ≠ 0 then .fault 4 4
  else if badPointer root then .fault 5 4
  else s.walkFrom asid va 4 root

/-- The physical lines of the page-table entries that a walk reads from a table down. -/
def State.walkLinesFrom (s : State) (va : Nat) : Nat → Nat → List Nat
  | level, table =>
    let a := table + 8 * bitsAt va (12 + 9 * level) 9
    let e := s.physWord a
    let pa := bitsAt e 12 40 * 4096
    a / 128 ::
      (if !bitAt e 0 || pteReserved e || bitAt e 7 || badPointer pa then []
      else match level with
        | 0 => []
        | l + 1 => s.walkLinesFrom va l pa)

/-- The physical lines that a walk reads (R152, R153). -/
def State.walkLines (s : State) (asid va : Nat) : List Nat :=
  let a := s.trans.base + 8 * asid
  let e := s.physWord a
  a / 128 :: (if !bitAt e 0 || badPointer (bitsAt e 12 40 * 4096) then [] else s.walkLinesFrom va 4 (bitsAt e 12 40 * 4096))

/-- Whether the host owns a line of device memory: memory may be stale (spec/09_coherence.md R196, R206). -/
def DirEnt.hostOwned (e : DirEnt) : Bool := (e.base == .owned || e.base == .exclusive) && e.owner == 4

/-- A request of the home itself joins a line's queue, once (spec/09_coherence.md R197). -/
def State.homeAsk (s : State) (pl : Nat) (op : HomeOp) : State :=
  let e := s.dirEnt pl
  if e.queue.any (fun r => r.op == op) || e.cur.any (fun r => r.op == op) then s
  else s.setDir pl { e with queue := e.queue ++ [{ agent := 5, op }] }

/-- A physical address that is not reserved and, on a peer page, whose peer-table entry is valid (R151,
spec/15_platform.md R330). -/
def State.paOk (s : State) (pa : Nat) : Bool :=
  paValid pa && (decide (pa < 2 ^ 52) || (Tab.get? s.plat.peertab ((pa - 2 ^ 52) / 2 ^ 42)).any (·.1))

/-- The first check of R157 that an access fails on a leaf, as a fault TYPE. -/
def State.leafFault (s : State) (e : TlbEnt) (n : Need) : Option Nat :=
  if !s.paOk e.pa then some 5
  else if n.user && !e.attr.u then some 3
  else if n.fetch && !e.attr.x then some 2
  else if n.write && !e.attr.w then some 1
  else none

/-- The physical address of a byte under a leaf. -/
def TlbEnt.paOf (e : TlbEnt) (va : Nat) : Nat := e.pa + va57 va % 2 ^ e.size

/-- The translation agent of an address, one of the die's four: VA[13:12] (spec/01_device.md R15). -/
def agentOf (va : Nat) : Nat := va / 4096 % 4

/-- Whether a TLB's leaf is that of an address's agent and covers it. -/
def TlbEnt.covers (e : TlbEnt) (asid va : Nat) : Bool :=
  e.agent == agentOf va && e.asid == asid && e.va == va57 va / 2 ^ e.size * 2 ^ e.size

/-- The leaf of a die's TLBs that covers an address. -/
def tlbHit (t : List TlbEnt) (asid va : Nat) : Option TlbEnt := t.find? fun e => e.covers asid va

/-- A die's TLBs with a leaf in that of the address's agent; a full one, of 32,768 entries, gives up its oldest (R156). -/
def tlbPut (t : List TlbEnt) (va : Nat) (e : TlbEnt) : List TlbEnt :=
  let a := agentOf va
  let t := if 32768 ≤ (t.filter fun v => v.agent == a).length then dropFirst (fun v => v.agent == a) t else t
  t ++ [{ e with agent := a }]

/-- The TLB entry of a page dropped (R156). -/
def State.dropTlb (s : State) (d asid va : Nat) : State :=
  let x := s.die d
  s.setDie d { x with tlb := x.tlb.filter fun e => !e.covers asid va }

/-- The 64 KiB leaves that a die has walked, with one more (R155). -/
def noteWalked (l : List TlbEnt) (e : TlbEnt) : List TlbEnt := if e.size = 16 ∧ !l.contains e then l ++ [e] else l

/-- A translation by a die's agents: the TLB's leaf when it grants the access; else a walk from the home that
first drops the TLB's entry (R156); a leaf of a 64 KiB page is noted as walked (R155).  The result is the leaf or the fault TYPE and LEVEL. -/
def State.translate (s : State) (d asid va : Nat) (n : Need) : State × Except (Nat × Nat) TlbEnt :=
  let x := s.die d
  match (tlbHit x.tlb asid va).filter fun e => (s.leafFault e n).isNone with
  | some e => (s, .ok e)
  | none =>
    let tlb := x.tlb.filter fun e => !e.covers asid va
    match s.walk asid va with
    | .fault ty lv => (s.setDie d { x with tlb := tlb }, .error (ty, lv))
    | .leaf e lv =>
      let s := s.setDie d { x with tlb := tlbPut tlb va e, walked := noteWalked x.walked e }
      match s.leafFault e n with
      | some ty => (s, .error (ty, lv))
      | none => (s, .ok e)

/-- The line that keeps a translation waiting: it needs a walk, and the host owns a line of the tables, which the home takes
back first (R156, spec/09_coherence.md R206). -/
def State.walkWaits (s : State) (d asid va : Nat) (n : Need) : Option Nat :=
  if ((tlbHit (s.die d).tlb asid va).filter fun e => (s.leafFault e n).isNone).isSome then none
  else (s.walkLines asid va).find? fun pl => (s.dirEnt pl).hostOwned

/-- What a translation shows, with nothing changed. -/
def State.peek (s : State) (d asid va : Nat) : Except (Nat × Nat) TlbEnt :=
  match tlbHit (s.die d).tlb asid va with
  | some e => .ok e
  | none =>
    match s.walk asid va with
    | .fault ty lv => .error (ty, lv)
    | .leaf e lv => if s.paOk e.pa then .ok e else .error (5, lv)

/-- The bytes of a page that one die sees: its own copy of a software-managed or peer line, the coherent value
otherwise (spec/09_coherence.md R210). -/
def State.seenLine (s : State) (d key pl : Nat) (swm : Bool) : LineData :=
  match Tab.get? (s.die d).lines key with
  | some e => if swm then e.data else s.lineNow pl
  | none => if swm then s.homeRead pl else s.lineNow pl

/-! ## Fault records (R159, R160) -/

/-- The lowest free index of a die's fault buffer. -/
def freeRecord (t : Tab FRec) : Option Nat := firstBelow 4096 0 fun i => (Tab.get? t i).isNone

/-- An entry for the host event ring; it is held until the ring takes it (spec/12_launch.md R271). -/
def State.postHost (s : State) (e : RingEnt) : State :=
  { s with launchRegs := { s.launchRegs with held := s.launchRegs.held ++ [e] } }

/-- The four words of a fault record (R160). -/
def FRec.words (r : FRec) (id : Nat) : List Word64 :=
  [BitVec.ofNat 64 r.va,
   BitVec.ofNat 64 (place r.asid 48 16 + place id 36 12 + place r.path 32 4 + place r.type 28 4 + place r.level 25 3 +
     place (b2n r.rep) 24 1 + place (b2n r.write) 23 1 + r.pcore % 1024),
   BitVec.ofNat 64 r.time,
   BitVec.ofNat 64 (min r.att.length (2 ^ 32 - 1))]

/-- A new record written and copied to the host event ring. -/
def State.openRecord (s : State) (d id : Nat) (r : FRec) : State :=
  let x := s.die d
  (s.setDie d { x with frecs := Tab.put x.frecs id r, logged := min (x.logged + 1) (2 ^ 32 - 1) }).postHost
    { type := 2, die := d, body := r.words id }

/-- A failed access attached to the pending record of its page and type, or to a new one, or waiting for a free
record (R159). -/
def State.logFault (s : State) (d : Nat) (a : Att) (r : FRec) : State :=
  let x := s.die d
  match x.frecs.find? fun e => e.2.va == r.va && e.2.asid == r.asid && e.2.type == r.type with
  | some e => s.setDie d { x with frecs := Tab.put x.frecs e.1 { e.2 with att := e.2.att ++ [a] } }
  | none =>
    match freeRecord x.frecs with
    | some id => s.openRecord d id { r with att := [a] }
    | none => s.setDie d { x with frwait := x.frwait ++ [(a, r)] }

/-- Waiting accesses take records as they free, in the order they failed (R159). -/
def State.drainWaiting (s : State) (d : Nat) : Nat → State
  | 0 => s
  | n + 1 =>
    let x := s.die d
    match x.frwait with
    | [] => s
    | (a, r) :: rest =>
      if (freeRecord x.frecs).isNone then s
      else ((s.setDie d { x with frwait := rest }).logFault d a r).drainWaiting d n

end Sys2Proof.Machine
end

