-- ==== Sys2Proof/Machine/Fetch.lean ====
section
/-! DEFINITION. Fetch lines: the line word, parity, pairs, targets and the fetch buffer (spec/04_encoding.md R58
to R66, R92, R94; spec/07_translation.md R161). -/

namespace Sys2Proof.Machine

/-- The key of a fetch line. -/
def fetchKey (asid va : Nat) : Nat := asid * 2 ^ 51 + va57 va / 64

/-- Slot `i` of a line (R58). -/
def slotWord (line : BitVec 512) (i : Nat) : Word96 := line.extractLsb' (96 * i) 96
/-- The line word (R59). -/
def lineWord (line : BitVec 512) : Nat := (line.extractLsb' 480 32).toNat
/-- TGT bit of a slot. -/
def tgtBit (lw i : Nat) : Bool := bitAt lw i
/-- PAIR bit j: slots j and j + 1 are a pair. -/
def pairBit (lw j : Nat) : Bool := decide (j < 4) && bitAt lw (5 + j)
/-- LPAR is even parity over line-word bits [8:0] and [31:15] (R60). -/
def lparBad (lw : Nat) : Bool := (odd 9 (bitsAt lw 0 9) != odd 17 (bitsAt lw 15 17)) != bitAt lw 14
/-- PAR bit i is even parity over slot i. -/
def parBad (line : BitVec 512) (i : Nat) : Bool := odd 96 (slotWord line i).toNat != bitAt (lineWord line) (9 + i)
/-- A malformed line: adjacent PAIR bits, or TGT on a second member (R66). -/
def malformed (lw : Nat) : Bool :=
  (List.range 3).any (fun j => pairBit lw j && pairBit lw (j + 1)) || (List.range 4).any fun j => pairBit lw j && tgtBit lw (j + 1)

/-- What fetching a line comes to; `later`: a home, or the team's own CINV, must act first. -/
inductive Line where
  | ok (s : State) (line : BitVec 512)
  | fault (s : State) (type level : Nat)
  | later (s : State)
  deriving DecidableEq, Repr

/-- Whether a request is one of a team's that hold no in-flight entry: PREF, WDEPTH, WPIN, WUNPIN and CINV (R170). -/
def Req.bare (r : Req) (ctx : Nat) : Bool :=
  r.ctx == ctx && r.ent == 0 && match r.op with
    | .pref => r.tag == 0
    | .wdepth | .wpin | .wunpin | .cinv => true
    | _ => false

/-- A team's requests without an in-flight entry that have issued and have not been applied. -/
def State.bareOut (s : State) (ctx : Nat) : List Req :=
  let queued := (s.team ctx).lsq.filterMap fun i => match i.work with
    | .glob r => some r
    | _ => none
  let sent := (s.dies.map fun d =>
    (d.2.anns.filterMap fun a => match a with
      | .req r => some r
      | _ => none) ++ d.2.mouthq ++ (d.2.tiles.map fun t => t.2.held).flatten ++ d.2.waits.map (·.req) ++ d.2.walks.map (·.req)).flatten
  (queued ++ sent).filter (·.bare ctx)

/-- Whether a CINV of a team for a line, issued before `uid`, has still to be applied: a later access follows it (R356). -/
def State.cinvBefore (s : State) (ctx uid key : Nat) : Bool :=
  (s.bareOut ctx).any fun r => r.op == .cinv && decide (r.uid < uid) && lineKey r.asid r.va == key

/-- Whether a CINV of a team for a line has still to be applied: a fetch by the team follows it (R356). -/
def State.cinvOut (s : State) (ctx key : Nat) : Bool := s.cinvBefore ctx s.uid key

/-- The line of the Well that a fetch is served from without translation: valid, with kept attributes that allow it (R150). -/
def State.wellFetch (s : State) (d key : Nat) (handler : Bool) : Option (LineData × Attr) :=
  let x := s.die d
  match (Tab.get? x.tiles (tileOfLine key)).bind (·.attr), Tab.get? x.lines key with
  | some a, some l => if l.inWell && a.x && (a.u || handler) then some (l.data, a) else none
  | _, _ => none

/-- Whether the attributes kept with a valid line refuse a fetch: its walk first drops the TLB's entry (R150, R156). -/
def State.keptRefuses (s : State) (d key : Nat) : Bool :=
  let x := s.die d
  ((Tab.get? x.tiles (tileOfLine key)).bind (·.attr)).isSome && (Tab.get? x.lines key).elim false (·.inWell)

/-- The attributes kept with a tile after a walk that they asked for (R150). -/
def State.keepLeaf (s : State) (d tile : Nat) (a : Attr) : State :=
  let x := s.die d
  s.setDie d { x with tiles := Tab.mapVal x.tiles fun k t => if k = tile then { t with attr := some a } else t }

/-- A fetch line taken from a line's data into the core's fetch buffer. -/
def State.takeFetch (s : State) (ctx va : Nat) (data : LineData) (a : Attr) : Line :=
  let line := BitVec.ofNat 512 (lineGet data (va % 128) 64)
  let c := s.coreOf ctx
  .ok (s.setCore c { s.core c with fbuf := Tab.put (s.core c).fbuf (fetchKey (s.asidOf ctx) va) (line, a) }) line

/-- Whether the host cache agent must first have a host line of the host, as an instruction fetch, or an engine that stays out of the Well, reads or
writes it (spec/09_coherence.md R207). -/
def State.hostFirst (s : State) (pl : Nat) (write : Bool) : Bool :=
  decide (2 ^ 44 ≤ pl) && decide (pl < 2 ^ 45) && !(Tab.get? s.filter pl).any fun e => e.excl || !write

/-- What a home must do before a line can be read under a tag: have a line of host memory from the host, with RdShared
(spec/09_coherence.md R207), give up a second tag's copies (R158), or take back the line that the host owns
(spec/09_coherence.md R206). -/
def State.homeFirst (s : State) (key pl : Nat) (swm : Bool) : Option HomeOp :=
  let e := s.dirEnt pl
  if s.hostFirst pl false then some (.swmRead false false)
  else if swm then none
  else if e.key ≠ key ∧ ((e.sharers &&& 15) ≠ 0 ∨ ((e.base = .owned ∨ e.base = .exclusive) ∧ e.owner < 4)) then some .reclaim
  else if e.hostOwned then some .pull
  else none

/-- Whether a peer's memory cannot be reached (spec/15_platform.md R331). -/
def State.peerDown (s : State) (pl : Nat) : Bool :=
  decide (2 ^ 45 ≤ pl) && match Tab.get? s.plat.peertab ((pl - 2 ^ 45) * 128 / 2 ^ 42) with
    | some e => s.plat.deadPeers.contains e.2
    | none => false

/-- Whether a team's fetch of a line of a peer has first to go there: the peer serves it, or answers with an error, once it has
come there (spec/15_platform.md R331). -/
def State.fetchFirst (s : State) (ctx pc pl : Nat) : Bool :=
  decide (2 ^ 45 ≤ pl) && (s.peerDown pl || !(s.die (s.dieOfCtx ctx)).away.contains (ctx, pc, pl))

/-- A team's fetch of a line goes to a peer. -/
def State.fetchAway (s : State) (ctx pc pl : Nat) : State :=
  let d := s.dieOfCtx ctx
  let x := s.die d
  if x.away.contains (ctx, pc, pl) then s else s.setDie d { x with away := x.away ++ [(ctx, pc, pl)] }

/-- A team's fetch of a line is no longer on its way to a peer. -/
def State.fetchBack (s : State) (ctx pc pl : Nat) : State :=
  let d := s.dieOfCtx ctx
  let x := s.die d
  if x.away.contains (ctx, pc, pl) then s.setDie d { x with away := x.away.filter (· != (ctx, pc, pl)) } else s

/-- A line read from memory into the core's fetch buffer, as a bypass load reads (R94, spec/06_well.md R120).  A walk that kept
attributes or a replay ask for first drops the TLB's entry, and what it grants is kept with the line's tile (R150, R156). -/
def State.refetch (s : State) (ctx : Nat) (pc : Word64) (recheck : Bool) : Line :=
  let asid := s.asidOf ctx
  let va := (pcLine pc).toNat
  let d := s.dieOfCtx ctx
  let key := lineKey asid va
  let need : Need := { fetch := true, user := !s.isHandler ctx }
  match s.wellFetch d key (s.isHandler ctx) with
    | some (data, a) => s.takeFetch ctx va data a
    | none =>
      let kept := s.keptRefuses d key
      let s := if kept || recheck || (s.team ctx).fetchRep then s.dropTlb d asid va else s
      match s.walkWaits d asid va need with
      | some pl => .later (s.homeAsk pl .pull)
      | none =>
        match s.translate d asid va need with
        | (s, .error (ty, lv)) => .fault s ty lv
        | (s, .ok e) =>
          let s := if kept then s.keepLeaf d (tileOfLine key) e.attr else s
          let pl := e.paOf va / 128
          match s.homeFirst key pl e.attr.swm with
          | some op => .later (s.homeAsk pl op)
          | none =>
            if s.fetchFirst ctx pc.toNat pl then .later (s.fetchAway ctx pc.toNat pl)
            else (s.fetchBack ctx pc.toNat pl).takeFetch ctx va (s.seenLine d key pl e.attr.swm) e.attr

/-- The line at a program counter: the fetch buffer's copy when its kept attributes allow the fetch, else memory's (R150);
nothing while a CINV of the team for the line is to be applied (R356). -/
def State.fetchLine (s : State) (ctx : Nat) (pc : Word64) : Line :=
  if s.cinvOut ctx (lineKey (s.asidOf ctx) (pcLine pc).toNat) then .later s
  else match Tab.get? (s.core (s.coreOf ctx)).fbuf (fetchKey (s.asidOf ctx) (pcLine pc).toNat) with
  | some (line, a) => if a.x && (a.u || s.isHandler ctx) then .ok s line else s.refetch ctx pc true
  | none => s.refetch ctx pc false

/-- A core's copy of the line at a program counter is discarded. -/
def State.dropFetchLine (s : State) (ctx : Nat) (pc : Word64) : State :=
  let c := s.coreOf ctx
  s.setCore c { s.core c with fbuf := Tab.del (s.core c).fbuf (fetchKey (s.asidOf ctx) (pcLine pc).toNat) }

/-- The line; when a parity check fails on the first copy, the core discards it and fetches the line once more (R60). -/
def State.goodLine (s : State) (ctx : Nat) (pc : Word64) (bad : BitVec 512 → Bool) : Line :=
  match s.fetchLine ctx pc with
  | .ok s' line => if bad line then (s'.dropFetchLine ctx pc).refetch ctx pc false else .ok s' line
  | r => r

/-- The slots that issue at a slot of a line: one, or a pair. -/
def issuing (lw i : Nat) : List Nat := if pairBit lw i then [i, i + 1] else [i]

/-- The target check of a transfer (R63): none when the target passes. -/
inductive Target where
  | ok (s : State)
  | bad (c : Cause)
  | fault (s : State) (type level : Nat)
  | later (s : State)
  deriving DecidableEq, Repr

def State.checkTarget (s : State) (ctx : Nat) (pc : Word64) : Target :=
  if badSlot pc then .bad Cause.badslot
  else if !canonical (pcLine pc) then .bad Cause.noncanon
  else
    match s.goodLine ctx pc fun l => lparBad (lineWord l) with
    | .fault s' ty lv => .fault s' ty lv
    | .later s' => .later s'
    | .ok s' l =>
      if lparBad (lineWord l) then .bad Cause.linepar
      else if !tgtBit (lineWord l) (pcSlot pc) then .bad Cause.badtgt
      else .ok s'

/-- What the fetch at a team's program counter gives: the word or pair to issue, a trap of the line checks, or a
fetch fault that holds the team, or nothing yet. -/
inductive Fetched where
  | words (s : State) (i : Word96) (second : Option Word96)
  | trap (s : State) (c : Cause) (word : Word96)
  | hold (s : State) (type level : Nat)
  | later (s : State)
  deriving DecidableEq, Repr

/-- The line checks of R92 step 1, with those of a saved PC, a fall-through and an entry before them (R62, R64).
The checks that R64 lists log no word at a saved or entry PC; the others log the slot's word (R92). -/
def State.fetch (s : State) (ctx : Nat) : Fetched :=
  let t := s.team ctx
  let pc := t.pc
  if badSlot pc then .trap s Cause.badslot 0
  else if !canonical (pcLine pc) then .trap s Cause.noncanon 0
  else
    let i := pcSlot pc
    let bad := fun l => lparBad (lineWord l) || (issuing (lineWord l) i).any (parBad l)
    match s.goodLine ctx pc bad with
    | .fault s' ty lv => .hold s' ty lv
    | .later s' => .later s'
    | .ok s' l =>
      let lw := lineWord l
      let w := slotWord l i
      let logged := if t.fresh then 0 else w
      if lparBad lw then .trap s' Cause.linepar logged
      else if t.entryTgt && !tgtBit lw i then .trap s' Cause.badtgt 0
      else if (issuing lw i).any (parBad l) then .trap s' Cause.linepar w
      else if bitsAt lw 15 17 ≠ 0 then .trap s' Cause.rsvfld w
      else if malformed lw || (decide (0 < i) && pairBit lw (i - 1)) then .trap s' Cause.badpair logged
      else .words s' w (if pairBit lw i then some (slotWord l (i + 1)) else none)

/-- The team waits at the PC of the line that faulted, attached to a fault record of path 3 (R161).  It resumes there as at
a saved PC (R64), and, with a marker that it has passed, parks then (R43).  An entry slot that it has not yet issued from stays
due to R39's check (DEDUCED, log entry 108). -/
def State.fetchFault (s : State) (ctx ty lv : Nat) : State :=
  let t := s.team ctx
  let va := (pcLine t.pc).toNat / 4096 * 4096
  let s := s.setTeam ctx { t with sched := .waiting .fetchHold, waitWord := if t.sched = .parked then 1 <<< 87 else 0
                                  fresh := true, fetchRep := false }
  s.logFault (s.dieOfCtx ctx) (.fetch ctx)
    { va, asid := s.asidOf ctx, type := ty, level := lv, rep := t.fetchRep, write := false, path := 3
      pcore := s.coreOf ctx % 1024, time := s.time, att := [] }

end Sys2Proof.Machine
end

