-- ==== Sys2Proof/Machine/Issue.lean ====
section
/-! DEFINITION. The issue of a program instruction: the decode checks and their precise trap, the effect, the
program counter, the switch marker and the instruction boundary after it (spec/03_execution.md R43, R45;
spec/04_encoding.md R62, R68, R91, R92; spec/13_preemption.md R274, R276). -/

namespace Sys2Proof.Machine

/-- What an instruction's own part of the issue comes to. -/
inductive Issued where
  /-- The effect is made; execution goes on at the next slot. -/
  | done (s : State)
  /-- The effect is made; execution goes on at a target. -/
  | jump (s : State) (pc : Word64)
  /-- As `jump`, but the fetch of the target's line faults: the fault is charged to the target's PC, where the team waits
  (R63, R64). -/
  | far (s : State) (pc : Word64) (type level : Nat)
  /-- The team waits at this instruction, has ended, or has a program counter of its own. -/
  | stay (s : State)
  /-- One of the entry's own checks fails: a precise trap, with nothing of the instruction performed. -/
  | trap (c : Cause) (addr : Word64)
  /-- The scheduler passes the team over: nothing happens, and the instruction is tried again (R44). -/
  | hold
  /-- As `hold`, while a home that has been asked for it takes back the target's line (R44; spec/07_translation.md R156). -/
  | later (s : State)
  deriving DecidableEq, Repr

/-- The word of an instruction as its trap record logs it (R92). -/
def wordOf (i : Instr) : Word96 := (encode i).getD 0

/-- A precise trap of the word at `pc`, resumed at `resume` (R276). -/
def State.preciseTrap (s : State) (ctx : Nat) (c : Cause) (word : Word96) (pc resume addr : Word64) : State :=
  s.raise ctx { cause := c, pc, resume, word, addr }

/-- The core-local slot of a context (R43, R249). -/
def State.slotOf (s : State) (ctx : Nat) : Nat :=
  (s.blockOf? ctx).elim 0 fun b => b.slots[teamIx ctx]?.getD 0

/-- A single step of the debug monitor ends once its instruction has issued, and its trap or gang change is over: the
stepped team stops again, with DBGSTEP (R296).  It ends too with a team that has ended before it issued. -/
def State.endStep (s : State) (ctx : Nat) (issued : Bool) : State :=
  match s.blockOf? ctx with
  | none => s
  | some b =>
    if b.stepping = some (teamIx ctx) ∧ (issued ∨ b.stepped ∨ (s.team ctx).sched = .exited) then
      if (s.team ctx).sched = .waiting .gangChange ∨ (s.team ctx).sched = .trapping then
        s.setBlock (frameOf ctx) { b with stepped := true }
      else
        (s.stopTeam ctx).setBlock (frameOf ctx) { b with stepping := none, stepped := false, freeze := some .debug, forced := true }
    else s

/-- What follows every issue: the place in the cyclic order, the boundary after the instruction, and the freeze
of a block whose last team has now stopped or ended. -/
def State.afterIssue (s : State) (ctx : Nat) : State :=
  let c := s.coreOf ctx
  let s := s.setCore c { s.core c with last := s.slotOf ctx }
  ((s.boundary ctx false).endStep ctx true).finishFreeze (frameOf ctx)

/-- What follows a change of a team that is no issue of its own: the boundary, the end of a single step, and the freeze
of a block whose last team has stopped. -/
def State.afterEvent (s : State) (ctx : Nat) : State :=
  ((s.boundary ctx false).endStep ctx false).finishFreeze (frameOf ctx)

/-- Issue completed: the marker parks the team, unless the second member of its pair is still to come (R25, R68). -/
def State.complete (s : State) (ctx : Nat) (i : Instr) (pc : Word64) : State :=
  let t := s.team ctx
  let t := { t with pc := pc, fresh := false, entryTgt := false, fetchRep := false }
  if s.pairSecond.isSome then
    { (s.setTeam ctx t) with pairSecond := none, pairMark := swOf i }
  else
    let m := swOf i || s.pairMark
    ({ s with pairMark := false }.setTeam ctx (t.mark m)).afterIssue ctx

/-- Entry checks that a pair's second member makes before either member is performed: BADSPAN of an immediate (R37, R68). -/
def State.badSpan (s : State) (ctx : Nat) (i : Instr) : Bool :=
  let span := (s.blockOf? ctx).elim 16 (·.span)
  match i with
  | .vshfl f => f.vb.toNat == 1023 && decide (span ≤ f.imm.toNat)
  | .vrot f => f.vb.toNat == 1023 && decide (span ≤ f.imm.toNat)
  | _ => false

/-- The trap of a pair's second member or of the pairing rules, with the member it is charged to: true for the second. -/
def State.pairTrap (s : State) (ctx : Nat) (i j : Instr) : Option (Cause × Bool) :=
  match s.decodeTrap ctx j with
  | some c => some (c, true)
  | none =>
    if !pairOk i j then some (Cause.badpair, false)
    else if s.badSpan ctx i then some (Cause.badspan, false)
    else if s.badSpan ctx j then some (Cause.badspan, true)
    else none

/-- The trap that the checks before an instruction's own entry raise, charged to the first or second member. -/
def State.issueTrap (s : State) (ctx : Nat) (i : Instr) : Option (Cause × Bool) :=
  match s.decodeTrap ctx i with
  | some c => some (c, false)
  | none =>
    match s.pairSecond with
    | some j => s.pairTrap ctx i j
    | none => none

/-- Words that are swept over lanes in passes: the V format and the vector memory instructions (R38). -/
def sweeps (w : Word96) : Bool :=
  let op := (w.extractLsb' 88 8).toNat
  decide (op < 0x40) || (decide (0x60 ≤ op) && decide (op < 0x64)) || (decide (0x66 ≤ op) && decide (op < 0x6C))

/-- The lane groups that hold a lane (R300). -/
def groupsOf (ls : List Nat) : BitVec 4 :=
  BitVec.ofNat 4 (((List.range 4).filter fun g => ls.any fun l => l % 32 / 8 == g).map fun g => 2 ^ g).sum

/-- The lane groups in which an instruction has an active lane (R38, R301). -/
def State.groupsAt (s : State) (ctx : Nat) (i : Instr) : BitVec 4 :=
  let w := wordOf i
  if sweeps w then groupsOf ((s.team ctx).active (s.widthOf ctx) (w.extractLsb' 83 4) (w.getLsbD 82)) else 0

/-- Groups noted as busy in the open window of the context's core. -/
def State.noteGroups (s : State) (ctx : Nat) (g : BitVec 4) : State :=
  let c := s.core (s.coreOf ctx)
  s.setCore (s.coreOf ctx) { c with busy := c.busy ||| g }

/-- A transfer is complete, and the fetch at its target faults: the team waits there, but one that a freeze has stopped at the
boundary fetches again when it resumes (R63, R161). -/
def State.targetFault (s : State) (ctx ty lv : Nat) : State :=
  let t := s.team ctx
  if t.sched = .ready ∨ t.sched = .parked then s.fetchFault ctx ty lv
  else s.setTeam ctx { t with fresh := true }

/-- The next state of an instruction whose checks have passed, from what its own part came to. -/
def State.conclude (s : State) (ctx : Nat) (i : Instr) : Issued → State
  | .done s' => (s'.noteGroups ctx (s.groupsAt ctx i)).complete ctx i (nextPc (s.team ctx).pc)
  | .jump s' pc => s'.complete ctx i pc
  | .far s' pc ty lv => (s'.complete ctx i pc).targetFault ctx ty lv
  | .stay s' => ({ s' with pairSecond := none, pairMark := false }).afterIssue ctx
  | .trap c a =>
    let pc := (s.team ctx).pc
    ({ s with pairSecond := none, pairMark := false }.preciseTrap ctx c (wordOf i) pc pc a).afterIssue ctx
  | .hold => { s with cur := none, pairSecond := none, pairMark := false }
  | .later s' => { s' with cur := none, pairSecond := none, pairMark := false }

/-- The issue of instruction `i` by the team `s.cur`: the checks of R92, then the instruction's own part. -/
def State.atIssue (s : State) (i : Instr) (body : Nat → Issued) : Host.Outcome State Fault Refusal :=
  match s.cur with
  | none => .fault .noIssuingTeam
  | some ctx =>
    if s.canIssue ctx then
      match s.issueTrap ctx i with
      | some (c, second) =>
        let pc := (s.team ctx).pc
        let w := if second then s.pairSecond.elim 0 wordOf else wordOf i
        .next (({ s with pairSecond := none, pairMark := false }.preciseTrap ctx c w
          (if second then nextPc pc else pc) pc 0).afterIssue ctx)
      | none => .next (s.conclude ctx i (body ctx))
    else .fault .noIssuingTeam

/-- A team begins to wait at its instruction (R43). -/
def State.waitAt (s : State) (ctx : Nat) (w : WaitFor) (word : Word96) : State :=
  s.setTeam ctx { s.team ctx with sched := .waiting w, waitWord := word, fresh := false, entryTgt := false, fetchRep := false }

/-- A wait ends: the team goes on at the next slot, parked if its word carries a marker and results are out;
after BARWAIT and GBAR it stands at a barrier boundary (R43, R54).  A fatal fault that is pending comes first: it is
delivered at the wait, or, where a gang's phase has ended it, before the next instruction (R166). -/
def State.endWait (s : State) (ctx : Nat) (barrier : Bool) : State :=
  let t := s.team ctx
  if !t.fatal.isEmpty then
    match t.sched with
    | .waiting (.gbar _ _) => (s.setTeam ctx { t with sched := .parked, pc := nextPc t.pc, waitWord := 0 }).boundary ctx barrier
    | _ => s
  else
  (s.setTeam ctx ({ t with sched := .ready, pc := nextPc t.pc, waitWord := 0 }.mark (t.waitWord.getLsbD 87))).boundary ctx barrier

/-- An instruction whose effect is a change of its own team's registers alone, computed from the team before it. -/
def State.regEffect (s : State) (ctx : Nat) (f : Team → Team) : Issued := .done (s.setTeam ctx (f (s.team ctx)))

/-- An instruction whose effect is to make register results outstanding under a fresh identity. -/
def State.results (s : State) (ctx : Nat) (rs : List (Cell × Option (BitVec 1024))) : Issued :=
  .done ((s.setTeam ctx ((s.team ctx).postAll s.uid rs)).bumpUid)

end Sys2Proof.Machine
end

