-- ==== Sys2Proof/Machine/Object.lean ====
section
/-! DEFINITION. Barrier objects and the teams that wait on them (spec/11_completion.md R239 to R242, R245;
spec/16_ref_bany_dloop.md R347). -/

namespace Sys2Proof.Machine

/-! ## The object (R239): 32 bytes as one number -/

/-- A number with one field replaced. -/
def setBits (x lo n v : Nat) : Nat := x - bitsAt x lo n * 2 ^ lo + v % 2 ^ n * 2 ^ lo

namespace Bar
/-- TARGET. -/
def target (o : Nat) : Nat := bitsAt o 0 32
/-- ARRIVED. -/
def arrived (o : Nat) : Nat := bitsAt o 32 32
/-- EXPECT. -/
def expect (o : Nat) : Nat := bitsAt o 64 64
/-- GOT. -/
def got (o : Nat) : Nat := bitsAt o 128 64
/-- PHASE. -/
def phase (o : Nat) : Bool := bitAt o 192
/-- F. -/
def fault (o : Nat) : Bool := bitAt o 207
/-- CAUSE. -/
def cause (o : Nat) : Cause := BitVec.ofNat 7 (bitsAt o 200 7)

/-- The fault flag set with a cause (R240, R244). -/
def setFault (o : Nat) (c : Cause) : Nat := setBits o 200 8 (128 + c.toNat)

/-- A counting event applied (R240). -/
def apply (o a n : Nat) : Nat :=
  if fault o then o
  else if target o < arrived o + a ∨ expect o < got o + n then setFault o Cause.barovf
  else if arrived o + a = target o ∧ got o + n = expect o then
    setBits (setBits (setBits o 192 1 (1 - bitsAt o 192 1)) 32 32 0) 128 64 0
  else setBits (setBits o 32 32 (arrived o + a)) 128 64 (got o + n)

/-- The object that BARINIT writes (R241, R345). -/
def init (target expect : Nat) : Nat := target % 2 ^ 32 + expect % 2 ^ 64 * 2 ^ 64
end Bar

/-- An object of a window, as the bank or the sealed window's image holds it. -/
def State.object (s : State) (f : Nat) (b : Block) (off : Nat) : Nat :=
  match b.window with
  | some w => ofBytes (s.windowRead f b w off 32)
  | none => ofBytes ((s.core b.core).sp.readN (padAddr b off) 32)

/-- An object written. -/
def State.setObject (s : State) (f : Nat) (b : Block) (off x : Nat) : State :=
  match b.window with
  | some w => s.windowWrite f b w off (toBytes 32 x)
  | none =>
    let c := s.core b.core
    s.setCore b.core { c with sp := c.sp.writeN (padAddr b off) (toBytes 32 x) }

/-- A scratchpad with the bytes of a plain write at an address. -/
def State.padPut (s : State) (core a : Nat) (bs : List Byte) : Memory :=
  (s.keepPhase core (bs.zipIdx.map fun e => (a + e.2, e.1))).foldl (fun m e => m.write e.1 e.2) (s.core core).sp

/-- What a BARWAIT finds at an object (R242). -/
inductive Exam where
  | trap (c : Cause) | pass | wait
  deriving DecidableEq, Repr

/-- The flag is examined before the phase. -/
def examine (o : Nat) (wanted : Bool) : Exam :=
  if Bar.fault o then .trap (Bar.cause o) else if Bar.phase o != wanted then .pass else .wait

/-- Whether ranges of bytes overlap. -/
def overlaps (a n b m : Nat) : Bool := decide (a < b + m) && decide (b < a + n)

/-- Whether window work touches bytes of the window. -/
def LsWork.touchesPad (w : LsWork) (lo n : Nat) : Bool :=
  match w with
  | .win _ ps => ps.any fun p => overlaps p.va p.n lo n
  | .barinit off _ _ => overlaps off 32 lo n
  | .bararv off => overlaps off 32 lo n
  | .barexam off _ => overlaps off 32 lo n
  | _ => false

/-- Counting events of a team on their way to an object. -/
def State.ownEvents (s : State) (ctx off n : Nat) : Bool :=
  (s.cores.any fun c => c.2.bankq.any fun e => e.ctx == ctx && e.frame == frameOf ctx && overlaps e.off 32 off n)

/-- Whether an earlier access of a team, of those before an item, is still to act on an object. -/
def State.aimedBefore (s : State) (ctx uid off : Nat) : Bool :=
  ((s.team ctx).lsq.any fun j => decide (j.uid < uid) && j.work.touchesPad off 32) || s.ownEvents ctx off 32

/-- What an examination comes to: a trap, or the end of the wait. -/
def State.examEnd (s : State) (ctx off : Nat) (c : Cause) : State :=
  let t := s.team ctx
  if c = Cause.none then s.endWait ctx true
  else (s.preciseTrap ctx c t.waitWord t.pc t.pc (BitVec.ofNat 64 off)).afterEvent ctx

/-- A waiting BARWAIT examines its object (R242, R347).  While other accesses of its team still hold its first examination, a
change that ends the wait is kept for that examination, so that a later one does not hide it; what stands before earlier
accesses of the team to the object counts for nothing (DEDUCED, log entry 124). -/
def State.examWait (s : State) (ctx : Nat) : State :=
  let t := s.team ctx
  match t.sched, s.blockOf? ctx with
  | .waiting (.bar off wanted), some b =>
    let found : Option Cause := match examine (s.object (frameOf ctx) b off) wanted with
      | .trap c => some c
      | .pass => some Cause.none
      | .wait => none
    match t.lsq.find? fun i => match i.work with
        | .barexam _ _ => !i.reexam
        | _ => false with
    | some i =>
      if s.aimedBefore ctx i.uid off then s
      else s.setTeam ctx { t with lsq := t.lsq.map fun j => if j.uid = i.uid then { j with seen := j.seen.orElse fun _ => found } else j }
    | none => found.elim s (s.examEnd ctx off)
  | _, _ => s

/-- The first examination of a BARWAIT, with what a change has shown while it was held (R347). -/
def State.examFirst (s : State) (ctx : Nat) (i : LsItem) : State :=
  match i.seen, (s.team ctx).sched with
  | some c, .waiting (.bar off _) => s.examEnd ctx off c
  | _, _ => s.examWait ctx

/-- The teams of a block that wait on a changed object examine it. -/
def State.examBlock (s : State) (f : Nat) : State :=
  match s.block? f with
  | none => s
  | some b => if b.window.isSome then s else (ctxsOf f b).foldl (fun s c => s.examWait c) s

/-- The CP writes of a core become visible to LS and MX, and the teams that wait on objects of its windows examine them
again (R242, R245). -/
def State.flushCore (s : State) (core : Nat) : State :=
  if (s.core core).cpbuf.isEmpty then s
  else
    let s := s.landCp core
    (s.blocks.filter fun e => e.2.core == core).foldl (fun s e => s.examBlock e.1) s

end Sys2Proof.Machine
end

