-- ==== Sys2Proof/Machine/Scalar.lean ====
section
/-! DEFINITION. The scalar instructions and the special registers (spec/17_ref_evpop_sxor.md R391, R394 to R399;
spec/03_execution.md R55, R56). -/

namespace Sys2Proof.Machine

/-- A scalar result of the two sources, read at issue; a write to s0 is discarded (R395, R78). -/
def State.scalarOp (s : State) (ctx : Nat) (f : SF) (g : Word64 → Word64 → Word64) : Issued :=
  let t := s.team ctx
  s.results ctx [(.s f.sd.toNat, some ((g (t.sreg f.sa.toNat) (t.sreg f.sb.toNat)).setWidth 1024))]

/-- SADD (R395). -/
def execSadd (f : SF) (s : State) : Host.Outcome State Fault Refusal :=
  s.atIssue (.sadd f) fun ctx => s.scalarOp ctx f fun a b => a + b
/-- SADDI: IMM64 for b (R395). -/
def execSaddi (f : SF) (s : State) : Host.Outcome State Fault Refusal :=
  s.atIssue (.saddi f) fun ctx => s.scalarOp ctx f fun a _ => a + f.imm
/-- SSUB (R395). -/
def execSsub (f : SF) (s : State) : Host.Outcome State Fault Refusal :=
  s.atIssue (.ssub f) fun ctx => s.scalarOp ctx f fun a b => a - b
/-- SMUL (R395). -/
def execSmul (f : SF) (s : State) : Host.Outcome State Fault Refusal :=
  s.atIssue (.smul f) fun ctx => s.scalarOp ctx f fun a b => a * b
/-- SMULH: bits [127:64] of the exact signed product (R395). -/
def execSmulh (f : SF) (s : State) : Host.Outcome State Fault Refusal :=
  s.atIssue (.smulh f) fun ctx => s.scalarOp ctx f fun a b => wrap64 (a.toInt * b.toInt / (2 ^ 64 : Nat))

/-- The quotient of SDIV and SREM, rounded toward zero (R395, R397). -/
def quot (uns : Bool) (a b : Word64) : Int := if uns then (a.toNat / b.toNat : Nat) else a.toInt.tdiv b.toInt

/-- SDIV: SDIVZERO when b is 0 (R397). -/
def execSdiv (f : SF) (s : State) : Host.Outcome State Fault Refusal :=
  s.atIssue (.sdiv f) fun ctx =>
    if (s.team ctx).sreg f.sb.toNat = 0 then .trap Cause.sdivzero 0
    else s.scalarOp ctx f fun a b => wrap64 (quot (f.imm.getLsbD 0) a b)

/-- SREM: a − b × quotient; SDIVZERO when b is 0 (R397). -/
def execSrem (f : SF) (s : State) : Host.Outcome State Fault Refusal :=
  s.atIssue (.srem f) fun ctx =>
    if (s.team ctx).sreg f.sb.toNat = 0 then .trap Cause.sdivzero 0
    else s.scalarOp ctx f fun a b => a - b * wrap64 (quot (f.imm.getLsbD 0) a b)

/-- SAND (R395). -/
def execSand (f : SF) (s : State) : Host.Outcome State Fault Refusal :=
  s.atIssue (.sand f) fun ctx => s.scalarOp ctx f fun a b => a &&& b
/-- SOR (R395). -/
def execSor (f : SF) (s : State) : Host.Outcome State Fault Refusal :=
  s.atIssue (.sor f) fun ctx => s.scalarOp ctx f fun a b => a ||| b
/-- SXOR (R395). -/
def execSxor (f : SF) (s : State) : Host.Outcome State Fault Refusal :=
  s.atIssue (.sxor f) fun ctx => s.scalarOp ctx f fun a b => a ^^^ b
/-- SSHL: only bits [5:0] of the count are used (R395). -/
def execSshl (f : SF) (s : State) : Host.Outcome State Fault Refusal :=
  s.atIssue (.sshl f) fun ctx => s.scalarOp ctx f fun a b => a <<< (b.toNat % 64)
/-- SSHR: zero-filling (R395). -/
def execSshr (f : SF) (s : State) : Host.Outcome State Fault Refusal :=
  s.atIssue (.sshr f) fun ctx => s.scalarOp ctx f fun a b => a >>> (b.toNat % 64)
/-- SSRA: sign-filling (R395). -/
def execSsra (f : SF) (s : State) : Host.Outcome State Fault Refusal :=
  s.atIssue (.ssra f) fun ctx => s.scalarOp ctx f fun a b => a.sshiftRight (b.toNat % 64)
/-- SMIN: signed (R395). -/
def execSmin (f : SF) (s : State) : Host.Outcome State Fault Refusal :=
  s.atIssue (.smin f) fun ctx => s.scalarOp ctx f fun a b => if a.toInt ≤ b.toInt then a else b
/-- SMAX: signed (R395). -/
def execSmax (f : SF) (s : State) : Host.Outcome State Fault Refusal :=
  s.atIssue (.smax f) fun ctx => s.scalarOp ctx f fun a b => if b.toInt ≤ a.toInt then a else b
/-- SCMP (R396). -/
def execScmp (f : SF) (s : State) : Host.Outcome State Fault Refusal :=
  s.atIssue (.scmp f) fun ctx => s.scalarOp ctx f fun a b => if condScalar (f.imm.toNat % 8) a b then 1 else 0
/-- SSEL: SD is the condition and the destination (R395). -/
def execSsel (f : SF) (s : State) : Host.Outcome State Fault Refusal :=
  s.atIssue (.ssel f) fun ctx => s.scalarOp ctx f fun a b => if (s.team ctx).sreg f.sd.toNat ≠ 0 then a else b
/-- SMOV (R395). -/
def execSmov (f : SF) (s : State) : Host.Outcome State Fault Refusal :=
  s.atIssue (.smov f) fun ctx => s.scalarOp ctx f fun a _ => a
/-- SMOVI (R395). -/
def execSmovi (f : SF) (s : State) : Host.Outcome State Fault Refusal :=
  s.atIssue (.smovi f) fun ctx => s.scalarOp ctx f fun _ _ => f.imm

/-! ## Special registers (R55, R56, R399) -/

/-- The address of the current trap record; 0 outside a handler (R55, R275). -/
def State.trapRec (s : State) (ctx : Nat) : Nat :=
  if (s.team ctx).handler && !(s.blockOf? ctx).elim false (·.monitor) then
    s.frameVA (frameOf ctx) (trapArea (teamIx ctx)) else 0

/-- The value of special register `n` as a lane of a context reads it at issue.  TEMP of a control core, which has no sensor, reads
zero (DESIGN CHOICE, log entry 100). -/
def State.special (s : State) (ctx n lane : Nat) : Nat :=
  match s.blockOf? ctx with
  | none => 0
  | some b =>
    let t := s.team ctx
    let c := s.core b.core
    match n with
    | 0 => lane
    | 1 => teamIx ctx
    | 2 => b.teams
    | 3 => b.index.toNat
    | 4 => ((s.queue b.queue).launches.find? fun l => l.seq == b.seq).elim 0 (·.pkt.blocks)
    | 5 => b.width
    | 6 => b.span
    | 7 => b.lcore
    | 8 => b.core
    | 9 => colOf b.core % 24
    | 10 => dieOf b.core
    | 11 => s.cyclesOf (s.colOfCtx ctx)
    | 12 => s.time
    | 13 => t.mode.toNat
    | 14 => b.params.toNat
    | 15 => b.spbase
    | 16 => b.preq
    | 17 => t.bell.toNat
    | 18 => b.cls
    | 19 => b.queue
    | 20 => b.asid
    | 21 => c.nt.toNat
    | 22 => t.gangs.toNat
    | 24 => c.temp.toNat
    | 25 => t.faultpc.toNat
    | 26 => s.trapRec ctx
    | _ => 0

/-- The number field of SREAD and SWRITE (R79). -/
def srNumber (f : SF) : Nat := f.imm.toNat % 4096

/-- SREAD into an s-register: 27 and above, and LANE, trap with BADREG (R56, R399). -/
def execSread (f : SF) (s : State) : Host.Outcome State Fault Refusal :=
  s.atIssue (.sread f) fun ctx =>
    if 27 ≤ srNumber f ∨ srNumber f = 0 then .trap Cause.badreg 0
    else s.results ctx [(.s f.sd.toNat, some (BitVec.ofNat 1024 (s.special ctx (srNumber f) 0 % 2 ^ 64)))]

/-- SREAD into a v-register: the low 32 bits into every active lane (R56, R79). -/
def execSreadV (f : SF) (s : State) : Host.Outcome State Fault Refusal :=
  s.atIssue (.sreadV f) fun ctx =>
    if 27 ≤ srNumber f then .trap Cause.badreg 0
    else s.results ctx <| (lanesOf (s.widthOf ctx) (s.team ctx).exec).map fun l =>
      (.v (f.imm.extractLsb' 13 10).toNat l, some (BitVec.ofNat 1024 (s.special ctx (srNumber f) l % 2 ^ 32)))

/-- SWRITE: BELL clears, PCLASS lowers the block's class; any other number traps with BADREG (R56). -/
def execSwrite (f : SF) (s : State) : Host.Outcome State Fault Refusal :=
  s.atIssue (.swrite f) fun ctx =>
    let t := s.team ctx
    let x := (t.sreg f.sa.toNat).toNat
    match srNumber f, s.blockOf? ctx with
    | 17, _ => .done (s.setTeam ctx { t with bell := 0 })
    | 18, some b =>
      if 7 < x ∨ x < b.cls then .trap Cause.privop 0 else .done (s.setBlock (frameOf ctx) { b with cls := x })
    | _, _ => .trap Cause.badreg 0

/-- Where SHSET's fields lie in a record: lowest bit and width (R391, R216). -/
def shsetField (code : Nat) : Nat × Nat :=
  match code with
  | 0 => (0, 64)
  | 1 => (64, 4)
  | 2 => (68, 2)
  | 3 => (70, 8)
  | 4 => (80, 20)
  | 5 => (100, 20)
  | 6 => (128, 40)
  | 7 => (168, 16)
  | 8 => (192, 32)
  | 9 => (224, 32)
  | 10 => (256, 64)
  | 11 => (320, 32)
  | _ => (384, 64)

/-- A record with one field replaced. -/
def setField (r : Record) (lo w x : Nat) : Record :=
  BitVec.ofNat 512 (r.toNat - bitsAt r.toNat lo w * 2 ^ lo + x % 2 ^ w * 2 ^ lo)

/-- SHSET: one field of an h-register, from S(SA) + IMM64 (R391). -/
def execShset (f : SF) (s : State) : Host.Outcome State Fault Refusal :=
  s.atIssue (.shset f) fun ctx =>
    let t := s.team ctx
    let fld := shsetField f.sb.toNat
    let x := t.sreg f.sa.toNat + f.imm
    s.results ctx [(.h f.sd.toNat, some ((setField (t.hreg f.sd.toNat) fld.1 fld.2 x.toNat).setWidth 1024))]

end Sys2Proof.Machine
end

