-- ==== Sys2Proof/Machine/Control.lean ====
section
/-! DEFINITION. Branches, divergence, the ends of teams, traps, MODE, the waits on counters and the fence
(spec/16_ref_bany_dloop.md R342 to R352, R369 to R371; spec/17_ref_evpop_sxor.md R377, R381, R385, R386;
spec/18_ref_trap_vmul.md R403 to R406; spec/19_ref_vmulh_zwr.md R433, R437, R438). -/

namespace Sys2Proof.Machine

/-! ## Transfers of control -/

/-- The target of a direct branch (R87). -/
def branchTarget (pc : Word64) (f : CF) : Word64 :=
  (pcLine pc + 64 * f.disp.signExtend 64) ||| f.slot.setWidth 64

/-- A transfer, its target checked first; `then'` makes what else the instruction writes (R63, R342). -/
def State.transfer (s : State) (ctx : Nat) (target : Word64) (then' : State → State) : Issued :=
  match s.checkTarget ctx target with
  | .ok s' => .jump (then' s') target
  | .fault s' ty lv => .far (then' s') target ty lv
  | .later s' => .later s'
  | .bad c => .trap c target

/-- A direct branch taken when a condition holds; a branch not taken checks nothing (R342). -/
def State.branchIf (s : State) (ctx : Nat) (f : CF) (taken : Bool) : Issued :=
  if taken then s.transfer ctx (branchTarget (s.team ctx).pc f) id else .done s

/-- BR: always taken (R351). -/
def execBr (f : CF) (s : State) : Host.Outcome State Fault Refusal :=
  s.atIssue (.br f) fun ctx => s.branchIf ctx f true

/-- BCOND: the condition on S(SA) (R349). -/
def execBcond (f : CF) (s : State) : Host.Outcome State Fault Refusal :=
  s.atIssue (.bcond f) fun ctx => s.branchIf ctx f (condBranch f.cc.toNat ((s.team ctx).sreg f.sa.toNat))

/-- BANY: some lane of (exec and mask) (R343). -/
def execBany (f : CF) (s : State) : Host.Outcome State Fault Refusal :=
  s.atIssue (.bany f) fun ctx =>
    let t := s.team ctx
    s.branchIf ctx f (t.exec &&& t.kreg f.ksel.toNat != 0)

/-- BNONE: no lane of (exec and mask) (R343). -/
def execBnone (f : CF) (s : State) : Host.Outcome State Fault Refusal :=
  s.atIssue (.bnone f) fun ctx =>
    let t := s.team ctx
    s.branchIf ctx f (t.exec &&& t.kreg f.ksel.toNat == 0)

/-- A write made at issue and not as a register result: an outstanding result of the register is discarded (R352, R45). -/
def Team.writeNow (t : Team) (c : Cell) (val : BitVec 1024) : Team :=
  { t with pend := t.pend.filter fun r => r.cell != c }.writeCell c val

/-- CALL: the return point is written at issue, once the target has passed (R352). -/
def execCall (f : CF) (s : State) : Host.Outcome State Fault Refusal :=
  s.atIssue (.call f) fun ctx =>
    let pc := (s.team ctx).pc
    s.transfer ctx (branchTarget pc f) fun s' =>
      s'.setTeam ctx ((s'.team ctx).writeNow (.s f.sa.toNat) ((nextPc pc).setWidth 1024))

/-- JMP: the whole target from S(SA) (R381). -/
def execJmp (f : CF) (s : State) : Host.Outcome State Fault Refusal :=
  s.atIssue (.jmp f) fun ctx => s.transfer ctx ((s.team ctx).sreg f.sa.toNat) id

/-- RET: as JMP (R381). -/
def execRet (f : CF) (s : State) : Host.Outcome State Fault Refusal :=
  s.atIssue (.ret f) fun ctx => s.transfer ctx ((s.team ctx).sreg f.sa.toNat) id

/-! ## Divergence (R48, R370): the stack's innermost frame comes first -/

/-- The greatest depth of the mask stack (R47). -/
def stackMax : Nat := 32

/-- DIVG (R370). -/
def execDivg (f : CF) (s : State) : Host.Outcome State Fault Refusal :=
  s.atIssue (.divg f) fun ctx =>
    let t := s.team ctx
    if stackMax ≤ t.stack.length then .trap Cause.divovf 0
    else
      let c := t.exec &&& t.kreg f.ksel.toNat
      s.regEffect ctx fun t => { t with stack := { loop := false, saved := t.exec, cond := c } :: t.stack, exec := c }

/-- DELSE: the other side of the top IF frame (R370). -/
def execDelse (f : CF) (s : State) : Host.Outcome State Fault Refusal :=
  s.atIssue (.delse f) fun ctx =>
    match (s.team ctx).stack with
    | [] => .trap Cause.divunf 0
    | top :: rest =>
      if top.loop then .trap Cause.divunf 0
      else
        let c := top.saved &&& ~~~ top.cond
        s.regEffect ctx fun t => { t with stack := { top with cond := c } :: rest, exec := c }

/-- DJOIN: the top frame's saved mask; the frame is popped (R370). -/
def execDjoin (f : CF) (s : State) : Host.Outcome State Fault Refusal :=
  s.atIssue (.djoin f) fun ctx =>
    match (s.team ctx).stack with
    | [] => .trap Cause.divunf 0
    | top :: rest => s.regEffect ctx fun t => { t with stack := rest, exec := top.saved }

/-- DLOOP (R370). -/
def execDloop (f : CF) (s : State) : Host.Outcome State Fault Refusal :=
  s.atIssue (.dloop f) fun ctx =>
    if stackMax ≤ (s.team ctx).stack.length then .trap Cause.divovf 0
    else s.regEffect ctx fun t => { t with stack := { loop := true, saved := t.exec, cond := 0 } :: t.stack }

/-- Lanes removed from every IF frame above the innermost LOOP frame (R370). -/
def breakFrames (b : Mask) : List MaskFrame → List MaskFrame
  | [] => []
  | g :: gs => if g.loop then g :: gs else { g with saved := g.saved &&& ~~~ b, cond := g.cond &&& ~~~ b } :: breakFrames b gs

/-- DBRK (R370). -/
def execDbrk (f : CF) (s : State) : Host.Outcome State Fault Refusal :=
  s.atIssue (.dbrk f) fun ctx =>
    if !(s.team ctx).stack.any (·.loop) then .trap Cause.divunf 0
    else s.regEffect ctx fun t =>
      let b := t.exec &&& t.kreg f.ksel.toNat
      { t with stack := breakFrames b t.stack, exec := t.exec &&& ~~~ b }

/-! ## EXIT, YIELD, NOP -/

/-- EXIT: the team leaves its gangs and issues nothing more; its entries go on (R377). -/
def execExit (f : CF) (s : State) : Host.Outcome State Fault Refusal :=
  s.atIssue (.exit f) fun ctx => .stay (s.endTeam ctx Cause.none 0)

/-- YIELD: a barrier boundary; with a freeze requested the team stops after it and saves the live registers (R438). -/
def execYield (f : CF) (s : State) : Host.Outcome State Fault Refusal :=
  s.atIssue (.yield f) fun ctx =>
    match s.blockOf? ctx with
    | none => .done s
    | some b =>
      let s := s.takeClass (frameOf ctx)
      if ((s.blockOf? ctx).elim 0 (·.preq)) % 2 = 0 then .done s
      else
        let t := s.team ctx
        let t := { t with pc := nextPc t.pc, live := min f.disp.toNat b.vregs, fresh := false, entryTgt := false, fetchRep := false }.mark f.sw
        .stay ((s.setTeam ctx t).stopTeam ctx)

/-- NOP changes nothing (R386). -/
def execNop (f : CF) (s : State) : Host.Outcome State Fault Refusal :=
  s.atIssue (.nop f) fun _ => .done s

/-! ## Traps and MODE -/

/-- TRAP #n: cause 0x70 + n, resumed at the next instruction (R403, R276). -/
def execTrap (f : YF) (s : State) : Host.Outcome State Fault Refusal :=
  s.atIssue (.trap f) fun ctx =>
    let pc := (s.team ctx).pc
    .stay (s.preciseTrap ctx (Cause.trap0 + f.code) (wordOf (.trap f)) pc (nextPc pc) 0)

/-- The virtual addresses of a team's pieces of work on a path to memory. -/
def LsWork.touches (w : LsWork) (lo n : Nat) : Bool :=
  match w with
  | .glob r => r.op != .load && r.pieces.any fun p => decide (p.va < lo + n) && decide (lo < p.va + p.n)
  | _ => false

/-- Stores of a team to its trap area that have not been performed (R406). -/
def State.trapStores (s : State) (ctx : Nat) : Bool :=
  let lo := s.frameVA (frameOf ctx) (trapArea (teamIx ctx))
  (s.team ctx).inflight.any fun e => e.st && decide (0 < e.left) && e.works.any fun i => i.work.touches lo 320

/-- The bounds of a WAITCNT: none for a counter left out (R433). -/
def waitBounds (disp : Nat) : WaitFor :=
  .counters (if bitAt disp 24 then none else some (bitsAt disp 0 8))
    (if bitAt disp 25 then none else some (bitsAt disp 8 8)) (if bitAt disp 26 then none else some (bitsAt disp 16 8))

/-- Whether a team's counters are at or below the bounds (R179). -/
def Team.countersMet (t : Team) : WaitFor → Bool
  | .counters ld st cp => ld.all (t.ldcnt ≤ ·) && st.all (t.stcnt ≤ ·) && cp.all (t.cpcnt ≤ ·)
  | _ => false

/-- The checks of an object named by a team: within its window, then aligned (R243). -/
def State.objectCheck (s : State) (ctx : Nat) (off : Word64) : Option Cause :=
  if (s.blockOf? ctx).elim 0 (·.scratch) < off.toNat + 32 then some Cause.spbound
  else if off.toNat % 32 ≠ 0 then some Cause.misalign
  else none

/-- The wait of the instruction at the PC, whose word is `w`, is resumed without its being issued again (R406).  A GBAR waits
on for the phase that its arrival counts in, and is released where that has changed; a WAITCNT, BARWAIT or EVWAIT waits as it
does at its issue; an instruction that does not wait is passed (DESIGN CHOICE, log entry 90). -/
def State.resumeWait (s : State) (ctx : Nat) (w : Word96) : State :=
  let t := s.team ctx
  let s := s.setTeam ctx { t with rewait := false, suspWait := none, suspWord := 0, fresh := false, fetchRep := false }
  match decode w with
  | .gbar _ =>
    match t.suspWait with
    | some g => s.waitAt ctx (.gbar g (t.lsq.all fun i => i.work != .gbar g)) w
    | none => (s.waitAt ctx (.gbar 0 true) w).endWait ctx true
  | .waitcnt f =>
    let c := waitBounds f.disp.toNat
    let s := s.waitAt ctx c w
    if t.countersMet c then s.endWait ctx false else s
  | .barwait f =>
    let off := t.sreg f.bar.toNat
    match s.objectCheck ctx off with
    | some c => s.preciseTrap ctx c w t.pc t.pc off
    | none => (s.waitAt ctx (.bar off.toNat ((t.sreg f.s1.toNat).getLsbD 0)) w).examWait ctx
  | .evwait _ =>
    let s := s.waitAt ctx .events w
    if (s.cluster (s.colOfCtx ctx)).evq.isEmpty then s else s.endWait ctx false
  | _ => (s.setTeam ctx ({ s.team ctx with pc := nextPc t.pc }.mark (w.getLsbD 87))).boundary ctx false

/-- A team that is to resume a wait does so, if the line at its PC can be fetched and it is not parked; what the fetch meets
else comes as at an issue. -/
def State.resumeNow (s : State) (ctx : Nat) : State :=
  if (s.team ctx).rewait ∧ s.canIssue ctx then
    match s.fetch ctx with
    | .words s' w _ => s'.resumeWait ctx w
    | _ => s
  else s

/-- TRET (R406): BADTRET outside handler mode, and in the debug monitor, which never leaves it (R296); it waits for the team's stores to its trap area. -/
def execTret (f : YF) (s : State) : Host.Outcome State Fault Refusal :=
  s.atIssue (.tret f) fun ctx =>
    if !(s.team ctx).handler || (s.blockOf? ctx).elim false (·.monitor) then .trap Cause.badtret 0
    else if s.trapStores ctx then .hold
    else
      let s' := s.leaveHandler ctx
      .stay ((s'.setTeam ctx ((s'.team ctx).mark f.sw)).resumeNow ctx)

/-- MODEWR: reserved bits or NT = 3 trap with RSVFLD (R385, R100). -/
def execModewr (f : YF) (s : State) : Host.Outcome State Fault Refusal :=
  s.atIssue (.modewr f) fun ctx =>
    let x := (s.team ctx).sreg f.sa.toNat
    if badMode x then .trap Cause.rsvfld 0 else s.regEffect ctx fun t => { t with mode := x }

/-- BELLARM: the block's bell address; 0 disarms the bell (spec/14_power.md R305). -/
def execBellarm (f : YF) (s : State) : Host.Outcome State Fault Refusal :=
  s.atIssue (.bellarm f) fun ctx =>
    match s.blockOf? ctx with
    | none => .done s
    | some b => .done (s.setBlock (frameOf ctx) { b with bellAddr := (s.team ctx).sreg f.sa.toNat })

/-- A reserved opcode has no effect of its own: decode traps with ILLOP (R93). -/
def execReservedOpcode (w : Word96) (s : State) : Host.Outcome State Fault Refusal :=
  s.atIssue (.reservedOpcode w) fun _ => .trap Cause.illop 0

/-- The line checks of the issuing team's slot (R92 step 1): a failing check traps with no word decoded, and a
fetch fault holds the team; checks that pass change nothing but the fetch buffer. -/
def execLineChecks (s : State) : Host.Outcome State Fault Refusal :=
  match s.cur with
  | none => .fault .noIssuingTeam
  | some ctx =>
    if s.canIssue ctx then
      match s.fetch ctx with
      | .words s' _ _ => .next s'
      | .hold s' ty lv => .next (s'.fetchFault ctx ty lv)
      | .later s' => .next s'
      | .trap s' c w =>
        let pc := (s.team ctx).pc
        .next ((s'.preciseTrap ctx c w pc pc 0).afterIssue ctx)
    else .fault .noIssuingTeam

/-! ## WAITCNT and XFENCE -/

/-- WAITCNT (R433). -/
def execWaitcnt (f : MF) (s : State) : Host.Outcome State Fault Refusal :=
  s.atIssue (.waitcnt f) fun ctx =>
    let w := waitBounds f.disp.toNat
    if (s.team ctx).countersMet w then .done s else .stay (s.waitAt ctx w (wordOf (.waitcnt f)))

/-- CP writes of a cluster's cores become visible to LS and MX. -/
def State.flushCp (s : State) (col : Nat) : State :=
  (s.cores.filter fun e => colOf e.1 == col).foldl (fun s e => s.flushCore e.1) s

/-- XFENCE: accesses of the second set issued after it follow the accesses of the first set ordered before it;
the team does not wait (R187, R437). -/
def execXfence (f : MF) (s : State) : Host.Outcome State Fault Refusal :=
  s.atIssue (.xfence f) fun ctx =>
    let first := f.disp.extractLsb' 0 4
    let second := f.disp.extractLsb' 4 4
    let s := if first.getLsbD 1 then s.flushCp (s.colOfCtx ctx) else s
    let t := s.team ctx
    .done ((s.setTeam ctx { t with fences := t.fences ++ [{ first, second, uid := s.uid }] }).bumpUid)

end Sys2Proof.Machine
end

