-- ==== Sys2Proof/Machine/Perform.lean ====
section
/-! DEFINITION. Performing a team's accesses: the operations of atomics, what a load brings into registers, the
record of performed accesses in the in-flight entry, duplicate suppression, and accesses to the scratchpad window
(spec/08_ordering.md R173, R178, R184; spec/13_preemption.md R284, R285, R290, R293; spec/18_ref_trap_vmul.md R419,
R421; spec/19_ref_vmulh_zwr.md R432). -/

namespace Sys2Proof.Machine

/-! ## Values -/

/-- The operation of an atomic on elements of `n` bytes, by AOP code (R82, R421). -/
def aop (op n old v : Nat) : Nat :=
  let w := 8 * n
  let sx := signed w
  match op with
  | 0 => (old + v) % 2 ^ w
  | 1 => if sx old ≤ sx v then old else v
  | 2 => if sx v ≤ sx old then old else v
  | 3 => min old v
  | 4 => max old v
  | 5 => old &&& v
  | 6 => old ||| v
  | 7 => old ^^^ v
  | 8 => v
  | 9 => addF32 0 old v
  | 10 => minMaxBits fF32 false false old v
  | _ => minMaxBits fF32 false true old v

/-- What a request makes of an element: the new value, or none when it writes nothing (R421). -/
def ReqOp.update (o : ReqOp) (n old : Nat) (p : Piece) : Option Nat :=
  match o with
  | .store => some (p.data.toNat % 2 ^ (8 * n))
  | .atomic op => some (aop op n old (p.data.toNat % 2 ^ (8 * n)))
  | .cas => if old = p.cmp.toNat % 2 ^ (8 * n) then some (p.data.toNat % 2 ^ (8 * n)) else none
  | .commit => some (p.data.toNat % 2 ^ (8 * n))
  | _ => none

/-- Whether a request reads old bytes for its team. -/
def ReqOp.reads : ReqOp → Bool
  | .load => true
  | .atomic _ => true
  | .cas => true
  | .commit => true
  | _ => false

/-- Whether a request is an atomic. -/
def ReqOp.isAtomic : ReqOp → Bool
  | .atomic _ => true
  | .cas => true
  | .commit => true
  | _ => false

/-- Whether a request may write. -/
def ReqOp.writes (o : ReqOp) : Bool := o == .store || o.isAtomic

/-- The datum of a v-register for one lane and a size (R81, R432). -/
def Team.datum (t : Team) (r l n : Nat) : Nat :=
  if n ≤ 4 then (t.vreg r l).toNat % 2 ^ (8 * n)
  else (List.range (n / 4)).foldl (fun acc k => acc + (t.vreg (r + k) l).toNat * 2 ^ (32 * k)) 0

/-- The v-register cells that an element of `n` bytes goes to, with their values (R419). -/
def vCells (r l n : Nat) (sx : Bool) (x : Nat) : List (Cell × Nat) :=
  if n < 4 then [(.v r l, if sx then wrapN 32 (signed (8 * n) x) else x)]
  else (List.range (n / 4)).map fun k => (.v (r + k) l, bitsAt x (32 * k) 32)

/-- The cells that lane `l` of a load or atomic writes, from the bytes read (R393, R390, R419, R421). -/
def loadCells (i : Instr) (l x : Nat) : List (Cell × Nat) :=
  match i with
  | .vld f | .vldx f | .vlds f => vCells f.data.toNat l (szBytes f.sz) f.sx x
  | .vatom f | .vcas f | .vatoms f => vCells f.data.toNat l (szBytes f.sz) false x
  | .sld f =>
    let n := szBytes f.sz
    [(.s f.data.toNat, if f.sx then wrapN 64 (signed (8 * n) x) else x)]
  | .shld f => [(.h f.data.toNat, x)]
  | _ => []

/-- The bytes of one lane of a memory instruction. -/
def accessBytes (i : Instr) : Nat :=
  match i with
  | .vld f | .vldx f | .vlds f | .vst f | .vstx f | .vsts f | .vatom f | .vcas f | .vatoms f | .sld f | .sst f => szBytes f.sz
  | .shld _ | .shst _ => 64
  | _ => 0

/-! ## The in-flight entry -/

/-- The identity of a piece within its instruction: its lane, and whether it is the part past a line boundary (R184). -/
def Piece.id (p : Piece) : Nat := p.lane * 2 + b2n (p.off != 0)

/-- The bytes of a piece as they stand in the lane's element. -/
def Piece.got (p : Piece) (x : Nat) : List (Nat × Byte) :=
  (toBytes p.n x).zipIdx.map fun (b, i) => (p.lane * 64 + p.off + i, b)

/-- The value that a lane's bytes form, once all have come. -/
def laneValue (got : List (Nat × Byte)) (l n : Nat) : Option Nat :=
  let bs := (List.range n).map fun i => (got.find? fun e => e.1 == l * 64 + i).map (·.2)
  if bs.all (·.isSome) then some (ofBytes (bs.map (·.getD 0))) else none

/-- A value for one outstanding cell of an instruction: the first reply is taken (R293). -/
def Team.answer (t : Team) (uid : Nat) (c : Cell) (x : Nat) : Team :=
  { t with pend := t.pend.map fun r =>
      if r.uid = uid ∧ r.cell = c ∧ r.val.isNone then { r with val := some (BitVec.ofNat 1024 x) } else r }

/-- An access of an entry performed, with the bytes that it read.  A second performance of the same access is an
answer to a duplicate and counts nothing (R293).  A stopped team's loads and atomics are replayed, so their data is
discarded; its other class-T entries are marked DONE (R287). -/
def Team.credit (t : Team) (ent id lane : Nat) (got : List (Nat × Byte)) : Team :=
  match t.inflight.find? fun e => e.uid == ent with
  | none => t
  | some e =>
    if e.perf.contains id ∨ (t.sched = .frozen ∧ (!e.clsT ∨ e.kind = 3)) then t
    else
      let e' := { e with perf := id :: e.perf, left := e.left - 1, got := e.got ++ got }
      let e' := if t.sched = .frozen ∧ e'.left = 0 then { e' with done := true } else e'
      let t := { t with inflight := t.inflight.map fun x => if x.uid = ent then e' else x }
      let i := decode e.word
      match if got.isEmpty then none else laneValue e'.got lane (accessBytes i) with
      | none => t
      | some x => (loadCells i lane x).foldl (fun t c => t.answer e.resUid c.1 c.2) t

/-- An access performed. -/
def State.credit (s : State) (ctx ent id lane : Nat) (got : List (Nat × Byte)) : State :=
  if ent = 0 then s
  else match Tab.get? s.teams ctx with
    | none => s
    | some t => (s.setTeam ctx (t.credit ent id lane got)).saveStatus ctx

/-- The value of a result that holds no entry (WDEPTH, WPIN): into the register result, or into the register that the image
of a stopped team takes or has taken, whose resume waits for it (R287, R436). -/
def State.answer (s : State) (ctx uid : Nat) (x : Nat) : State :=
  match Tab.get? s.teams ctx with
  | none => s
  | some t =>
    match t.pend.find? fun r => r.uid == uid with
    | none => s
    | some r =>
      let v := BitVec.ofNat 1024 x
      if t.sched = .frozen then
        let t := { t with pend := t.pend.filter fun q => q.uid != uid }
        if (s.blockOf? ctx).elim false (·.place == .frozen) then (s.setTeam ctx t).saveCell ctx r.cell v
        else s.setTeam ctx (t.writeLate r.cell v)
      else s.setTeam ctx (t.answer uid r.cell x)

/-! ## Duplicate suppression (R285, R290) -/

/-- The entry of a request in a table. -/
def suppFind (l : List Supp) (ctx tag : Nat) : Option Supp := l.find? fun e => e.ctx == ctx && e.tag == tag

/-- Step 1 of R290: the entries of a context below the low-water that a request carries are freed. -/
def suppFree (l : List Supp) (ctx low : Nat) : List Supp := l.filter fun e => !(e.ctx == ctx && decide (e.tag < low))

/-- A table with an element of a request recorded. -/
def suppRecord (l : List Supp) (ctx tag elem : Nat) (val : Option (BitVec 512)) : List Supp :=
  let vs := match val with
    | none => []
    | some v => [(elem, v)]
  if l.any fun e => e.ctx == ctx && e.tag == tag then
    l.map fun e => if e.ctx = ctx ∧ e.tag = tag then { e with elems := e.elems ++ [elem], vals := e.vals ++ vs } else e
  else l ++ [{ ctx, tag, elems := [elem], vals := vs }]

/-- Every table of the device. -/
def State.suppTables (s : State) : List (List Supp) :=
  (s.dies.map fun d => d.2.supp :: d.2.hsupp.map (·.2)).flatten ++ (s.cores.map fun c => [c.2.supp, c.2.l1supp]).flatten

/-- Whether some point has performed an element of a class-T request, or the whole of it has been acknowledged and its tag
has fallen below the low-water: the request is a duplicate (R285, R290, R293). -/
def State.isDup (s : State) (ctx tag elem : Nat) : Bool :=
  decide (0 < tag) && (decide (tag < (s.team ctx).lowWater) || s.suppTables.any fun l => match suppFind l ctx tag with
    | some e => e.elems.contains elem
    | none => false)

/-- The value recorded for a duplicate's element. -/
def State.dupVal (s : State) (ctx tag elem : Nat) : Nat :=
  ((s.suppTables.filterMap fun l => (suppFind l ctx tag).bind fun e => (e.vals.find? fun v => v.1 == elem).map (·.2.toNat)).head?).getD 0

/-- The points that keep tables; a home agent is one of its die's four (R13). -/
inductive Point where
  | mouth (die : Nat) | home (die agent : Nat) | pad (core : Nat) | l1 (core : Nat)
  deriving DecidableEq, Repr

/-- The memory controller, and so the home agent, of a physical line within its die: PA[13:12] (R14). -/
def homeAgent (pl : Nat) : Nat := pl / 32 % 4

/-- The home agent of a line as a point. -/
def homePoint (pl : Nat) : Point := .home (homeDie pl) (homeAgent pl)

/-- A change of a point's table. -/
def State.onSupp (s : State) (p : Point) (f : List Supp → List Supp) : State :=
  match p with
  | .mouth d => let x := s.die d; s.setDie d { x with supp := f x.supp }
  | .home d a => let x := s.die d; s.setDie d { x with hsupp := Tab.put x.hsupp a (f (Tab.getD x.hsupp a [])) }
  | .pad c => let x := s.core c; s.setCore c { x with supp := f x.supp }
  | .l1 c => let x := s.core c; s.setCore c { x with l1supp := f x.l1supp }

/-- A class-T request that carries a low-water reaches a point (R290 step 1). -/
def State.freeSupp (s : State) (p : Point) (ctx tag low : Nat) : State :=
  if tag = 0 then s else s.onSupp p fun l => suppFree l ctx low

/-- A performed element recorded at its point, after the entries below the request's low-water have been freed; class-N
requests are not recorded. -/
def State.record (s : State) (p : Point) (ctx tag low elem : Nat) (val : Option (BitVec 512)) : State :=
  if tag = 0 then s else s.onSupp p fun l => suppRecord (suppFree l ctx low) ctx tag elem val

/-- The contexts of a frame purged from every table (R291). -/
def State.purge (s : State) (f : Nat) : State :=
  let keep := fun (l : List Supp) => l.filter fun e => e.ctx / 32 != f
  { s with
    dies := Tab.mapVal s.dies fun _ d => { d with supp := keep d.supp, hsupp := Tab.mapVal d.hsupp fun _ l => keep l }
    cores := Tab.mapVal s.cores fun _ c => { c with supp := keep c.supp, l1supp := keep c.l1supp } }

/-! ## The scratchpad window (R147, R149, R173) -/

/-- One piece of a window access performed at the bank. -/
def State.padPiece (s : State) (ctx ent tag : Nat) (op : ReqOp) (b : Block) (p : Piece) : State :=
  let low := (s.team ctx).lowWater
  if s.isDup ctx tag p.id then
    (s.freeSupp (.pad b.core) ctx tag low).credit ctx ent p.id p.lane (if op.reads then p.got (s.dupVal ctx tag p.id) else [])
  else
    let c := s.core b.core
    let a := padAddr b p.va
    let old := ofBytes (c.sp.readN a p.n)
    let s := match op.update p.n old p with
      | some x => s.setCore b.core { c with sp := s.padPut b.core a (toBytes p.n x) }
      | none => s
    let s := if op.writes then
        s.record (.pad b.core) ctx tag low p.id (if op.isAtomic then some (BitVec.ofNat 512 old) else none)
      else s
    s.credit ctx ent p.id p.lane (if op.reads then p.got old else [])

/-- The pieces of a window access in ascending lane order (R184). -/
def State.padAccess (s : State) (ctx ent tag : Nat) (op : ReqOp) (ps : List Piece) : State :=
  match s.blockOf? ctx with
  | none => s
  | some b => ps.foldl (fun s p => s.padPiece ctx ent tag op b p) s

end Sys2Proof.Machine
end

