-- ==== Sys2Proof/Machine/Order.lean ====
section
/-! DEFINITION. When an issued access may go to its point: page kinds, acquire and release, same-address order,
side-logged lines and fences (spec/08_ordering.md R170, R171, R175 to R177, R181, R187, R188; spec/07_translation.md
R161, R162; spec/06_well.md R121). -/

namespace Sys2Proof.Machine

/-- Work of the window: it reaches a scratchpad bank, not the Drum. -/
def LsWork.isPad : LsWork → Bool
  | .win _ _ => true
  | .barinit _ _ _ => true
  | .bararv _ => true
  | .barexam _ _ => true
  | _ => false

/-- Work of the EV path. -/
def LsWork.isEv : LsWork → Bool
  | .evpush _ _ => true
  | _ => false

/-- Whether two pieces of window work meet on some byte. -/
def LsWork.meets (v w : LsWork) : Bool :=
  match w with
  | .win _ ps => ps.any fun p => v.touchesPad p.va p.n
  | .barinit off _ _ => v.touchesPad off 32
  | .bararv off => v.touchesPad off 32
  | .barexam off _ => v.touchesPad off 32
  | _ => false

/-- The operands of an MMA entry have been read, and no arrival of its commit is owed (R170, R188). -/
def State.mxDone (s : State) (ctx : Nat) (e : Entry) : Bool :=
  match (s.core (s.coreOf ctx)).arrq.find? fun j => j.ent == e.uid with
  | some j => j.ops.isSome && !j.be
  | none => !(e.mma.elim false (·.be)) && s.cores.all fun c => c.2.bankq.all fun v => v.ent != e.uid

/-- The copy of an entry that the copy engine carries out. -/
def State.copyOf? (s : State) (ctx : Nat) (e : Entry) : Option Copy := s.copies.find? fun c => c.ctx == ctx && c.ent == e.uid

/-- The elements of a copy. -/
def Copy.total (c : Copy) : Nat := if c.kind = .rrot then c.tiles.length * 1024 else c.n * c.m

/-- Whether a copy still has elements to perform, counts to be applied, or bytes that LS and MX do not see yet (R170, R187). -/
def Copy.owes (c : Copy) : Bool := !c.landed

/-- Whether an entry still has an access to perform on a path: 0 LS, 1 CP, 2 MX, 3 EV.  A copy's event is on EV alone (R170). -/
def State.owes (s : State) (ctx : Nat) (e : Entry) (path : Nat) : Bool :=
  decide (0 < e.left) && !e.done &&
    match path with
    | 0 => e.path == 0
    | 1 => if e.kind = 9 then (s.copyOf? ctx e).any Copy.owes else e.path == 1 && (s.copyOf? ctx e).all Copy.owes
    | 2 => (e.path == 2 || e.kind == 9) && !s.mxDone ctx e
    | _ => e.path == 3 || (s.copyOf? ctx e).elim false fun c => c.evt && !c.posted

/-- A fence holds what its team issues later on a path of its second set, while an access issued before it is still to be
performed on a path of its first set (R187). -/
def State.fenced (s : State) (ctx uid path : Nat) : Bool :=
  let t := s.team ctx
  t.fences.any fun f => decide (f.uid < uid) && f.second.getLsbD path &&
    ((t.inflight.any fun e => decide (e.uid < f.uid) &&
        (List.range 4).any fun p => f.first.getLsbD p && s.owes ctx e p) ||
      (f.first.getLsbD 0 && (s.bareOut ctx).any fun r => decide (r.uid < f.uid)))

/-- An entry whose page is of unordered kind (R175). -/
def Entry.unordered (e : Entry) : Bool := e.works.any (·.unordered)

/-- The requests of an entry before an item have been performed (R121). -/
def Entry.runsBefore (e : Entry) (uid : Nat) : Bool :=
  e.works.all fun i => decide (uid ≤ i.uid) || match i.work with
    | .glob r => r.pieces.all fun p => e.perf.contains p.id
    | _ => true

/-- The ORD of an address's page: as kept with its tile, or as its translation shows; a page that shows none counts
as release-consistent. -/
def State.pageKind (s : State) (ctx va : Nat) : Nat :=
  let d := s.dieOfCtx ctx
  let asid := s.asidOf ctx
  match (Tab.get? (s.die d).tiles (tileKey asid va)).bind (·.attr) with
  | some a => a.ord
  | none => match s.peek d asid va with
    | .ok e => e.attr.ord
    | .error _ => 0

/-- Whether a store or atomic waits in the side log, or at a fault record (R161, R162). -/
def State.sideLogged (s : State) (ctx : Nat) (e : Entry) : Bool :=
  e.clsT && ((s.faultedEnts ctx).contains e.uid ||
    (s.core (s.coreOf ctx)).slog.any fun g => g.req.ctx == ctx && g.req.ent == e.uid)

/-- The order among a team's LS accesses (R175, R181, R162): an access waits for earlier acquires and strongly
ordered accesses; a release and a strongly ordered access wait for every earlier access.  An access of an unordered
page is held only by strongly ordered ones, and holds none but, while it is side-logged, a release. -/
def State.lsOpen (s : State) (ctx : Nat) (i : LsItem) : Bool :=
  let t := s.team ctx
  let before := t.inflight.filter fun e => decide (e.uid < i.uid) && e.uid != i.ent && s.owes ctx e 0
  let bare := (s.bareOut ctx).filter fun r => decide (r.uid < i.uid)
  let queued := t.lsq.any fun j => decide (j.uid < i.uid) && j.ent != i.ent && !j.work.isEv
  !s.fenced ctx i.uid 0 && before.all (fun e => !e.strong) && bare.all (fun r => !r.strong) &&
    (i.unordered || before.all fun e => !e.acq || e.unordered) &&
    (!i.strong || (before.isEmpty && bare.isEmpty && !queued &&
      (t.inflight.all fun e => e.uid != i.ent || e.runsBefore i.uid))) &&
    (!i.rel || i.unordered || (before.all (fun e => e.unordered && !s.sideLogged ctx e) &&
      bare.all (fun r => s.pageKind ctx r.va == 2) && !queued))

/-- Whether a request still owes one of its accesses. -/
def State.reqOwes (s : State) (r : Req) : Bool :=
  match (s.team r.ctx).inflight.find? fun e => e.uid == r.ent with
  | some e => r.pieces.any fun p => !e.perf.contains p.id
  | none => false

/-- The lines of a request's team's earlier accesses that fault records hold (R175: same-address order). -/
def State.faultLines (s : State) (r : Req) : List Nat :=
  let of : Att → List Nat
    | .req q => if q.ctx = r.ctx ∧ q.before r then q.lines else []
    | _ => []
  (s.dies.map fun d => ((d.2.frecs.map fun r => (r.2.att.map of).flatten) ++ d.2.frwait.map fun w => of w.1).flatten).flatten

/-- Whether a request's accesses to some lines are held behind side-logged or faulted accesses to one of them. -/
def State.linesHeld (s : State) (r : Req) (ls : List Nat) : Bool :=
  let held := (((s.core r.core).slog.filter fun e => e.req.before r && s.reqOwes e.req).map fun e => e.req.lines).flatten ++
    s.faultLines r
  ls.any held.contains

/-- Whether a request is held behind side-logged or faulted accesses to one of its lines. -/
def State.lineHeld (s : State) (r : Req) : Bool := s.linesHeld r r.lines

/-- Whether a queued item lets a later request of its team pass it: it goes to another path, or it is held behind a
side-logged or faulted access and shares no line with the later one (R162). -/
def State.letsPass (s : State) (r : Req) (j : LsItem) : Bool :=
  j.work.isPad || j.work.isEv || match j.work with
    | .glob q => s.lineHeld q && !(q.lines.any r.lines.contains)
    | _ => false

/-- Whether a request waits at the Drum of some die and has not acted on the L1s (R192). -/
def State.unheard (s : State) (uid : Nat) : Bool :=
  s.dies.any fun d => d.2.anns.any fun a => match a with
    | .req r => r.uid == uid
    | _ => false

/-- The pieces of a core's stores to a line that its L1s have heard and the Well has not performed, in Drum order (R192). -/
def State.heardStores (s : State) (d c k : Nat) : List Piece :=
  let x := s.die d
  let rs := (x.waits.filter fun w => w.key == k).map (·.req) ++ ((Tab.get? x.tiles (tileOfLine k)).elim [] (·.held)) ++ x.mouthq
  (rs.filter fun r => r.op == .store && r.core == c).map (fun r => r.pieces.filter fun p => lineKey r.asid p.va == k && !s.isDup r.ctx r.tag p.id) |>.flatten

/-- A load that finds its bytes in the core's L1 is performed there; it waits for its team's earlier accesses to those bytes,
for an earlier CINV of its team, and for an earlier CFLUSH or
WEVICT of the line that has not acted on the L1s (R356, R192).  Bytes that the copy has taken from a store of the core, by whatever
team, are read once the store is performed: until then they stand nowhere in coherence order (R120, R174; DEDUCED, log entry 126). -/
def State.l1Open (s : State) (ctx : Nat) (i : LsItem) (r : Req) : Bool :=
  r.op != .load || r.pieces.all fun p =>
    match Tab.get? (s.core r.core).l1 (lineKey r.asid p.va) with
    | none => true
    | some l => (r.user && !l.attr.u) ||
      ((s.heardStores (dieOf r.core) r.core (lineKey r.asid p.va)).all fun o => !overlaps p.va p.n o.va o.n) &&
      (i.unordered || !s.cinvBefore ctx i.uid (lineKey r.asid p.va) && !(s.team ctx).inflight.any fun e => e.works.any fun j => decide (j.uid < i.uid) &&
        match j.work with
        | .glob q => ((q.op != .store || s.unheard q.uid) && q.pieces.any fun o => overlaps p.va p.n o.va o.n && !e.perf.contains o.id) ||
            ((q.op == .cflush || q.op == .wevict) && s.unheard q.uid && q.lines.contains (lineKey r.asid p.va))
        | _ => false)

/-- The bytes of lanes that a load in parts has not all performed: a replay performs every part of such a lane again (R284, R287). -/
def Entry.parted (e : Entry) : List Piece :=
  if e.kind ≠ 1 ∨ e.unordered then []
  else e.pieces.filter fun p => e.pieces.any (fun q => q.lane == p.lane && q.id != p.id) &&
    e.pieces.any fun q => q.lane == p.lane && !e.perf.contains q.id

/-- Whether an access meets such a lane of an earlier load of its team: it waits, so that a replay of the load reads nothing
later than it (R175, R190; DEDUCED, log entry 122). -/
def State.behindParted (s : State) (ctx : Nat) (i : LsItem) (r : Req) : Bool :=
  !i.unordered && (s.team ctx).inflight.any fun e => decide (e.uid < i.uid) && e.uid != i.ent &&
    e.parted.any fun p => r.pieces.any fun q => overlaps p.va p.n q.va q.n

/-- Whether an item of a team's queue may go: Drum requests in issue order (R121), window work behind earlier work on
the same bytes, event records in issue order (R251), each under its path's gates. -/
def State.mayGo (s : State) (ctx : Nat) (i : LsItem) : Bool :=
  let t := s.team ctx
  let earlier := t.lsq.filter fun j => decide (j.uid < i.uid)
  match i.work with
  | .glob r => earlier.all (s.letsPass r) && s.lsOpen ctx i && !s.lineHeld r && s.l1Open ctx i r && !s.behindParted ctx i r
  | .gbar _ => earlier.all (fun j => j.work.isPad || j.work.isEv) && s.lsOpen ctx i
  | .evpush _ _ => earlier.all (fun j => !j.work.isEv) && !s.fenced ctx i.uid 3
  | .win _ ps => earlier.all (fun j => !j.work.meets i.work) && s.lsOpen ctx i && ps.all fun p => !s.ownEvents ctx p.va p.n
  | .barinit off _ _ | .barexam off _ =>
    earlier.all (fun j => !j.work.meets i.work) && s.lsOpen ctx i && !s.ownEvents ctx off 32
  | .bararv _ => earlier.all (fun j => !j.work.meets i.work) && s.lsOpen ctx i

/-- The page kind that orders a global access: strongly ordered, then release-consistent, then unordered (R176). -/
def strongest (ks : List Nat) : Nat := if ks.contains 1 then 1 else if ks.contains 0 then 0 else 2

end Sys2Proof.Machine
end

