-- ==== Sys2Proof/Machine/Mem.lean ====
section
/-! DEFINITION. The issue of loads, stores, atomics, PREF, shape-record moves, the Well instructions and the cache
controls: addresses, entry checks, the in-flight entry, and the requests that the team's queue holds
(spec/06_well.md R121; spec/07_translation.md R148, R149; spec/08_ordering.md R175 to R183; spec/13_preemption.md R284,
R444; spec/17_ref_evpop_sxor.md R387, R390, R393; spec/18_ref_trap_vmul.md R419, R421; spec/19_ref_vmulh_zwr.md
R432, R435). -/

namespace Sys2Proof.Machine

/-- One lane's access: an address or window offset, and its data. -/
structure Access where
  lane : Nat
  addr : Word64
  data : Nat := 0
  cmp : Nat := 0
  deriving DecidableEq, Repr

/-- A memory instruction as its entry describes it: what it asks, whether of the window, the bytes of an access,
and its in-flight entry's kind and reservation. -/
structure MemOp where
  op : ReqOp
  win : Bool := false
  n : Nat
  kind : Nat
  reserve : Nat := 0
  deriving DecidableEq, Repr

/-- An access's pieces: one for each line that it touches (R184); window accesses are not divided. -/
def MemOp.pieces (m : MemOp) (a : Access) : List Piece :=
  let va := a.addr.toNat
  let first := 128 - va % 128
  let mk := fun off n => ({ lane := a.lane, va := (va + off) % 2 ^ 64, off, n, data := BitVec.ofNat 512 (a.data / 2 ^ (8 * off))
                            cmp := BitVec.ofNat 512 (a.cmp / 2 ^ (8 * off)) } : Piece)
  if m.win || m.n ≤ first then [mk 0 m.n] else [mk 0 first, mk first (m.n - first)]

/-- Pieces by tile, in ascending order of the lowest lane that addresses each tile (R121). -/
def byTile (ps : List Piece) : List (List Piece) :=
  (distinct (ps.map fun p => va57 p.va / 4096).reverse).reverse.map fun t => ps.filter fun p => va57 p.va / 4096 == t

/-- Pieces in runs of consecutive lanes that address one tile (R121). -/
def byRun : List Piece → List (List Piece)
  | [] => []
  | p :: ps =>
    match byRun ps with
    | (q :: qs) :: rest => if va57 p.va / 4096 = va57 q.va / 4096 then (p :: q :: qs) :: rest else [p] :: (q :: qs) :: rest
    | rest => [p] :: rest

/-- The entry's own checks over all active lanes, in their order (R148, R149, R390, R419, R421). -/
def MemOp.check (m : MemOp) (window : Nat) (as : List Access) : Option Cause :=
  if !m.win && as.any (fun a => !canonical a.addr) then some Cause.noncanon
  else if (m.op.isAtomic || m.n == 64) && as.any (fun a => a.addr.toNat % m.n != 0) then some Cause.misalign
  else if !m.win && as.any (fun a => crosses4K a.addr.toNat m.n) then some Cause.misalign
  else if m.win && as.any (fun a => decide (window < a.addr.toNat + m.n)) then some Cause.spbound
  else none

/-! ## Room (R179, R284) -/

/-- The bound on the data of a block's entries, 896 KiB. -/
def dataArea : Nat := 917504

/-- What the teams of a frame have reserved. -/
def State.reserved (s : State) (f : Nat) : Nat :=
  (s.teams.filter fun e => frameOf e.1 == f).foldl (fun n e => e.2.inflight.foldl (fun n x => n + roundUp x.reserve 16) n) 0

/-- The bytes of store and atomic data of an entry that are not yet acknowledged. -/
def Entry.storeBytes (e : Entry) : Nat :=
  if (e.kind = 2 ∨ e.kind = 3) ∧ 0 < e.left then
    e.works.foldl (fun n i => match i.work with
      | .glob r => r.pieces.foldl (fun n p => n + p.n) n
      | .win _ ps => ps.foldl (fun n p => n + p.n) n
      | _ => n) 0
  else 0

/-- The bytes of store and atomic data outstanding on a core; a frozen team's stand in its frame (R284). -/
def State.coreStores (s : State) (c : Nat) : Nat :=
  (s.teams.filter fun e => s.coreOf e.1 == c && e.2.sched != .frozen).foldl (fun n e => e.2.inflight.foldl (fun n x => n + x.storeBytes) n) 0

/-- Whether a team may take one more entry (R179, R284). -/
def State.room (s : State) (ctx reserve stores : Nat) : Bool :=
  decide ((s.team ctx).inflight.length < 256) && decide (s.reserved (frameOf ctx) + roundUp reserve 16 ≤ dataArea) &&
    decide (s.coreStores (s.coreOf ctx) + stores ≤ 524288)

/-! ## Issue -/

/-- The address of an LS entry: S(BASE) + DISP as formed at issue (R284). -/
def Team.baseDisp (t : Team) (f : MF) : Word64 := t.sreg f.base.toNat + f.disp.signExtend 64

/-- The requests of an instruction, with identities from `uid` on. -/
def State.requests (s : State) (ctx ent tag : Nat) (f : MF) (m : MemOp) (as : List Access) : List LsItem :=
  let ps := (as.map m.pieces).flatten
  let kind := if m.win then 0 else strongest (as.map fun a => s.pageKind ctx a.addr.toNat)
  let acq := f.ord.toNat % 2 == 1
  let rel := decide (2 ≤ f.ord.toNat)
  let mk := fun (uid : Nat) (w : LsWork) =>
    ({ uid, ent, tag, work := w, acq, rel, strong := kind == 1, unordered := kind == 2 } : LsItem)
  if m.win then [mk s.uid (.win m.op ps)]
  else ((if kind = 1 then byRun ps else byTile ps).zipIdx s.uid).map fun (g, uid) =>
    mk uid (.glob
      { uid, ent, ctx, tag, core := s.coreOf ctx, asid := s.asidOf ctx, op := m.op, va := (g.head?.elim 0 (·.va)), pieces := g
        scope := f.scope.toNat, bypass := f.well == 1, user := !s.isHandler ctx, strong := kind == 1 })

/-- A counted load, store or atomic issues: its checks, its entry, its counter, and its outstanding results. -/
def State.memIssue (s : State) (ctx : Nat) (i : Instr) (f : MF) (m : MemOp) (as : List Access) : Issued :=
  let window := (s.blockOf? ctx).elim 0 (·.scratch)
  match m.check window as with
  | some c => .trap c 0
  | none =>
    if as.isEmpty then .done s
    else if !s.room ctx m.reserve (if m.op.writes then as.length * m.n else 0) then .hold
    else
      let t := s.team ctx
      let ent := s.uid
      let isT := m.op.writes
      let tag := if isT then t.nextTag else 0
      let items := s.bumpUid.requests ctx ent tag f m as
      let e : Entry :=
        { uid := ent, tag := if isT then tag else t.nextTag - 1, kind := m.kind, clsT := isT, ld := !isT, st := isT
          acq := f.ord.toNat % 2 == 1, rel := decide (2 ≤ f.ord.toNat), strong := items.any (·.strong)
          pc := t.pc, word := wordOf i, addr := t.baseDisp f, left := ((as.map m.pieces).flatten).length
          reserve := m.reserve, resUid := ent, works := items }
      let cells := if m.op.reads then ((as.map fun a => loadCells i a.lane 0).flatten).map fun c => (c.1, none) else []
      let t := { t with
        inflight := t.inflight ++ [e], lsq := t.lsq ++ items, nextTag := if isT then t.nextTag + 1 else t.nextTag
        ldcnt := t.ldcnt + b2n !isT, stcnt := t.stcnt + b2n isT }
      .done { s.setTeam ctx (t.postAll ent cells) with uid := s.uid + 1 + items.length }

/-- The accesses of the active lanes; `elem` is the per-lane term of the address. -/
def State.laneAccesses (s : State) (ctx : Nat) (f : MF) (elem : Nat → Nat) (data cmp : Nat → Nat) : List Access :=
  let t := s.team ctx
  (t.active (s.widthOf ctx) f.pm f.pn).map fun l => { lane := l, addr := t.ea f (elem l) l, data := data l, cmp := cmp l }

/-- Bytes that an entry reserves for addresses, when the instruction has IDX (R444). -/
def State.addrBytes (s : State) (ctx : Nat) (f : MF) : Nat := if f.idx.toNat = 1023 then 0 else 8 * s.widthOf ctx

/-- A vector load (R419). -/
def State.vload (s : State) (ctx : Nat) (i : Instr) (f : MF) (win : Bool) : Issued :=
  let n := szBytes f.sz
  s.memIssue ctx i f { op := .load, win, n, kind := 1, reserve := s.addrBytes ctx f }
    (s.laneAccesses ctx f (unitElem f n) (fun _ => 0) fun _ => 0)

/-- A vector store (R432): the data are read at issue. -/
def State.vstore (s : State) (ctx : Nat) (i : Instr) (f : MF) (win : Bool) : Issued :=
  let n := szBytes f.sz
  let t := s.team ctx
  s.memIssue ctx i f { op := .store, win, n, kind := 2, reserve := s.addrBytes ctx f + s.widthOf ctx * n }
    (s.laneAccesses ctx f (unitElem f n) (fun l => t.datum f.data.toNat l n) fun _ => 0)

/-- A vector atomic (R421); a compare-and-swap takes its compare value from DATA and its new value above it. -/
def State.vatomic (s : State) (ctx : Nat) (i : Instr) (f : MF) (win cas : Bool) : Issued :=
  let n := szBytes f.sz
  let t := s.team ctx
  let r := f.data.toNat
  let w := s.widthOf ctx
  s.memIssue ctx i f
    { op := if cas then .cas else .atomic f.aop.toNat, win, n, kind := 3
      reserve := s.addrBytes ctx f + (if cas then 2 * w * n else w * n) }
    (s.laneAccesses ctx f (unitElem f n) (fun l => t.datum (if cas then r + n / 4 else r) l n)
      fun l => if cas then t.datum r l n else 0)

/-- VLD (R419). -/
def execVld (f : MF) (s : State) : Host.Outcome State Fault Refusal := s.atIssue (.vld f) fun ctx => s.vload ctx (.vld f) f false
/-- VLDX (R419). -/
def execVldx (f : MF) (s : State) : Host.Outcome State Fault Refusal := s.atIssue (.vldx f) fun ctx => s.vload ctx (.vldx f) f false
/-- VLDS (R419). -/
def execVlds (f : MF) (s : State) : Host.Outcome State Fault Refusal := s.atIssue (.vlds f) fun ctx => s.vload ctx (.vlds f) f true
/-- VST (R432). -/
def execVst (f : MF) (s : State) : Host.Outcome State Fault Refusal := s.atIssue (.vst f) fun ctx => s.vstore ctx (.vst f) f false
/-- VSTX (R432). -/
def execVstx (f : MF) (s : State) : Host.Outcome State Fault Refusal := s.atIssue (.vstx f) fun ctx => s.vstore ctx (.vstx f) f false
/-- VSTS (R432). -/
def execVsts (f : MF) (s : State) : Host.Outcome State Fault Refusal := s.atIssue (.vsts f) fun ctx => s.vstore ctx (.vsts f) f true
/-- VATOM (R421). -/
def execVatom (f : MF) (s : State) : Host.Outcome State Fault Refusal :=
  s.atIssue (.vatom f) fun ctx => s.vatomic ctx (.vatom f) f false false
/-- VCAS (R421). -/
def execVcas (f : MF) (s : State) : Host.Outcome State Fault Refusal :=
  s.atIssue (.vcas f) fun ctx => s.vatomic ctx (.vcas f) f false true
/-- VATOMS (R421). -/
def execVatoms (f : MF) (s : State) : Host.Outcome State Fault Refusal :=
  s.atIssue (.vatoms f) fun ctx => s.vatomic ctx (.vatoms f) f true false

/-- A team-uniform access: one, at lane 0's place, whatever the mask (R83). -/
def State.uniform (s : State) (ctx : Nat) (i : Instr) (f : MF) (m : MemOp) (data : Nat) : Issued :=
  s.memIssue ctx i f m [{ lane := 0, addr := (s.team ctx).ea f 0 0, data }]

/-- SLD (R393). -/
def execSld (f : MF) (s : State) : Host.Outcome State Fault Refusal :=
  s.atIssue (.sld f) fun ctx => s.uniform ctx (.sld f) f { op := .load, n := szBytes f.sz, kind := 1 } 0
/-- SST (R393). -/
def execSst (f : MF) (s : State) : Host.Outcome State Fault Refusal :=
  s.atIssue (.sst f) fun ctx =>
    s.uniform ctx (.sst f) f { op := .store, n := szBytes f.sz, kind := 2, reserve := 8 } ((s.team ctx).sreg f.data.toNat).toNat
/-- SHLD (R390). -/
def execShld (f : MF) (s : State) : Host.Outcome State Fault Refusal :=
  s.atIssue (.shld f) fun ctx => s.uniform ctx (.shld f) f { op := .load, n := 64, kind := 1 } 0
/-- SHST (R390). -/
def execShst (f : MF) (s : State) : Host.Outcome State Fault Refusal :=
  s.atIssue (.shst f) fun ctx =>
    s.uniform ctx (.shst f) f { op := .store, n := 64, kind := 2, reserve := 64 } ((s.team ctx).hreg f.data.toNat).toNat

/-! ## Requests that hold no entry, and KIND 4 -/

/-- A request of some page kind queued for a team, with no entry of its own. -/
def State.bareOf (s : State) (ctx kind : Nat) (op : ReqOp) (va : Nat) (ps : List Piece) : State :=
  let t := s.team ctx
  let r : Req := { uid := s.uid, ent := 0, ctx, core := s.coreOf ctx, asid := s.asidOf ctx, op, va, pieces := ps
                   user := !s.isHandler ctx, strong := kind == 1 }
  (s.setTeam ctx { t with lsq := t.lsq ++
    [{ uid := s.uid, ent := 0, work := .glob r, strong := kind == 1, unordered := kind == 2 }] }).bumpUid

/-- A request announced for a team, with no entry of its own. -/
def State.bareRequest (s : State) (ctx : Nat) (op : ReqOp) (va : Nat) (ps : List Piece) : State :=
  s.bareOf ctx (s.pageKind ctx va) op va ps

/-- PREF (R387): its requests are those of any access, run by run on strongly ordered pages (R121, R176); lanes whose address is not canonical, or that cross a 4 KiB boundary unaligned, are dropped. -/
def execPref (f : MF) (s : State) : Host.Outcome State Fault Refusal :=
  s.atIssue (.pref f) fun ctx =>
    let n := szBytes f.sz
    let t := s.team ctx
    let as : List Access :=
      if f.idx.toNat = 1023 then [{ lane := 0, addr := t.ea f 0 0 }]
      else s.laneAccesses ctx f (fun _ => 0) (fun _ => 0) fun _ => 0
    let as := as.filter fun a => canonical a.addr && !crosses4K a.addr.toNat n
    let ps := (as.map (MemOp.pieces { op := .pref, n, kind := 0 })).flatten
    let kind := strongest (as.map fun a => s.pageKind ctx a.addr.toNat)
    .done ((if kind = 1 then byRun ps else byTile ps).foldl (fun s g => s.bareOf ctx kind .pref (g.head?.elim 0 (·.va)) g) s)

/-- A Well instruction: its address must be canonical, and its request names the tile (R434). -/
def State.wellOp (s : State) (ctx : Nat) (f : MF) (k : Word64 → Issued) : Issued :=
  let ea := (s.team ctx).ea f 0 0
  if !canonical ea then .trap Cause.noncanon 0 else k ea

/-- A Well request whose result is an s-register (R433, R435). -/
def State.wellResult (s : State) (ctx : Nat) (f : MF) (op : ReqOp) : Issued :=
  s.wellOp ctx f fun ea =>
    let s' := s.setTeam ctx ((s.team ctx).post s.uid (.s f.data.toNat) none)
    .done (s'.bareRequest ctx op ea.toNat [])

/-- WDEPTH (R435). -/
def execWdepth (f : MF) (s : State) : Host.Outcome State Fault Refusal :=
  s.atIssue (.wdepth f) fun ctx => s.wellResult ctx f .wdepth
/-- WPIN (R435). -/
def execWpin (f : MF) (s : State) : Host.Outcome State Fault Refusal :=
  s.atIssue (.wpin f) fun ctx => s.wellResult ctx f .wpin
/-- WUNPIN (R435). -/
def execWunpin (f : MF) (s : State) : Host.Outcome State Fault Refusal :=
  s.atIssue (.wunpin f) fun ctx => s.wellOp ctx f fun ea => .done (s.bareRequest ctx .wunpin ea.toNat [])

/-- A counted write-back request, in-flight KIND 4 (R284, R354, R435). -/
def State.writeBack (s : State) (ctx : Nat) (i : Instr) (f : MF) (op : ReqOp) (then' : Word64 → State → State) : Issued :=
  s.wellOp ctx f fun ea =>
    if !s.room ctx 0 0 then .hold
    else
      let t := s.team ctx
      let ent := s.uid
      let kind := s.pageKind ctx ea.toNat
      let r : Req := { uid := ent + 1, ent, ctx, tag := t.nextTag, core := s.coreOf ctx, asid := s.asidOf ctx, op, va := ea.toNat
                       user := !s.isHandler ctx, strong := kind == 1 }
      let item : LsItem := { uid := ent + 1, ent, tag := t.nextTag, work := .glob r, strong := kind == 1, unordered := kind == 2 }
      let e : Entry := { uid := ent, tag := t.nextTag, kind := 4, clsT := true, st := true, strong := kind == 1, pc := t.pc, word := wordOf i
                         addr := t.baseDisp f, left := 1, works := [item] }
      .done (then' ea { s.setTeam ctx { t with inflight := t.inflight ++ [e], lsq := t.lsq ++ [item], nextTag := t.nextTag + 1
                                               stcnt := t.stcnt + 1 } with uid := ent + 2 })

/-- WEVICT (R435). -/
def execWevict (f : MF) (s : State) : Host.Outcome State Fault Refusal :=
  s.atIssue (.wevict f) fun ctx => s.writeBack ctx (.wevict f) f .wevict fun _ s => s
/-- WCLEAN (R435). -/
def execWclean (f : MF) (s : State) : Host.Outcome State Fault Refusal :=
  s.atIssue (.wclean f) fun ctx => s.writeBack ctx (.wclean f) f .wclean fun _ s => s

/-- A core's L1 copy and fetch-buffer copies of a line are dropped, and what is on its way to it is not kept. -/
def State.dropCopies (s : State) (c k : Nat) : State :=
  let x := s.core c
  let s := s.setCore c { x with l1 := Tab.del x.l1 k, fbuf := Tab.del (Tab.del x.fbuf (2 * k)) (2 * k + 1) }
  let d := s.die (dieOf c)
  s.setDie (dieOf c) { d with fills := d.fills.map fun f => if f.core = c ∧ f.key = k then { f with keep := false } else f }

/-- The issuing core's L1 copy and fetch-buffer copies of a line are dropped, and a fill of it on its way is not kept
(R354, R355).  The write of an M copy is the commit that waits at the Well, before any later request on the line (R192). -/
def State.dropOwn (s : State) (ctx : Nat) (ea : Word64) : State :=
  s.dropCopies (s.coreOf ctx) (lineKey (s.asidOf ctx) ea.toNat)

/-- CFLUSH (R354). -/
def execCflush (f : MF) (s : State) : Host.Outcome State Fault Refusal :=
  s.atIssue (.cflush f) fun ctx => s.writeBack ctx (.cflush f) f .cflush fun ea s => s.dropOwn ctx ea
/-- CINV (R355). -/
def execCinv (f : MF) (s : State) : Host.Outcome State Fault Refusal :=
  s.atIssue (.cinv f) fun ctx => s.wellOp ctx f fun ea => .done ((s.dropOwn ctx ea).bareRequest ctx .cinv ea.toNat [])

end Sys2Proof.Machine
end

