-- ==== Sys2Proof/Machine/Barrier.lean ====
section
/-! DEFINITION. Barrier instructions, counting events, the cluster event queue and the release of held blocks
(spec/11_completion.md R239 to R254; spec/16_ref_bany_dloop.md R344 to R348; spec/17_ref_evpop_sxor.md R373 to R376;
spec/18_ref_trap_vmul.md R404). -/

namespace Sys2Proof.Machine

/-! ## BARINIT, BARARV, BARWAIT -/

/-- A counted window request of kind 5, 6 or 7 issues (R284). -/
def State.padIssue (s : State) (ctx : Nat) (i : Instr) (kind reserve path : Nat) (rel : Bool) (w : LsWork) (addr : Word64) : Issued :=
  if !s.room ctx reserve 0 then .hold
  else
    let t := s.team ctx
    let ent := s.uid
    let item : LsItem := { uid := ent + 1, ent, tag := t.nextTag, work := w, rel }
    let e : Entry := { uid := ent, tag := t.nextTag, kind, clsT := true, st := true, path, rel, pc := t.pc, word := wordOf i, addr
                       left := 1, reserve, works := [item] }
    .done { s.setTeam ctx { t with inflight := t.inflight ++ [e], lsq := t.lsq ++ [item], nextTag := t.nextTag + 1
                                   stcnt := t.stcnt + 1 } with uid := ent + 2 }

/-- BARINIT (R345): TARGET from S(S1), EXPECT from S(XB). -/
def execBarinit (f : XF) (s : State) : Host.Outcome State Fault Refusal :=
  s.atIssue (.barinit f) fun ctx =>
    let t := s.team ctx
    let off := t.sreg f.bar.toNat
    match s.objectCheck ctx off with
    | some c => .trap c 0
    | none =>
      s.padIssue ctx (.barinit f) 5 16 0 false
        (.barinit off.toNat ((t.sreg f.s1.toNat).toNat % 2 ^ 32) (t.sreg (f.sub.extractLsb' 42 6).toNat).toNat) off

/-- BARARV (R346): a release at block scope (R188). -/
def execBararv (f : XF) (s : State) : Host.Outcome State Fault Refusal :=
  s.atIssue (.bararv f) fun ctx =>
    let off := (s.team ctx).sreg f.bar.toNat
    match s.objectCheck ctx off with
    | some c => .trap c 0
    | none => s.padIssue ctx (.bararv f) 6 0 0 true (.bararv off.toNat) off

/-- BARWAIT (R347): the object is examined at issue, or, where an earlier access of the team must come first, once
that access is performed; an examination that passes is a barrier boundary.  Every trap of it records the object's
offset (R275). -/
def execBarwait (f : XF) (s : State) : Host.Outcome State Fault Refusal :=
  s.atIssue (.barwait f) fun ctx =>
    let t := s.team ctx
    let off := t.sreg f.bar.toNat
    let wanted := (t.sreg f.s1.toNat).getLsbD 0
    match s.objectCheck ctx off, s.blockOf? ctx with
    | some c, _ => .trap c off
    | none, none => .done s
    | none, some b =>
      let item : LsItem := { uid := s.uid, ent := 0, work := .barexam off.toNat wanted }
      let w := WaitFor.bar off.toNat wanted
      if s.mayGo ctx item then
        match examine (s.object (frameOf ctx) b off.toNat) wanted with
        | .trap c => .trap c off
        | .pass =>
          let t := { t with pc := nextPc t.pc, fresh := false, entryTgt := false, fetchRep := false }.mark f.sw
          .stay ((s.setTeam ctx t).boundary ctx true)
        | .wait => .stay (s.waitAt ctx w (wordOf (.barwait f)))
      else
        .stay ({ s.setTeam ctx { t with lsq := t.lsq ++ [item] } with uid := s.uid + 1 }.waitAt ctx w (wordOf (.barwait f)))

/-- A BARINIT written into the bank (R241, R345). -/
def State.barinitAct (s : State) (ctx ent tag off target expect : Nat) : State :=
  match s.blockOf? ctx with
  | none => s
  | some b =>
    let low := (s.team ctx).lowWater
    if s.isDup ctx tag 0 then (s.freeSupp (.pad b.core) ctx tag low).credit ctx ent 0 0 []
    else
      let s := s.setObject (frameOf ctx) b off (Bar.init target expect)
      ((s.record (.pad b.core) ctx tag low 0 none).credit ctx ent 0 0 []).examBlock (frameOf ctx)

/-- A counting event sent to the bank of a core. -/
def State.sendCount (s : State) (core : Nat) (e : CountEvt) : State :=
  let c := s.core core
  s.setCore core { c with bankq := c.bankq ++ [e] }

/-- COUNTING_EVENT (R240): the bank applies the oldest event.  An event aimed at a sealed window waits for its image
and is applied to it (R288); one aimed at a block that has gone has no object.  An arrival whose tag is recorded
counts nothing again (R246). -/
def execCountingEvent (core : Nat) (s : State) : Host.Outcome State Fault Refusal :=
  let c := s.core core
  match c.bankq with
  | [] => .next s
  | e :: rest =>
    let s' := s.setCore core { c with bankq := rest }
    match s.block? e.frame with
    | none => .next s'
    | some b =>
      if b.window.isSome && !b.imaged then .next s
      else
        let s' := if s'.isDup e.ctx e.tag e.id then s'.freeSupp (.pad b.core) e.ctx e.tag e.low
          else (s'.setObject e.frame b e.off (Bar.apply (s'.object e.frame b e.off) e.a e.n)).record (.pad b.core) e.ctx e.tag e.low e.id none
        .next ((s'.credit e.ctx e.ent e.id 0 []).examBlock e.frame)

/-! ## The event queue (R248 to R253) -/

/-- The w0 word of a record of a team (R249). -/
def State.eventW0 (s : State) (ctx status kind : Nat) : Word64 :=
  let ctl := s.isControl ctx
  let core := s.coreOf ctx
  BitVec.ofNat 64 (place (s.asidOf ctx) 48 16 + (if ctl then 0 else place (s.slotOf ctx) 19 5 + place (core % 8) 16 3) +
    place (b2n ctl) 15 1 + place status 8 7 + place kind 0 8)

/-- The control team that a cluster's control core runs, if one is resident: a frozen one is not (R252, R253). -/
def State.controlTeam? (s : State) (col : Nat) : Option Nat :=
  (s.blocks.find? fun e => e.2.core == 768 + col && e.2.place != .frozen).map fun e => e.1 * 32

/-- A record enters the queue and a control team in EVWAIT goes on (R253). -/
def State.enterEvent (s : State) (col : Nat) (w0 w1 : Word64) : State :=
  let x := s.cluster col
  let s := s.setCluster col { x with evq := x.evq ++ [(w0, w1)] }
  match s.controlTeam? col with
  | none => s
  | some ctx => if (s.team ctx).sched = .waiting .events then s.endWait ctx false else s

/-- EVPUSH reaches the queue (R250, R376): refused with EVOVF at 224 entries.  The record names the slot and core that the
team holds then, which a resume may have changed since its issue (R249). -/
def State.evpushAct (s : State) (ctx ent tag : Nat) (w0 w1 : Word64) : State :=
  let col := s.colOfCtx ctx
  let core := s.coreOf ctx
  let low := (s.team ctx).lowWater
  if s.isDup ctx tag 0 then (s.freeSupp (.pad core) ctx tag low).credit ctx ent 0 0 []
  else if 224 ≤ (s.cluster col).evq.length then
    match (s.team ctx).inflight.find? fun e => e.uid == ent with
    | none => s
    | some e => (s.fatalFault ctx { cause := Cause.evovf, pc := e.pc, resume := 0, word := e.word }).credit ctx ent 0 0 []
  else ((s.enterEvent col (s.eventW0 ctx 0 (w0.toNat % 256)) w1).record (.pad core) ctx tag low 0 none).credit ctx ent 0 0 []

/-- EVPUSH (R376): the value is read at issue; BADCTL on a control core is the entry's first check. -/
def execEvpush (f : YF) (s : State) : Host.Outcome State Fault Refusal :=
  s.atIssue (.evpush f) fun ctx =>
    if s.isControl ctx then .trap Cause.badctl 0
    else s.padIssue ctx (.evpush f) 7 16 3 false
      (.evpush (s.eventW0 ctx 0 (0x80 + f.code.toNat)) ((s.team ctx).sreg f.sa.toNat)) 0

/-- EVPOP (R374): the oldest record, or zeros; a fence that names EV holds it. -/
def execEvpop (f : YF) (s : State) : Host.Outcome State Fault Refusal :=
  s.atIssue (.evpop f) fun ctx =>
    if s.fenced ctx s.uid 3 then .hold
    else
      let col := s.colOfCtx ctx
      let x := s.cluster col
      let r := x.evq.head?.getD (0, 0)
      (s.setCluster col { x with evq := x.evq.drop 1 }).results ctx
        [(.s f.sa.toNat, some (r.1.setWidth 1024)), (.s f.sb.toNat, some (r.2.setWidth 1024))]

/-- EVWAIT (R375). -/
def execEvwait (f : YF) (s : State) : Host.Outcome State Fault Refusal :=
  s.atIssue (.evwait f) fun ctx =>
    if s.fenced ctx s.uid 3 then .hold
    else if (s.cluster (s.colOfCtx ctx)).evq.isEmpty then .stay (s.waitAt ctx .events (wordOf (.evwait f)))
    else .done s

/-- EVENT_RECORD_ENTER (R250): the oldest record of an engine or of the distributor enters once there is room; the
completion of its copy goes on. -/
def execEventRecordEnter (col : Nat) (s : State) : Host.Outcome State Fault Refusal :=
  let x := s.cluster col
  match x.evwait with
  | [] => .next s
  | r :: rest =>
    if 256 ≤ x.evq.length then .next s
    else
      let s := (s.setCluster col { x with evwait := rest }).enterEvent col r.w0 r.w1
      let post := fun (c : Copy) => if c.uid = r.copy then { c with posted := true } else c
      .next { s with
        copies := s.copies.map post
        teams := Tab.mapVal s.teams fun _ t => { t with inflight := t.inflight.map fun e => { e with copy := e.copy.map post } } }

/-! ## TREL -/

/-- TREL (R404): the release travels to the cluster's distributor port. -/
def execTrel (f : YF) (s : State) : Host.Outcome State Fault Refusal :=
  s.atIssue (.trel f) fun ctx =>
    let col := s.colOfCtx ctx
    let x := s.cluster col
    .done (s.setCluster col { x with relq := x.relq ++ [(((s.team ctx).sreg f.sa.toNat).toNat % 256, s.asidOf ctx)] })

/-- The held block that a handle of a cluster names (R254). -/
def State.heldBlock (s : State) (col handle asid : Nat) : Option (Nat × Block) :=
  s.blocks.find? fun e => e.2.place == .held && e.2.asid == asid && decide (e.2.core < 768) && colOf e.2.core == col &&
    e.2.core % 8 * 32 + e.2.slots[0]?.getD 0 == handle

/-- TREL_RELEASE (R254): the oldest release acts.  A block whose HELD record waits for room is released after it. -/
def execTrelRelease (col : Nat) (s : State) : Host.Outcome State Fault Refusal :=
  let x := s.cluster col
  match x.relq with
  | [] => .next s
  | (handle, asid) :: rest =>
    let s' := s.setCluster col { x with relq := rest }
    match s.heldBlock col handle asid with
    | none => .next s'
    | some (f, b) =>
      if x.evwait.any fun r => r.start == f + 1 then .next s
      else .next (s'.setBlock f { b with place := .running })

end Sys2Proof.Machine
end

