-- ==== Sys2Proof/Machine/Gang.lean ====
section
/-! DEFINITION. Gangs: the instructions, and what their announcements do when they act on the cluster's gang table
(spec/03_execution.md R50 to R53; spec/11_completion.md R247; spec/17_ref_evpop_sxor.md R378 to R380). -/

namespace Sys2Proof.Machine

/-! ## Fault flags (R244) -/

/-- The fault flag of objects set with a cause; the teams that wait on them examine them. -/
def State.flagObjects (s : State) (c : Cause) (objs : List (Nat × Nat)) : State :=
  objs.foldl (fun s o =>
    match s.block? o.1 with
    | none => s
    | some b => (s.setObject o.1 b o.2 (Bar.setFault (s.object o.1 b o.2) c)).examBlock o.1) s

/-- A fatal fault of work that counts on barrier objects: their flags are set by the action that delivers it, or at
once where nothing will be delivered (R244, R166, R377). -/
def State.fatalWork (s : State) (ctx : Nat) (i : TrapInfo) : State :=
  let t := s.team ctx
  if t.gone ∨ 2 ≤ t.fatalKept ∨ (Tab.get? s.teams ctx).isNone then
    (s.fatalFault ctx { i with objs := [] }).flagObjects i.cause i.objs
  else s.fatalFault ctx i

/-! ## The instructions -/

/-- The gang number of a gang instruction. -/
def Team.gangOf (t : Team) (s1 : BitVec 6) : Nat := (t.sreg s1.toNat).toNat % 64

/-- A membership change issues: the team is held until its announcement has acted (R379). -/
def State.gangChange (s : State) (ctx : Nat) (i : Instr) (a : Ann) : Issued :=
  if s.isControl ctx then .trap Cause.badctl 0
  else .stay ((s.announce (s.dieOfCtx ctx) a).waitAt ctx .gangChange (wordOf i))

/-- GJOIN of a named gang (R379). -/
def execGjoin (f : XF) (s : State) : Host.Outcome State Fault Refusal :=
  s.atIssue (.gjoin f) fun ctx => s.gangChange ctx (.gjoin f) (.gjoin ctx ((s.team ctx).gangOf f.s1) false f.s1.toNat)

/-- GJOIN of any gang: the number taken goes to S(S1) (R379). -/
def execGjoinAny (f : XF) (s : State) : Host.Outcome State Fault Refusal :=
  s.atIssue (.gjoinAny f) fun ctx => s.gangChange ctx (.gjoinAny f) (.gjoin ctx 0 true f.s1.toNat)

/-- GLEAVE (R379). -/
def execGleave (f : XF) (s : State) : Host.Outcome State Fault Refusal :=
  s.atIssue (.gleave f) fun ctx => s.gangChange ctx (.gleave f) (.gleave ctx ((s.team ctx).gangOf f.s1))

/-- GBAR: GANGNOT outside the gang; else the arrival, a release, is announced behind the team's earlier accesses,
and the team waits for the phase (R379, R380). -/
def execGbar (f : XF) (s : State) : Host.Outcome State Fault Refusal :=
  s.atIssue (.gbar f) fun ctx =>
    let t := s.team ctx
    let g := t.gangOf f.s1
    if s.isControl ctx then .trap Cause.badctl 0
    else if !t.gangs.getLsbD g then .trap Cause.gangnot 0
    else
      let item : LsItem := { uid := s.uid, ent := 0, work := .gbar g, rel := true }
      .stay ((s.setTeam ctx { t with lsq := t.lsq ++ [item] }).bumpUid.waitAt ctx (.gbar g false) (wordOf (.gbar f)))

/-! ## The announcements act -/

/-- A gang of a cluster. -/
def State.gang? (s : State) (col g : Nat) : Option Gang := Tab.get? (s.cluster col).gangs g
/-- A gang written. -/
def State.setGang (s : State) (col g : Nat) (x : Gang) : State :=
  let c := s.cluster col
  s.setCluster col { c with gangs := Tab.put c.gangs g x }

/-- A member of a gang is released from its GBAR: a waiting team goes on at a barrier boundary, a frozen one will
resume past the GBAR, parked where its word carries a marker (R43, R372), and one whose handler runs goes on past it at TRET (R247, R276). -/
def State.releaseMember (s : State) (g ctx : Nat) : State :=
  let t := s.team ctx
  match t.sched with
  | .waiting (.gbar h _) => if h = g then s.endWait ctx true else s
  | .frozen =>
    match t.saved with
    | .waiting (.gbar h _) => if h = g then ((s.setTeam ctx { t with saved := if t.waitWord.getLsbD 87 then .parked else .ready, atBarrier := true, pc := nextPc t.pc, waitWord := 0 }).savePc ctx).saveStatus ctx else s
    | _ => if t.suspWait = some g then (s.setTeam ctx { t with suspWait := none }).saveStatus ctx else s
  | _ => if t.suspWait = some g then s.setTeam ctx { t with suspWait := none } else s

/-- A phase whose arrivals have reached the target: it changes, the count is zero, the members go on (R52). -/
def State.closePhase (s : State) (col g : Nat) : State :=
  match s.gang? col g with
  | none => s
  | some x =>
    if !x.arrived.isEmpty ∧ x.arrived.length = x.members.length then
      x.arrived.foldl (fun s c => s.releaseMember g c) (s.setGang col g { x with phase := !x.phase, arrived := [] })
    else s

/-- The announced change has acted: the team goes on, at an instruction boundary (R379). -/
def State.gangDone (s : State) (ctx : Nat) : State :=
  let t := s.team ctx
  let t := ({ t with sched := .ready, pc := nextPc t.pc, waitWord := 0 } : Team).mark (t.waitWord.getLsbD 87)
  (s.setTeam ctx t).afterEvent ctx

/-- A gang instruction that fails traps at its own PC (R51). -/
def State.gangTrap (s : State) (ctx : Nat) (c : Cause) : State :=
  let t := s.team ctx
  (s.preciseTrap ctx c t.waitWord t.pc t.pc 0).afterEvent ctx

/-- A join acts (R51, R379).  The number that a GJOIN of any gang takes is written before the team goes on. -/
def State.gjoinAct (s : State) (ctx g : Nat) (any : Bool) (sd : Nat) : State :=
  let col := s.colOfCtx ctx
  let gangs := (s.cluster col).gangs
  let asid := s.asidOf ctx
  let join := fun (s : State) (g : Nat) (x : Gang) =>
    let t := s.team ctx
    (s.setGang col g x).setTeam ctx { t with gangs := t.gangs ||| BitVec.ofNat 64 (2 ^ g) }
  if (s.team ctx).sched ≠ .waiting .gangChange then s
  else if any then
    match firstBelow 64 0 fun i => (Tab.get? gangs i).isNone with
    | none => s.gangTrap ctx Cause.gangfull
    | some i =>
      let s := join s i { asid, members := [ctx] }
      (s.setTeam ctx ((s.team ctx).writeNow (.s sd) (BitVec.ofNat 1024 i))).gangDone ctx
  else
    match Tab.get? gangs g with
    | none => (join s g { asid, members := [ctx] }).gangDone ctx
    | some x =>
      if x.asid ≠ asid then s.gangTrap ctx Cause.gangfull
      else if x.members.contains ctx then s.gangDone ctx
      else (join s g { x with members := x.members ++ [ctx] }).gangDone ctx

/-- An open RROT round of a gang is broken: each member that has issued into it receives GANGNOT, and its entry's
copy is over (R236, R244). -/
def State.breakRound (s : State) (col g : Nat) (c : Cause) (who : List Rrot) : State :=
  let x := s.cluster col
  let s := s.setCluster col { x with rrots := x.rrots.filter fun r => !(r.gang == g && who.contains r) }
  who.foldl (fun s r =>
    match (s.team r.ctx).inflight.find? fun e => e.uid == r.ent with
    | none => s
    | some e =>
      let objs := if r.be then [(frameOf r.ctx, r.bar)] else []
      let t := s.team r.ctx
      let s := { s.setTeam r.ctx { t with inflight := t.inflight.map fun x => if x.uid = r.ent then { x with copy := none } else x } with
        copies := s.copies.filter fun c => !(c.ctx == r.ctx && c.ent == r.ent) }
      (s.fatalWork r.ctx { cause := c, pc := e.pc, resume := 0, word := e.word, objs }).credit r.ctx r.ent 0 0 []) s

/-- A team is removed from a gang that it is a member of (R52, R53).  The arrival of a member that is ended while it waits in
its GBAR is taken back with it (DESIGN CHOICE, log entry 89). -/
def State.leaveGang (s : State) (col ctx g : Nat) : State :=
  match s.gang? col g with
  | none => s
  | some x =>
    if !x.members.contains ctx then s else
    let ms := x.members.filter fun c => c != ctx
    let s := s.breakRound col g Cause.gangnot ((s.cluster col).rrots.filter fun r => r.gang == g)
    let c := s.cluster col
    let s := if ms.isEmpty then s.setCluster col { c with gangs := Tab.del c.gangs g }
      else s.setGang col g { x with members := ms, arrived := x.arrived.filter fun c => c != ctx }
    let t := s.team ctx
    let s := if (Tab.get? s.teams ctx).isNone then s
      else s.setTeam ctx { t with gangs := t.gangs &&& ~~~ BitVec.ofNat 64 (2 ^ g) }
    s.closePhase col g

/-- A leave acts: of an instruction, or of a team that has ended (R53, R379). -/
def State.gleaveAct (s : State) (ctx g : Nat) : State :=
  let t := s.team ctx
  let col := s.colOfCtx ctx
  if t.gone then s.leaveGang col ctx g
  else if t.sched ≠ .waiting .gangChange then s
  else if !t.gangs.getLsbD g then s.gangTrap ctx Cause.gangnot
  else (s.leaveGang col ctx g).gangDone ctx

/-- An arrival acts (R52). -/
def State.gbarAct (s : State) (ctx g : Nat) : State :=
  let col := s.colOfCtx ctx
  match s.gang? col g with
  | none => s
  | some x =>
    if x.members.contains ctx ∧ !x.arrived.contains ctx then
      (s.setGang col g { x with arrived := x.arrived ++ [ctx] }).closePhase col g
    else s

/-- The arrival is announced. -/
def State.sendArrival (s : State) (ctx g : Nat) : State :=
  let t := s.team ctx
  let t := match t.sched with
    | .waiting (.gbar h false) => { t with sched := .waiting (.gbar h true) }
    | .frozen => (match t.saved with
      | .waiting (.gbar h false) => { t with saved := .waiting (.gbar h true) }
      | _ => t)
    | _ => t
  (s.setTeam ctx t).announce (s.dieOfCtx ctx) (.gbar ctx g)

end Sys2Proof.Machine
end

