-- ==== Sys2Proof/Machine/Lines.lean ====
section
/-! DEFINITION. Lines on a die: what announcements do to the L1s, dirty lines and their write-backs, the cistern, and
messages to the homes (spec/06_well.md R129, R138, R140; spec/09_coherence.md R191 to R194, R198, R203, R205, R210). -/

namespace Sys2Proof.Machine

/-- A host line: its home is the host cache agent (R207). -/
def isHostLine (pl : Nat) : Bool := decide (2 ^ 44 ≤ pl) && decide (pl < 2 ^ 45)

/-! ## L1 copies (R192 to R194) -/

/-- A change of the L1s of a die's cores. -/
def State.mapL1 (s : State) (d : Nat) (f : Nat → Tab L1Line → Tab L1Line) : State :=
  { s with cores := Tab.mapVal s.cores fun c x => if dieOf c = d then { x with l1 := f c x.l1 } else x }

/-- A copy goes to I, or will when its hold ends; an M copy's write is on its way to the Well (R192, R194). -/
def toI (l1 : Tab L1Line) (k : Nat) : Tab L1Line :=
  match Tab.get? l1 k with
  | none => l1
  | some e => if e.held then Tab.put l1 k { e with queued := e.queued ++ [true] } else Tab.del l1 k

/-- A copy goes to S, or will when its hold ends. -/
def toS (l1 : Tab L1Line) (k : Nat) : Tab L1Line :=
  match Tab.get? l1 k with
  | none => l1
  | some e => if e.held then Tab.put l1 k { e with queued := e.queued ++ [false] } else Tab.put l1 k { e with st := .s }

/-- Fills on their way that an invalidating announcement has overtaken are not kept (R193). -/
def State.spoilFills (s : State) (d : Nat) (p : Fill → Bool) : State :=
  let x := s.die d
  s.setDie d { x with fills := x.fills.map fun f => if p f then { f with keep := false } else f }

/-- Every L1 of the die goes to I for a line. -/
def State.l1Drop (s : State) (d k : Nat) : State := (s.mapL1 d fun _ l => toI l k).spoilFills d fun f => f.key == k

/-- E and M copies of a line go to S; an atomic announced before makes none (R192). -/
def State.l1Share (s : State) (d k : Nat) : State := (s.mapL1 d fun _ l => toS l k).spoilFills d fun f => f.key == k && f.own

/-- A copy of the asking core takes E, held for the atomic of a team, unless an atomic holds it already (R192, R194). -/
def toE (l1 : Tab L1Line) (k ctx : Nat) : Tab L1Line :=
  match Tab.get? l1 k with
  | none => l1
  | some e => if e.held then l1 else Tab.put l1 k { e with st := .e, held := true, heldBy := ctx }

/-- An ownership request of core `c` for the atomic of a team's request: every other L1 goes to I, and its own takes E, or will
when the atomic has the line's data. -/
def State.l1Own (s : State) (d c k uid ctx : Nat) : State :=
  let s := (s.mapL1 d fun i l => if i = c then toE l k ctx else toI l k).spoilFills d fun f => f.key == k && f.core != c
  let x := s.die d
  s.setDie d { x with fills := x.fills ++ [{ core := c, key := k, uid, own := true, ctx }] }

/-- Whether the L1 copy that an atomic makes is still to be kept: no later announcement has taken it (R192), and the cluster
is not gated (R214). -/
def State.ownsStill (s : State) (d k : Nat) (r : Req) : Bool :=
  !(s.cluster (colOf r.core)).gated && (s.die d).fills.any fun f => f.own && f.keep && f.core == r.core && f.key == k && f.uid == r.uid

/-- An atomic has been performed: its announcement's claim on an L1 copy is over. -/
def State.endOwn (s : State) (d k uid : Nat) : State :=
  let x := s.die d
  s.setDie d { x with fills := x.fills.filter fun f => !(f.own && f.key == k && f.uid == uid) }

/-- The hold that a core's L1 copy has for a request's atomic ends as the atomic completes (R194). -/
def State.endHold (s : State) (d k : Nat) (r : Req) : State :=
  if (Tab.get? (s.core r.core).l1 k).any fun e => e.held && e.heldBy == r.ctx then s.passHold d r.core k (·.uid != r.uid) else s

/-- A line's data as a core's own L1 copy has it: with the bytes of the core's stores that are to be performed (R174, R192). -/
def State.ownBytes (s : State) (d c k : Nat) (data : LineData) : LineData :=
  (s.heardStores d c k).foldl (fun l p => linePut l (p.va % 128) p.n p.data.toNat) data

/-- A store announced by core `c`: its own copy takes the bytes (a copy whose kept W is clear is dropped), the other
coherent copies go to I (R192); copies of a software-managed line in other L1s stay (R210).  A store that a replay sends
again may have been performed already, under later stores: its own copy is dropped too (R190). -/
def State.l1Store (s : State) (d c k : Nat) (p : Piece) (resent : Bool) : State :=
  (s.mapL1 d fun i l =>
    match Tab.get? l k with
    | none => l
    | some e =>
      if i = c then
        (if e.attr.w && !resent then Tab.put l k { e with data := linePut e.data (p.va % 128) p.n p.data.toNat } else toI l k)
      else if e.attr.swm then l else toI l k).spoilFills d fun f => f.key == k && (f.core == c || !f.attr.swm)

/-- Whether some L1 of a die holds a line. -/
def State.l1Has (s : State) (d k : Nat) : Bool := s.cores.any fun c => dieOf c.1 == d && (Tab.get? c.2.l1 k).isSome
/-- Whether some L1 of a die holds a line against probes (R194). -/
def State.l1Held (s : State) (d k : Nat) : Bool :=
  s.cores.any fun c => dieOf c.1 == d && (Tab.get? c.2.l1 k).elim false (·.held)

/-! ## Lines of the die -/

/-- A line's record written. -/
def State.setLine (s : State) (d k : Nat) (l : DLine) : State :=
  let x := s.die d
  s.setDie d { x with lines := Tab.put x.lines k l }
/-- A die's stored bytes of a peer's line are performed at the peer's home, before an operation that the home performs (R177,
spec/15_platform.md R329; DEDUCED, log entry 121). -/
def State.peerHome (s : State) (d k pl : Nat) : State :=
  match (Tab.get? (s.die d).lines k).filter fun l => l.line == pl && l.smask != 0 with
  | none => s
  | some l => (s.homeWrite pl l.data l.smask).setLine d k { l with smask := 0 }
/-- A line's record removed. -/
def State.delLine (s : State) (d k : Nat) : State :=
  let x := s.die d
  s.setDie d { x with lines := Tab.del x.lines k }

/-- A dirty line: M or O, or a software-managed line with stored bytes (R140, R191, R210). -/
def DLine.dirty (l : DLine) : Bool := if l.swm then l.smask != 0 else l.st == .m || l.st == .o

/-- The live slots of a die's chain (R142). -/
def Die.slots (x : Die) : Nat := 524224 - x.retired.foldl (fun n b => n + if b < 960 then 512 else 511) 0
/-- The lines that hold a cistern code (R140). -/
def Die.codes (x : Die) : Nat := (x.lines.filter fun e => e.2.inWell && e.2.dirty).length
/-- The cistern's capacity. -/
def Die.cistern (x : Die) : Nat := 8 * x.slots

/-- A write-back sent to its home and kept in the buffer until WBA (R205); `waits` are the counted instructions that
wait for it. -/
def State.sendWb (s : State) (d k : Nat) (l : DLine) (keep : Bool) (waits : List (Nat × Nat)) : State :=
  let mask := if l.swm then some l.smask else none
  let x := s.die d
  let s := s.setDie d { x with wbuf := x.wbuf ++ [{ line := l.line, data := l.data, stamp := l.stamp, key := k, mask, waits }] }
  s.send { kind := if keep then .wbk else .wb, agent := d, line := l.line, key := k, stamp := l.stamp, data := l.data, mask, swm := l.swm }

/-- A die asks for a line, or writes it back, only when no request and no write-back of the line is outstanding (R203). -/
def Die.mayAsk (x : Die) (pl : Nat) : Bool := x.outst.all (fun o => o.2 != pl) && x.wbuf.all fun w => w.line != pl

/-- Whether a line is on its way to some L1 of a die that will keep it (R193). -/
def Die.filling (x : Die) (k : Nat) : Bool := x.fills.any fun f => f.key == k && f.keep && f.data.isSome

/-- Whether an L1 copy of a die's line is there, or on its way (R191). -/
def State.l1Keeps (s : State) (d k : Nat) : Bool := s.l1Has d k || (s.die d).filling k

/-- A clean line that is in no Well and in no L1, and on its way to none, has no die state (R191). -/
def State.forgetLine (s : State) (d k : Nat) : State :=
  match Tab.get? (s.die d).lines k with
  | none => s
  | some l => if l.inWell || l.dirty || s.l1Keeps d k then s else s.delLine d k

/-- A dirty line is written back and stays, clean (R138, WBK); a clean line is unchanged.  True when a write-back is sent. -/
def State.cleanLine (s : State) (d k : Nat) (waits : List (Nat × Nat)) : State × Bool :=
  match Tab.get? (s.die d).lines k with
  | none => (s, false)
  | some l =>
    if !l.dirty then (s, false)
    else ((s.sendWb d k l true waits).setLine d k { l with st := if l.st = .o then .s else if l.swm then l.st else .e, smask := 0 }, true)

/-- A line leaves the Well: dirty bytes are written back with drop and every L1 goes to I; a clean coherent line that an
L1 still holds keeps its die state (R129, R191).  While the line's home has not answered the die, its write-back is held
(R203). -/
def State.dropLine (s : State) (d k : Nat) (waits : List (Nat × Nat)) : State × Bool :=
  match Tab.get? (s.die d).lines k with
  | none => (s, false)
  | some l =>
    if l.dirty then
      (if (s.die d).mayAsk l.line then (((s.sendWb d k l false waits).delLine d k).l1Drop d k, true)
        else ((s.setLine d k { l with inWell := false, leaving := true }).l1Drop d k, false))
    else if s.l1Keeps d k ∧ !l.swm then (s.setLine d k { l with inWell := false }, false)
    else (s.delLine d k, false)

/-- A write-back that was held while the line's home had not answered goes out (R203). -/
def State.leaveLine (s : State) (d k : Nat) : State :=
  match Tab.get? (s.die d).lines k with
  | none => s
  | some l => if l.leaving && !l.inWell && (!l.dirty || (s.die d).mayAsk l.line) then (s.dropLine d k []).1 else s

/-- The lines that stand in a tile. -/
def Die.linesOf (x : Die) (tile : Nat) : List Nat := (x.lines.filter fun e => tileOfLine e.1 == tile && e.2.inWell).map (·.1)

/-- Every line of a tile leaves the Well; the count of write-backs. -/
def State.dropLines (s : State) (d tile : Nat) (waits : List (Nat × Nat)) : State × Nat :=
  ((s.die d).linesOf tile).foldl (fun (s, n) k => let r := s.dropLine d k waits; (r.1, n + b2n r.2)) (s, 0)

/-- A tile's slot becomes empty, or its pin-ring place free. -/
def State.forgetTile (s : State) (d tile : Nat) : State :=
  let x := s.die d
  s.setDie d { x with tiles := Tab.del x.tiles tile, chain := x.chain.map fun e => if e = some tile then none else e }

/-- The dirty line of greatest depth that can be written back now, pinned tiles counting as deepest (R140, R203).  Of several
at one depth, the lines of one tile or those of pinned tiles, it is the first by key (DESIGN CHOICE, log entry 94). -/
def Die.deepestDirty (x : Die) : Option Nat :=
  let dirty := fun t => (x.linesOf t).find? fun k => (Tab.get? x.lines k).elim false fun l => l.dirty && x.mayAsk l.line
  match (x.tiles.filter fun t => t.2.pinned).findSome? fun t => dirty t.1 with
  | some k => some k
  | none => (x.chain.reverse.filterMap id).findSome? dirty

/-- Room in the cistern for one more dirty line: when full, the deepest dirty line is cleaned (R140). -/
def State.codeRoom (s : State) (d : Nat) : State :=
  let x := s.die d
  if x.codes < x.cistern then s
  else match x.deepestDirty with
    | none => s
    | some k => (s.cleanLine d k []).1

/-! ## Requests to the homes (R198, R203) -/

/-- A request sent to a line's home. -/
def State.ask (s : State) (d k pl : Nat) (kind : MsgKind) (atomic swm : Bool) : State :=
  let x := s.die d
  (s.setDie d { x with outst := x.outst ++ [(k, pl)] }).send { kind, agent := d, line := pl, key := k, atomic, swm }

/-! ## Probes (R200, R202, R205) -/

/-- A probe is stale when its stamp is older than the grant's under which the die holds the line (R202). -/
def staleProbe (g st : Nat) : Bool :=
  let x := (g + 65536 - st) % 65536
  decide (1 ≤ x) && decide (x < 32768)

/-- A die's copy of a coherent line under a key. -/
def Die.copyOf (x : Die) (k pl : Nat) : Option DLine := (Tab.get? x.lines k).filter fun l => l.line == pl && !l.swm

/-- A die's write-back of a coherent line that waits for WBA. -/
def Die.wbOf (x : Die) (pl : Nat) : Option WbEnt := x.wbuf.find? fun w => w.line == pl && w.mask.isNone

/-- Whether a probe of a line is stale at a die: by its copy's stamp, or that of its outstanding write-back. -/
def Die.stale (x : Die) (k pl stamp : Nat) : Bool :=
  match x.copyOf k pl with
  | some l => staleProbe l.stamp stamp
  | none => (x.wbOf pl).elim false fun w => staleProbe w.stamp stamp

/-- A probe acts on a die's line and is answered from its state (R200).  With no copy and a write-back outstanding the
answer names the write-back's stamp (R205). -/
def State.probed (s : State) (d k pl stamp : Nat) (inv clean : Bool) : State :=
  let x := s.die d
  let answer := fun (s : State) (kind : MsgKind) (data : LineData) (wb : Nat) =>
    s.send { kind, agent := d, line := pl, key := k, stamp, data, wb }
  if x.stale k pl stamp then answer s .ackSt 0 0
  else match x.copyOf k pl with
    | some l =>
      let kind := if l.dirty then MsgKind.ackD else .ackI
      if inv then answer ((s.delLine d k).l1Drop d k) kind l.data 0
      else
        let st := match l.st with
          | .m | .o => if clean then DSt.s else .o
          | _ => .s
        answer ((s.setLine d k { l with st }).l1Share d k) kind l.data 0
    | none =>
      let s := if inv then s.l1Drop d k else s.l1Share d k
      match x.wbOf pl with
      | some w => answer s .ackWb 0 w.stamp
      | none => answer s .ackI 0 0

end Sys2Proof.Machine
end

