-- ==== Sys2Proof/Machine/Well.lean ====
section
/-! DEFINITION. The Well of a die: the chain and the pin ring, admission at the mouth, tiles in transit, and the
application of requests to lines (spec/06_well.md R118 to R138; spec/08_ordering.md R173, R185;
spec/09_coherence.md R192 to R194, R201; spec/16_ref_bany_dloop.md R354, R355; spec/19_ref_vmulh_zwr.md R435). -/

namespace Sys2Proof.Machine

/-! ## The chain (R118, R142) -/

/-- The position that holds a depth, the live position with that many live positions in front of it: every row of 1,024
positions has one for each live bank. -/
def slotPos (retired : List Nat) (depth : Nat) : Nat :=
  if retired.isEmpty then depth
  else
    let live := (List.range 1024).filter fun b => !retired.contains b
    depth / live.length * 1024 + live.getD (depth % live.length) 0

/-- The course of a position. -/
def course (pos : Nat) : Nat := Nat.log2 (pos / 64 + 1)

/-- The depth of a tile in the chain. -/
def Die.depth? (x : Die) (tile : Nat) : Option Nat := x.chain.findIdx? fun e => e == some tile

/-- A tile placed at depth 0: the tiles in front of the first empty slot move outward (R123). -/
def pushFront (chain : List (Option Nat)) (tile : Nat) : List (Option Nat) := some tile :: dropFirst (·.isNone) chain

/-- A tile pushed past the last live slot leaves the Well (R123, R129). -/
def State.trim (s : State) (d : Nat) : State :=
  let x := s.die d
  if x.chain.length ≤ x.slots then s
  else
    let s := s.setDie d { x with chain := x.chain.take x.slots }
    match (x.chain[x.slots]?).join with
    | none => s
    | some t => ((s.dropLines d t []).1).forgetTile d t

/-- Whether a tile in transit has come to the depth that no reservation passes: nothing more is admitted before it arrives
(R125). -/
def Die.deepTransit (x : Die) : Bool :=
  x.tiles.any fun t => t.2.transit && (x.depth? t.1).elim false fun dep => decide (432 ≤ dep)

/-- Whether a die's Well holds a tile: in the chain or the pin ring.  A tile in transit that a WEVICT admitted since takes away
is in neither (R127). -/
def Die.placed (x : Die) (tile : Nat) : Bool := (Tab.get? x.tiles tile).any fun t => t.pinned || (x.depth? tile).isSome

/-- A touch of a tile by a request (R123, R125): it takes depth 0, entering transit from course 1 or deeper, and is allocated
when absent. -/
def State.touchTile (s : State) (d tile uid : Nat) : State :=
  let x := s.die d
  match Tab.get? x.tiles tile with
  | some t =>
    if t.pinned then s
    else match x.depth? tile with
      | none =>
        if t.transit then (s.setDie d { x with chain := pushFront x.chain tile, tiles := Tab.put x.tiles tile { t with made := uid } }).trim d
        else s
      | some dep =>
        let moving := t.transit || decide (1 ≤ course (slotPos x.retired dep))
        s.setDie d { x with chain := some tile :: x.chain.eraseIdx dep, tiles := Tab.put x.tiles tile { t with transit := moving } }
  | none => (s.setDie d { x with chain := pushFront x.chain tile, tiles := Tab.put x.tiles tile { made := uid } }).trim d

/-! ## Performing accesses on a line -/

/-- Where a request to a coherent line is performed, for its suppression table (R173, R290). -/
def Req.point (r : Req) (d : Nat) : Point :=
  if r.op.isAtomic ∧ r.scope ≤ 1 then .l1 r.core else .mouth d

/-- Where a request is performed: an atomic of device or system scope at the line's home (R173). -/
def Req.pointAt (r : Req) (d pl : Nat) : Point := if r.op.isAtomic ∧ 3 ≤ r.scope then homePoint pl else r.point d

/-- The state of a line as pieces are performed on it. -/
structure LineAcc where
  s : State
  data : LineData
  mask : BitVec 128 := 0
  wrote : Bool := false
  deriving DecidableEq, Repr

/-- One piece performed on a line's data; a duplicate only answers. -/
def LineAcc.piece (a : LineAcc) (r : Req) (pt : Point) (p : Piece) : LineAcc :=
  if r.op.writes && a.s.isDup r.ctx r.tag p.id then
    let got := if r.op.reads then p.got (a.s.dupVal r.ctx r.tag p.id) else []
    { a with s := (a.s.freeSupp pt r.ctx r.tag r.low).credit r.ctx r.ent p.id p.lane got }
  else
    let off := p.va % 128
    let old := if r.op = .commit then p.cmp.toNat else lineGet a.data off p.n
    let s := if r.op.writes then
        a.s.record pt r.ctx r.tag r.low p.id (if r.op.isAtomic then some (BitVec.ofNat 512 old) else none)
      else a.s
    let s := s.credit r.ctx r.ent p.id p.lane (if r.op.reads then p.got old else [])
    match r.op.update p.n old p with
    | some x => { s := s, data := linePut a.data off p.n x, mask := a.mask ||| byteMask off p.n, wrote := true }
    | none => { a with s := s }

/-- The core's L1 after an atomic of block or cluster scope has been performed (R191, R192): a copy takes the data, and E
unless a later announcement has taken that; a copy that is not there is made, but not for a write whose copy has
gone, nor after a later announcement that takes it (R192), nor in a gated cluster (R214).  The data is the line's with the
core's own stores that its L1 has heard and the Well is still to perform (R174).  The atomic's hold ends (R194). -/
def State.l1Atomic (s : State) (k : Nat) (r : Req) (line : LineData) (a : Attr) : State :=
  let c := s.core r.core
  let d := dieOf r.core
  let data := s.ownBytes d r.core k line
  match Tab.get? c.l1 k with
  | some e =>
    let st := if r.op = .commit then (if e.st = .s then L1St.s else .e) else if s.ownsStill d k r then .e else e.st
    (s.setCore r.core { c with l1 := Tab.put c.l1 k { e with st, data } }).endHold d k r
  | none =>
    if r.op = .commit ∨ !s.ownsStill (dieOf r.core) k r then s
    else s.setCore r.core { c with l1 := Tab.put c.l1 k { st := .e, data, attr := a } }

/-- The line's data goes towards the L1s whose loads asked for it (R193). -/
def State.serveFill (s : State) (d : Nat) (r : Req) (k : Nat) (data : LineData) (a : Attr) : State :=
  let x := s.die d
  s.setDie d { x with fills := x.fills.map fun f =>
    if f.core = r.core ∧ f.key = k ∧ f.uid = r.uid then { f with data := some data, attr := a } else f }

/-- A request performed on a line that the die holds with what it needs.  The line stands in the Well afterwards when
it stood there before, or when the request is a touch of a tile that is there; a line written and not kept there is
written back and dropped, and so is one fetched for an atomic that writes nothing (R128, R131). -/
def State.performLine (s : State) (d k : Nat) (r : Req) (l : DLine) (a : Attr) : State :=
  let place := l.inWell || (!r.bypass && !a.nowell && (Tab.get? (s.die d).tiles (tileOfLine k)).isSome)
  let acc := r.pieces.foldl (fun acc p => acc.piece r (r.pointAt d l.line) p) ({ s := s, data := l.data } : LineAcc)
  let s := if acc.wrote ∧ !l.dirty ∧ place then acc.s.codeRoom d else acc.s
  let l' : DLine := { l with data := acc.data, inWell := place, leaving := l.leaving && !place, st := if acc.wrote && !l.swm then .m else l.st
                             smask := if l.swm then l.smask ||| acc.mask else 0 }
  let s := s.setLine d k l'
  let s := if r.op = .load then s.serveFill d r k acc.data a else s
  let s := if r.op.isAtomic ∧ r.scope ≤ 1 then (s.l1Atomic k r acc.data a).endOwn d k r.uid else s
  if !place ∧ (acc.wrote ∨ r.op.isAtomic) then (s.dropLine d k []).1 else s

/-- The issuing core's L1 after its atomic of block or cluster scope was performed elsewhere: a copy takes the bytes written,
under the core's own stores that are to be performed (R174, R192), and the atomic's claim and hold end (R194). -/
def State.l1Away (s : State) (d k : Nat) (r : Req) (data : LineData) (mask : BitVec 128) : State :=
  let c := s.core r.core
  if 1 < r.scope then s
  else
    let s := match Tab.get? c.l1 k with
      | none => s
      | some e => s.setCore r.core { c with l1 := Tab.put c.l1 k { e with data := s.ownBytes d r.core k (lineMerge e.data data mask) } }
    (s.endHold d k r).endOwn d k r.uid

/-- An atomic on peer memory, at whatever scope: performed by the peer's home on its memory (R185,
spec/15_platform.md R329), behind the die's earlier stores to the line (R177). -/
def State.peerAtomic (s : State) (d k pl : Nat) (r : Req) : State :=
  let s := s.peerHome d k pl
  let acc := r.pieces.foldl (fun acc p => acc.piece r (homePoint pl) p) ({ s := s, data := s.homeRead pl } : LineAcc)
  let s := acc.s.homeWrite pl acc.data acc.mask
  match Tab.get? (s.die d).lines k with
  | some l => (s.setLine d k { l with data := lineMerge l.data acc.data acc.mask }).l1Away d k r acc.data acc.mask
  | none => s.l1Away d k r acc.data acc.mask

/-- The bytes of a store as one line with its mask, duplicates left out. -/
def State.storeBytes (s : State) (r : Req) : LineData × BitVec 128 :=
  (r.pieces.filter fun p => !s.isDup r.ctx r.tag p.id).foldl
    (fun a p => (linePut a.1 (p.va % 128) p.n p.data.toNat, a.2 ||| byteMask (p.va % 128) p.n)) (0, 0)

/-- A store's pieces acknowledged by the home of a line. -/
def State.ackStore (s : State) (pl : Nat) (r : Req) : State :=
  r.pieces.foldl (fun s p =>
    let s := if s.isDup r.ctx r.tag p.id then s.freeSupp (homePoint pl) r.ctx r.tag r.low
      else s.record (homePoint pl) r.ctx r.tag r.low p.id none
    s.credit r.ctx r.ent p.id p.lane []) s

/-! ## Trying a request -/

/-- What a request needs next. -/
inductive Try where
  | done (s : State)
  | walk
  | ask (kind : MsgKind) (atomic : Bool)
  | split (s : State) (r : Req)
  | bstore
  | peer                        -- the access goes to the peer, which performs it or answers with an error (R331)
  | stay                        -- no port reaches the peer now (R331), a write-back of its line is on its way, or the line is one of the register BAR
  deriving DecidableEq, Repr

/-- The first part of a block-, cluster- or die-scope atomic on a clean shared copy: the old values are read and the
new ones computed; the write that remains needs permission like a store (R201).  The issuing core's L1 holds the new
value in M at block and cluster scope (R191, R194), unless a later announcement has taken its copy (R192). -/
def State.splitAtomic (s : State) (d k : Nat) (r : Req) (l : DLine) (a : Attr) : Try :=
  let step := fun (acc : State × LineData × List Piece) (p : Piece) =>
    let off := p.va % 128
    if acc.1.isDup r.ctx r.tag p.id then
      ((acc.1.freeSupp (r.point d) r.ctx r.tag r.low).credit r.ctx r.ent p.id p.lane (p.got (acc.1.dupVal r.ctx r.tag p.id)),
        acc.2.1, acc.2.2)
    else
      let old := lineGet acc.2.1 off p.n
      match r.op.update p.n old p with
      | some x => (acc.1, linePut acc.2.1 off p.n x, acc.2.2 ++ [{ p with data := BitVec.ofNat 512 x, cmp := BitVec.ofNat 512 old }])
      | none =>
        let s := acc.1.record (r.point d) r.ctx r.tag r.low p.id (some (BitVec.ofNat 512 old))
        (s.credit r.ctx r.ent p.id p.lane (p.got old), acc.2.1, acc.2.2)
  let r' := r.pieces.foldl step (s, l.data, [])
  if r'.2.2.isEmpty then .done ((r'.1.endOwn d k r.uid).endHold d k r)
  else
    let c := r'.1.core r.core
    let s := if r.scope ≤ 1 && r'.1.ownsStill d k r then
        let copy : L1Line := {
          st := .m, data := r'.1.ownBytes d r.core k r'.2.1, attr := a, held := true, heldBy := r.ctx
          queued := (Tab.get? c.l1 k).elim [] (·.queued) }
        r'.1.setCore r.core { c with l1 := Tab.put c.l1 k copy }
      else r'.1
    .split (s.endOwn d k r.uid) { r with op := .commit, pieces := r'.2.2 }

/-- The offset in the register BAR of a line of host memory at which the host has placed it (spec/15_platform.md R325). -/
def State.barLine (s : State) (pl : Nat) : Option Nat :=
  s.plat.barBase.bind fun b =>
    let a := pl * 128
    if 2 ^ 51 + b ≤ a ∧ a < 2 ^ 51 + b + 2 ^ 24 then some (a - 2 ^ 51 - b) else none

/-- What a request that waits at its line needs, or the state after it is performed.  `granted` is set while the data of
a grant that has just come is in hand. -/
def State.tryReq (s : State) (d : Nat) (w : WaitEnt) (granted : Bool) : Try :=
  let r := w.req
  let x := s.die d
  let tile := Tab.get? x.tiles (tileOfLine w.key)
  match (w.tr.map (·.2)).orElse fun _ => tile.bind (·.attr) with
  | none => .walk
  | some a =>
    if (r.user && !a.u) || (r.op.writes && !a.w) then .walk
    else if w.tr.any fun t => (s.barLine t.1).isSome then .stay
    else
      let line := Tab.get? x.lines w.key
      let held := line.filter fun l => l.inWell || granted
      let known := w.tr.isSome
      let write := fun (l : DLine) => if l.swm || l.st == .e || l.st == .m then Try.done (s.performLine d w.key r l a) else .ask .upg false
      if r.op.isAtomic && (decide (3 ≤ r.scope) || a.peer) then
        match w.tr with
        | some (pl, _) =>
          if 2 ^ 45 ≤ pl then
              (if s.peerDown pl || x.wbuf.any (fun v => v.line == pl) then .stay else if w.sent then .done (s.peerAtomic d w.key pl r) else .peer)
          else match line with
            | some l => if l.swm || l.st == .e || l.st == .m then .done (s.performLine d w.key r l a) else .ask .upg true
            | none => .ask .rdx true
        | none =>
          match line with
          | some l =>
            if l.line < 2 ^ 45 then
              (if l.swm || l.st == .e || l.st == .m then .done (s.performLine d w.key r l a) else .ask .upg true)
            else .walk
          | none => .walk
      else match r.op with
        | .store =>
          if a.nowell || (r.bypass && held.isNone) then (if known then .bstore else .walk)
          else match held with
            | some l => write l
            | none =>
              if !known then .walk
              else .ask (if (s.storeBytes r).2 = fullMask then .own else .rdx) false
        | .commit | .own =>
          match held with
          | some l => write l
          | none => if known then .ask .rdx false else .walk
        | .atomic _ | .cas =>
          match held with
          | some l => if l.swm || l.st == .e || l.st == .m then .done (s.performLine d w.key r l a) else s.splitAtomic d w.key r l a
          | none => if known then .ask .rdx false else .walk
        | _ =>
          match held with
          | some l => .done (s.performLine d w.key r l a)
          | none => if known then .ask .rds false else .walk

/-- Whether a waiting request asks for a walk because the attributes kept with its tile refuse it (R150): such a walk first
drops the TLB's entry (R156). -/
def State.keptMiss (s : State) (d : Nat) (w : WaitEnt) : Bool :=
  w.tr.isNone && ((Tab.get? (s.die d).tiles (tileOfLine w.key)).bind (·.attr)).elim false fun a =>
    (w.req.user && !a.u) || (w.req.op.writes && !a.w)

/-- Whether a waiting part of a request is a given one. -/
def WaitEnt.is (w v : WaitEnt) : Bool := v.key == w.key && v.req.uid == w.req.uid && v.seg == w.seg

/-- A waiting request taken out of a die's order. -/
def State.unwait (s : State) (d : Nat) (w : WaitEnt) : State :=
  let x := s.die d
  s.setDie d { x with waits := x.waits.filter fun v => !w.is v }

/-- A waiting request changed in its place. -/
def State.rewait (s : State) (d : Nat) (w : WaitEnt) : State :=
  let x := s.die d
  s.setDie d { x with waits := x.waits.map fun v => if w.is v then w else v }

/-- The physical line of a waiting request. -/
def State.lineOf (s : State) (d : Nat) (w : WaitEnt) : Nat :=
  match w.tr with
  | some (pl, _) => pl
  | none => (Tab.get? (s.die d).lines w.key).elim 0 (·.line)

/-- Whether a waiting request's line is software-managed. -/
def State.swmOf (s : State) (d : Nat) (w : WaitEnt) : Bool :=
  match w.tr with
  | some (_, a) => a.swm
  | none => (Tab.get? (s.die d).lines w.key).elim false (·.swm)

/-- A strongly ordered run in the parts that its lanes make of it, line after line (R175); `fuel` bounds the parts. -/
def runParts (asid : Nat) : Nat → List Piece → List (Nat × List Piece)
  | 0, _ => []
  | _, [] => []
  | n + 1, p :: ps =>
    let k := lineKey asid p.va
    let here := fun (q : Piece) => lineKey asid q.va == k
    (k, p :: ps.takeWhile here) :: runParts asid n (ps.dropWhile here)

/-- The parts of a strongly ordered run join the orders of their lines, each behind the part before it. -/
def State.joinRun (s : State) (d : Nat) (r : Req) : State :=
  let x := s.die d
  let parts := (runParts r.asid r.pieces.length r.pieces).zipIdx.map fun e =>
    ({ key := e.1.1, req := { r with pieces := e.1.2 }, seg := e.2 } : WaitEnt)
  s.setDie d { x with waits := x.waits ++ parts }

/-- The other parts of a waiting request's strongly ordered run that are still to come. -/
def Die.others (x : Die) (w : WaitEnt) : List WaitEnt := x.waits.filter fun v => w.req.strong && v.req.uid == w.req.uid && v.seg != w.seg

/-- Whether an earlier part of its run holds a waiting request (R175). -/
def Die.runHolds (x : Die) (w : WaitEnt) : Bool := (x.others w).any fun v => decide (v.seg < w.seg)

/-- A waiting request with the rest of its run. -/
def Die.whole (x : Die) (w : WaitEnt) : Req := { w.req with pieces := w.req.pieces ++ ((x.others w).map fun v => v.req.pieces).flatten }

/-- A waiting request taken out with the rest of its run. -/
def State.unwaitRun (s : State) (d : Nat) (w : WaitEnt) : State := ((s.die d).others w).foldl (fun s v => s.unwait d v) (s.unwait d w)

/-- A bypass store to a line that is not valid goes to the home: at once for a software-managed line, else into the
home's queue (R131, R207, R210). -/
def State.sendStore (s : State) (d : Nat) (w : WaitEnt) : State :=
  let pl := s.lineOf d w
  let b := s.storeBytes w.req
  if s.swmOf d w ∧ !isHostLine pl then ((s.homeWrite pl b.1 b.2).ackStore pl w.req).unwait d w
  else
    let s := if s.swmOf d w then s else s.l1Drop d w.key
    let x := s.die d
    let s := s.setDie d { x with outst := x.outst ++ [(w.key, pl)] }
    let e := s.dirEnt pl
    s.setDir pl { e with queue := e.queue ++ [{ agent := d, op := .bstore w.req.uid b.1 b.2, asid := w.req.asid, key := w.key }] }

/-! ### Requests that clean or drop a line (R138, R354, R355) -/

/-- Requests that clean or drop lines. -/
def ReqOp.maint : ReqOp → Bool
  | .wclean | .wevict | .cflush | .cinv => true
  | _ => false

/-- Whether a request to clean or drop a line may act: a dirty line's write-back waits for what is outstanding (R203). -/
def State.maintOpen (s : State) (d : Nat) (w : WaitEnt) : Bool :=
  w.req.op == .cinv || match Tab.get? (s.die d).lines w.key with
    | some l => !l.dirty || (s.die d).mayAsk l.line
    | none => true

/-- A request that cleans or drops a line acts on it.  A counted one waits for the line's write-back, or owes nothing there.
A CINV drops what its core's L1 and fetch buffer have taken of the line since its issue: every later access of the team
follows it (R356). -/
def State.maintain (s : State) (d : Nat) (w : WaitEnt) : State :=
  let r := w.req
  let k := w.key
  if r.op = .cinv then
    let s := s.dropCopies r.core k
    if ((Tab.get? (s.die d).tiles (tileOfLine k)).bind (·.attr)).elim false fun a => a.swm || a.peer then s.delLine d k else s
  else
    let c := if r.op = .wclean then s.cleanLine d k [(r.ctx, r.ent)]
      else if (Tab.get? (s.die d).lines k).elim false fun l => l.inWell || l.leaving then s.dropLine d k [(r.ctx, r.ent)]
      else (s, false)
    let x := c.1.die d
    if c.2 then c.1
    else if x.wbuf.any fun v => v.key == k then
      c.1.setDie d { x with wbuf := x.wbuf.map fun v => if v.key = k then { v with waits := v.waits ++ [(r.ctx, r.ent)] } else v }
    else c.1.credit r.ctx r.ent (k + 2) 0 []

/-- The waiting requests of a line go on, in Drum order, as far as they can (R126, R128); those behind a side-logged or
faulted access of their core or team are passed over (R162). -/
def State.pump (s : State) (d k : Nat) (granted : Bool) : Nat → State
  | 0 => s
  | n + 1 =>
    match ((s.die d).waits.filter fun w => w.key == k && !s.linesHeld w.req [k]).head? with
    | none => s
    | some w =>
      if w.req.op.maint then
        (if s.maintOpen d w then ((s.maintain d w).unwait d w).pump d k granted n else s)
      else
        let others := (s.die d).others w
        let onward := fun (s : State) => (others.map (·.key)).foldl (fun s j => s.pump d j false n) (s.pump d k granted n)
        if (s.die d).runHolds w then s
        else match s.tryReq d w granted with
        | .done s' => onward (s'.unwait d w)
        | .peer => s.rewait d { w with sent := true }
        | .split s' r =>
          if others.isEmpty then (s'.rewait d { w with req := r }).pump d k granted n
          else
            let pl := s.lineOf d w
            if (s.die d).mayAsk pl then s.ask d k pl .upg false (s.swmOf d w) else s
        | .stay => s
        | .walk =>
          let x := s.die d
          if x.walks.any fun v => v.key == k && v.req.uid == w.req.uid then s
          else s.setDie d { x with walks := x.walks ++ [{ key := k, req := w.req, recheck := w.req.replay || s.keptMiss d w }] }
        | .ask kind atomic =>
          let pl := s.lineOf d w
          if (s.die d).mayAsk pl then s.ask d k pl kind atomic (s.swmOf d w) else s
        | .bstore =>
          if s.peerDown (s.lineOf d w) then s
          else if 2 ^ 45 ≤ s.lineOf d w ∧ !w.sent then s.rewait d { w with sent := true }
          else if !(s.die d).mayAsk (s.lineOf d w) then s
          else if s.swmOf d w ∧ !isHostLine (s.lineOf d w) then onward (s.sendStore d w) else s.sendStore d w

/-- The waiting requests of a line go on, once a write-back of it that was held for an answer has gone out (R129); one that an
answer to them has kept here goes out behind them (R203). -/
def State.pumpLine (s : State) (d k : Nat) (granted : Bool) : State :=
  let s := if granted then s else s.leaveLine d k
  let ws := (s.die d).waits
  (s.pump d k granted (2 * ws.length + 2)).leaveLine d k

/-- A waiting request is over; what waits behind it, and the next part of its run, go on. -/
def State.finishWait (s : State) (d : Nat) (w : WaitEnt) : State :=
  (((s.die d).others w).map (·.key)).foldl (fun s k => s.pumpLine d k false) ((s.unwait d w).pumpLine d w.key false)

/-- Every waiting request of a die goes on as far as it can. -/
def State.pumpDie (s : State) (d : Nat) : State :=
  let x := s.die d
  (distinct (x.waits.map (·.key) ++ (x.lines.filter (·.2.leaving)).map (·.1))).foldl (fun s k => s.pumpLine d k false) s

/-- A request joined to the order of one line. -/
def State.joinLine (s : State) (d k : Nat) (r : Req) : State :=
  let x := s.die d
  s.setDie d { x with waits := x.waits ++ [{ key := k, req := r }] }

/-- The accesses of a request joined to their lines' orders, line by line; a strongly ordered run goes from line to line in
the order of its lanes, and has its place in the order of each line from now on (R175, R174). -/
def State.enqueue (s : State) (d : Nat) (r : Req) : State :=
  let keys := (distinct (r.pieces.map fun p => lineKey r.asid p.va).reverse).reverse
  if r.strong then keys.foldl (fun s k => s.pumpLine d k false) (s.joinRun d r)
  else keys.foldl (fun s k => (s.joinLine d k { r with pieces := r.pieces.filter fun p => lineKey r.asid p.va == k }).pumpLine d k false) s

/-! ## The Well instructions -/

/-- The number of accesses that an entry still owes. -/
def State.setLeft (s : State) (ctx ent n : Nat) : State :=
  match Tab.get? s.teams ctx with
  | none => s
  | some t => s.setTeam ctx { t with inflight := t.inflight.map fun e => if e.uid = ent then { e with left := n } else e }

/-- A KIND 4 request applied to lines of its tile: each joins its line's order and owes there the acknowledgement of a
write-back, or nothing (R178, R284).  A duplicate owes what the first performance still waits for. -/
def State.counted (s : State) (d : Nat) (r : Req) (ks : List Nat) : State :=
  if s.isDup r.ctx r.tag 0 then
    let mine := fun (x : Die) => (x.wbuf.filter fun w => w.waits.contains (r.ctx, r.ent)).length +
      (x.waits.filter fun w => w.req.op.maint && w.req.ctx == r.ctx && w.req.ent == r.ent).length
    let owed := s.dies.foldl (fun n x => n + mine x.2) 0
    let s := s.freeSupp (.mouth d) r.ctx r.tag r.low
    if owed = 0 then s.credit r.ctx r.ent 0 0 [] else s.setLeft r.ctx r.ent owed
  else
    let s := s.record (.mouth d) r.ctx r.tag r.low 0 none
    if ks.isEmpty then s.credit r.ctx r.ent 0 0 []
    else ks.foldl (fun s k => (s.joinLine d k r).pumpLine d k false) (s.setLeft r.ctx r.ent ks.length)

/-- The lines of a tile that stand in the Well, or at which requests wait. -/
def Die.busyLines (x : Die) (tile : Nat) : List Nat :=
  distinct (x.linesOf tile ++ (x.waits.filter fun w => tileOfLine w.key == tile).map (·.key))

/-- A request's accesses to one line. -/
def Req.atLine (r : Req) (k : Nat) : Req := { r with pieces := r.pieces.filter fun p => lineKey r.asid p.va == k }

/-- Whether a request acts on a line: one of its accesses does, or it is for the line or the line's tile. -/
def Req.actsOn (r : Req) (k : Nat) : Bool :=
  match r.op with
  | .wevict | .wclean => tileKey r.asid r.va == tileOfLine k
  | .cflush | .cinv | .probe .. => lineKey r.asid r.va == k
  | _ => !(r.atLine k).pieces.isEmpty

/-- What a request earlier in Drum order leaves of a line's validity (R134): a fetch that it starts makes it valid, and what drops
the line, invalid.  A store of the whole line fetches nothing (R128). -/
def State.validAfter (s : State) (d k : Nat) (v : Bool) (r : Req) : Bool :=
  let x := s.die d
  match r.op with
  | .wevict | .cflush => v && s.isDup r.ctx r.tag 0
  | .cinv => v && !((Tab.get? x.tiles (tileOfLine k)).bind (·.attr)).elim false fun a => a.swm || a.peer
  | .probe inv _ pl st => v && !(inv && !x.stale k pl st && (x.copyOf k pl).isSome)
  | .store => v || (!r.bypass && (s.storeBytes (r.atLine k)).2 != fullMask)
  | .load | .pref | .own | .atomic _ | .cas | .commit => v || !r.bypass
  | .wclean | .wdepth | .wpin | .wunpin => v

/-- The earlier requests that are still to act on a line: those that wait at it, then those that its tile's transit holds (R126). -/
def Die.earlier (x : Die) (k : Nat) : List Req :=
  (x.waits.filter fun w => w.key == k).map (·.req) ++ ((Tab.get? x.tiles (tileOfLine k)).elim [] (·.held)).filter (·.actsOn k)

/-- Whether a line shows as valid (R134): the Well holds it, or a fetch of it by an earlier request is outstanding, and no
earlier request drops it; a request that the tile's transit holds counts as it would at rest (R127, R133). -/
def State.showsValid (s : State) (d k : Nat) : Bool :=
  let x := s.die d
  (x.earlier k).foldl (s.validAfter d k) ((Tab.get? x.lines k).elim false (·.inWell))

/-- The state word of WDEPTH for a tile that the die's Well holds (R134). -/
def State.depthWord (s : State) (d tile : Nat) (t : Tile) : Nat :=
  let x := s.die d
  let valid := (List.range 32).foldl (fun n i => if s.showsValid d (tile * 32 + i) then n + 2 ^ i else n) 0
  let dep := (x.depth? tile).getD 0
  valid * 2 ^ 32 +
    (if t.pinned then 2 ^ 25
    else b2n t.transit * 2 ^ 24 + place (course (slotPos x.retired dep)) 19 4 + place dep 0 19)

/-- The state word of WDEPTH for a tile that was absent at admission (R133, R134). -/
def absentWord (nowell : Bool) : Nat := if nowell then 2 ^ 27 else 2 ^ 26

/-- Tiles in a die's pin ring. -/
def Die.pinned (x : Die) : Nat := (x.tiles.filter fun t => t.2.pinned).length

/-- A tile placed in the pin ring; its slot in the chain becomes empty (R135, R136). -/
def State.pinTile (s : State) (d tile : Nat) (a : Option Attr) : State :=
  let x := s.die d
  let t := (Tab.get? x.tiles tile).getD { attr := a }
  s.setDie d { x with tiles := Tab.put x.tiles tile { t with pinned := true }
                      chain := x.chain.map fun e => if e = some tile then none else e }

/-- WPIN decided for a page that may be in the Well: the tile takes its place in the ring, unless that is full, with the attributes
that a walk has shown for an absent one; the status that it then has (R136). -/
def State.pinAct (s : State) (d tile : Nat) (a : Option Attr) : State × Nat :=
  let x := s.die d
  match (Tab.get? x.tiles tile).filter fun _ => x.placed tile with
  | some t =>
    if t.pinned then (s, 0)
    else if t.attr.elim false (·.nowell) then (s, 2)
    else if 4096 ≤ x.pinned then (s, 1)
    else (s.pinTile d tile none, 0)
  | none => if 4096 ≤ x.pinned then (s, 1) else (s.pinTile d tile a, 0)

/-- Whether the walk of a tile's WPIN is still to show whether its page is NOWELL. -/
def Die.pinWalks (x : Die) (tile : Nat) : Bool := x.walks.any fun w => w.req.op == .wpin && tileOfLine w.key == tile

/-- WPIN (R136): it takes the tile's place at its admission, of a tile in transit too, whose place is then the pin ring (R127).  An
absent tile asks for translation, and what keeps it out of the ring is a page that shows NOWELL (R435).  While the walk waits for a
line of the host (R156) the tile has its place, and nothing behind it in Drum order is held (R126). -/
def State.pin (s : State) (d : Nat) (r : Req) : State :=
  let tile := tileKey r.asid r.va
  let x := s.die d
  if x.placed tile && !x.pinWalks tile then
    let p := s.pinAct d tile none
    p.1.answer r.ctx r.uid p.2
  else if (s.walkWaits d r.asid (va57 r.va) { user := r.user }).isSome then
    let p := s.pinAct d tile none
    let x := p.1.die d
    p.1.setDie d { x with walks := x.walks ++ [{ key := lineKey r.asid r.va, req := { r with found := p.2 } }] }
  else match s.translate d r.asid (va57 r.va) { user := r.user } with
    | (s, .ok e) =>
      if e.attr.nowell then s.answer r.ctx r.uid 2
      else
        let p := s.pinAct d tile (some e.attr)
        p.1.answer r.ctx r.uid p.2
    | (s, .error _) =>
      let p := s.pinAct d tile none
      p.1.answer r.ctx r.uid p.2

/-- WUNPIN: a pinned tile returns to depth 0 (R137). -/
def State.unpin (s : State) (d tile : Nat) : State :=
  let x := s.die d
  match Tab.get? x.tiles tile with
  | some t =>
    if t.pinned then
      (s.setDie d { x with tiles := Tab.put x.tiles tile { t with pinned := false }, chain := pushFront x.chain tile }).trim d
    else s
  | none => s

/-- A tile in transit leaves its place for a WEVICT at the WEVICT's admission; its lines leave on arrival (R127, R129). -/
def State.vacate (s : State) (d tile : Nat) : State :=
  let x := s.die d
  s.setDie d { x with chain := x.chain.map fun e => if e = some tile then none else e
                      tiles := Tab.mapVal x.tiles fun k t => if k = tile then { t with pinned := false } else t }

/-- A WEVICT's tile: it leaves the Well, but one in transit stays until its arrival is over, where a later request has given it a
place again, with nothing kept of its translation. -/
def State.evictTile (s : State) (d tile : Nat) : State :=
  let x := s.die d
  match Tab.get? x.tiles tile with
  | none => s
  | some t => if t.transit then s.setDie d { x with tiles := Tab.put x.tiles tile { t with attr := none } } else s.forgetTile d tile

/-- A request applied to a tile at rest (R123, R138, R354, R355); a probe is answered from the die's state (R200). -/
def State.applyReq (s : State) (d : Nat) (r : Req) : State :=
  let tile := tileKey r.asid r.va
  let k := lineKey r.asid r.va
  match r.op with
  | .load | .store | .atomic _ | .cas | .commit | .own | .pref => s.enqueue d r
  | .wunpin => s.unpin d tile
  | .wclean => s.counted d r ((s.die d).busyLines tile)
  | .wevict =>
    if s.isDup r.ctx r.tag 0 then s.counted d r [] else (s.counted d r ((s.die d).busyLines tile)).evictTile d tile
  | .cflush => s.counted d r [k]
  | .cinv => (s.joinLine d k r).pumpLine d k false
  | .probe inv clean pl stamp => s.probed d k pl stamp inv clean
  | .wdepth =>
    let x := s.die d
    let ask := fun (word : Nat) => s.setDie d { x with walks := x.walks ++ [{ key := k, req := { r with found := word } }] }
    match (Tab.get? x.tiles tile).filter fun _ => x.placed tile with
    | some t => if x.pinWalks tile then ask (s.depthWord d tile t) else s.answer r.ctx r.uid (s.depthWord d tile t)
    | none => ask (absentWord false)
  | .wpin => s.pin d r

/-! ## The mouth (R122, R126) -/

/-- Whether a request touches its tile (R123, R130). -/
def Req.touch (r : Req) (t : Option Tile) : Bool :=
  let nowell := (t.bind (·.attr)).elim false (·.nowell)
  match r.op with
  | .load | .store | .atomic _ | .cas => !r.bypass && !nowell
  | .pref => !nowell
  | _ => false

/-- Whether a request takes a transit-table entry when its tile is in transit: every one but WDEPTH, which answers at once (R126,
R435). -/
def Req.waitsTransit (r : Req) : Bool := r.op != .wdepth

/-- Whether a request moves its tile's place in the Well and no data: WPIN and WUNPIN (R136, R137). -/
def Req.placeOnly (r : Req) : Bool := r.op == .wpin || r.op == .wunpin

/-- Entries of the transit table in use. -/
def Die.transitUsed (x : Die) : Nat := x.tiles.foldl (fun n t => n + t.2.held.length) 0

/-- Whether a request is a home's probe, which is held behind no request (R126). -/
def Req.isProbe (r : Req) : Bool :=
  match r.op with
  | .probe .. => true
  | _ => false

/-- A request that finds its tile in transit is held there; else it is applied.  Its tile takes its place at once, as it would at
rest: a touch brings it to depth 0, a WPIN or WUNPIN takes it into the pin ring or out of it, and a WEVICT takes its place away
(R123, R127, R133; DEDUCED, log entry 68). -/
def State.admitReq (s : State) (d : Nat) (r : Req) : State :=
  let tile := tileKey r.asid r.va
  let s := if r.touch (Tab.get? (s.die d).tiles tile) then s.touchTile d tile r.uid else s
  let x := s.die d
  match Tab.get? x.tiles tile with
  | some t =>
    if t.transit && r.waitsTransit then
      let s := s.setDie d { x with tiles := Tab.put x.tiles tile { t with held := t.held ++ [r] } }
      if r.placeOnly then s.applyReq d r else if r.op == .wevict && !s.isDup r.ctx r.tag 0 then s.vacate d tile else s
    else s.applyReq d r
  | none => s.applyReq d r

/-- Whether admitting a request would need a transit-table entry. -/
def Die.needsEntry (x : Die) (r : Req) : Bool :=
  let tile := tileKey r.asid r.va
  match Tab.get? x.tiles tile with
  | none => false
  | some t =>
    r.waitsTransit && (t.transit || (r.touch (some t) && !t.pinned &&
      (x.depth? tile).elim false fun dep => decide (1 ≤ course (slotPos x.retired dep))))

/-- Whether a request cannot be admitted now, nor those behind it: a restitch is running (R143), it needs an entry of a full
transit table (R122), a tile in transit can be pushed no further (R125), or it is a probe of a line that an L1 holds (R194). -/
def State.carried (s : State) (d : Nat) (r : Req) : Bool :=
  let x := s.die d
  x.restitch.isSome || (x.needsEntry r && decide (512 ≤ x.transitUsed)) || x.deepTransit || match r.op with
    | .probe _ _ _ _ => s.l1Held d (lineKey r.asid r.va)
    | _ => false

/-- Up to `n` requests admitted in Drum order; one that cannot be is carried, and those behind it. -/
def State.admitUpTo (s : State) (d : Nat) : Nat → State
  | 0 => s
  | n + 1 =>
    let x := s.die d
    match x.mouthq with
    | [] => s
    | r :: rest =>
      if s.carried d r then s
      else ((s.setDie d { x with mouthq := rest }).admitReq d r).admitUpTo d n

/-- Requests of a core's teams that a full side log kept out take places as they free (R161), in the order of dies, records and
attachments (DESIGN CHOICE, log entry 110). -/
def State.fillLog (s : State) (core : Nat) : State :=
  let atts := (s.dies.map fun d => (d.2.frecs.map fun f => f.2.att).flatten ++ d.2.frwait.map (·.1)).flatten
  atts.foldl (fun s a => match a with
    | .req r =>
      let c := s.core core
      let t := s.team r.ctx
      if r.core = core ∧ r.op.writes ∧ !r.strong ∧ t.fhold.contains r.uid ∧ c.slog.length < 256 then
        (s.setCore core { c with slog := c.slog ++ [{ req := r }] }).setTeam r.ctx { t with fhold := t.fhold.filter (· != r.uid) }
      else s
    | _ => s) s

/-- The side logs of a die's cores take what waits for a place. -/
def State.fillLogs (s : State) (d : Nat) : State :=
  ((s.cores.filter fun c => dieOf c.1 == d).map (·.1)).foldl (fun s c => s.fillLog c) s

/-- WELL_BEAT_ADMIT (R122): the mouth admits at most 8 requests.  What waits at the die and is held no longer goes on: accesses
behind a full side log, and those behind side-logged ones that a freeze has taken away (R161, R162). -/
def execWellBeatAdmit (die : Nat) (s : State) : Host.Outcome State Fault Refusal :=
  .next (((s.fillLogs die).admitUpTo die 8).pumpDie die)

/-- A request that was held with a tile is applied; where one before it has taken the tile out of the Well, a touch allocates
it anew, as for a tile at rest (R127).  Of a WPIN or WUNPIN nothing is left but its entry. -/
def State.applyHeld (s : State) (d : Nat) (r : Req) : State :=
  let tile := tileKey r.asid r.va
  if r.placeOnly then s else
  let s := if (Tab.get? (s.die d).tiles tile).isNone && r.touch none then s.touchTile d tile r.uid else s
  s.applyReq d r

/-- A tile's arrival is over: it is at rest, or, where a WEVICT has taken its place away and nothing has given it one, it leaves
the Well (R127, R129). -/
def State.landTile (s : State) (d tile : Nat) : State :=
  let x := s.die d
  match Tab.get? x.tiles tile with
  | none => s
  | some t =>
    if x.placed tile then s.setDie d { x with tiles := Tab.put x.tiles tile { t with transit := false } }
    else ((s.dropLines d tile []).1).forgetTile d tile

/-- A tile allocated by a miss whose page proves NOWELL: its slot becomes empty, and requests it held are applied (R168). -/
def State.dropNowell (s : State) (d tile : Nat) : State :=
  match Tab.get? (s.die d).tiles tile with
  | none => s
  | some t =>
    if t.attr.isSome ∨ t.pinned then s
    else t.held.foldl (fun s r => s.applyReq d r) (s.forgetTile d tile)

/-- The walk of a WPIN has shown a NOWELL page: a tile that it placed in the ring on no better knowledge leaves (R136, R168). -/
def State.rejectPin (s : State) (d tile : Nat) : State :=
  let x := s.die d
  match Tab.get? x.tiles tile with
  | none => s
  | some t =>
    if t.attr.isSome then s
    else (s.setDie d { x with tiles := Tab.put x.tiles tile { t with pinned := false } }).dropNowell d tile

/-- The walk of a WPIN has shown the attributes of its page: a tile with none yet keeps them (R150). -/
def State.keepPin (s : State) (d tile : Nat) (a : Attr) : State :=
  let x := s.die d
  s.setDie d { x with tiles := Tab.mapVal x.tiles fun k t => if k = tile ∧ t.attr.isNone then { t with attr := some a } else t }

/-- The attributes of a tile's translation, kept with it (R150). -/
def State.keepAttr (s : State) (d tile : Nat) (a : Attr) : State :=
  let x := s.die d
  match Tab.get? x.tiles tile with
  | none => s
  | some t => if a.nowell ∧ t.attr.isNone then s.dropNowell d tile else s.setDie d { x with tiles := Tab.put x.tiles tile { t with attr := some a } }

/-- TRANSIT_ARRIVAL (R126): the tile reaches the mouth and its held requests are applied in Drum order. -/
def execTransitArrival (die tile : Nat) (s : State) : Host.Outcome State Fault Refusal :=
  let x := s.die die
  match Tab.get? x.tiles tile with
  | none => .next s
  | some t =>
    if !t.transit ∨ x.restitch.isSome then .next s
    else
      let s := s.setDie die { x with tiles := Tab.put x.tiles tile { t with held := [] } }
      .next ((t.held.foldl (fun s r => s.applyHeld die r) s).landTile die tile)

/-! ## The Drum (R192) -/

/-- What a request's announcement does to the L1s of its die. -/
def State.heard (s : State) (d : Nat) (r : Req) : State :=
  let k := lineKey r.asid r.va
  match r.op with
  | .load =>
    let x := s.die d
    s.setDie d { x with fills := x.fills ++ r.lines.map fun k => { core := r.core, key := k, uid := r.uid } }
  | .store => r.pieces.foldl (fun s p => s.l1Store d r.core (lineKey r.asid p.va) p r.resent) s
  | .atomic _ | .cas | .commit =>
    r.lines.foldl (fun s k => if r.scope ≤ 1 then s.l1Own d r.core k r.uid r.ctx else s.l1Drop d k) s
  | .wevict =>
    let tile := tileKey r.asid r.va
    let ks := ((s.cores.filter fun c => dieOf c.1 == d).map fun c => (c.2.l1.filter fun e => tileOfLine e.1 == tile).map (·.1)).flatten
    ((distinct ks).foldl (fun s k => s.l1Drop d k) s).spoilFills d fun f => tileOfLine f.key == tile
  | .cflush => s.l1Drop d k
  | .probe inv _ pl stamp =>
    if (s.die d).stale k pl stamp then s else if inv then s.l1Drop d k else s.l1Share d k
  | _ => s

/-- DRUM_ANNOUNCEMENT_ACT (R192): the oldest announcement acts on every listener; a request goes on to the mouth. -/
def execDrumAnnouncementAct (die : Nat) (s : State) : Host.Outcome State Fault Refusal :=
  let x := s.die die
  match x.anns with
  | [] => .next s
  | a :: rest =>
    let s := s.setDie die { x with anns := rest }
    match a with
    | .req r =>
      let s := s.heard die r
      let x := s.die die
      .next (s.setDie die { x with mouthq := x.mouthq ++ [r] })
    | .gjoin ctx g any sd => .next (s.gjoinAct ctx g any sd)
    | .gleave ctx g => .next (s.gleaveAct ctx g)
    | .gbar ctx g => .next (s.gbarAct ctx g)

/-- L1_FILL (R193): a line that has arrived for a load is kept unless an invalidating announcement was heard meanwhile.  A copy that
the L1 holds already takes the attributes that the Well served the load under (R150). -/
def execL1Fill (core line : Nat) (s : State) : Host.Outcome State Fault Refusal :=
  let d := dieOf core
  let x := s.die d
  match x.fills.find? fun f => f.core == core && f.key == line && f.data.isSome with
  | none => .next s
  | some f =>
    let s := s.setDie d { x with fills := dropFirst (· == f) x.fills }
    let c := s.core core
    if f.keep ∧ (Tab.get? c.l1 line).isNone ∧ !(s.cluster (colOf core)).gated then
      .next (s.setCore core { c with l1 := Tab.put c.l1 line { st := .s, data := f.data.getD 0, attr := f.attr } })
    else match Tab.get? c.l1 line with
      | some e => .next (s.setCore core { c with l1 := Tab.put c.l1 line { e with attr := if f.keep then f.attr else e.attr } })
      | none => .next (s.forgetLine d line)

/-- L1_HOLD_EXPIRY (R194): an L1 copy held for an atomic is released and the queued announcements act. -/
def execL1HoldExpiry (core line : Nat) (s : State) : Host.Outcome State Fault Refusal :=
  match Tab.get? (s.core core).l1 line with
  | none => .next s
  | some e => if e.held then .next (s.releaseHold core line) else .next s

end Sys2Proof.Machine
end

