-- ==== Sys2Proof/Machine/Shape.lean ====
section
/-! DEFINITION. Shape records: fields, windows, element addresses and the checks of an engine instruction's records
(spec/10_matrix.md R216 to R222). -/

namespace Sys2Proof.Machine

namespace Shape
/-- The matrix row of a window row, and the column of a window column. -/
def row (r : Record) (i : Nat) : Int := row0 r + (i : Int)
def col (r : Record) (j : Nat) : Int := col0 r + (j : Int)

/-- Whether a window element is in range (R218). -/
def inRange (r : Record) (i j : Nat) : Bool :=
  decide (0 ≤ row r i) && decide (row r i < (rows r : Int)) && decide (0 ≤ col r j) && decide (col r j < (cols r : Int))

/-- The address of matrix element (r, c) without wrap (R218). -/
def addr (rc : Record) (r c : Int) : Int :=
  let e := r * rowStride rc + c * (elStride rc : Int)
  if fmt rc = 14 then (base rc : Int) + e / 2 else (base rc : Int) + e * (bytes (fmt rc) : Int)

/-- Whether element (r, c) of a q4 record is the high nibble of its byte. -/
def highNibble (rc : Record) (r c : Int) : Bool := (r * rowStride rc + c * (elStride rc : Int)) % 2 == 1

/-- The in-range rows or columns of a window of `n` from origin `o` in a matrix of `m`: first and last, if any. -/
def span (o : Int) (n m : Nat) : Option (Int × Int) :=
  let lo := max o 0
  let hi := min (o + (n : Int)) (m : Int) - 1
  if lo ≤ hi then some (lo, hi) else none

/-- The lowest and the highest element address of a window, if it has an element in range: the address is linear in
row and column, so both stand at corners. -/
def bounds (rc : Record) (n m : Nat) : Option (Int × Int) :=
  match span (row0 rc) n (rows rc), span (col0 rc) m (cols rc) with
  | some (r1, r2), some (c1, c2) =>
    let a := addr rc r1 c1
    let b := addr rc r2 c1
    let c := addr rc r1 c2
    let d := addr rc r2 c2
    some (min (min a b) (min c d), max (max a b) (max c d))
  | _, _ => none
end Shape

/-! ## The record checks (R220, R225) -/

/-- What an instruction's use of a record accepts. -/
structure Use where
  dst : Bool := false
  peer : Bool := true            -- SPACE 3
  own : Bool := false            -- SPACE 1 only
  fmts : List Nat := [0, 1, 2, 3, 4, 5, 6, 7, 8, 9, 10, 11, 12, 13]
  scaled : Bool := false
  deriving DecidableEq, Repr

/-- CORES as R217 requires. -/
def coresOk (r : Record) (dst : Bool) : Bool :=
  if Shape.space r = 2 then (if dst then Shape.cores r != 0 else decide (Shape.cores r < 8)) else Shape.cores r == 0

/-- A record that fails R220 for a use. -/
def badRecord (r : Record) (u : Use) : Bool :=
  Shape.reserved r || Shape.fmt r == 15 || !u.fmts.contains (Shape.fmt r) || (!u.peer && Shape.space r == 3) ||
    (u.own && Shape.space r != 1) || !coresOk r u.dst || Shape.elStride r == 0 ||
    (Shape.fmt r != 14 && decide (Shape.base r % Shape.bytes (Shape.fmt r) ≠ 0)) ||
    (if u.scaled then decide (Shape.scaleBase r % 4 ≠ 0) else (Shape.scaleBase r != 0 || Shape.zpBase r != 0))

/-- Formats of an MMA. -/
def mmaFmts : List Nat := [6, 7, 8, 9, 10, 13, 14]
/-- A floating-point MMA format. -/
def mmaFloat (fmt : Nat) : Bool := decide (fmt < 13)
/-- An eight-bit floating-point format. -/
def isF8 (fmt : Nat) : Bool := fmt == 9 || fmt == 10
/-- The use that MMA makes of a record. -/
def mmaUse : Use := { peer := false, fmts := mmaFmts, scaled := true }

/-- What R225 adds: the pair of formats, the records that may be scaled or zero-pointed, and the origins of their groups. -/
def badMma (a b : Record) : Bool :=
  let fa := Shape.fmt a
  let fb := Shape.fmt b
  let grouped := fun r => Shape.scaleBase r != 0 || Shape.zpBase r != 0
  let unit : Int := if fa = 14 then 128 else 64
  !(fa == fb || (isF8 fa && isF8 fb)) || (!isF8 fa && (Shape.scaleBase a != 0 || Shape.scaleBase b != 0)) ||
    (!(fa == 13 || fa == 14) && (Shape.zpBase a != 0 || Shape.zpBase b != 0)) ||
    (grouped a && Shape.col0 a % unit != 0) || (grouped b && (Shape.row0 b % unit != 0 || Shape.col0 b % 32 != 0))

/-! ## The address checks (R221) -/

/-- A record with its window, as an instruction uses it. -/
structure Window where
  rc : Record
  n : Nat
  m : Nat
  dst : Bool := false
  deriving DecidableEq, Repr

/-- Whether all addresses from `lo` to `hi` are canonical (R148). -/
def spanCanonical (lo hi : Int) : Bool :=
  (decide (0 ≤ lo) && decide (hi < (2 ^ 56 : Nat))) || (decide ((2 ^ 64 - 2 ^ 56 : Nat) ≤ lo) && decide (hi < (2 ^ 64 : Nat)))

/-- The windows that blocks of an ASID hold on a core. -/
def State.windowsOn (s : State) (core asid : Nat) : List Win :=
  (s.blocks.filter fun e => e.2.core == core && e.2.asid == asid && e.2.window.isNone).map fun e =>
    { core, base := e.2.spbase, len := e.2.scratch, frame := e.1 }

/-- Whether `n` bytes at a scratchpad offset lie in one window. -/
def inWindow (ws : List Win) (core : Nat) (a : Int) (n : Nat) : Bool :=
  ws.any fun w => w.core == core && decide ((w.base : Int) ≤ a) && decide (a + (n : Int) ≤ ((w.base + w.len : Nat) : Int))

/-- Whether every in-range element of a window lies in windows of a core. -/
def Window.inside (w : Window) (ws : List Win) (core : Nat) : Bool :=
  let b := Shape.bytes (Shape.fmt w.rc)
  match Shape.bounds w.rc w.n w.m with
  | none => true
  | some (lo, hi) =>
    decide (0 ≤ lo) && decide (hi + (b : Int) ≤ 524288) &&
      ((ws.any fun v => v.core == core && decide ((v.base : Int) ≤ lo) &&
          decide (hi + (b : Int) ≤ ((v.base + v.len : Nat) : Int))) ||
        (List.range w.n).all fun i => (List.range w.m).all fun j => !Shape.inRange w.rc i j ||
          inWindow ws core (Shape.addr w.rc (Shape.row w.rc i) (Shape.col w.rc j)) b)

/-- The windows that an instruction's SPACE 2 records may reach. -/
def State.winsOf (s : State) (ctx : Nat) (rs : List Window) : List Win :=
  let col := s.colOfCtx ctx
  let cs := distinct ((rs.filter fun w => Shape.space w.rc == 2).map fun w => namedCores col w.rc w.dst).flatten
  (cs.map fun c => s.windowsOn c (s.asidOf ctx)).flatten

/-- Whether a barrier object lies outside the window that R232 names for it. -/
def State.objectOut (s : State) (ctx bar : Nat) (dst : Record) (ws : List Win) : Bool :=
  if Shape.space dst = 2 then (namedCores (s.colOfCtx ctx) dst true).any fun c => !inWindow ws c (bar : Int) 32
  else decide ((s.blockOf? ctx).elim 0 (·.scratch) < bar + 32)

/-- The checks of R221 in their order, over every record's elements and, with `obj`, the barrier objects of a destination. -/
def State.windowCheck (s : State) (ctx : Nat) (rs : List Window) (obj : Option (Nat × Record)) : Option Cause :=
  let scratch := (s.blockOf? ctx).elim 0 (·.scratch)
  let ws := s.winsOf ctx rs
  let bytes := fun (w : Window) => (Shape.bytes (Shape.fmt w.rc) : Int)
  let spans := fun (w : Window) (sp : List Nat) (p : Int → Int → Bool) =>
    sp.contains (Shape.space w.rc) && (Shape.bounds w.rc w.n w.m).elim false fun b => p b.1 b.2
  if rs.any fun w => spans w [0, 3] fun lo hi => !spanCanonical lo hi then some Cause.noncanon
  else if rs.any fun w => spans w [1] fun lo hi => decide (lo < 0) || decide ((scratch : Int) < hi + bytes w) then some Cause.spbound
  else if rs.any fun w => Shape.space w.rc == 2 && (namedCores (s.colOfCtx ctx) w.rc w.dst).any fun c => !w.inside ws c then
    some Cause.spbound
  else match obj with
    | none => none
    | some (bar, dst) =>
      if s.objectOut ctx bar dst ws then some Cause.spbound
      else if bar % 32 ≠ 0 then some Cause.misalign
      else none

/-- The first cause of a list of checks. -/
def firstCause (cs : List (Option Cause)) : Option Cause := cs.findSome? id

/-- A check that fails with a cause. -/
def failIf (b : Bool) (c : Cause) : Option Cause := if b then some c else none

end Sys2Proof.Machine
end

