-- ==== Sys2Proof/Machine/Matrix.lean ====
section
/-! DEFINITION. The arithmetic of the matrix array and of the copy engine: MMA elements, reductions and the
conversions of a drain (spec/05_numbers.md R99, R108, R111 to R115; spec/10_matrix.md R225, R231, R235). -/

namespace Sys2Proof.Machine

/-- f32 1.0. -/
def oneF32 : Word32 := 0x3F800000

/-! ## MMA (R111 to R115) -/

/-- The sign bit of an element of a floating-point format inverted. -/
def flipSign (fmt x : Nat) : Nat := x ^^^ 2 ^ ((fmtOf fmt).w - 1)

/-- An operand element as its format and the negate option leave it: bits for a floating-point format, d for q8 and q4. -/
def negElem (fmt : Nat) (neg : Bool) (x : Word32) : Word32 :=
  if !neg then x else if mmaFloat fmt then BitVec.ofNat 32 (flipSign fmt x.toNat) else 0 - x

/-- The exact sum of a list of values; an exactly zero sum is −0.0 only when every term is. -/
def sumFV : List FV → FV
  | [] => .fin false 0 0
  | [x] => x
  | x :: xs => addFV 0 x (sumFV xs)

/-- The exact sum of products rounded once to f32 (R112, R113). -/
def dotOnce (fa fb : Nat) (as bs : List Word32) : Nat :=
  roundFV fF32 0 false false
    (sumFV (List.zipWith (fun a b => mulFV (unpack (fmtOf fa) a.toNat) (unpack (fmtOf fb) b.toNat)) as bs))

/-- f32 products summed in ascending k, each step rounded (R114). -/
def dotSteps : List Word32 → List Word32 → Nat
  | a :: as, b :: bs => (List.zip as bs).foldl (fun s p => addF32 0 s (mulF32 p.1.toNat p.2.toNat)) (mulF32 a.toNat b.toNat)
  | _, _ => 0

/-- The exact integer sum of products (R115). -/
def dotInt (as bs : List Word32) : Int := (List.zipWith (fun a b => a.toInt * b.toInt) as bs).foldl (· + ·) 0

/-- One element of an MMA (R112 to R115). -/
def mmaElement (fa fb : Nat) (as bs : List Word32) (sa sb c : Word32) (acd sat : Bool) : Word32 :=
  let float := fun (t : Nat) => BitVec.ofNat 32 (if acd then canon fF32 t else addF32 0 c.toNat t)
  if fa = 13 ∨ fa = 14 then
    let sum := dotInt as bs
    if acd then BitVec.ofInt 32 sum else BitVec.ofNat 32 (narrowInt 0 sat (c.toInt + sum))
  else if fa = 6 then float (dotSteps as bs)
  else if isF8 fa then float (mulF32 (dotOnce fa fb as bs) (mulF32 sa.toNat sb.toNat))
  else float (dotOnce fa fb as bs)

/-- Column `j` of a K × 32 operand. -/
def column (b : List Word32) (k j : Nat) : List Word32 := (List.range k).map fun i => b[i * 32 + j]?.getD 0
/-- Row `i` of a 32 × K operand. -/
def rowOf (a : List Word32) (k i : Nat) : List Word32 := (a.drop (i * k)).take k

/-- All 1,024 elements of an MMA's result from its operands and the accumulator (R225). -/
def MmaJob.result (j : MmaJob) (o : MmaOps) (z : Nat → Nat → Word32) : List Word32 :=
  let fa := Shape.fmt j.ra
  let fb := Shape.fmt j.rb
  let k := mmaK fa
  let a := o.a.map (negElem fa j.nega)
  let b := o.b.map (negElem fb j.negb)
  (List.range 1024).map fun e =>
    mmaElement fa fb (rowOf a k (e / 32)) (column b k (e % 32)) (o.sa[e / 32]?.getD oneF32) o.sb (z (e / 32) (e % 32)) j.acd j.sat

/-! ## Reductions (R231) -/

/-- The destination element `old` combined with `x` in a format: 1 add, 2 min, 3 max. -/
def reduceElem (fmt red old x : Nat) : Nat :=
  let f := fmtOf fmt
  let lt := if fmt = 0 then decide (signed 32 old ≤ signed 32 x) else decide (old ≤ x)
  if fmt ≤ 1 then
    match red with
    | 1 => (old + x) % 2 ^ 32
    | 2 => if lt then old else x
    | _ => if lt then x else old
  else
    match red with
    | 1 => roundFV f 0 false false (addFV 0 (unpack f old) (unpack f x))
    | 2 => minMaxBits f false false old x
    | _ => minMaxBits f false true old x

/-! ## The conversions of a drain (R235) -/

/-- An accumulator element in the format of a destination: moved for i32, n32 and f32, else rounded with RNE. -/
def drainElem (fmt : Nat) (sat : Bool) (x : Word32) : Nat :=
  match fmt with
  | 7 | 8 => roundFV (fmtOf fmt) 0 sat false (unpack fF32 x.toNat)
  | 9 | 10 => roundNarrow (fmtOf fmt) 0 sat (unpack fF32 x.toNat)
  | _ => x.toNat

end Sys2Proof.Machine
end

