-- ==== Sys2Proof/Machine/Engine.lean ====
section
/-! DEFINITION. What the engines reach: lines of the Well, scratchpad windows as CP and MX see them, and the elements
that the copy engine reads, writes and reduces (spec/10_matrix.md R217, R218, R227 to R232; spec/06_well.md R130;
spec/07_translation.md R161; spec/08_ordering.md R171 to R173; spec/13_preemption.md R288, R290). -/

namespace Sys2Proof.Machine

/-! ## Lines for an engine (R226, R230) -/

/-- What an engine finds at a virtual address: the line with its attributes, nothing yet, or a fault. -/
inductive LineGot where
  | ready (s : State) (key pl : Nat) (a : Attr) (data : LineData)
  | wait (s : State)
  | fault (s : State) (type level : Nat)
  deriving DecidableEq, Repr

/-- Who an engine works for. -/
structure Agent where
  ctx : Nat
  core : Nat
  die : Nat
  asid : Nat
  user : Bool
  work : Nat := 0              -- the copy or MMA that it carries out
  rep : Bool := false          -- its access is a replay (R156)
  deriving DecidableEq, Repr

/-- A request of an engine for a line of its die, if it has none of that kind waiting. -/
def State.engAsk (s : State) (g : Agent) (va key pl : Nat) (a : Attr) (op : ReqOp) : State :=
  let x := s.die g.die
  if x.waits.any fun w => w.key == key && w.req.ent == 0 && w.req.op == op then s
  else
    let r : Req := { uid := s.uid, ent := 0, ctx := g.ctx, tag := g.work, core := g.core, asid := g.asid, op, va, user := g.user }
    (s.bumpUid.setDie g.die { x with waits := x.waits ++ [{ key, req := r, tr := some (pl, a) }] }).pumpLine g.die key false

/-- The level of a leaf, from its size (R154). -/
def levelOfSize (size : Nat) : Nat := if size ≤ 16 then 0 else if size = 21 then 1 else 2

/-- The touch that an engine's element makes of a tile, once (R123, R168): not where the kept attributes show NOWELL. -/
def State.engTouch (s : State) (g : Agent) (tile : Nat) : State :=
  let x := s.die g.die
  if ((Tab.get? x.tiles tile).bind (·.attr)).elim false (·.nowell) || x.touched.contains (g.work, tile) then s
  else
    let s := s.touchTile g.die tile g.work
    let x := s.die g.die
    s.setDie g.die { x with touched := x.touched ++ [(g.work, tile)] }

/-- An engine's element touches a tile anew, which has left the Well since its touch (R143). -/
def State.untouch (s : State) (g : Agent) (tile : Nat) : State :=
  let x := s.die g.die
  s.setDie g.die { x with touched := x.touched.filter (· != (g.work, tile)) }

/-- The touches of an engine's element are behind it. -/
def State.endTouches (s : State) (die work : Nat) : State :=
  let x := s.die die
  s.setDie die { x with touched := x.touched.filter (fun e => e.1 != work), stuck := x.stuck.filter fun e => e.1 != work }

/-- An engine's access waits for a port to its peer (spec/15_platform.md R331). -/
def State.engStuck (s : State) (g : Agent) (va pl : Nat) : State :=
  let x := s.die g.die
  if x.stuck.contains (g.work, va, pl) then s else s.setDie g.die { x with stuck := x.stuck ++ [(g.work, va, pl)] }

/-- Whether an engine's access to a peer has first to go to it: it performs the access, or answers with an error, once it has
come there (spec/15_platform.md R331). -/
def State.peerFirst (s : State) (g : Agent) (va pl : Nat) : Bool :=
  decide (2 ^ 45 ≤ pl) && (s.peerDown pl || !(s.die g.die).stuck.contains (g.work, va, pl))

/-- An engine's walk is over: a line reached on a page that keeps out of the Well, or in the Well's tile with the leaf's
attributes (R150, R168).  A line under a second tag, and one that the host holds, is first given up (R158). -/
def State.engFound (s : State) (g : Agent) (va : Nat) (e : TlbEnt) (write : Bool) : LineGot :=
  let pl := e.paOf va / 128
  let k := lineKey g.asid va
  let tile := tileOfLine k
  if e.attr.nowell then
    let s := match Tab.get? (s.die g.die).tiles tile with
      | some t => if t.made == g.work then s.dropNowell g.die tile else s
      | none => s
    if s.peerFirst g va pl then .wait (s.engStuck g va pl)
    else if s.hostFirst pl write then .wait (s.homeAsk pl (.swmRead write false))
    else match if write && !e.attr.swm && (s.dirEnt pl).sharers.getLsbD 4 then some .reclaim else s.homeFirst k pl e.attr.swm with
    | some op => .wait (s.homeAsk pl op)
    | none => .ready s k pl e.attr (s.seenLine g.die k pl e.attr.swm)
  else
    let x := s.die g.die
    match Tab.get? x.tiles tile with
    | none => .wait (s.untouch g tile)
    | some t =>
      let s := s.setDie g.die { x with tiles := Tab.put x.tiles tile { t with attr := some e.attr } }
      if t.transit then .wait s
      else match Tab.get? (s.die g.die).lines k with
        | some l =>
          if l.inWell && (!write || l.swm || l.st == .e || l.st == .m) then .ready s k pl e.attr l.data
          else .wait (s.engAsk g va k pl e.attr (if write then .own else .pref))
        | none => .wait (s.engAsk g va k pl e.attr (if write then .own else .pref))

/-- An engine's access translated (R150, R156, R157); a walk for attributes that refused it, and a
replay's, first drops the TLB's entry. -/
def State.engWalk (s : State) (g : Agent) (va : Nat) (write peer recheck : Bool) : LineGot :=
  let need : Need := { write, user := g.user }
  let s := if recheck then s.dropTlb g.die g.asid va else s
  match s.walkWaits g.die g.asid va need with
  | some pl => .wait (s.homeAsk pl .pull)
  | none =>
    match s.translate g.die g.asid va need with
    | (s, .error (ty, lv)) => .fault s ty lv
    | (s, .ok e) => if peer && !e.attr.peer then .fault s 5 (levelOfSize e.size) else s.engFound g va e write

/-- A line reached by an engine: its tile is touched; a valid line is served under the attributes kept with its tile, and
asks for no translation, in transit too; else, or where those refuse it, it is translated and held by the die, with write permission when it
is to be written (R150, R168).  A record of SPACE 3 reaches peer pages only (R217). -/
def State.engLine (s : State) (g : Agent) (va : Nat) (write peer : Bool) : LineGot :=
  let k := lineKey g.asid va
  let tile := tileOfLine k
  let x := s.die g.die
  if x.restitch.isSome || (x.deepTransit && !x.touched.contains (g.work, tile)) then .wait s
  else
    let s := s.engTouch g tile
    let x := s.die g.die
    let t := Tab.get? x.tiles tile
    match t.bind (·.attr), (Tab.get? x.lines k).filter (·.inWell) with
    | some a, some l =>
      if a.nowell || (peer && !a.peer) || (g.user && !a.u) || (write && !a.w) then s.engWalk g va write peer true
      else if t.any (·.transit) then .wait s
      else if !write || l.swm || l.st == .e || l.st == .m then .ready s k l.line a l.data
      else .wait (s.engAsk g va k l.line a .own)
    | _, _ => s.engWalk g va write peer g.rep

/-- `n` bytes of a line written by an engine: in the Well, or at the home for a NOWELL page. -/
def State.engStore (s : State) (g : Agent) (key pl : Nat) (a : Attr) (off n x : Nat) : State :=
  if a.nowell then
    let s := if a.swm then s.homeWrite pl (linePut 0 off n x) (byteMask off n) else s.mapCopies pl fun d => linePut d off n x
    if isHostLine pl then s.emit (.dirtyEvict pl (s.homeRead pl)) else s
  else
    let dirty := (Tab.get? (s.die g.die).lines key).elim false (·.dirty)
    let s := if dirty then s else s.codeRoom g.die
    let s := if a.swm then s else s.l1Drop g.die key
    match Tab.get? (s.die g.die).lines key with
    | none => s
    | some l =>
      s.setLine g.die key { l with data := linePut l.data off n x, st := if l.swm then l.st else .m
                                   smask := if l.swm then l.smask ||| byteMask off n else 0 }

/-! ## Scratchpad windows (R171, R288) -/

/-- A place that an engine element names. -/
inductive Spot where
  | glob (va : Nat) (peer : Bool)
  | pad (core frame off : Nat)
  deriving DecidableEq, Repr

/-- A number, after waiting or a fault. -/
inductive Got where
  | ready (s : State) (x : Nat)
  | wait (s : State)
  | fault (s : State) (type level va : Nat)
  deriving DecidableEq, Repr

/-- Bytes of a block's window: the copy engine sees its own writes, the array what has become visible to MX; a sealed
window is read from its image. -/
def State.padRead (s : State) (cp : Bool) (frame off n : Nat) : Nat :=
  match s.block? frame with
  | none => 0
  | some b =>
    match b.window with
    | some w => ofBytes (s.windowRead frame b w off n)
    | none =>
      let x := s.core b.core
      ofBytes ((if cp then x.flush else x).sp.readN (padAddr b off) n)

/-- Whether a write to a window must wait: it is sealed and its image not yet written. -/
def State.padSealed (s : State) (frame : Nat) : Bool := (s.block? frame).elim false fun b => b.window.isSome && !b.imaged

/-- A CP write to a window: into the image of a sealed one, else into the core's CP writes, which LS and MX see later. -/
def State.padWrite (s : State) (frame off n x : Nat) : State :=
  match s.block? frame with
  | none => s
  | some b =>
    match b.window with
    | some w => s.windowWrite frame b w off (s.keepImage frame b w off (toBytes n x))
    | none =>
      let c := s.core b.core
      s.setCore b.core { c with cpbuf := c.cpbuf ++ (toBytes n x).zipIdx.map fun e => (padAddr b off + e.2, e.1) }

/-- A reduction in the bank: the CP writes before it land first, and the teams that wait on the block's objects examine them
again (R242). -/
def State.padReduce (s : State) (frame off fmt red x : Nat) : State :=
  let n := Shape.bytes fmt
  let s := (s.block? frame).elim s fun b => s.flushCore b.core
  let y := reduceElem fmt red (s.padRead true frame off n) x
  match s.block? frame with
  | none => s
  | some b =>
    match b.window with
    | some w => s.windowWrite frame b w off (s.keepImage frame b w off (toBytes n y))
    | none =>
      let c := s.core b.core
      (s.setCore b.core { c with sp := s.padPut b.core (padAddr b off) (toBytes n y) }).examBlock frame

/-! ## Elements -/

/-- The places that an in-range element of a record names: one, or one for each core of a destination set. -/
def spotsOf (ctx ownCore col : Nat) (wins : List Win) (rc : Record) (dst : Bool) (i j : Nat) : List Spot :=
  let a := Shape.addr rc (Shape.row rc i) (Shape.col rc j)
  match Shape.space rc with
  | 0 => [.glob a.toNat false]
  | 3 => [.glob a.toNat true]
  | 1 => [.pad ownCore (frameOf ctx) a.toNat]
  | _ => (namedCores col rc dst).filterMap fun c =>
      (wins.find? fun w => w.core == c && decide (w.base ≤ a.toNat) && decide (a.toNat < w.base + w.len)).map fun w =>
        .pad c w.frame (a.toNat - w.base)

/-- `n` bytes at a place. -/
def State.readSpot (s : State) (g : Agent) (cp : Bool) (n : Nat) : Spot → Got
  | .pad _ frame off => .ready s (s.padRead cp frame off n)
  | .glob va peer =>
    match s.engLine g va false peer with
    | .ready s _ _ _ data => .ready s (lineGet data (va % 128) n)
    | .wait s => .wait s
    | .fault s ty lv => .fault s ty lv va

/-- A window element read: a clipped one is zero (R218). -/
def State.readElem (s : State) (g : Agent) (cp : Bool) (col : Nat) (wins : List Win) (rc : Record) (i j : Nat) : Got :=
  if !Shape.inRange rc i j then .ready s 0
  else match spotsOf g.ctx g.core col wins rc false i j with
    | sp :: _ =>
      match s.readSpot g cp (Shape.bytes (Shape.fmt rc)) sp with
      | .ready s x =>
        .ready s (if Shape.fmt rc = 14 then
          (if Shape.highNibble rc (Shape.row rc i) (Shape.col rc j) then x / 16 else x % 16) else x)
      | r => r
    | [] => .ready s 0

/-- An element written or combined at a place; a class-T one is recorded there.  The place must be ready. -/
def State.writeSpot (s : State) (g : Agent) (tag elem fmt red x : Nat) : Spot → Got
  | .pad core frame off =>
    if s.padSealed frame then .wait s
    else
      let s := if red = 0 then s.padWrite frame off (Shape.bytes fmt) x else s.padReduce frame off fmt red x
      .ready (s.record (.pad core) g.ctx tag (s.team g.ctx).lowWater elem none) 0
  | .glob va peer =>
    match s.engLine g va true peer with
    | .wait s => .wait s
    | .fault s ty lv => .fault s ty lv va
    | .ready s key pl a data =>
      let n := Shape.bytes fmt
      let off := va % 128
      let s :=
        if red ≠ 0 ∧ a.peer then
          let s := s.peerHome g.die key pl
          let y := reduceElem fmt red (lineGet (s.homeRead pl) off n) x
          let s := s.homeWrite pl (linePut 0 off n y) (byteMask off n)
          match Tab.get? (s.die g.die).lines key with
          | some l => s.setLine g.die key { l with data := linePut l.data off n y }
          | none => s
        else s.engStore g key pl a off n (if red = 0 then x else reduceElem fmt red (lineGet data off n) x)
      .ready (s.record (homePoint pl) g.ctx tag (s.team g.ctx).lowWater elem none) 0

end Sys2Proof.Machine
end

