-- ==== Sys2Proof/Machine/Array.lean ====
section
/-! DEFINITION. The matrix array: MMA, the accumulator moves, and the start and commit of queued MMAs
(spec/10_matrix.md R219, R225 to R227, R234; spec/17_ref_evpop_sxor.md R384; spec/19_ref_vmulh_zwr.md R440). -/

namespace Sys2Proof.Machine

/-- Who an engine works for: a copy's or an MMA's team. -/
def State.agentOf (s : State) (ctx : Nat) (user : Bool) (work : Nat) (rep : Bool) : Agent :=
  { ctx, core := s.coreOf ctx, die := s.dieOfCtx ctx, asid := s.asidOf ctx, user, work, rep }

/-- The record and format checks of an MMA's operands, and SAT with a floating-point format (R220, R225, R384). -/
def mmaChecks (a b : Record) (sat : Bool) : List (Option Cause) :=
  [failIf (badRecord a mmaUse) Cause.badshape, failIf (badRecord b mmaUse) Cause.badshape, failIf (badMma a b) Cause.badshape,
   failIf (sat && mmaFloat (Shape.fmt a)) Cause.rsvfld]

/-- The windows that an MMA reads. -/
def mmaWindows (a b : Record) : List Window :=
  let k := mmaK (Shape.fmt a)
  [{ rc := a, n := 32, m := k }, { rc := b, n := k, m := 32 }]

/-- The entry of an engine instruction. -/
def State.engEntry (s : State) (ctx : Nat) (i : Instr) (kind reserve left : Nat) (clsT cp : Bool) : Entry :=
  let t := s.team ctx
  { uid := s.uid, tag := if clsT then t.nextTag else t.nextTag - 1, kind, clsT, cp, path := if kind = 10 then 2 else 1
    pc := t.pc, word := wordOf i, left, reserve }

/-- An entry taken into its team's record, with a fresh identity and its counter and tag. -/
def State.takeEntry (s : State) (ctx : Nat) (e : Entry) : State :=
  let t := s.team ctx
  (s.setTeam ctx { t with inflight := t.inflight ++ [e], nextTag := if e.clsT then t.nextTag + 1 else t.nextTag
                          cpcnt := t.cpcnt + b2n e.cp }).bumpUid

/-- A job joins the array queue of its team's core. -/
def State.queueMma (s : State) (ctx : Nat) (j : MmaJob) : State :=
  let c := s.coreOf ctx
  s.setCore c { s.core c with arrq := (s.core c).arrq ++ [j] }

/-- Whether the array queue of a team's core is full (R226). -/
def State.arrayFull (s : State) (ctx : Nat) : Bool := decide (8 ≤ (s.core (s.coreOf ctx)).arrq.length)

/-- MMA (R384). -/
def execMma (f : XF) (s : State) : Host.Outcome State Fault Refusal :=
  s.atIssue (.mma f) fun ctx =>
    let t := s.team ctx
    let a := t.hreg f.ha.toNat
    let b := t.hreg f.hb.toNat
    match firstCause (mmaChecks a b (xSat f) ++ [s.windowCheck ctx (mmaWindows a b) none]) with
    | some c => .trap c 0
    | none =>
      if s.arrayFull ctx || !s.room ctx 4480 0 then .hold
      else
        let e := s.engEntry ctx (.mma f) 10 4480 1 false false
        let j : MmaJob := { uid := e.uid, ent := e.uid, ctx, zd := f.zd.toNat, ra := a, rb := b, nega := f.nega, negb := f.negb
                            acd := f.acd, sat := xSat f, wins := s.winsOf ctx (mmaWindows a b), user := !s.isHandler ctx }
        let s := (s.takeEntry ctx e).queueMma ctx j
        .done (s.setTeam ctx ((s.team ctx).post e.uid (.commit f.zd.toNat e.uid) none))

/-! ## Accumulator moves (R440) -/

/-- ZCLR (R440). -/
def execZclr (f : XF) (s : State) : Host.Outcome State Fault Refusal :=
  s.atIssue (.zclr f) fun ctx => s.results ctx ((List.range 32).map fun r => (.zrow f.zd.toNat r, some 0))

/-- The row that ZRD and ZWR name (R439). -/
def Team.zrowOf (t : Team) (f : XF) : Nat := if zSel f then (t.sreg f.s1.toNat).toNat % 32 else zRow f

/-- ZRD: element c of the row goes to lane c mod P of register VR + c / P, under the execution mask (R440). -/
def execZrd (f : XF) (s : State) : Host.Outcome State Fault Refusal :=
  s.atIssue (.zrd f) fun ctx =>
    let t := s.team ctx
    let p := rowLanes (s.widthOf ctx)
    let row := t.zrowOf f
    s.results ctx (((List.range 32).filter fun c => t.exec.getLsbD (c % p)).map fun c =>
      (.v (zVr f + c / p) (c % p), some ((t.zelem f.zd.toNat row c).setWidth 1024)))

/-- ZWR: a row from the lanes of the registers, whatever the mask (R440). -/
def execZwr (f : XF) (s : State) : Host.Outcome State Fault Refusal :=
  s.atIssue (.zwr f) fun ctx =>
    let t := s.team ctx
    let p := rowLanes (s.widthOf ctx)
    s.results ctx [(.zrow f.zd.toNat (t.zrowOf f), some (packRow ((List.range 32).map fun c => t.vreg (zVr f + c / p) (c % p))))]

/-! ## Operands (R219, R225, R226) -/

/-- Several reads of an engine made together: their values, something still to wait for, or the first fault. -/
inductive Many where
  | ready (s : State) (xs : List Nat)
  | wait (s : State)
  | fault (s : State) (type level va : Nat)
  deriving DecidableEq, Repr

/-- Reads in order; one that must wait lets those behind it ask for their lines. -/
def Many.next {α : Type} (f : State → α → Got) (m : Many) (a : α) : Many :=
  match m with
  | .fault .. => m
  | .ready s xs =>
    match f s a with
    | .ready s x => .ready s (xs ++ [x])
    | .wait s => .wait s
    | .fault s ty lv va => .fault s ty lv va
  | .wait s =>
    match f s a with
    | .ready s _ => .wait s
    | .wait s => .wait s
    | .fault s ty lv va => .fault s ty lv va

/-- One read of an MMA: a window element, or bytes of global memory, or a constant. -/
inductive MmaRead where
  | elem (rc : Record) (i j : Nat)
  | mem (va n : Nat)
  | const (x : Nat)
  deriving DecidableEq, Repr

def State.mmaRead (s : State) (g : Agent) (col : Nat) (wins : List Win) : MmaRead → Got
  | .elem rc i j => s.readElem g false col wins rc i j
  | .mem va n => s.readSpot g false n (.glob va false)
  | .const x => .ready s x

/-- The group of A's row `i`: its row and K-block, if it has an element in range. -/
def groupA (rc : Record) (k i : Nat) : Option (Nat × Nat) :=
  let r := Shape.row rc i
  match Shape.span (Shape.col0 rc) k (Shape.cols rc) with
  | some (c, _) => if 0 ≤ r ∧ r < (Shape.rows rc : Int) then some (r.toNat, c.toNat / 128) else none
  | none => none

/-- The tile of B's elements in range. -/
def groupB (rc : Record) (k : Nat) : Option (Nat × Nat) :=
  match Shape.span (Shape.row0 rc) k (Shape.rows rc), Shape.span (Shape.col0 rc) 32 (Shape.cols rc) with
  | some (r, _), some (c, _) => some (r.toNat / 128, c.toNat / 128)
  | _, _ => none

/-- The read of a group's scale (R219). -/
def scaleRead (rc : Record) (g : Option (Nat × Nat)) : MmaRead :=
  match g with
  | none => .const oneF32.toNat
  | some (r, c) =>
    if Shape.scaleBase rc = 0 then .const oneF32.toNat
    else .mem ((Shape.scaleBase rc + (r * Shape.scaleStride rc + c) * 4) % 2 ^ 64) 4

/-- The read of a group's zero point (R219). -/
def zeroRead (rc : Record) (g : Option (Nat × Nat)) : MmaRead :=
  match g with
  | none => .const 0
  | some (r, c) => if Shape.zpBase rc = 0 then .const 0 else .mem ((Shape.zpBase rc + r * Shape.scaleStride rc + c) % 2 ^ 64) 1

/-- Every read of an MMA: A's window, B's window, the scales of A's rows and of B, their zero points. -/
def mmaReads (a b : Record) : List MmaRead :=
  let k := mmaK (Shape.fmt a)
  let rows := List.range 32
  (rows.map fun i => (List.range k).map fun j => .elem a i j).flatten ++
    ((List.range k).map fun i => rows.map fun j => .elem b i j).flatten ++
    rows.map (fun i => scaleRead a (groupA a k i)) ++ [scaleRead b (groupB b k)] ++
    rows.map (fun i => zeroRead a (groupA a k i)) ++ [zeroRead b (groupB b k)]

/-- An element as the array takes it: bits, or d := u − zp, 0 where clipped (R99, R218). -/
def operandOf (fmt : Nat) (inRange : Bool) (u zp : Nat) : Word32 :=
  if mmaFloat fmt then BitVec.ofNat 32 u
  else if !inRange then 0
  else BitVec.ofNat 32 u - BitVec.ofNat 32 (if fmt = 14 then zp % 16 else zp)

/-- The operands from the values of `mmaReads`. -/
def mmaOps (a b : Record) (xs : List Nat) : MmaOps :=
  let k := mmaK (Shape.fmt a)
  let at' := fun i => xs[i]?.getD 0
  let n := 64 * k
  { a := (List.range (32 * k)).map fun e => operandOf (Shape.fmt a) (Shape.inRange a (e / k) (e % k)) (at' e) (at' (n + 33 + e / k))
    b := (List.range (32 * k)).map fun e =>
      operandOf (Shape.fmt b) (Shape.inRange b (e / 32) (e % 32)) (at' (32 * k + e)) (at' (n + 65))
    sa := (List.range 32).map fun i => BitVec.ofNat 32 (at' (n + i))
    sb := BitVec.ofNat 32 (at' (n + 32)), raw := xs }

/-! ## Start and commit -/

/-- A job of an array queue changed. -/
def State.mapJob (s : State) (core uid : Nat) (f : MmaJob → MmaJob) : State :=
  let c := s.core core
  s.setCore core { c with arrq := c.arrq.map fun j => if j.uid = uid then f j else j }

/-- Whether a queued MMA's operands can be fetched: its copy is complete, no fence holds its reads, and no fault holds it
(R161, R187, R233). -/
def State.fetchable (s : State) (j : MmaJob) : Bool :=
  j.ops.isNone && !j.held && (j.after == 0 || s.copies.all fun c => c.uid != j.after) && !s.fenced j.ctx j.ent 2

/-- Whether a queued MMA fetches next: operands are fetched in queue order (R226).  One that cannot fetch yet lets a later one fetch
before it, on the same accumulator too (DESIGN CHOICE, log entry 111). -/
def State.mayFetch (s : State) (core : Nat) (j : MmaJob) : Bool :=
  s.fetchable j && ((s.core core).arrq.takeWhile fun k => k.uid != j.uid).all fun k => !s.fetchable k

/-- Whether a queued MMA may start: nothing runs, no earlier MMA of its accumulator is left, its copy is complete, and no
fence holds its reads (R226, R233, R187). -/
def State.mayStart (s : State) (core : Nat) (j : MmaJob) : Bool :=
  let q := (s.core core).arrq
  q.all (fun k => !k.started) && !j.held && (q.takeWhile fun k => k.uid != j.uid).all (fun k => k.ctx != j.ctx || k.zd != j.zd) &&
    (j.after == 0 || s.copies.all fun c => c.uid != j.after) && !s.fenced j.ctx j.ent 2

/-- A fault record's fields for an engine's failed access (R160).  PCORE is the issuing team's core, also for a copy whose
destination is a set of cores (DESIGN CHOICE, log entry 93). -/
def State.engFault (s : State) (g : Agent) (att : Att) (type level va path : Nat) (write rep : Bool) : State :=
  s.logFault g.die att
    { va := va / 4096 * 4096, asid := g.asid, type, level, rep, write, path, pcore := g.core % 1024, time := s.time, att := [] }

/-- A read of a queued MMA: one made already has the value that it had then. -/
def State.mmaReadAt (s : State) (g : Agent) (col : Nat) (j : MmaJob) (r : MmaRead) (i : Nat) : Got :=
  match Tab.get? j.early i with
  | some x => .ready s x
  | none => s.mmaRead g col j.wins r

/-- One read of the MMA that fetches next is made ahead of the others, so that it may see less of another access than they
(R238). -/
def State.readOperand (s : State) (core job i : Nat) : State :=
  match (s.core core).arrq.find? fun j => j.uid == job with
  | none => s
  | some j =>
    match (mmaReads j.ra j.rb)[i]? with
    | none => s
    | some r =>
      if !s.mayFetch core j then s
      else
        let g := s.agentOf j.ctx j.user j.uid j.rep
        match s.mmaReadAt g (colOf core) j r i with
        | .ready s x => (s.endTouches g.die job).mapJob core job fun j => { j with early := Tab.put j.early i x }
        | .wait s => s
        | .fault .. => s

/-- MMA_START (R226): the operands are fetched, and with all of them in hand the array starts when it may. -/
def execMmaStart (core job : Nat) (s : State) : Host.Outcome State Fault Refusal :=
  match (s.core core).arrq.find? fun j => j.uid == job with
  | none => .next s
  | some j =>
    if j.ops.isSome then .next (if s.mayStart core j then s.mapJob core job fun j => { j with started := true } else s)
    else if !s.mayFetch core j then .next s
    else
      let g := s.agentOf j.ctx j.user j.uid j.rep
      match (mmaReads j.ra j.rb).zipIdx.foldl (Many.next fun s r => s.mmaReadAt g (colOf core) j r.1 r.2) (.ready s []) with
      | .ready s xs =>
        let run := s.mayStart core j
        .next ((s.endTouches g.die job).mapJob core job fun j =>
          { j with started := run, rep := false, early := [], ops := some (mmaOps j.ra j.rb xs) })
      | .wait s => .next s
      | .fault s ty lv va =>
        .next (((s.endTouches g.die job).mapJob core job fun j => { j with held := true }).engFault g (.mma core job) ty lv va 2 false j.rep)

/-- The result written to the accumulator of the team; register results for it that are older than the MMA are
overwritten.  A ZCLR or ZWR issued after the MMA and before its commit does not stop it: R227's own sentence on such a write
is followed before R45's general order (DEDUCED, log entry 96). -/
def Team.commitMma (t : Team) (j : MmaJob) (o : MmaOps) : Team :=
  let older := fun (r : Result) => match r.cell with
    | .zrow z _ => z == j.zd && decide (r.uid < j.ent)
    | .commit _ uid => uid == j.uid
    | _ => false
  ({ t with pend := t.pend.filter fun r => !older r }.setTile j.zd (j.result o fun r c => t.zelem j.zd r c)).settle

/-- MMA_COMMIT (R227): the accumulator takes all its elements at once; a CPYM's commit counts one arrival on its object
(R234). -/
def execMmaCommit (core job : Nat) (s : State) : Host.Outcome State Fault Refusal :=
  match (s.core core).arrq.find? fun j => j.uid == job with
  | none => .next s
  | some j =>
    match j.started, j.ops with
    | true, some o =>
      let c := s.core core
      let s := s.setCore core { c with arrq := c.arrq.filter fun k => k.uid != job }
      let s := s.setTeam j.ctx ((s.team j.ctx).commitMma j o)
      let id := if j.after = 0 then 0 else 2
      .next (if j.be then
        s.sendCount core { frame := frameOf j.ctx, off := j.bar, a := 1, n := 0, ctx := j.ctx, ent := j.ent, id, tag := j.tag
                           low := (s.team j.ctx).lowWater }
      else s.credit j.ctx j.ent id 0 [])
    | _, _ => .next s

end Sys2Proof.Machine
end

