-- ==== Sys2Proof/Machine/Copies.lean ====
section
/-! DEFINITION. The copy engine: the issue of CPY, CPYM, ZDRAIN and RROT, and the performance of their elements
(spec/10_matrix.md R228 to R237; spec/11_completion.md R244, R248 to R250; spec/13_preemption.md R290, R292;
spec/16_ref_bany_dloop.md R358 to R362; spec/17_ref_evpop_sxor.md R388; spec/19_ref_vmulh_zwr.md R441). -/

namespace Sys2Proof.Machine

/-! ## Issue -/

/-- An extent register's rows and columns (R224). -/
def extentN (x : Word64) : Nat := bitsAt x.toNat 0 20
def extentM (x : Word64) : Nat := bitsAt x.toNat 32 20

/-- Formats that a copy's reduction accepts (R229). -/
def redFmts : List Nat := [0, 1, 6, 7, 8]

/-- The record checks of a copy: both records, equal formats, and the format of a reduction (R358). -/
def copyChecks (src dst : Record) (own : Bool) (red : Nat) : List (Option Cause) :=
  [failIf (badRecord src {}) Cause.badshape, failIf (badRecord dst { dst := true, own }) Cause.badshape,
   failIf (Shape.fmt src != Shape.fmt dst || (red != 0 && !redFmts.contains (Shape.fmt src))) Cause.badshape]

/-- A copy given to the engine, with the entry that counts it. -/
def State.takeCopy (s : State) (ctx : Nat) (e : Entry) (c : Copy) : State :=
  let c := { c with uid := e.uid, ent := e.uid, ctx, col := s.colOfCtx ctx, tag := if e.clsT && c.kind != .cpym then e.tag else 0
                    user := !s.isHandler ctx }
  let s := s.takeEntry ctx e
  { s with copies := s.copies ++ [c] }

/-- CPY (R358): class N into a scratchpad without reduction, else T (R237). -/
def execCpy (f : XF) (s : State) : Host.Outcome State Fault Refusal :=
  s.atIssue (.cpy f) fun ctx =>
    let t := s.team ctx
    let src := t.hreg f.ha.toNat
    let dst := t.hreg f.hb.toNat
    let x := t.sreg f.s1.toNat
    let red := xRed f
    let bar := (t.sreg f.bar.toNat).toNat
    let ws : List Window := [{ rc := src, n := extentN x, m := extentM x }, { rc := dst, n := extentN x, m := extentM x, dst := true }]
    match firstCause (copyChecks src dst false red ++ [s.windowCheck ctx ws (if xBe f then some (bar, dst) else none)]) with
    | some c => .trap c 0
    | none =>
      if !s.room ctx 144 0 then .hold
      else
        let pad := Shape.space dst == 1 || Shape.space dst == 2
        .done (s.takeCopy ctx (s.engEntry ctx (.cpy f) 8 144 1 (!(pad && red == 0)) true)
          { uid := 0, ent := 0, ctx, col := 0, kind := .cpy, src, dst, n := extentN x, m := extentM x, red, be := xBe f, bar
            evt := xEvt f, wins := s.winsOf ctx ws })

/-- CPYM (R361): a copy into the block's window and an MMA that starts after it.  The windows of both are checked in one pass of R221,
and the barrier objects after it (DESIGN CHOICE, log entry 120). -/
def execCpym (f : XF) (s : State) : Host.Outcome State Fault Refusal :=
  s.atIssue (.cpym f) fun ctx =>
    let t := s.team ctx
    let a := t.hreg f.ha.toNat
    let b := t.hreg f.hb.toNat
    let src := t.hreg f.hc.toNat
    let dst := t.hreg (xHd f)
    let x := t.sreg f.s1.toNat
    let bar := (t.sreg f.bar.toNat).toNat
    let ws : List Window := [{ rc := src, n := extentN x, m := extentM x }, { rc := dst, n := extentN x, m := extentM x, dst := true }]
    let records := [failIf (badRecord src {}) Cause.badshape, failIf (badRecord dst { dst := true }) Cause.badshape,
      failIf (badRecord a mmaUse) Cause.badshape, failIf (badRecord b mmaUse) Cause.badshape]
    match firstCause (records ++ copyChecks src dst true 0 ++ mmaChecks a b (xSat f) ++
        [s.windowCheck ctx (ws ++ mmaWindows a b) (if xBe f then some (bar, dst) else none)]) with
    | some c => .trap c 0
    | none =>
      if s.arrayFull ctx || !s.room ctx 4624 0 then .hold
      else
        let e := s.engEntry ctx (.cpym f) 9 4624 2 (xBe f) true
        let s' := s.takeCopy ctx e
          { uid := 0, ent := 0, ctx, col := 0, kind := .cpym, src, dst, n := extentN x, m := extentM x, be := xBe f, bar
            evt := xEvt f, wins := s.winsOf ctx ws }
        .done (s'.queueMma ctx
          { uid := e.uid, ent := e.uid, ctx, zd := f.zd.toNat, ra := a, rb := b, nega := f.nega, negb := f.negb, acd := f.acd
            sat := xSat f, after := e.uid, be := xBe f, bar, tag := if xBe f then e.tag else 0
            wins := s.winsOf ctx (mmaWindows a b), user := !s.isHandler ctx })

/-- The format, SAT and red=add rules of a drain (R235). -/
def badDrain (fmt : Nat) (sat : Bool) (red : Nat) : Bool :=
  match fmt with
  | 0 | 1 | 6 => sat
  | 7 | 8 => false
  | 9 | 10 => red != 0
  | _ => true

/-- Drains whose snapshots a core's four buffers hold (R235). -/
def State.drains (s : State) (core : Nat) : Nat := (s.copies.filter fun c => c.kind == .drain && s.coreOf c.ctx == core).length

/-- ZDRAIN (R441): RED and BAR are checked by the entry, after the accumulator; the snapshot is taken at issue. -/
def execZdrain (f : XF) (s : State) : Host.Outcome State Fault Refusal :=
  s.atIssue (.zdrain f) fun ctx =>
    let t := s.team ctx
    let dst := t.hreg f.ha.toNat
    let bar := (t.sreg f.bar.toNat).toNat
    let ws : List Window := [{ rc := dst, n := 32, m := 32, dst := true }]
    match firstCause [failIf (decide (1 < xRed f) || (!xBe f && f.bar != 0)) Cause.rsvfld,
        failIf (badRecord dst { dst := true }) Cause.badshape, failIf (badDrain (Shape.fmt dst) (xSat f) (xRed f)) Cause.badshape,
        s.windowCheck ctx ws (if xBe f then some (bar, dst) else none)] with
    | some c => .trap c 0
    | none =>
      if 4 ≤ s.drains (s.coreOf ctx) || !s.room ctx 4160 0 then .hold
      else
        .done (s.takeCopy ctx (s.engEntry ctx (.zdrain f) 11 4160 1 true true)
          { uid := 0, ent := 0, ctx, col := 0, kind := .drain, src := 0, dst, n := 32, m := 32, red := xRed f, sat := xSat f
            be := xBe f, bar, evt := xEvt f, wins := s.winsOf ctx ws
            snap := (List.range 1024).map fun e => t.zelem f.zd.toNat (e / 32) (e % 32) })

/-- A gang of exactly eight teams, one on each core of the cluster (R236). -/
def State.ringGang (s : State) (g : Gang) : Bool :=
  g.members.length == 8 && (List.range 8).all fun c => g.members.any fun m => s.coreOf m % 8 == c

/-- RROT (R388): one member's share of a round, which forms when all eight have issued. -/
def execRrot (f : XF) (s : State) : Host.Outcome State Fault Refusal :=
  s.atIssue (.rrot f) fun ctx =>
    let t := s.team ctx
    let col := s.colOfCtx ctx
    let g := t.gangOf f.s1
    let src := t.hreg f.ha.toNat
    let dst := t.hreg f.hb.toNat
    let bar := (t.sreg f.bar.toNat).toNat
    let member := match s.gang? col g with
      | some x => x.members.contains ctx && s.ringGang x
      | none => false
    let ws : List Window := [{ rc := src, n := 32, m := 32 }, { rc := dst, n := 32, m := 32, dst := true }]
    match firstCause ([failIf (!member) Cause.gangnot, failIf (badRecord src { own := true }) Cause.badshape,
        failIf (badRecord dst { own := true, dst := true }) Cause.badshape, failIf (Shape.fmt src != Shape.fmt dst) Cause.badshape,
        s.windowCheck ctx ws (if xBe f then some (bar, dst) else none)]) with
    | some c => .trap c 0
    | none =>
      if !s.room ctx 144 0 then .hold
      else
        let e := s.engEntry ctx (.rrot f) 12 144 1 true true
        let s := s.takeCopy ctx e
          { uid := 0, ent := 0, ctx, col := 0, kind := .rrot, src, dst, n := 32, m := 32, be := xBe f, bar, gang := g }
        let x := s.cluster col
        .done (s.setCluster col { x with
          rrots := x.rrots ++ [{ ctx, gang := g, ent := e.uid, src, dst, dir := f.sub.getLsbD 0, be := xBe f, bar }] })

/-! ## A rotation's round (R236) -/

/-- A copy changed, with the engine or in a stopped team's record. -/
def State.mapCopy (s : State) (ctx ent : Nat) (f : Copy → Copy) : State :=
  let s := { s with copies := s.copies.map fun c => if c.ctx = ctx ∧ c.ent = ent then f c else c }
  match Tab.get? s.teams ctx with
  | none => s
  | some t => s.setTeam ctx { t with inflight := t.inflight.map fun e => if e.uid = ent then { e with copy := e.copy.map f } else e }

/-- The first share of each member of a gang in the open round, if every member has one. -/
def roundOf (rs : List Rrot) (g : Nat) (members : List Nat) : Option (List Rrot) :=
  let shares := members.map fun m => rs.find? fun r => r.gang == g && r.ctx == m
  if shares.all (·.isSome) then some (shares.filterMap id) else none

/-- An element of a rotation's source window as it stands, a clipped one zero. -/
def State.shareElem (s : State) (ctx : Nat) (src : Record) (e : Nat) : Nat :=
  let i := e / 32
  let j := e % 32
  if !Shape.inRange src i j then 0
  else s.padRead true (frameOf ctx) (Shape.addr src (Shape.row src i) (Shape.col src j)).toNat (Shape.bytes (Shape.fmt src))

/-- The copy that a member's share of a round belongs to. -/
def State.shareCopy (s : State) (r : Rrot) : Option Copy := s.copies.find? fun c => c.ctx == r.ctx && c.ent == r.ent

/-- The 1,024 elements of a share: those read already, the others as the window stands. -/
def State.shareTile (s : State) (r : Rrot) : List Nat :=
  (List.range 1024).map fun e => ((s.shareCopy r).bind fun c => Tab.get? c.early e).getD (s.shareElem r.ctx r.src e)

/-- The core of the cluster that a share's tile goes to. -/
def State.targetOf (s : State) (r : Rrot) : Nat :=
  let c := s.coreOf r.ctx % 8
  if r.dir then (c + 7) % 8 else (c + 1) % 8

/-- Shares in ascending order of their senders' cores. -/
def State.bySender (s : State) (rs : List Rrot) : List Rrot :=
  ((List.range 8).map fun c => rs.filter fun r => s.coreOf r.ctx % 8 == c).flatten

/-- A round forms once every member has issued and no fence holds a member's reads: its tiles are read and sent on,
or, where the formats differ, every member takes BADSHAPE. -/
def State.formRound (s : State) (col g : Nat) : State :=
  match s.gang? col g with
  | none => s
  | some x =>
    match roundOf (s.cluster col).rrots g x.members with
    | none => s
    | some rs =>
      if rs.any fun r => s.padSealed (frameOf r.ctx) || s.fenced r.ctx r.ent 1 then s
      else
        let fmts := distinct ((rs.map fun r => Shape.fmt r.src) ++ rs.map fun r => Shape.fmt r.dst)
        if 1 < fmts.length then s.breakRound col g Cause.badshape rs
        else
          let c := s.cluster col
          let tiles := (s.bySender rs).map fun r => (s.targetOf r, (r.ctx, r.ent, r.src), s.shareTile r)
          let s' := s.setCluster col { c with rrots := c.rrots.filter fun r => !rs.contains r }
          rs.foldl (fun s' r =>
            let mine := tiles.filter fun t => t.1 == s.coreOf r.ctx % 8
            s'.mapCopy r.ctx r.ent fun c =>
              { c with formed := true, early := [], senders := mine.map (·.2.1), tiles := mine.map (·.2.2) }) s'

/-! ## Elements (R229, R231, R232, R235) -/

/-- The window row and column of an element. -/
def Copy.at (c : Copy) (i : Nat) : Nat × Nat := (i % (c.n * c.m) / c.m, i % (c.n * c.m) % c.m)
/-- The combination that the engine makes: 0 writes. -/
def Copy.combine (c : Copy) : Nat := c.red

/-- The value of a copy's element as it is written: read from the source, a snapshot's element converted, or a tile's; one
read early has the value that it had then. -/
def State.copyValue (s : State) (g : Agent) (c : Copy) (i : Nat) : Got :=
  match Tab.get? c.early i with
  | some x => .ready s x
  | none =>
    match c.kind with
    | .drain => .ready s (drainElem (Shape.fmt c.dst) c.sat (c.snap[i]?.getD 0))
    | .rrot => .ready s ((((c.tiles[i / 1024]?).getD [])[i % 1024]?).getD 0)
    | _ => s.readElem g true c.col c.wins c.src (c.at i).1 (c.at i).2

/-- The object that counts the bytes landing at a place: its block and its offset in that block's window (R232). -/
def Copy.object (c : Copy) : Spot → Option (Nat × Nat)
  | .pad core _ _ =>
    if Shape.space c.dst = 2 then
      (c.wins.find? fun w => w.core == core && decide (w.base ≤ c.bar) && decide (c.bar < w.base + w.len)).map fun w =>
        (w.frame, c.bar - w.base)
    else some (frameOf c.ctx, c.bar)
  | .glob _ _ => some (frameOf c.ctx, c.bar)

/-- The objects that a copy counts on. -/
def Copy.objects (c : Copy) : List (Nat × Nat) :=
  if !c.be then []
  else if Shape.space c.dst = 2 then (namedCores c.col c.dst true).filterMap fun k => c.object (.pad k 0 0)
  else [(frameOf c.ctx, c.bar)]

/-- The bytes of one place counted: past those that were counted before a freeze (R292). -/
def State.countBytes (s : State) (c : Copy) (sp : Spot) (n : Nat) : State × Copy :=
  let c := { c with bytes := c.bytes + n }
  if !c.be then (s, c)
  else if n ≤ c.skip then (s, { c with skip := c.skip - n })
  else
    let c := { c with counted := c.counted + n }
    match c.object sp with
    | none => (s, c)
    | some (f, off) => (s.sendCount ((s.block? f).elim 0 (·.core)) { frame := f, off, a := 0, n, ctx := c.ctx, copy := c.uid }, c)

/-- The places that an element of a copy is written to: none when clipped, else one for each destination core. -/
def Copy.spots (c : Copy) (core i : Nat) : List Spot :=
  let p := c.at i
  if Shape.inRange c.dst p.1 p.2 then spotsOf c.ctx core c.col c.wins c.dst true p.1 p.2 else []

/-- Whether two places of elements of `n` bytes share a byte. -/
def Spot.meets (n : Nat) : Spot → Spot → Bool
  | .glob a _, .glob b _ => decide (a < b + n) && decide (b < a + n)
  | .pad c _ a, .pad d _ b => c == d && decide (a < b + n) && decide (b < a + n)
  | _, _ => false

/-- The first element from `i` on that is not in a list. -/
def skipDone (l : List Nat) : Nat → Nat → Nat
  | 0, i => i
  | n + 1, i => if l.contains i then skipDone l n (i + 1) else i

/-- An element performed: the next one is the first that is not (R164, R229). -/
def Copy.did (c : Copy) (i : Nat) : Copy :=
  let l := i :: c.ahead
  let next := skipDone l l.length c.idx
  { c with idx := next, ahead := l.filter fun e => decide (next ≤ e), early := Tab.del c.early i, rep := false }

/-- A copy of the engine replaced. -/
def State.putCopy (s : State) (c : Copy) : State := { s with copies := s.copies.map fun d => if d.uid = c.uid then c else d }

/-- Whether a place is ready for a write; what a global one still asks for. -/
inductive Ready where
  | yes (s : State) | wait (s : State) | fault (s : State) (type level va : Nat)
  deriving DecidableEq, Repr

def State.spotReady (s : State) (g : Agent) (red : Nat) : Spot → Ready
  | .pad _ frame _ => if s.padSealed frame then .wait s else .yes s
  | .glob va peer =>
    match s.engLine g va true peer with
    | .ready s _ pl a _ =>
      if red ≠ 0 ∧ a.peer ∧ (s.die g.die).wbuf.any (fun w => w.line == pl) then .wait s
      else if red ≠ 0 ∧ a.peer ∧ s.peerFirst g va pl then .wait (s.engStuck g va pl) else .yes s
    | .wait s => .wait s
    | .fault s ty lv => .fault s ty lv va

/-- A duplicate element reaches the point of its place, which frees the entries below the low-water (R290). -/
def State.freeSpot (s : State) (g : Agent) (tag : Nat) : Spot → State
  | .pad core _ _ => s.freeSupp (.pad core) g.ctx tag (s.team g.ctx).lowWater
  | .glob va peer =>
    match s.engLine g va true peer with
    | .ready s _ pl _ _ => s.freeSupp (homePoint pl) g.ctx tag (s.team g.ctx).lowWater
    | .wait s => s
    | .fault s .. => s

/-- The element's writes, one for each destination core; a place that a recorded element reached is passed over (R290). -/
def State.performSpots (s : State) (g : Agent) (c : Copy) (i x : Nat) (spots : List Spot) : State × Copy :=
  let n := Shape.bytes (Shape.fmt c.dst)
  spots.foldl (fun (a : State × Copy) sp =>
    let elem := i * 8 + match sp with
      | .pad core _ _ => core % 8
      | .glob _ _ => 0
    let s := if a.1.isDup c.ctx c.tag elem then a.1.freeSpot g c.tag sp
      else match a.1.writeSpot g c.tag elem (Shape.fmt c.dst) c.combine x sp with
        | .ready s _ => s
        | .wait s => s
        | .fault s .. => s
    s.countBytes a.2 sp n) (s, c)

/-- A copy's fault: it is attached to a record and waits at the element (R161). -/
def State.copyFault (s : State) (g : Agent) (c : Copy) (type level va : Nat) (write : Bool) : State :=
  (s.putCopy { c with held := true }).engFault g (.copy c.uid) type level va 1 write c.rep

/-- The event record of a copy or drain (R249). -/
def State.postCopyEvent (s : State) (c : Copy) : State :=
  let col := s.colOfCtx c.ctx
  let x := s.cluster col
  let kind := if c.kind = .drain then 2 else 1
  let w1 := place (min (max c.before c.bytes) (2 ^ 32 - 1)) 32 32 + place (b2n c.be) 19 1 + if c.be then place c.bar 0 19 else 0
  let r : EvRec := { w0 := s.eventW0 c.ctx c.fatal.toNat kind, w1 := BitVec.ofNat 64 w1, copy := c.uid }
  (s.setCluster col { x with evwait := x.evwait ++ [r] }).putCopy { c with sent := true }

/-- The bytes of a copy become visible to LS and MX; with its counts applied it owes nothing more on CP (R170, R171, R187). -/
def State.landCopy (s : State) (c : Copy) : State :=
  if c.landed then s
  else ((distinct (c.wins.map (·.core) ++ [s.coreOf c.ctx])).foldl (fun s k => s.flushCore k) s).putCopy { c with landed := true }

/-- The last steps of a copy: its counts applied, its bytes are visible to LS and MX; its event entered, which a fence may hold
(R187, R251), its instruction's counter may fall (R178, R180).  CPYM's copy stays with its entry, since a replay makes it again
(R292). -/
def State.finishCopy (s : State) (c : Copy) : State :=
  if s.cores.any fun k => k.2.bankq.any fun e => e.copy == c.uid then s
  else
  let s := s.landCopy c
  let c := { c with landed := true }
  if c.evt ∧ !c.sent then (if s.fenced c.ctx c.ent 3 then s else s.postCopyEvent c)
  else if c.evt ∧ !c.posted then s
  else
    let s : State := { s with copies := s.copies.filter fun d => d.uid != c.uid }
    let keep := fun (e : Entry) => if e.uid = c.ent then { e with copy := some { c with kept := true } } else e
    let t := s.team c.ctx
    let s := if c.kind = .cpym then s.setTeam c.ctx { t with inflight := t.inflight.map keep } else s
    s.credit c.ctx c.ent (if c.kind = .cpym then 1 else 0) 0 []

/-- Whether an element of a copy can be performed now: its value and its places, something to wait for, or a fault. -/
inductive ElemGot where
  | ready (s : State) (x : Nat) (spots : List Spot)
  | wait (s : State)
  | fault (s : State) (type level va : Nat) (write : Bool)
  deriving DecidableEq, Repr

/-- An element's value read and its places made ready. -/
def State.elemGot (s : State) (g : Agent) (c : Copy) (i : Nat) : ElemGot :=
  match s.copyValue g c i with
  | .wait s => .wait s
  | .fault s ty lv va => .fault s ty lv va false
  | .ready s x =>
    let spots := c.spots g.core i
    match spots.foldl (fun (r : Ready) sp => match r with
      | .yes s => s.spotReady g c.combine sp
      | r => r) (.yes s) with
    | .wait s => .wait s
    | .fault s ty lv va => .fault s ty lv va true
    | .yes s => .ready s x spots

/-- An element of a copy that is not held, performed if it can be; the fault of the next one holds the copy. -/
def State.copyStep (s : State) (c : Copy) (i : Nat) : State :=
  let g := s.agentOf c.ctx c.user c.uid c.rep
  match s.elemGot g c i with
  | .wait s => s
  | .fault s' ty lv va write => if i = c.idx then (s'.endTouches g.die c.uid).copyFault g c ty lv va write else s
  | .ready s x spots =>
    let r := s.performSpots g c i x spots
    (r.1.endTouches g.die c.uid).putCopy (r.2.did i)

/-- Whether an element may go ahead of its turn: those before it can be performed too, none is behind a fault, and none is
written where it is (R161, R229). -/
def State.mayPick (s : State) (c : Copy) (i : Nat) : Bool :=
  let g := s.agentOf c.ctx c.user c.uid c.rep
  let n := Shape.bytes (Shape.fmt c.dst)
  decide (c.idx ≤ i) && decide (i < c.total) && !c.ahead.contains i && (List.range (i - c.idx)).all fun e =>
    c.ahead.contains (c.idx + e) || match s.elemGot g c (c.idx + e) with
      | .ready _ _ spots => spots.all fun p => (c.spots g.core i).all fun q => !p.meets n q
      | _ => false

/-- Whether a copy performs elements: it is not held nor fatal, a rotation's round has formed, and no fence holds it. -/
def State.copyRuns (s : State) (c : Copy) : Bool :=
  !c.held && c.fatal == 0 && (c.kind != .rrot || c.formed) && !s.fenced c.ctx c.ent 1

/-- An element performed ahead of its turn: the writes of different elements reach memory in any order (R229). -/
def State.pick (s : State) (copy i : Nat) : State :=
  match s.copies.find? fun c => c.uid == copy with
  | none => s
  | some c => if s.copyRuns c && s.mayPick c i then s.copyStep c i else s

/-- A source element read ahead of its write, at whatever moment of the copy (R229); an element that a rotation's member
sends, while the member's own count has not fallen (R236). -/
def State.readEarly (s : State) (copy i : Nat) : State :=
  match s.copies.find? fun c => c.uid == copy with
  | none => s
  | some c =>
    let put := fun (s : State) (x : Nat) => s.putCopy { c with early := Tab.put c.early i x }
    if c.held || c.fatal != 0 || s.fenced c.ctx c.ent 1 then s
    else match c.kind with
      | .drain => s
      | .rrot =>
        if !c.formed then (if i < 1024 then put s (s.shareElem c.ctx c.src i) else s)
        else match c.senders[i / 1024]? with
          | some (ctx, ent, src) =>
            if c.idx ≤ i ∧ (s.team ctx).inflight.any fun e => e.uid == ent then put s (s.shareElem ctx src (i % 1024)) else s
          | none => s
      | _ =>
        if c.idx ≤ i ∧ i < c.total ∧ !c.ahead.contains i then
          let g := s.agentOf c.ctx c.user c.uid c.rep
          match s.readElem g true c.col c.wins c.src (c.at i).1 (c.at i).2 with
          | .ready s x => put (s.endTouches g.die c.uid) x
          | .wait s => s
          | .fault .. => s
        else s

/-- COPY_ELEMENT (R229): the engine performs the next element, or, with none left, completes the copy. -/
def execCopyElement (copy : Nat) (s : State) : Host.Outcome State Fault Refusal :=
  match s.copies.find? fun c => c.uid == copy with
  | none => .next s
  | some c =>
    if c.held then .next s
    else if c.fatal ≠ 0 then .next (s.finishCopy c)
    else if c.kind = .rrot ∧ !c.formed then
      match (s.cluster c.col).rrots.find? fun r => r.ctx == c.ctx && r.ent == c.ent with
      | some r => .next (s.formRound c.col r.gang)
      | none => .next s
    else if c.total ≤ c.idx then .next (s.finishCopy c)
    else if s.fenced c.ctx c.ent 1 then .next s
    else .next (s.copyStep c c.idx)

/-- A copy made fatal: its objects' flags are set, its event carries the cause, and it completes (R166, R244, R248).  The
spec does not say which copies are collective and who takes part in one: the cause goes to the issuing team alone, and the flag
is set on the object of every destination core (DESIGN CHOICE, log entry 95). -/
def State.fatalCopy (s : State) (c : Copy) (i : TrapInfo) : State :=
  let s := (s.putCopy { c with fatal := i.cause, held := false }).fatalWork c.ctx { i with objs := c.objects }
  let j := s.coreOf c.ctx
  if c.kind = .cpym then
    let k := s.core j
    (s.setCore j { k with arrq := k.arrq.filter fun m => m.uid != c.ent }).credit c.ctx c.ent 2 0 []
  else s

end Sys2Proof.Machine
end

