-- ==== Sys2Proof/Machine/Announce.lean ====
section
/-! DEFINITION. An item of a team's queue goes to its point: loads that hit in the L1, requests for the Drum, window
accesses, arrivals and event records (spec/06_well.md R120, R121; spec/08_ordering.md R173). -/

namespace Sys2Proof.Machine

/-- The pieces of a load that hit in the core's L1 are performed there; the others go on (R120, R173).  A hit needs the
kept U bit to allow the access.  Of a strongly ordered run only the accesses before the first miss hit, so that its lanes
keep their order (R175). -/
def State.hitL1 (s : State) (r : Req) : State × List Piece :=
  r.pieces.foldl (fun (a : State × List Piece) p =>
    match Tab.get? (a.1.core r.core).l1 (lineKey r.asid p.va) with
    | some e =>
      if (r.user && !e.attr.u) || (r.strong && !a.2.isEmpty) then (a.1, a.2 ++ [p])
      else (a.1.credit r.ctx r.ent p.id p.lane (p.got (lineGet e.data (p.va % 128) p.n)), a.2)
    | none => (a.1, a.2 ++ [p])) (s, [])

/-- A request goes to the Drum of its die, with its team's low-water (R285). -/
def State.sendReq (s : State) (r : Req) : State :=
  let d := dieOf r.core
  let low := (s.team r.ctx).lowWater
  if r.op = .load then
    let h := s.hitL1 r
    if h.2.isEmpty then h.1 else h.1.announce d (.req { r with pieces := h.2, low })
  else s.announce d (.req { r with low })

/-- What an item does at its point. -/
def State.actItem (s : State) (ctx : Nat) (i : LsItem) : State :=
  match i.work with
  | .glob r => s.sendReq r
  | .win op ps => (s.padAccess ctx i.ent i.tag op ps).examBlock (frameOf ctx)
  | .barinit off target expect => s.barinitAct ctx i.ent i.tag off target expect
  | .bararv off => s.sendCount (s.coreOf ctx) { frame := frameOf ctx, off, a := 1, n := 0, ctx, ent := i.ent, tag := i.tag, low := (s.team ctx).lowWater }
  | .barexam _ _ => s.examFirst ctx i
  | .evpush w0 w1 => s.evpushAct ctx i.ent i.tag w0 w1
  | .gbar g => s.sendArrival ctx g

/-- Work that announces an arrival at a gang's barrier. -/
def LsWork.isGbar : LsWork → Bool
  | .gbar _ => true
  | _ => false

/-- Item `idx` of a team's queue goes to its point, if its path's gates let it.  A frozen team's queue stands, but the arrival
of a GBAR that has issued is made (R310, spec/17_ref_evpop_sxor.md R380). -/
def State.goItem (s : State) (ctx idx : Nat) : State :=
  match Tab.get? s.teams ctx with
  | none => s
  | some t =>
    match t.lsq[idx]? with
    | none => s
    | some i =>
      if (t.sched = .frozen ∧ !i.work.isGbar) ∨ !s.mayGo ctx i then s
      else (s.setTeam ctx { t with lsq := t.lsq.eraseIdx idx }).actItem ctx i

/-- Lane `k` of those that a window access still has goes to its bank ahead of the others: lanes are unordered but where their
bytes meet, where they go in ascending order (R175, R184). -/
def State.goLane (s : State) (ctx idx k : Nat) : State :=
  match Tab.get? s.teams ctx with
  | none => s
  | some t =>
    match t.lsq[idx]? with
    | none => s
    | some i =>
      match i.work with
      | .win op ps =>
        match ps[k]? with
        | none => s
        | some p =>
          if t.sched = .frozen ∨ !s.mayGo ctx i ∨ ps.length < 2 ∨ (ps.take k).any fun q => overlaps q.va q.n p.va p.n then s
          else
            (s.setTeam ctx { t with lsq := t.lsq.set idx { i with work := .win op (ps.eraseIdx k) } }).actItem ctx
              { i with work := .win op [p] }
      | _ => s

end Sys2Proof.Machine
end

