-- ==== Sys2Proof/Machine/Deliver.lean ====
section
/-! DEFINITION. What comes back to a team: register results, completed accesses, traps and fatal faults
(spec/03_execution.md R43, R45; spec/08_ordering.md R178, R179; spec/13_preemption.md R276, R277, R279;
spec/07_translation.md R166). -/

namespace Sys2Proof.Machine

/-- The lane of a result's cell, if it has one. -/
def Cell.lane : Cell → Option Nat
  | .v _ l => some l
  | .k _ l => some l
  | _ => none

/-- REGISTER_RESULT_RETURN (R45): the results of one instruction that have come are written, those of lanes only for the
lanes named; a parked team whose results are all back is ready. -/
def execRegisterResultReturn (ctx uid : Nat) (lanes : Mask) (s : State) : Host.Outcome State Fault Refusal :=
  match Tab.get? s.teams ctx with
  | none => .next s
  | some t =>
    let now := fun (r : Result) => r.uid == uid && r.val.isSome && r.cell.lane.elim true lanes.getLsbD
    let t' := (t.pend.filter now).foldl (fun t r => t.writeCell r.cell (r.val.getD 0)) t
    let s' := s.setTeam ctx ({ t' with pend := t.pend.filter fun r => !now r }.settle)
    .next (if t.sched = .frozen ∨ t.sched = .exited then s' else s'.afterEvent ctx)

/-- A waiting team whose counters have fallen to its bounds goes on (R179). -/
def State.wakeCounters (s : State) (ctx : Nat) : State :=
  let t := s.team ctx
  match t.sched with
  | .waiting w => if t.countersMet w then (s.endWait ctx false).afterEvent ctx else s
  | _ => s

/-- The entry's own part of its completion has come: its accesses are performed, and a load's data is written. -/
def Team.complete (t : Team) (e : Entry) : Bool :=
  e.left == 0 && (!e.ld || t.pend.all fun r => r.uid != e.resUid)

/-- A counter falls, and the entry stays or leaves. -/
def Team.fall (t : Team) (e : Entry) (leave : Bool) : Team :=
  let rest := if leave then t.inflight.filter fun x => x.uid != e.uid
    else t.inflight.map fun x => if x.uid = e.uid then { x with cp := false } else x
  { t with
    inflight := rest
    ldcnt := t.ldcnt - b2n (e.ld && leave), stcnt := t.stcnt - b2n (e.st && leave), cpcnt := t.cpcnt - b2n e.cp
    fhold := t.fhold.filter fun u => rest.any fun x => x.works.any fun i => match i.work with
      | .glob r => r.uid == u
      | _ => false }

/-- A team's fences that no earlier access of its own is left to are over (R187). -/
def State.dropFences (s : State) (ctx : Nat) : State :=
  let t := s.team ctx
  let bare := s.bareOut ctx
  let left := t.fences.filter fun f => t.inflight.any (fun x => decide (x.uid < f.uid)) || bare.any fun r => decide (r.uid < f.uid)
  s.setTeam ctx { t with fences := left }

/-- ACCESS_COMPLETE (R178): a counted instruction is complete, its counter falls and its entry leaves the record.
CPYM's counter falls with its copy; its entry stays for its MMA (R234). -/
def execAccessComplete (ctx ent : Nat) (s : State) : Host.Outcome State Fault Refusal :=
  match Tab.get? s.teams ctx with
  | none => .next s
  | some t =>
    match t.inflight.find? fun e => e.uid == ent with
    | none => .next s
    | some e =>
      if t.sched = .frozen then .next s
      else if t.complete e then .next (((s.setTeam ctx (t.fall e true)).dropFences ctx).wakeCounters ctx)
      else if e.kind = 9 ∧ e.cp ∧ e.perf.contains 1 then .next ((s.setTeam ctx (t.fall e false)).wakeCounters ctx)
      else .next s

/-- TRAP_DELIVERY (R276): every register result is back, and the trap is taken; the flags of its objects are set once (R244). -/
def execTrapDelivery (ctx : Nat) (s : State) : Host.Outcome State Fault Refusal :=
  let t := s.team ctx
  match t.trap with
  | none => .next s
  | some i =>
    if t.sched = .trapping ∧ t.pend.isEmpty then
      .next ((((s.setTeam ctx { t with trap := none }).deliver ctx i).flagObjects i.cause i.objs).afterEvent ctx)
    else .next s

/-- Whether a fatal fault may be delivered now: the team is parked, waits, or is held by a fault (R166). -/
def Team.takesFatal (t : Team) : Bool :=
  match t.sched with
  | .parked => true
  | .waiting .gangChange => false
  | .waiting _ => true
  | .ready => t.holding
  | _ => false

/-- A fatal fault leaves the pending ones and is taken: RESUME is the team's PC, which names the waiting instruction or
the next one; a GBAR's wait is suspended, its arrival kept (R276). -/
def State.takeFatal (s : State) (ctx : Nat) (t : Team) (i : TrapInfo) (rest : List TrapInfo) : State :=
  let i := { i with deliv := 1, resume := t.pc }
  let t := { t with fatal := rest, waitWord := 0, sched := .ready
                    lsq := t.lsq.filter fun x => match x.work with
                      | .barexam _ _ => false
                      | _ => true }
  match (s.team ctx).sched with
  | .waiting (.gbar g _) =>
    (s.setTeam ctx { t with suspWait := some g, suspWord := (s.team ctx).waitWord }).raise ctx { i with rewait := true }
  | _ => (s.setTeam ctx t).raise ctx i

/-- FATAL_FAULT_DELIVERY (R166): the oldest pending fatal fault is delivered, and the flags of the objects that it counts
on are set (R244); of a team that has ended, the flags alone. -/
def execFatalFaultDelivery (ctx : Nat) (s : State) : Host.Outcome State Fault Refusal :=
  match Tab.get? s.teams ctx with
  | none => .next s
  | some t =>
    match t.fatal with
    | [] => .next s
    | i :: rest =>
      if t.sched = .exited then .next ((s.setTeam ctx { t with fatal := rest }).flagObjects i.cause i.objs)
      else if !t.takesFatal then .next s
      else
        let s' := s.takeFatal ctx t i rest
        .next ((if t.pend.isEmpty then s'.flagObjects i.cause i.objs else s').afterEvent ctx)

end Sys2Proof.Machine
end

