-- ==== Sys2Proof/Machine/Home.lean ====
section
/-! DEFINITION. The homes of device memory and the host cache agent: the directory, the service of requests, probes and
their answers, grants and write-backs (spec/09_coherence.md R195 to R209; spec/07_translation.md R158). -/

namespace Sys2Proof.Machine

/-! ## Entries, messages and stamps -/

/-- The agents of a line's entry (R196, R199): those in SHARERS, and OWNER where it means something. -/
def DirEnt.holders (e : DirEnt) : List Nat :=
  (List.range 5).filter fun a => e.sharers.getLsbD a || ((e.base == .owned || e.base == .exclusive) && e.owner == a)

/-- An agent's SHARERS bit. -/
def agentBit (a : Nat) : BitVec 5 := BitVec.ofNat 5 (2 ^ a)

/-- The next stamp (R202). -/
def DirEnt.bump (e : DirEnt) : DirEnt := { e with stamp := (e.stamp + 1) % 65536 }

/-- Whether OWNER means something. -/
def DirEnt.owned? (e : DirEnt) : Option Nat := if e.base = .owned ∨ e.base = .exclusive then some e.owner else none

/-- An agent removed as a holder; the state that is left (R199). -/
def DirEnt.remove (e : DirEnt) (a : Nat) : DirEnt :=
  let sh := e.sharers &&& ~~~ agentBit a
  if e.owned? = some a then { e with sharers := sh, base := if sh = 0 then .uncached else .shared }
  else { e with sharers := sh, base := if e.base = .shared ∧ sh = 0 then .uncached else e.base }

/-- The first message of a kind for an agent and a line. -/
def State.msg? (s : State) (k : MsgKind) (a pl : Nat) : Option Msg := s.msgs.find? fun m => m.kind == k && m.agent == a && m.line == pl

/-- A message taken. -/
def State.dropMsg (s : State) (m : Msg) : State := { s with msgs := dropFirst (· == m) s.msgs }

/-- Whether a request in the home's queue is an agent's own, under the entry's tag: one under another tag leaves the agent's copy
where it stands until its probe has acted (R158; DEDUCED, log entry 127). -/
def DirEnt.hasRequest (e : DirEnt) (a : Nat) : Bool :=
  e.queue.any fun r => r.agent == a && r.key == e.key && match r.op with
    | .rds | .rdx | .own | .upg | .bstore .. => true
    | _ => false

/-- The stamps of a line's probes that no die has answered yet. -/
def State.probesOut (s : State) (pl : Nat) : List Nat :=
  let here := fun (r : Req) => match r.op with
    | .probe _ _ l st => if l = pl then some st else none
    | _ => none
  let announced := fun (a : Ann) => match a with
    | .req r => here r
    | _ => none
  ((s.msgs.filter fun m => m.line == pl && (m.kind == .prShr || m.kind == .prInv)).map (·.stamp)) ++
    (s.dies.map fun d => d.2.anns.filterMap announced ++ d.2.mouthq.filterMap here ++
      (d.2.tiles.map fun t => t.2.held.filterMap here).flatten).flatten

/-- Whether a probe of the line has been under way for nearly 2^15 stamps: the home serves nothing more before it is answered
(R202). -/
def State.probeOld (s : State) (pl : Nat) : Bool :=
  (s.probesOut pl).any fun st => decide (32600 ≤ ((s.dirEnt pl).stamp + 65536 - st) % 65536)

/-- One probe sent: a back-invalidate snoop for the host (R206).  An invalidating probe is not waited for at a die that is
not OWNER and whose own request stands in the queue (R204). -/
def State.probe (s : State) (pl : Nat) (inv clean : Bool) (a : Nat) : State :=
  let e := (s.dirEnt pl).bump
  let waited := !(inv && a < 4 && e.owned? != some a && e.hasRequest a)
  let s := s.setDir pl { e with waitAck := if waited then e.waitAck ++ [(a, e.stamp)] else e.waitAck }
  if a = 4 then s.emit (if inv then .biSnpInv pl else .biSnpData pl)
  else s.send { kind := if inv then .prInv else .prShr, agent := a, line := pl, key := e.key, stamp := e.stamp, clean }

/-- A grant sent with the next stamp, GNT-X without data; the entry that follows it is in place once CMP comes (R198, R199). -/
def State.grant (s : State) (pl : Nat) (r : HomeReq) (kind : MsgKind) (data : LineData) (f : DirEnt → DirEnt) : State :=
  let e := (f (s.dirEnt pl)).bump
  let s := s.setDir pl { e with st := .granting, key := r.key }
  s.send { kind, agent := r.agent, line := pl, key := r.key, stamp := e.stamp, data := if kind = .gntX then 0 else data
           atomic := r.atomic }

/-- A service ends in its stable state. -/
def DirEnt.settle (e : DirEnt) : DirEnt := { e with st := e.base, cur := none, dirty := none, again := false, asked := false }

/-- OWNER and SHARERS as one exclusive holder, or none. -/
def DirEnt.exclusiveTo (e : DirEnt) (a : Nat) : DirEnt := { e with base := .exclusive, owner := a, sharers := agentBit a }
def DirEnt.clear (e : DirEnt) : DirEnt := { e with base := .uncached, sharers := 0 }

/-! ## The host cache agent's filter (R207) -/

/-- A line given up by the host cache agent: dirty data goes back with DirtyEvict. -/
def State.evictFilter (s : State) (pl : Nat) (data : Option LineData) : State :=
  if (Tab.get? s.filter pl).isNone then s
  else
    ({ s with filter := Tab.del s.filter pl }).emit (match data with
      | some d => .dirtyEvict pl d
      | none => .cleanEvict pl)

/-- The least recently granted line of the filter. -/
def oldestFilter (f : Tab FiltEnt) : Option Nat :=
  match f with
  | [] => none
  | (k, e) :: t => some ((t.foldl (fun (a : Nat × Nat) x => if x.2.order < a.2 then (x.1, x.2.order) else a) (k, e.order)).1)

/-- Whether a request of a host line has what it needs of the host; else what the agent asks the host for.  An UPG of a die
that holds nothing is served as RDX (R199), and a store of part of a line needs the rest. -/
def State.hostNeeds (s : State) (pl : Nat) (r : HomeReq) : Option OutMsg :=
  if !isHostLine pl then none
  else
    let ent := Tab.get? s.filter pl
    let excl := ent.elim false (·.excl)
    match r.op with
    | .rds => if ent.isSome then none else some (.rdShared pl)
    | .rdx => if excl then none else some (.rdOwn pl)
    | .own => if excl then none else some (.rdOwnNoData pl)
    | .upg => if excl then none else some (if (s.dirEnt pl).holders.contains r.agent then .rdOwnNoData pl else .rdOwn pl)
    | .bstore _ _ mask | .merge _ mask => if excl then none else some (if mask = fullMask then .rdOwnNoData pl else .rdOwn pl)
    | .swmRead own bare =>
      if excl || (ent.isSome && !own) then none else some (if bare then .rdOwnNoData pl else if own then .rdOwn pl else .rdShared pl)
    | _ => none

/-! ## Service (R199, R209) -/

/-- The agents that a request probes, and whether the probes invalidate. -/
def probesFor (e : DirEnt) (r : HomeReq) : List Nat × Bool :=
  let others := e.holders.filter fun a => a != r.agent
  match r.op with
  | .rds | .hostShared =>
    (match e.owned? with
      | some x => if x = r.agent then [] else [x]
      | none => [], false)
  | .rdx | .own | .upg | .hostExcl => (others, true)
  | .bstore .. => (e.holders, true)
  | .reclaim => (e.holders, true)
  | .recall => (if e.holders.contains 4 then [4] else [], true)
  | .pull => (if e.hostOwned then [4] else [], false)
  | .swmRead .. | .merge .. => ([], false)
  | .hostRead => ((e.owned?).toList, false)
  | .hostWrite _ => (e.holders.filter fun a => a < 4, true)
  | .snoop k =>
    match k with
    | 0 => (e.holders, true)
    | 1 => (e.holders, false)
    | _ => ([], false)

/-- Whether a request's probes leave the owner's copy clean: SnpData's (R208). -/
def HomeReq.cleans (r : HomeReq) : Bool := r.op == .snoop 1

/-- The state that a service holds its line in while it probes. -/
def transientOf (r : HomeReq) : DirSt :=
  match r.op with
  | .reclaim | .recall | .pull | .hostRead | .hostWrite _ => .reclaiming
  | _ => .probing

/-- A bypass store's die hears that the home has taken it (R131, R173). -/
def State.bstoreDone (s : State) (pl : Nat) (r : HomeReq) (uid : Nat) : State :=
  let d := r.agent
  let x := s.die d
  let s := s.setDie d { x with outst := x.outst.filter fun o => o.2 != pl }
  match x.waits.find? fun w => w.key == r.key && w.req.uid == uid with
  | none => s
  | some w => (s.ackStore pl w.req).finishWait d w

/-- The data of an answer that passes through the home into memory. -/
def State.takeDirty (s : State) (pl : Nat) : State :=
  match (s.dirEnt pl).dirty with
  | none => s
  | some d => s.homeWrite pl d fullMask

/-- Dirty data that a grant takes into memory: host memory's goes there with DirtyEvict (R207). -/
def State.storeDirty (s : State) (pl : Nat) : State :=
  match (s.dirEnt pl).dirty with
  | none => s
  | some d => if isHostLine pl then (s.homeWrite pl d fullMask).emit (.dirtyEvict pl d) else s.homeWrite pl d fullMask

/-- Whether a coherent line's newest data stands dirty on a die, in a write-back on its way or in an answer on its way. -/
def State.dirtyAnywhere (s : State) (pl : Nat) : Bool :=
  (s.dies.any fun d => d.2.lines.any fun l => l.2.line == pl && !l.2.swm && l.2.dirty) ||
    s.msgs.any fun m => m.line == pl && !m.swm && (m.kind == .ackD || ((m.kind == .wb || m.kind == .wbk) && (s.dirEnt pl).owned? == some m.agent))

/-- A host snoop answered (R208): the line may have left the filter since the snoop came. -/
def State.answerSnoop (s : State) (pl kind : Nat) : State :=
  let e := s.dirEnt pl
  if (Tab.get? s.filter pl).isNone then (s.emit (.snpResp pl "RspIHitI" none)).setDir pl e.settle
  else match kind with
  | 0 =>
    let s := s.takeDirty pl
    let s := s.emit (.snpResp pl (if e.dirty.isSome then "RspIFwdM" else "RspIHitSE") e.dirty)
    { s.setDir pl (e.clear).settle with filter := Tab.del s.filter pl }
  | 1 =>
    let s := s.takeDirty pl
    let s := s.emit (.snpResp pl (if e.dirty.isSome then "RspSFwdM" else "RspSHitSE") e.dirty)
    let sh := e.sharers ||| (e.owned?).elim 0 agentBit
    let e := { e with base := if sh = 0 then .uncached else .shared, sharers := sh }
    { s.setDir pl e.settle with filter := match Tab.get? s.filter pl with
      | some f => Tab.put s.filter pl { f with excl := false }
      | none => s.filter }
  | _ =>
    let dirty := s.dirtyAnywhere pl
    (s.emit (.snpResp pl (if dirty then "RspVFwdV" else "RspVHitV") (if dirty then some (s.lineNow pl) else none))).setDir pl e.settle

/-- Every answer is in: the request is granted or done (R199). -/
def State.conclude' (s : State) (pl : Nat) (r : HomeReq) : State :=
  let e := s.dirEnt pl
  let excl := !isHostLine pl || (Tab.get? s.filter pl).elim false (·.excl)
  match r.op with
  | .rds | .hostShared =>
    let s := if e.owned? = some 4 then s.takeDirty pl else s
    let mem := e.dirty.getD (s.homeRead pl)
    let toE := fun (s : State) =>
      if r.agent = 4 then (s.setDir pl ((e.exclusiveTo 4).settle)).emit (.memData pl mem)
      else s.grant pl r .gntE mem fun e => e.exclusiveTo r.agent
    let toS := fun (s : State) (f : DirEnt → DirEnt) =>
      if r.agent = 4 then (s.setDir pl ((f e).settle)).emit (.memData pl mem) else s.grant pl r .gntS mem f
    let add := fun (e : DirEnt) => { e with sharers := e.sharers ||| agentBit r.agent }
    match e.base with
    | .uncached => if excl then toE s else toS s fun e => { add e with base := .shared }
    | .shared => toS s add
    | .exclusive =>
      if e.owner = r.agent then toE s
      else if e.dirty.isSome then toS s fun e => { add e with base := .owned }
      else toS s fun e => { add e with base := .shared }
    | _ =>
      if e.owner = r.agent ∨ e.dirty.isNone then toS s fun e => { add e with base := .shared } else toS s add
  | .rdx | .own | .upg | .hostExcl =>
    let s := s.storeDirty pl
    let bare := match r.op with
      | .own => true
      | .upg => e.holders.contains r.agent
      | _ => false
    if r.agent = 4 then (s.setDir pl (e.exclusiveTo 4).settle).emit (.memData pl (s.homeRead pl))
    else s.grant pl r (if bare then .gntX else .gntE) (s.homeRead pl) fun e => e.exclusiveTo r.agent
  | .bstore uid data mask =>
    let s := ((s.storeDirty pl).homeWrite pl data mask).setDir pl e.clear.settle
    let s := if isHostLine pl then s.evictFilter pl (some (s.homeRead pl)) else s
    s.bstoreDone pl r uid
  | .swmRead _ bare =>
    let s := if r.agent < 4 then s.send { kind := if bare then .gntX else .gntE, agent := r.agent, line := pl, key := r.key, data := if bare then 0 else s.homeRead pl, swm := true } else s
    s.setDir pl e.settle
  | .merge data mask =>
    let s := (s.homeWrite pl data mask).setDir pl e.settle
    s.evictFilter pl (some (s.homeRead pl))
  | .reclaim =>
    let s := (s.takeDirty pl).setDir pl e.clear.settle
    if isHostLine pl then s.evictFilter pl e.dirty else s
  | .recall =>
    let s := s.takeDirty pl
    s.setDir pl (e.remove 4).settle
  | .pull => (s.takeDirty pl).setDir pl (if e.hostOwned then { e with base := .shared, sharers := e.sharers ||| agentBit 4 } else e).settle
  | .hostRead =>
    let s := (if e.owned? = some 4 then s.takeDirty pl else s).emit (.memData pl (e.dirty.getD (s.homeRead pl)))
    let sh := e.sharers ||| (e.owned?).elim 0 agentBit
    let e := if e.dirty.isSome ∧ e.owned? ≠ some 4 then (if e.base = .exclusive then { e with base := .owned } else e)
      else if (e.owned?).isSome then { e with base := .shared, sharers := sh } else e
    s.setDir pl e.settle
  | .hostWrite data =>
    let s := (s.takeDirty pl).homeWrite pl data fullMask
    let h := e.holders.contains 4
    let e := if !h then e.clear else if e.owned? = some 4 then e else { e with base := .shared, sharers := agentBit 4 }
    (s.setDir pl e.settle).emit (.memDone pl)
  | .snoop k => s.answerSnoop pl k

/-- The probes of a request go out, or, with none to wait for, the request is concluded. -/
def State.begin (s : State) (pl : Nat) (r : HomeReq) : State :=
  let e := s.dirEnt pl
  let p := probesFor e r
  let s := s.setDir pl { e with cur := some r, st := transientOf r, waitAck := [], waitWb := [], dirty := none, again := false }
  let s := p.1.foldl (fun s a => s.probe pl p.2 r.cleans a) s
  if (s.dirEnt pl).waitAck.isEmpty then s.conclude' pl r else s

/-- The order in which a home takes its queue: its head, host snoops first (R208). -/
def DirEnt.next (e : DirEnt) : Option (HomeReq × List HomeReq) :=
  let isSnoop := fun (r : HomeReq) => match r.op with
    | .snoop _ => true
    | _ => false
  match e.queue.find? isSnoop with
  | some r => some (r, dropFirst (· == r) e.queue)
  | none =>
    match e.queue with
    | [] => none
    | r :: rest => some (r, rest)

/-- Whether the dies hold the line under another tag than a request's (R158). -/
def DirEnt.synonym (e : DirEnt) (r : HomeReq) : Bool :=
  match r.op with
  | .rds | .rdx | .own | .upg | .bstore .. => e.key != r.key && e.holders.any fun a => decide (a < 4)
  | _ => false

/-- Lines that the host cache agent has asked for and does not hold: each takes an entry of the filter when it comes. -/
def State.linesAsked (s : State) : Nat := (s.dir.filter fun e => e.2.asked && (Tab.get? s.filter e.1).isNone).length

/-- What the host cache agent does for a request that needs the host: it asks once, after a full filter has given up its
least recently granted line (R207).  A link that runs as PCIe carries no CXL.cache (spec/15_platform.md R325). -/
def State.askHost (s : State) (pl : Nat) (m : OutMsg) : State :=
  let e := s.dirEnt pl
  if e.asked || !s.plat.cxl then s
  else if (Tab.get? s.filter pl).isNone ∧ 262144 ≤ s.filter.length + s.linesAsked then
    match oldestFilter s.filter with
    | none => s
    | some v =>
      let f := s.dirEnt v
      if f.queue.any fun r => r.op == .reclaim then s else s.setDir v { f with queue := { agent := 5, op := .reclaim } :: f.queue }
  else (s.setDir pl { e with asked := true }).emit m

/-- The home takes its next request when the line is in a stable state (R197) and no probe of it is too old (R202). -/
def State.serve (s : State) (pl : Nat) : State :=
  let e := s.dirEnt pl
  if e.cur.isSome || s.probeOld pl then s
  else match e.next with
    | none => s
    | some (r, rest) =>
      if e.synonym r then s.begin pl { agent := 5, op := .reclaim }
      else match s.hostNeeds pl r with
        | some m => s.askHost pl m
        | none => (s.setDir pl { e with queue := rest }).begin pl r

/-- A request joins the queue.  A die whose request arrives while a probe that invalidates its clean copy is out is not
waited for, but where it asks under another tag (R204, R158). -/
def State.arrive (s : State) (pl : Nat) (r : HomeReq) : State :=
  let e := s.dirEnt pl
  let inv := (e.cur.map fun c => (probesFor e c).2).getD false
  let e := { e with queue := e.queue ++ [r] }
  let free := inv && r.agent < 4 && r.key == e.key && e.owned? != some r.agent && e.waitAck.any fun w => w.1 == r.agent
  if !free then (s.setDir pl e).serve pl
  else
    let e := { e with waitAck := e.waitAck.filter fun w => w.1 != r.agent }
    let s := s.setDir pl e
    match e.cur with
    | some c =>
      if e.waitAck.isEmpty ∧ e.waitWb.isEmpty then
        (if e.again then s.begin pl c else s.conclude' pl c)
      else s
    | none => s

/-- The answers so far are taken: with none outstanding the request is concluded, or served anew after a write-back. -/
def State.proceed (s : State) (pl : Nat) : State :=
  let e := s.dirEnt pl
  match e.cur with
  | none => s
  | some c =>
    if e.st = .granting ∨ !e.waitAck.isEmpty ∨ !e.waitWb.isEmpty then s
    else if e.again then s.begin pl c
    else s.conclude' pl c

/-- An answer from an agent, without or with data (R199); one that is not waited for is discarded (R204). -/
def State.answered (s : State) (pl agent stamp : Nat) (data : Option LineData) : State :=
  let e := s.dirEnt pl
  if !e.waitAck.contains (agent, stamp) then s
  else (s.setDir pl { e with waitAck := e.waitAck.filter (· != (agent, stamp)), dirty := data.orElse fun _ => e.dirty }).proceed pl

/-! ## The events of the home -/

/-- A die's request reaches the home.  A software-managed or peer line has no entry: its home answers at once, the host cache
agent once it has the line of the host (R207, R210). -/
def State.homeRequest (s : State) (k : MsgKind) (op : HomeOp) (agent pl : Nat) : State :=
  match s.msg? k agent pl with
  | none => s
  | some m =>
    if s.peerDown pl then s
    else
      let s := s.dropMsg m
      if m.swm ∧ isHostLine pl then s.arrive pl { agent, op := .swmRead (op != .rds) (op == .own), asid := asidOfLine m.key, key := m.key }
      else if m.swm then s.send { kind := .gntE, agent, line := pl, key := m.key, data := s.homeRead pl, swm := true }
      else s.arrive pl { agent, op, asid := asidOfLine m.key, key := m.key, atomic := m.atomic }

/-- RDS (R199). -/
def execRds (agent line : Nat) (s : State) : Host.Outcome State Fault Refusal := .next (s.homeRequest .rds .rds agent line)
/-- RDX (R199). -/
def execRdx (agent line : Nat) (s : State) : Host.Outcome State Fault Refusal := .next (s.homeRequest .rdx .rdx agent line)
/-- OWN (R199). -/
def execOwn (agent line : Nat) (s : State) : Host.Outcome State Fault Refusal := .next (s.homeRequest .own .own agent line)
/-- UPG (R199). -/
def execUpg (agent line : Nat) (s : State) : Host.Outcome State Fault Refusal := .next (s.homeRequest .upg .upg agent line)

/-- HOME_QUEUE_SERVE (R197). -/
def execHomeQueueServe (line : Nat) (s : State) : Host.Outcome State Fault Refusal := .next (s.serve line)

/-- CMP (R199): the grant is installed, and the entry stands as the grant left it. -/
def execCmp (agent line : Nat) (s : State) : Host.Outcome State Fault Refusal :=
  match s.msg? .cmp agent line with
  | none => .next s
  | some m =>
    let s := s.dropMsg m
    let e := s.dirEnt line
    .next (if e.st = .granting ∧ e.cur.any (·.agent == agent) then s.setDir line e.settle else s)

/-- A write-back reaches the home: the owner's data goes into memory, another's is discarded; WBA answers both (R199).
Masked bytes of a software-managed line are merged (R210), the host cache agent's once it owns the line (R207). -/
def State.homeWb (s : State) (k : MsgKind) (agent pl : Nat) : State :=
  match s.msg? k agent pl with
  | none => s
  | some m =>
    if s.peerDown pl then s
    else
      let s := (s.dropMsg m).send { kind := .wba, agent, line := pl, key := m.key, swm := m.swm }
      match m.mask with
      | some mask =>
        if isHostLine pl then s.arrive pl { agent, op := .merge m.data mask, asid := asidOfLine m.key, key := m.key }
        else s.homeWrite pl m.data mask
      | none =>
        let e := s.dirEnt pl
        let e' := if e.owned? ≠ some agent then e
          else if k = .wbk then { e with base := if e.base = .owned then .shared else e.base } else e.remove agent
        let mine := e.owned? == some agent
        let serving := e.cur.isSome && e.st != .granting
        let e' := { e' with waitWb := e'.waitWb.filter fun a => a != agent, again := e'.again || (serving && mine && k == .wb)
                            st := if e.cur.isNone then e'.base else e'.st }
        let s := if mine then s.homeWrite pl m.data fullMask else s
        let s := s.setDir pl e'
        let s := if mine ∧ isHostLine pl then
            (if k = .wb ∧ e'.base = .uncached then s.evictFilter pl (some m.data) else s.emit (.dirtyEvict pl m.data))
          else s
        s.proceed pl

/-- WB (R199). -/
def execWb (agent line : Nat) (s : State) : Host.Outcome State Fault Refusal := .next (s.homeWb .wb agent line)
/-- WBK (R199). -/
def execWbk (agent line : Nat) (s : State) : Host.Outcome State Fault Refusal := .next (s.homeWb .wbk agent line)

/-- An answer that follows a WBK of its die on their way to the home is taken after it. -/
def State.answer? (s : State) (k : MsgKind) (agent pl : Nat) : Option Msg :=
  if (s.msg? .wbk agent pl).isSome then none else s.msg? k agent pl

/-- ACK_I (R199). -/
def execAckI (agent line : Nat) (s : State) : Host.Outcome State Fault Refusal :=
  match s.answer? .ackI agent line with
  | none => .next s
  | some m => .next ((s.dropMsg m).answered line agent m.stamp none)

/-- ACK_D (R199). -/
def execAckD (agent line : Nat) (s : State) : Host.Outcome State Fault Refusal :=
  match s.answer? .ackD agent line with
  | none => .next s
  | some m => .next ((s.dropMsg m).answered line agent m.stamp (some m.data))

/-- ACK_ST (R202): the stale probe changed nothing. -/
def execAckSt (agent line : Nat) (s : State) : Host.Outcome State Fault Refusal :=
  match s.answer? .ackSt agent line with
  | none => .next s
  | some m => .next ((s.dropMsg m).answered line agent m.stamp none)

/-- ACK_WB (R205): the home waits for the write-back that it names too, then removes the agent as a holder and serves the request anew. -/
def execAckWb (agent line : Nat) (s : State) : Host.Outcome State Fault Refusal :=
  match s.answer? .ackWb agent line with
  | none => .next s
  | some m =>
    let s := s.dropMsg m
    let e := s.dirEnt line
    if !e.waitAck.contains (agent, m.stamp) then .next s
    else
      let coming := s.msgs.any fun w => w.kind == .wb && w.agent == agent && w.line == line && w.stamp == m.wb
      let e := if coming then { e with waitWb := e.waitWb ++ [agent] } else e.remove agent
      .next ((s.setDir line { e with waitAck := e.waitAck.filter (· != (agent, m.stamp)), again := true }).proceed line)

/-! ## The events of a die (R200 to R205) -/

/-- A probe reaches a die: it is announced, and admitted at the mouth in Drum order (R192, R200). -/
def State.probeComes (s : State) (k : MsgKind) (d pl : Nat) : State :=
  match s.msg? k d pl with
  | none => s
  | some m => (s.dropMsg m).announce d (.req { uid := 0, ent := 0, ctx := 0, core := d * 192, asid := asidOfLine m.key
                                               op := .probe (k == .prInv) m.clean pl m.stamp, va := vaOfLine m.key })

/-- PR_SHR (R200). -/
def execPrShr (agent line : Nat) (s : State) : Host.Outcome State Fault Refusal := .next (s.probeComes .prShr agent line)
/-- PR_INV (R200). -/
def execPrInv (agent line : Nat) (s : State) : Host.Outcome State Fault Refusal := .next (s.probeComes .prInv agent line)

/-- Whether the first request that can go on at a line stores all of it, so that it needs no data (R128). -/
def State.storesAll (s : State) (d k : Nat) : Bool :=
  ((s.die d).waits.find? fun w => w.key == k && !s.linesHeld w.req [k]).elim false fun w =>
    w.req.op == .store && (s.storeBytes w.req).2 == fullMask

/-- A grant installed: the line takes its state, data and stamp, CMP goes to the home, and the waiting requests of the
line go on (R198, R203).  GNT-X brings no data: a die that still holds the line takes E with its own, M where that is dirty;
one that holds none has a line only to store all of it. -/
def State.install (s : State) (d : Nat) (m : Msg) : State :=
  let x := s.die d
  let old := (Tab.get? x.lines m.key).filter fun l => l.line == m.line
  let l : Option DLine := match m.kind, old with
    | .gntX, some l => some { l with st := if l.dirty then .m else .e, stamp := m.stamp }
    | .gntX, none => if s.storesAll d m.key then some { line := m.line, st := .e, stamp := m.stamp, inWell := false, swm := m.swm } else none
    | k, _ => some { line := m.line, st := if k = .gntS then .s else .e, stamp := m.stamp, data := m.data, swm := m.swm
                     inWell := old.elim false (·.inWell) }
  let s := s.setDie d { x with lines := match l with
                                 | some l => Tab.put x.lines m.key l
                                 | none => x.lines
                               outst := x.outst.filter fun o => o.2 != m.line }
  let s := if m.swm then s else s.send { kind := .cmp, agent := d, line := m.line, key := m.key }
  s.pumpLine d m.key true

/-- A grant of a kind arrives. -/
def State.granted (s : State) (k : MsgKind) (d pl : Nat) : State :=
  match s.msg? k d pl with
  | none => s
  | some m => if (s.die d).restitch.isSome then s else (s.dropMsg m).install d m

/-- GNT_S (R198). -/
def execGntS (agent line : Nat) (s : State) : Host.Outcome State Fault Refusal := .next (s.granted .gntS agent line)
/-- GNT_E (R198). -/
def execGntE (agent line : Nat) (s : State) : Host.Outcome State Fault Refusal := .next (s.granted .gntE agent line)
/-- GNT_X (R198, R201). -/
def execGntX (agent line : Nat) (s : State) : Host.Outcome State Fault Refusal := .next (s.granted .gntX agent line)

/-- WBA (R205): the write-back's buffer entry is free, and what waited for it goes on (R178). -/
def execWba (agent line : Nat) (s : State) : Host.Outcome State Fault Refusal :=
  match s.msg? .wba agent line with
  | none => .next s
  | some m =>
    let s := s.dropMsg m
    let x := s.die agent
    match x.wbuf.find? fun w => w.line == line with
    | none => .next s
    | some w =>
      let s := s.setDie agent { x with wbuf := dropFirst (· == w) x.wbuf }
      .next ((w.waits.foldl (fun s c => s.credit c.1 c.2 (w.key + 2) 0 []) s).pumpDie agent)

end Sys2Proof.Machine
end

