-- ==== Sys2Proof/Machine/Fault.lean ====
section
/-! DEFINITION. Translation faults: the end of a walk, the side log, replay, cancellation and invalidation, and accesses
made fatal by memory or peer errors (spec/07_translation.md R157 to R169; spec/13_preemption.md R274). -/

namespace Sys2Proof.Machine

/-! ## A walk ends (R157, R161, R168) -/

/-- A request joined to those of the same instruction and tile: their pieces together. -/
def mergeReq (l : List Req) (r : Req) : List Req :=
  if l.any fun q => q.uid == r.uid then
    l.map fun q => if q.uid = r.uid then { q with pieces := q.pieces ++ r.pieces.filter fun p => !q.pieces.contains p } else q
  else l ++ [r]

/-- A faulted request attached to its record, joined to a part of itself that is attached, or that waits for a free record (R159,
R161). -/
def State.attach (s : State) (d : Nat) (r : Req) (f : FRec) : State :=
  let x := s.die d
  let mine : Att → Bool := fun a => match a with
    | .req q => q.uid == r.uid
    | _ => false
  let joined : Att → Att := fun a => match a with
    | .req q => if q.uid = r.uid then .req ((mergeReq [q] r).head?.getD q) else a
    | a => a
  match x.frecs.find? fun e => e.2.va == f.va && e.2.asid == f.asid && e.2.type == f.type && e.2.att.any mine with
  | some e => s.setDie d { x with frecs := Tab.put x.frecs e.1 { e.2 with att := e.2.att.map joined } }
  | none =>
    if x.frwait.any fun w => w.2.va == f.va && w.2.asid == f.asid && w.2.type == f.type && mine w.1 then
      s.setDie d { x with frwait := x.frwait.map fun w =>
        if w.2.va = f.va ∧ w.2.asid = f.asid ∧ w.2.type = f.type then (joined w.1, w.2) else w }
    else s.logFault d (.req r) f

/-- Where a faulted store or atomic waits: in the side log, or, on a strongly ordered page or with the log full, holding
its team, which then resumes at a saved PC (R161, R64).  Its core's own L1 copies of the lines, which took its bytes when it was announced, are dropped. -/
def State.logStore (s : State) (r : Req) : State :=
  let c := s.core r.core
  let c := { c with l1 := r.lines.foldl (fun l k => toI l k) c.l1 }
  let s := s.setCore r.core c
  if c.slog.any fun e => e.req.uid == r.uid then
    s.setCore r.core { c with slog := c.slog.map fun e =>
      if e.req.uid = r.uid then { e with req := (mergeReq [e.req] r).head?.getD e.req, replay := false, sent := false } else e }
  else if r.strong ∨ 256 ≤ c.slog.length then
    let t := s.team r.ctx
    s.setTeam r.ctx { t with fhold := if t.fhold.contains r.uid then t.fhold else t.fhold ++ [r.uid], fresh := true }
  else s.setCore r.core { c with slog := c.slog ++ [{ req := r }] }

/-- The tile that a PREF's miss allocated before its translation refused it leaves the chain (R132). -/
def State.dropPref (s : State) (d tile uid : Nat) : State :=
  match Tab.get? (s.die d).tiles tile with
  | none => s
  | some t => if t.made = uid then s.dropNowell d tile else s

/-- A store or atomic whose failing walk reaches a leaf of a strongly ordered page is strongly ordered, whatever its page
showed at its issue, and so is its instruction's entry (R161, R175). -/
def State.strengthen (s : State) (r : Req) (va : Nat) : State × Req :=
  match s.walk r.asid va with
  | .fault .. => (s, r)
  | .leaf e _ =>
    if r.strong ∨ e.attr.ord ≠ 1 then (s, r)
    else
      let t := s.team r.ctx
      (s.setTeam r.ctx { t with inflight := t.inflight.map fun e => if e.uid = r.ent then { e with strong := true } else e },
        { r with strong := true })

/-- A walk has failed for a request that waits at one line (R161): the rest of a strongly ordered run faults with it.  TIME of
the record is when the access failed, also where it waits for a free record (DESIGN CHOICE, log entry 92).  A request that its
team's freeze or end has left behind raises none. -/
def State.walkFailed (s : State) (d : Nat) (w : WaitEnt) (type level : Nat) : State :=
  let key := w.key
  let r := (s.die d).whole w
  let s := s.unwaitRun d w
  match r.op with
  | .pref => s.dropPref d (tileOfLine key) r.uid
  | _ =>
    if r.ent ≠ 0 ∧ ((s.team r.ctx).sched = .frozen ∨ (s.team r.ctx).inflight.all fun e => e.uid != r.ent) then s
    else
      let g := if r.op.writes then s.strengthen r (vaOfLine key) else (s, r)
      let r := g.2
      let s := if r.op.writes then g.1.logStore r else s
      let f : FRec := { va := vaOfLine key / 4096 * 4096, asid := r.asid, type, level, rep := r.replay, write := r.op.writes, path := 0
                        pcore := r.core % 1024, time := s.time, att := [] }
      s.attach d r f

/-- What a walk is for (R157): WDEPTH never faults (R134). -/
def Req.need (r : Req) : Need :=
  match r.op with
  | .wdepth => { user := false }
  | _ => { write := r.op.writes, user := r.user }

/-- PAGE_WALK_COMPLETE (R157): walk `walk` of a die ends, once the host has given up the tables' lines that it owns (R156).
A granted access goes on with its translation; a refused one faults; WDEPTH and WPIN answer from what it shows (R134, R136). -/
def execPageWalkComplete (die walk : Nat) (s : State) : Host.Outcome State Fault Refusal :=
  let x := s.die die
  match x.walks[walk]? with
  | none => .next s
  | some w =>
    let r := w.req
    let va := vaOfLine w.key
    let s := if w.recheck then s.dropTlb die r.asid va else s
    match s.walkWaits die r.asid va r.need with
    | some pl => .next (s.homeAsk pl .pull)
    | none =>
    let x := s.die die
    let s := s.setDie die { x with walks := x.walks.eraseIdx walk }
    let tile := tileOfLine w.key
    match r.op with
    | .wdepth =>
      match s.translate die r.asid va r.need with
      | (s, .ok e) => .next (s.answer r.ctx r.uid (if e.attr.nowell then absentWord true else r.found))
      | (s, .error _) => .next (s.answer r.ctx r.uid r.found)
    | .wpin =>
      match s.translate die r.asid va r.need with
      | (s, .ok e) =>
        if e.attr.nowell then .next ((s.rejectPin die tile).answer r.ctx r.uid 2)
        else .next ((s.keepPin die tile e.attr).answer r.ctx r.uid r.found)
      | (s, .error _) => .next (s.answer r.ctx r.uid r.found)
    | _ =>
      match (s.die die).waits.find? fun v => v.key == w.key && v.req.uid == r.uid with
      | none => .next s
      | some v =>
        match s.translate die r.asid va r.need with
        | (s, .error (ty, lv)) => .next ((s.walkFailed die v ty lv).pumpLine die w.key false)
        | (s, .ok e) =>
          let s := s.keepAttr die tile e.attr
          let s := if e.attr.nowell ∧ r.op = .pref then s.unwait die v else s.rewait die { v with tr := some (e.paOf va / 128, e.attr) }
          .next (s.pumpLine die w.key false)

/-! ## The side log (R161, R164) -/

/-- SIDE_LOG_PERFORM (R164): a replayed store of the log is sent, first among the log's stores to its lines; once
performed, its log entry is freed. -/
def execSideLogPerform (core idx : Nat) (s : State) : Host.Outcome State Fault Refusal :=
  let c := s.core core
  match c.slog[idx]? with
  | none => .next s
  | some e =>
    if !e.replay then .next s
    else if e.sent then
      if s.reqOwes e.req then .next s
      else .next (((s.setCore core { c with slog := c.slog.eraseIdx idx }).fillLog core).pumpDie (dieOf core))
    else if (c.slog.take idx).any fun f => f.req.lines.any e.req.lines.contains then .next s
    else
      let s := s.setCore core { c with slog := c.slog.set idx { e with sent := true } }
      .next (s.announce (dieOf core) (.req { e.req with replay := true, low := (s.team e.req.ctx).lowWater }))

/-! ## Replay (R164) -/

/-- One attached access of a freed record goes on. -/
def State.replayAtt (s : State) (d : Nat) : Att → State
  | .req r =>
    let c := s.core r.core
    if c.slog.any fun e => e.req.uid == r.uid then
      s.setCore r.core { c with slog := c.slog.map fun e => if e.req.uid = r.uid then { e with replay := true } else e }
    else s.announce d (.req { r with replay := true, low := (s.team r.ctx).lowWater })
  | .copy uid => { s with copies := s.copies.map fun c => if c.uid = uid then { c with held := false, rep := true } else c }
  | .mma core uid => s.mapJob core uid fun j => { j with held := false, rep := true }
  | .fetch ctx =>
    let t := s.team ctx
    if t.sched = .waiting .fetchHold then
      s.setTeam ctx ({ t with sched := .ready, waitWord := 0, fetchRep := true }.mark (t.waitWord.getLsbD 87))
    else s

/-- The 4 KiB page of a record leaves the die's TLB, so that every replayed access walks afresh (R156). -/
def State.freeRecord (s : State) (d id : Nat) : State :=
  let x := s.die d
  match Tab.get? x.frecs id with
  | none => s
  | some f => (s.setDie d { x with frecs := Tab.del x.frecs id }).dropTlb d f.asid f.va

/-- A named record is freed and its accesses replayed. -/
def State.replayRecord (s : State) (d id : Nat) : State :=
  match Tab.get? (s.die d).frecs id with
  | none => s
  | some f => f.att.foldl (fun s a => s.replayAtt d a) (s.freeRecord d id)

/-- Accesses that waited for a record take the ones freed, and requests held behind the freed ones go on. -/
def State.afterCommand (s : State) (d : Nat) : State := (s.drainWaiting d (s.die d).frwait.length).pumpDie d

/-- FCMD_REPLAY_RECORD (R164). -/
def execFcmdReplayRecord (die id : Nat) (s : State) : Host.Outcome State Fault Refusal :=
  .next (s.onBar fun s => (s.replayRecord die id).afterCommand die)

/-- The records of an ASID. -/
def Die.recordsOf (x : Die) (asid : Nat) : List Nat := (x.frecs.filter fun e => e.2.asid == asid).map fun e => e.1

/-- FCMD_REPLAY_ASID (R164). -/
def execFcmdReplayAsid (die asid : Nat) (s : State) : Host.Outcome State Fault Refusal :=
  .next (s.onBar fun s => (((s.die die).recordsOf asid).foldl (fun s id => s.replayRecord die id) s).afterCommand die)

/-! ## Accesses made fatal (R165, R166) -/

/-- The cause for a path and a record's TYPE (R165). -/
def cancelCause (path type : Nat) : Cause :=
  if type = 0 then Cause.cancells + BitVec.ofNat 7 path else Cause.permls + BitVec.ofNat 7 path

/-- The pieces of a request are not performed: they owe nothing more, and their lanes' results do not come. -/
def State.cancelPieces (s : State) (r : Req) : State :=
  r.pieces.foldl (fun s p =>
    let s := s.credit r.ctx r.ent p.id p.lane []
    match Tab.get? s.teams r.ctx with
    | none => s
    | some t =>
      let cells : List (Nat × Cell) := match t.inflight.find? fun e => e.uid == r.ent with
        | some e => (loadCells (decode e.word) p.lane 0).map fun c => (e.resUid, c.1)
        | none => []
      s.setTeam r.ctx ({ t with pend := t.pend.filter fun q => !cells.contains (q.uid, q.cell) }.settle)) s

/-- The lanes of a vector access, for its trap record. -/
def maskOfReq (i : Instr) (r : Req) : Option Mask :=
  match i with
  | .sld _ | .sst _ | .shld _ | .shst _ => none
  | _ => some (maskOf (r.pieces.map (·.lane)))

/-- A request made fatal with a cause. -/
def State.fatalReq (s : State) (r : Req) (c : Cause) (va : Nat) : State :=
  let e? := (s.team r.ctx).inflight.find? fun e => e.uid == r.ent
  let k := s.core r.core
  let s := s.setCore r.core { k with slog := k.slog.filter fun e => e.req.uid != r.uid }
  match e? with
  | none => s.cancelPieces r
  | some e =>
    (s.fatalFault r.ctx { cause := c, pc := e.pc, resume := 0, word := e.word, addr := BitVec.ofNat 64 va
                          lanes := maskOfReq (decode e.word) r }).cancelPieces r

/-- A copy or an MMA made fatal.  A CPYM's MMA flags its object with MEMUE and PEERERR too, of which R244 does not speak
(DESIGN CHOICE, log entry 97). -/
def State.fatalWorkOf (s : State) (uid : Nat) (cp mx : Cause) (va : Nat) : State :=
  match s.copies.find? fun c => c.uid == uid with
  | some c =>
    match (s.team c.ctx).inflight.find? fun e => e.uid == c.ent with
    | none => s.fatalCopy c { cause := cp, pc := 0, resume := 0, addr := BitVec.ofNat 64 va }
    | some e => s.fatalCopy c { cause := cp, pc := e.pc, resume := 0, word := e.word, addr := BitVec.ofNat 64 va }
  | none =>
    match s.cores.find? fun k => k.2.arrq.any fun j => j.uid == uid with
    | none => s
    | some (core, k) =>
      match k.arrq.find? fun j => j.uid == uid with
      | none => s
      | some j =>
        let s := s.setCore core { k with arrq := k.arrq.filter fun i => i.uid != uid }
        let t := s.team j.ctx
        let e? := t.inflight.find? fun e => e.uid == j.ent
        let objs := if j.be then [(frameOf j.ctx, j.bar)] else []
        let i : TrapInfo := { cause := mx, pc := e?.elim 0 (·.pc), resume := 0, word := e?.elim 0 (·.word), addr := BitVec.ofNat 64 va, objs }
        let s := s.fatalWork j.ctx i
        let t := s.team j.ctx
        let s := s.setTeam j.ctx ({ t with pend := t.pend.filter fun r => r.cell != Cell.commit j.zd j.uid }.settle)
        s.credit j.ctx j.ent (if j.after = 0 then 0 else 2) 0 []

/-- One attached access of a cancelled record (R165). -/
def State.cancelAtt (s : State) (f : FRec) : Att → State
  | .req r => s.fatalReq r (cancelCause 0 f.type) f.va
  | .copy uid => s.fatalWorkOf uid (cancelCause 1 f.type) (cancelCause 2 f.type) f.va
  | .mma _ uid => s.fatalWorkOf uid (cancelCause 1 f.type) (cancelCause 2 f.type) f.va
  | .fetch ctx =>
    let t := s.team ctx
    s.fatalFault ctx { cause := cancelCause 3 f.type, pc := t.pc, resume := t.pc, addr := BitVec.ofNat 64 f.va }

/-- A named record is freed and its accesses made fatal; side-log places they leave are taken. -/
def State.cancelRecord (s : State) (d id : Nat) : State :=
  match Tab.get? (s.die d).frecs id with
  | none => s
  | some f =>
    let s := f.att.foldl (fun s a => s.cancelAtt f a) (s.freeRecord d id)
    (s.cores.map (·.1)).foldl (fun s c => s.fillLog c) s

/-- FCMD_CANCEL_RECORD (R165). -/
def execFcmdCancelRecord (die id : Nat) (s : State) : Host.Outcome State Fault Refusal :=
  .next (s.onBar fun s => (s.cancelRecord die id).afterCommand die)

/-- FCMD_CANCEL_ASID (R165). -/
def execFcmdCancelAsid (die asid : Nat) (s : State) : Host.Outcome State Fault Refusal :=
  .next (s.onBar fun s => (((s.die die).recordsOf asid).foldl (fun s id => s.cancelRecord die id) s).afterCommand die)

/-! ## Errors of memory and of peers (R274, spec/15_platform.md R331) -/

/-- The access that asked a home for a line is made fatal, and the die's request is over. -/
def State.failAsker (s : State) (d pl : Nat) (c : Cause) : State :=
  let x := s.die d
  let s := s.setDie d { x with outst := x.outst.filter fun o => o.2 != pl }
  match x.waits.find? fun w => s.lineOf d w == pl with
  | none => s
  | some w =>
    let va := vaOfLine w.key / 4096 * 4096
    let r := x.whole w
    let s := s.unwaitRun d w
    let s := if w.req.ent = 0 then s.fatalWorkOf w.req.tag c c va else s.fatalReq r c va
    s.pumpLine d w.key false

/-- MEMUE (R274): a grant on its way to a die carries data that memory could not correct.  The access that asked for it
is made fatal; the line is not installed, and the home's grant is over. -/
def execMemue (die line : Nat) (s : State) : Host.Outcome State Fault Refusal :=
  match (s.msg? .gntS die line).orElse fun _ => s.msg? .gntE die line with
  | none => .next s
  | some m =>
    let s := s.dropMsg m
    let s := if m.swm then s else s.send { kind := .cmp, agent := die, line, key := m.key }
    .next (s.failAsker die line Cause.memue)

/-- A die's traffic with a peer's line has failed: a request's access is made fatal, and so is every counted write-back
(R331). -/
def State.peerFail (s : State) (d pl : Nat) : State :=
  let s := { s with msgs := s.msgs.filter fun m => !(m.agent == d && m.line == pl) }
  let x := s.die d
  let wb := x.wbuf.filter fun w => w.line == pl
  let s := s.setDie d { x with wbuf := x.wbuf.filter fun w => w.line != pl }
  let s := wb.foldl (fun s w => w.waits.foldl (fun s c =>
    match (s.team c.1).inflight.find? fun e => e.uid == c.2 with
    | none => s
    | some e =>
      (s.fatalFault c.1 { cause := Cause.peererr, pc := e.pc, resume := 0, word := e.word
                          addr := BitVec.ofNat 64 (vaOfLine w.key / 4096 * 4096) }).credit c.1 c.2 (w.key + 2) 0 []) s) s
  s.failAsker d pl Cause.peererr

/-- An engine's access that waits for its peer's line fails: its copy or MMA is made fatal (R331). -/
def State.failStuck (s : State) (d pl : Nat) : State :=
  let x := s.die d
  let here := x.stuck.filter fun e => e.2.2 == pl
  let s := s.setDie d { x with stuck := x.stuck.filter fun e => e.2.2 != pl }
  here.foldl (fun s e => s.fatalWorkOf e.1 Cause.peererr Cause.peererr (e.2.1 / 4096 * 4096)) s

/-- Instruction fetches that have gone to a peer fail there: each team that still stands at its fetch takes a fatal fault charged
to the PC that it fetched, the target's where a transfer's target was fetched (R331, R166, R63).  It waits for it at its own PC:
a transfer whose target was fetched has not been performed, and RESUME names it (DEDUCED, log entry 87). -/
def State.failAway (s : State) (d pl : Nat) : State :=
  let x := s.die d
  let here := x.away.filter fun e => e.2.2 == pl
  let s := s.setDie d { x with away := x.away.filter fun e => e.2.2 != pl }
  here.foldl (fun s e =>
    let t := s.team e.1
    if t.sched = .ready ∨ t.sched = .parked then
      (s.setTeam e.1 { t with sched := .waiting .fetchHold, waitWord := if t.sched = .parked then 1 <<< 87 else 0
                              fresh := true }).fatalFault e.1
        { cause := Cause.peererr, pc := BitVec.ofNat 64 e.2.1, resume := t.pc, addr := BitVec.ofNat 64 (e.2.1 / 4096 * 4096) }
    else s) s

/-- What a die has under way to lines of peers: messages, requests that wait, and accesses of engines and fetches that wait. -/
def State.peerTraffic (s : State) : List (Nat × Nat) :=
  ((s.msgs.map fun m => (m.agent, m.line)) ++
    (s.dies.map fun d => (d.2.waits.map fun w => (d.1, s.lineOf d.1 w)) ++ (d.2.stuck ++ d.2.away).map fun e => (d.1, e.2.2)).flatten).filter
      fun e => decide (2 ^ 45 ≤ e.2)

/-- PEERERR (R331): a peer answers an access of a die with an error. -/
def execPeererr (die line : Nat) (s : State) : Host.Outcome State Fault Refusal :=
  .next (if s.peerTraffic.contains (die, line) then ((s.peerFail die line).failStuck die line).failAway die line else s)

/-- PORT_LINK_FAILURE (R331): no port reaches a destination from now on; the wait of 1 ms for another begins. -/
def execPortLinkFailure (dest : Nat) (s : State) : Host.Outcome State Fault Refusal :=
  .next { s with plat := { s.plat with
    failAt := Tab.put s.plat.failAt dest s.time
    deadPeers := if s.plat.deadPeers.contains dest then s.plat.deadPeers else s.plat.deadPeers ++ [dest] } }

/-- The accelerator ID that a line of a peer window names (spec/15_platform.md R330). -/
def State.destOf (s : State) (pl : Nat) : Option Nat :=
  if 2 ^ 45 ≤ pl then (Tab.get? s.plat.peertab ((pl - 2 ^ 45) * 128 / 2 ^ 42)).map (·.2) else none

/-- Where no port has reached a destination for 1 ms, its accesses are made fatal (R331). -/
def State.peerLate (s : State) (dest : Nat) : State :=
  match Tab.get? s.plat.failAt dest with
  | none => s
  | some t =>
    if s.time < t + 1000000 then s
    else (s.peerTraffic.filter fun m => s.destOf m.2 == some dest).foldl (fun s m => ((s.peerFail m.1 m.2).failStuck m.1 m.2).failAway m.1 m.2) s

/-- A port reaches a destination again: what waits for it goes on, unless its 1 ms is over (R331). -/
def State.peerUp (s : State) (dest : Nat) : State :=
  let s := s.peerLate dest
  let s : State := { s with plat := { s.plat with
    failAt := Tab.del s.plat.failAt dest, deadPeers := s.plat.deadPeers.filter (· != dest) } }
  s.dies.foldl (fun s d => s.pumpDie d.1) s

/-- PEER_LINK_TIMEOUT (R331): 1 ms has passed with no port that reaches the destination, and its accesses are made fatal. -/
def execPeerLinkTimeout (dest : Nat) (s : State) : Host.Outcome State Fault Refusal := .next (s.peerLate dest)

/-! ## Invalidation (R167) -/

/-- Whether a page or address space of an invalidation covers a tag. -/
def invCovers (i : Nat × Option Nat × Option (Nat × Nat)) (asid va : Nat) : Bool :=
  (i.2.1.elim true fun a => a == asid) && (i.2.2.elim true fun p => p.1 / 2 ^ p.2 == va57 va / 2 ^ p.2)

/-- Whether it covers a line key, or a fetch key. -/
def invLine (i : Nat × Option Nat × Option (Nat × Nat)) (k : Nat) : Bool := invCovers i (asidOfLine k) (k % 2 ^ 50 * 128)
def invFetch (i : Nat × Option Nat × Option (Nat × Nat)) (k : Nat) : Bool := invCovers i (k / 2 ^ 51) (k % 2 ^ 51 * 64)
def invTile (i : Nat × Option Nat × Option (Nat × Nat)) (t : Nat) : Bool := invCovers i (t / 2 ^ 45) (t % 2 ^ 45 * 4096)

/-- A TLB entry overlaps an invalidated range. -/
def invTlb (i : Nat × Option Nat × Option (Nat × Nat)) (e : TlbEnt) : Bool :=
  (i.2.1.elim true fun a => a == e.asid) &&
    i.2.2.elim true fun p => let n := max p.2 e.size; p.1 / 2 ^ n == e.va / 2 ^ n

/-- Lines under matching tags begin to leave: software-managed ones are written back and dropped by their dies, coherent
ones are taken back by their homes (R209, R211).  What a translation under an old entry has left in a TLB or with a tile goes
too (R167). -/
def State.sweep (s : State) (i : Nat × Option Nat × Option (Nat × Nat)) : State :=
  let s := { s with
    cores := Tab.mapVal s.cores fun _ c => { c with fbuf := c.fbuf.filter fun e => !invFetch i e.1
                                                    l1 := c.l1.filter fun e => !(e.2.attr.swm && invLine i e.1) } }
  let s := s.dies.foldl (fun s d =>
    (d.2.lines.filter fun l => l.2.swm && invLine i l.1).foldl (fun s l => (s.dropLine d.1 l.1 []).1) s) s
  let s := { s with dies := Tab.mapVal s.dies fun _ d => { d with
    tlb := d.tlb.filter fun e => !invTlb i e
    tiles := Tab.mapVal d.tiles fun t x => if invTile i t then { x with attr := none } else x } }
  let s := s.dies.foldl (fun s d => s.spoilFills d.1 fun f => invLine i f.key) s
  (s.dir.filter fun e => e.2.holders.any (fun a => decide (a < 4)) && invLine i e.2.key).foldl (fun s e =>
    (s.homeAsk e.1 .reclaim).serve e.1) s

/-- An invalidation begins: translations under its range leave every TLB and are kept with no tile, and the sweep starts.  While
BUSY is set an access may still use the entries removed (R167). -/
def State.invalidate (s : State) (i : Nat × Option Nat × Option (Nat × Nat)) : State :=
  let s := { s with
    trans := { s.trans with
      inval := s.trans.inval ++ [i]
      old := s.trans.old ++ (s.dies.map fun (d : Nat × Die) => (d.2.tlb.filter (invTlb i)).map fun e => (d.1, e)).flatten }
    dies := Tab.mapVal s.dies fun _ d => { d with
      tlb := d.tlb.filter fun e => !invTlb i e
      walked := d.walked.filter fun e => !invTlb i e
      tiles := Tab.mapVal d.tiles fun t x => if invTile i t then { x with attr := none } else x } }
  s.sweep i

/-- log2 of the page size that INVCMD.SIZE names (R163). -/
def invSize (code : Nat) : Nat :=
  match code with
  | 0 => 12
  | 1 => 16
  | 2 => 21
  | _ => 30

/-- The invalidation of one page: the one that INVVA holds (R163, R167). -/
def State.invalidatePage (s : State) (asid size : Nat) : State :=
  s.invalidate (1, some asid, some (va57 s.trans.invva, invSize size))

/-- INVVA holds a page's address (R163). -/
def State.setInvva (s : State) (va : Nat) : State := { s with trans := { s.trans with invva := bitsAt va 12 45 * 4096 } }

/-- INVCMD_PAGE (R167): INVVA is given the page's address, and INVCMD OP 1 acts on the page that INVVA holds. -/
def execInvcmdPage (asid va size : Nat) (s : State) : Host.Outcome State Fault Refusal :=
  .next (s.onBar fun s => (s.setInvva va).invalidatePage asid size)
/-- INVCMD_ASID (R167). -/
def execInvcmdAsid (asid : Nat) (s : State) : Host.Outcome State Fault Refusal :=
  .next (s.onBar fun s => s.invalidate (2, some asid, none))
/-- INVCMD_ALL (R167). -/
def execInvcmdAll (s : State) : Host.Outcome State Fault Refusal :=
  .next (s.onBar fun s => s.invalidate (3, none, none))

/-- A request of a home to merge masked bytes into host memory. -/
def HomeReq.merges (r : HomeReq) : Bool :=
  match r.op with
  | .merge .. => true
  | _ => false

/-- INVALIDATION_COMPLETE (R167): BUSY clears for the oldest invalidation when no line under its tags is left and no
access translated under a removed entry is outstanding, nor a merge of bytes written back to host memory (R211), and no TLB or
tile keeps what such an access found; else what has come back is swept again. -/
def execInvalidationComplete (s : State) : Host.Outcome State Fault Refusal :=
  match s.trans.inval with
  | [] => .next s
  | i :: rest =>
    let left := s.dies.any (fun d => d.2.lines.any (fun l => invLine i l.1) || d.2.outst.any (fun o => invLine i o.1) ||
        d.2.waits.any (fun w => w.tr.isSome && invLine i w.key) || d.2.wbuf.any fun w => invLine i w.key) ||
      s.dies.any (fun d => d.2.fills.any fun f => f.keep && invLine i f.key) ||
      s.dies.any (fun d => d.2.tlb.any (invTlb i) || d.2.tiles.any fun t => t.2.attr.isSome && invTile i t.1) ||
      s.cores.any (fun c => c.2.fbuf.any (fun e => invFetch i e.1) || c.2.l1.any fun e => invLine i e.1) ||
      s.dir.any fun e => e.2.cur.any (fun r => r.op == .reclaim) || (e.2.queue ++ e.2.cur.toList).any fun r => r.merges && invLine i r.key
    .next (if left then s.sweep i else { s with trans := { s.trans with inval := rest, old := s.trans.old.filter fun e => !invTlb i e.2 } })

end Sys2Proof.Machine
end

