-- ==== Sys2Proof/Machine/Place.lean ====
section
/-! DEFINITION. Cores and their resources: which blocks fit where, the placement of a block and the start of its teams,
and the end of a block (spec/03_execution.md R39 to R42, R53; spec/12_launch.md R264 to R267; spec/13_preemption.md R280). -/

namespace Sys2Proof.Machine

/-! ## Resources (R41) -/

/-- What a block holds of a core, or a reservation holds for one. -/
structure Hold where
  slots : List Nat
  bytes : Nat
  acc : Nat
  base : Nat
  len : Nat
  deriving DecidableEq, Repr

/-- What a block needs: its teams, register bytes and accumulator tiles together. -/
def Block.regBytes (b : Block) : Nat := b.width * b.vregs * 4 * b.teams

/-- The frame number beyond the pool under which the debug monitor of a cluster stands. -/
def monitorFrame (col : Nat) : Nat := 65536 + col

/-- What debugging reserves on core 7 of its cluster while the monitor does not stand there itself (R296). -/
def State.monitorHold (s : State) (core f : Nat) : List Hold :=
  let col := colOf core
  if core < 768 ∧ core % 8 = 7 ∧ (s.cluster col).dbg.en ∧ f ≠ monitorFrame col ∧ (s.block? (monitorFrame col)).isNone then
    [{ slots := [31], bytes := 4096, acc := 0, base := 0, len := 0 }]
  else []

/-- What the blocks resident on a core and the reservations made there hold, but those of one frame. -/
def State.held (s : State) (core f : Nat) : List Hold :=
  s.monitorHold core f ++
  (s.blocks.filterMap fun e =>
    if e.1 ≠ f ∧ e.2.core = core ∧ e.2.place ≠ .frozen then
      some { slots := e.2.slots, bytes := e.2.regBytes, acc := e.2.acc * e.2.teams, base := e.2.spbase, len := e.2.scratch }
    else none) ++
  s.blocks.filterMap fun e =>
    match e.2.migTarget with
    | some r => if e.1 ≠ f ∧ r.core = core then
        some { slots := r.slots, bytes := e.2.regBytes, acc := e.2.acc * e.2.teams, base := r.base, len := e.2.scratch } else none
    | none => none

/-- The lowest free range of a scratchpad that starts at a multiple of 128 (R41); windows are multiples of 128 long. -/
def freeRange (hs : List Hold) (n : Nat) : Option Nat :=
  if n = 0 then some 0
  else
    let starts := 0 :: hs.map fun h => h.base + h.len
    let ok := starts.filter fun b => decide (b + n ≤ 524288) && hs.all fun h => h.len == 0 || !overlaps b n h.base h.len
    match ok with
    | [] => none
    | b :: rest => some (rest.foldl min b)

/-- Where a block would stand on a core, if it fits (R41, R265): the lowest free slots and the lowest free range. -/
def State.fitOn (s : State) (core f : Nat) (b : Block) : Option Resv :=
  let hs := s.held core f
  if 768 ≤ core then (if hs.isEmpty then some { core, slots := [0], base := 0 } else none)
  else
    let used := (hs.map (·.slots)).flatten
    let slots := ((List.range 32).filter fun i => !used.contains i).take b.teams
    if slots.length = b.teams ∧ (hs.map (·.bytes)).sum + b.regBytes ≤ 786432 ∧ (hs.map (·.acc)).sum + b.acc * b.teams ≤ 16 ∧
        (hs.map (·.len)).sum + b.scratch ≤ 524288 then
      (freeRange hs b.scratch).map fun base => { core, slots, base }
    else none

/-- The clusters of a die in rotating order, after the one that was placed in last (R266). -/
def State.clusterOrder (s : State) (d : Nat) : List Nat :=
  let start := ((s.die d).lastCluster).elim 0 fun c => c + 1
  (List.range 24).map fun i => (start + i) % 24

/-- The first core of a die that a block fits, by the rotating order of clusters and the number of the core, among those
that a condition allows. -/
def State.placeOn (s : State) (d f : Nat) (b : Block) (ok : Nat → Bool) : Option Resv :=
  (s.clusterOrder d).findSome? fun c => (List.range 8).findSome? fun i =>
    let core := d * 192 + c * 8 + i
    if ok core then s.fitOn core f b else none

/-! ## Frames (R280) -/

/-- The lowest-numbered free frame of an enabled pool. -/
def State.freeFrame (s : State) : Option Nat :=
  if s.pool.en then firstBelow s.pool.frames 0 fun f => (s.block? f).isNone else none

/-! ## Start (R39, R42, R266) -/

/-- A team at its start (R39). -/
def Team.start (entry : Word64) (width : Nat) : Team := { exec := lanesBelow width, pc := entry }

/-- A gated cluster that a block is placed in is woken (R267). -/
def State.wake (s : State) (core : Nat) : State :=
  let c := s.cluster (colOf core)
  if c.gated then s.setCluster (colOf core) { c with gated := false, waking := true } else s

/-- A fault record's attachment that belongs to a frame's team. -/
def Att.ofFrame (f : Nat) : Att → Bool
  | .req r => frameOf r.ctx == f
  | .fetch ctx => frameOf ctx == f
  | _ => false

/-- Contexts of a frame leave the tables that a frame's next block must not find them in (R291), and the fault records. -/
def State.dropFrame (s : State) (f : Nat) : State :=
  let s := s.purge f
  { s with
    dies := Tab.mapVal s.dies fun _ d => { d with
      frecs := Tab.mapVal d.frecs fun _ r => { r with att := r.att.filter fun a => !a.ofFrame f }
      frwait := d.frwait.filter (fun w => !w.1.ofFrame f), away := d.away.filter fun e => frameOf e.1 != f }
    teams := s.teams.filter fun e => frameOf e.1 != f
    blocks := Tab.del s.blocks f }

/-- A core's fetch buffer without the lines of an ASID, as a block is placed (spec/04_encoding.md R94). -/
def Core.dropAsid (c : Core) (asid : Nat) : Core := { c with fbuf := c.fbuf.filter fun e => e.1 / 2 ^ 51 != asid }

/-- A block with its teams placed in a frame: they start together at an entry. -/
def State.startBlock (s : State) (f : Nat) (b : Block) (entry : Word64) : State :=
  let s := s.setBlock f b
  let c := s.core b.core
  let s := s.setCore b.core (c.dropAsid b.asid)
  let s := (ctxsOf f b).foldl (fun s c => s.setTeam c (Team.start entry b.width)) s
  let s := if b.monitor ∨ s.frameOk f then s.saveHeader f else s.terminateTeams f Cause.saveflt
  s.wake b.core

/-! ## The end of a block (R42, R250, R268, R280) -/

/-- An engine still reaches the window of a block (spec/10_matrix.md R228). -/
def State.windowInUse (s : State) (f : Nat) : Bool :=
  let wins := fun (l : List Win) => l.any fun w => w.frame == f
  s.copies.any (fun c => frameOf c.ctx != f && wins c.wins) ||
    s.cores.any (fun c => c.2.arrq.any (fun j => frameOf j.ctx != f && wins j.wins) || c.2.bankq.any fun e => e.frame == f) ||
    s.teams.any fun t => frameOf t.1 != f && t.2.inflight.any fun e =>
      (e.copy.elim false fun c => wins c.wins) || e.mma.elim false fun j => wins j.wins

/-- Whether a request is one of a frame's teams. -/
def Req.ofFrame (r : Req) (f : Nat) : Bool := !r.isProbe && frameOf r.ctx == f

/-- Whether an announcement, or a request, of a frame's teams is still under way at a die: one left behind by a freeze, a
migration or an end too (R51, R291, R293). -/
def Die.busyWith (x : Die) (f : Nat) : Bool :=
  x.anns.any (fun a => match a with
    | .req r => r.ofFrame f
    | .gjoin c _ _ _ => frameOf c == f
    | .gleave c _ => frameOf c == f
    | .gbar c _ => frameOf c == f) ||
    x.mouthq.any (·.ofFrame f) || x.tiles.any (fun t => t.2.held.any (·.ofFrame f)) || x.waits.any (·.req.ofFrame f) ||
    x.walks.any (·.req.ofFrame f)

/-- Everything of a block's teams is done: they have ended and left their gangs, their accesses are complete, nothing that they
have sent is under way, and no fault of theirs is still to set an object's flag (R244); the accesses of a terminated frozen block
are discarded (R289). -/
def State.blockDone (s : State) (f : Nat) (b : Block) : Bool :=
  (ctxsOf f b).all (fun c =>
    let t := s.team c
    decide (t.sched = .exited) && (b.place == .frozen || (t.inflight.isEmpty && t.lsq.isEmpty)) && t.fatal.isEmpty && t.gangs == 0) &&
      !s.windowInUse f && s.dies.all fun d => !d.2.busyWith f

/-- The words of a HELD or BLOCKEND record (R249). -/
def blockRecord (b : Block) (kind : Nat) : EvRec :=
  let slot := b.slots[0]?.getD 0
  let core := b.core % 8
  { w0 := BitVec.ofNat 64 (place b.asid 48 16 + (if b.ctrl then 2 ^ 15 else place slot 19 5 + place core 16 3) + place kind 0 8)
    w1 := BitVec.ofNat 64 (if b.ctrl then 0 else core * 32 + slot) }

/-- With the last context of an address space gone, its pinned tiles leave every die (spec/06_well.md R135). -/
def State.dropPins (s : State) (asid : Nat) : State :=
  if s.blocks.any fun e => e.2.asid == asid then s
  else
    s.dies.foldl (fun s d =>
      (d.2.tiles.filter fun t => t.2.pinned && t.1 / 2 ^ 45 == asid).foldl (fun s t =>
        (((s.dropLines d.1 t.1 []).1).forgetTile d.1 t.1)) s) s

/-- A queue that may have become idle starts its idle time (R259). -/
def Queue.toPlace (q : Queue) : Bool :=
  decide (q.nread < q.tail) || q.launches.any fun l => l.refused == 0 && decide (l.placed < l.pkt.blocks)

/-- BLOCK_END (R42): a block whose teams have ended and whose accesses are complete ends.  Its BLOCKEND record enters
first, when there is room; then its contexts are purged and its frame and resources are free. -/
def execBlockEnd (frame : Nat) (s : State) : Host.Outcome State Fault Refusal :=
  match s.block? frame with
  | none => .next s
  | some b =>
    let x := s.cluster (colOf b.core)
    if !s.blockDone frame b then .next s
    else if b.event && (decide (256 ≤ x.evq.length) || !x.evwait.isEmpty) then .next s
    else
      let r := blockRecord b 5
      let s := if b.event then s.enterEvent (colOf b.core) r.w0 r.w1 else s
      let s := (s.onLaunch b fun l => l.blockEnds s.time).noteEnd (dieOf b.core) b.queue?
      let s := if b.migTarget.isSome then s.withdrawn (colOf b.core) else s
      let s := s.saveState frame 0
      .next ((s.dropFrame frame).dropPins b.asid)

/-! ## Termination by the host (R289) -/

/-- A stopped team's entries discarded unperformed: nothing of it is performed again. -/
def State.discard (s : State) (ctx : Nat) : State :=
  let t := s.team ctx
  s.setTeam ctx { t with inflight := [], lsq := [], ldcnt := 0, stcnt := 0, cpcnt := 0, pend := [], fences := [] }

/-- A block's teams ended with a cause of kind X; what stopped ones have in their records is discarded, all of a frozen block's,
and in a freezing block those of the teams already captured (R280, R289). -/
def State.terminate (s : State) (f : Nat) (c : Cause) : State :=
  match s.block? f with
  | none => s
  | some b =>
    let stopped := (ctxsOf f b).filter fun ctx => b.place == .frozen || (s.team ctx).sched == .frozen
    let s := s.terminateTeams f c
    let s := { s with dies := Tab.mapVal s.dies fun _ d => { d with resumeq := d.resumeq.filter (· != f) } }
    stopped.foldl (fun s ctx => s.discard ctx) s

end Sys2Proof.Machine
end

