-- ==== Sys2Proof/Machine/Context.lean ====
section
/-! DEFINITION. CTXRD and CTXWR: the elements of a frozen team's context in its frame (spec/13_preemption.md R295;
spec/16_ref_bany_dloop.md R363 to R368). -/

namespace Sys2Proof.Machine

/-! ## The target (R363, R365) -/

/-- The context that the handle form names: the team that holds the slot, else the frozen team that held it when its
block froze last; a team that has ended is none (R43). -/
def State.byHandle (s : State) (col h : Nat) : Option Nat :=
  let core := col * 8 + h / 32
  let at' := s.blocks.filterMap fun e =>
    if e.2.core ≠ core then none else (e.2.slots.findIdx? fun x => x == h % 32).map fun ix => (e.1 * 32 + ix, e.2)
  match at'.find? fun e => e.2.place != .frozen with
  | some e => some e.1
  | none =>
    match at'.filter fun e => !(s.team e.1).gone with
    | [] => none
    | e :: rest => some ((rest.foldl (fun (a : Nat × Block) x => if a.2.frozenAt ≤ x.2.frozenAt then x else a) e).1)

/-- The context that the frame form names. -/
def State.byFrame (s : State) (col f ix : Nat) : Option Nat :=
  match s.block? f with
  | none => none
  | some b => if colOf b.core = col ∧ ix < b.teams then some (f * 32 + ix) else none

/-- The target of a context instruction. -/
def State.ctxTarget (s : State) (ctx : Nat) (h : Word64) : Option Nat :=
  let n := h.toNat
  if h.getLsbD 63 then s.byFrame (s.colOfCtx ctx) (bitsAt n 16 16) (bitsAt n 0 5) else s.byHandle (s.colOfCtx ctx) (n % 256)

/-- Whether a team may reach a target of its cluster: of its own address space, or any for the debug monitor (R295). -/
def State.mayReach (s : State) (ctx target : Nat) : Bool :=
  (s.blockOf? ctx).elim false (·.monitor) || s.asidOf ctx == s.asidOf target

/-! ## Elements (R364) -/

/-- The words of an element. -/
def elemWords (e : Nat) : Nat :=
  if e < 768 then 32 else if e < 832 then 2 else if e < 848 then 1 else if e < 864 then 32 else 2

/-- Whether an element and index exist for a target. -/
def elemExists (b : Block) (e i : Nat) : Bool :=
  if e < 768 then decide (e < b.vregs) && decide (i < max b.width 32) && i % 32 == 0
  else if e < 832 then i == 0
  else if e < 848 then decide (i < max 1 (b.width / 32))
  else if e < 864 then decide (e - 848 < b.acc) && decide (i < 32)
  else if e = 866 then decide (i ≤ 1024)
  else decide (e ≤ 868) && i == 0

/-- Where an element's words lie in the frame, and how many of them the frame holds. -/
def elemPlace (b : Block) (ix e i : Nat) : Nat × Nat :=
  let a := stateArea ix
  if e < 768 then (vregArea b ix e + 4 * i, min 32 b.width)
  else if e < 832 then (a + 0x40 + 8 * (e - 768), 2)
  else if e = 832 then (a + 0xA40 + 4 * i, 1)
  else if e < 848 then (a + 0xAC0 + 128 * (e - 833) + 4 * i, 1)
  else if e < 864 then (tileArea b ix (e - 848) + 128 * i, 32)
  else if e = 864 then (a, 2)
  else if e = 865 then (a + 8, 2)
  else if e = 866 then (if i = 0 then a + 0x20 else a + 0x1240 + 8 * (i - 1), 2)
  else (a + 0x10, 2)

/-- The words of an element as the frame holds them; a word that it lacks reads zero (R364, R366). -/
def State.elemRead (s : State) (target : Nat) (b : Block) (e i : Nat) : List Word32 :=
  let f := frameOf target
  let ix := teamIx target
  let words := if e = 868 then
      let a := s.frameVA f (recordArea ix)
      [BitVec.ofNat 32 a, BitVec.ofNat 32 (a / 2 ^ 32)]
    else
      let p := elemPlace b ix e i
      (chunks 4 p.2 (s.getFrame f p.1 (4 * p.2))).map (BitVec.ofNat 32)
  words ++ List.replicate (elemWords e - words.length) 0

/-- A value that CTXWR writes, with the bits that the element does not take cleared (R367). -/
def elemValue (b : Block) (e i x : Nat) : Nat :=
  if 832 ≤ e ∧ e < 848 then maskWord (BitVec.ofNat 1024 (x * 2 ^ (32 * i)) &&& lanesBelow b.width) i
  else if e = 866 then
    (if i = 0 then
      let d := bitsAt x 32 6
      d * 2 ^ 32 + x % 2 ^ d
    else
      let w := (i - 1) % 16
      (BitVec.ofNat 1024 (x * 2 ^ (64 * w)) &&& lanesBelow b.width).toNat / 2 ^ (64 * w))
  else x

/-- An element written into the frame (R367). -/
def State.elemWrite (s : State) (target : Nat) (b : Block) (e i : Nat) (ws : List Word32) : State :=
  let f := frameOf target
  let ix := teamIx target
  if e < 768 then
    ((ws.take b.width).zipIdx).foldl (fun s w => s.saveCell target (.v e (i + w.2)) (w.1.setWidth 1024)) s
  else if e = 768 then s
  else
    let x := elemValue b e i (ws.foldr (fun w acc => w.toNat + 2 ^ 32 * acc) 0)
    s.putFrame f [((elemPlace b ix e i).1, toBytes (4 * elemWords e) x)]

/-! ## The instructions -/

/-- Lane and register of word `w` in the issuer's data registers (R364). -/
def wordCell (width vr w : Nat) : Nat × Nat := (vr + w / rowLanes width, w % rowLanes width)

/-- The checks of R365 in order, with the target and its block when they pass. -/
def State.ctxCheck (s : State) (ctx : Nat) (f : YF) (wr : Bool) : Except Cause (Nat × Block) :=
  let t := s.team ctx
  let e := bitsAt (t.sreg f.sb.toNat).toNat 0 10
  let i := bitsAt (t.sreg f.sb.toNat).toNat 16 11
  match s.ctxTarget ctx (t.sreg f.sa.toNat) with
  | none => .error Cause.badctx
  | some target =>
    match s.blockOf? target with
    | none => .error Cause.badctx
    | some b =>
      let n := elemWords e
      let regs := (n + rowLanes (s.widthOf ctx) - 1) / rowLanes (s.widthOf ctx)
      let ws := (List.range n).map fun w => t.vreg (wordCell (s.widthOf ctx) (yVr f) w).1 (wordCell (s.widthOf ctx) (yVr f) w).2
      let x := ws.foldr (fun w acc => w.toNat + 2 ^ 32 * acc) 0
      if !elemExists b e i then .error Cause.badctx
      else if b.place ≠ .frozen ∨ (s.team target).sched ≠ .frozen ∨ (s.team target).gone then .error Cause.badctx
      else if !s.mayReach ctx target then .error Cause.badctx
      else if wr ∧ (e = 867 ∨ e = 868) then .error Cause.badctx
      else if (s.blockOf? ctx).elim 0 (·.vregs) < yVr f + regs then .error Cause.badctx
      else if wr ∧ e = 865 ∧ badMode (BitVec.ofNat 64 x) then .error Cause.rsvfld
      else if wr ∧ e = 866 ∧ i = 0 ∧ 32 < bitsAt x 32 6 then .error Cause.badctx
      else .ok (target, b)

/-- CTXRD (R366): the element's words go to the active lanes of the data registers; a stop of the team does not wait for
them (R368). -/
def execCtxrd (f : YF) (s : State) : Host.Outcome State Fault Refusal :=
  s.atIssue (.ctxrd f) fun ctx =>
    match s.ctxCheck ctx f false with
    | .error c => .trap c 0
    | .ok (target, b) =>
      let t := s.team ctx
      let x := (t.sreg f.sb.toNat).toNat
      let ws := s.elemRead target b (bitsAt x 0 10) (bitsAt x 16 11)
      let cells := ws.zipIdx.map fun w => (wordCell (s.widthOf ctx) (yVr f) w.2, w.1)
      let t := t.postAll s.uid ((cells.filter fun c => t.exec.getLsbD c.1.2).map fun c => (.v c.1.1 c.1.2, some (c.2.setWidth 1024)))
      .done (s.setTeam ctx { t with pend := t.pend.map fun r => if r.uid = s.uid then { r with late := true } else r }).bumpUid

/-- CTXWR (R367): the words are read whatever the mask and written into the frame. -/
def execCtxwr (f : YF) (s : State) : Host.Outcome State Fault Refusal :=
  s.atIssue (.ctxwr f) fun ctx =>
    match s.ctxCheck ctx f true with
    | .error c => .trap c 0
    | .ok (target, b) =>
      let t := s.team ctx
      let x := (t.sreg f.sb.toNat).toNat
      let e := bitsAt x 0 10
      let ws := (List.range (elemWords e)).map fun w =>
        t.vreg (wordCell (s.widthOf ctx) (yVr f) w).1 (wordCell (s.widthOf ctx) (yVr f) w).2
      .done (s.elemWrite target b e (bitsAt x 16 11) ws)

end Sys2Proof.Machine
end

