-- ==== Sys2Proof/Machine/Freeze.lean ====
section
/-! DEFINITION. The freeze commands, the window image, and resuming: placement, restoration and replay of a frozen block,
and migration (spec/13_preemption.md R286 to R294, R445; spec/14_power.md R309 to R311, R319, R321). -/

namespace Sys2Proof.Machine

/-! ## Replay of a team's entries (R292) -/

/-- An item as a replay names it: a request under a fresh identity and from the team's core, which may be sent twice. -/
def LsItem.renew (i : LsItem) (uid core : Nat) : LsItem :=
  match i.work with
  | .glob r => { i with work := .glob { r with uid, core, replay := false, resent := true } }
  | _ => i

/-- What is left of an item: the pieces that a replay sends again.  It is no replay of a faulted access: REPEAT stays clear if
it faults (DESIGN CHOICE, log entry 91). -/
def LsItem.again (i : LsItem) (keep : Piece → Bool) : LsItem :=
  match i.work with
  | .glob r => { i with work := .glob { r with pieces := r.pieces.filter keep } }
  | .win op ps => { i with work := .win op (ps.filter keep) }
  | _ => i

/-- Whether an item still has something to send. -/
def LsItem.live (i : LsItem) : Bool :=
  match i.work with
  | .glob r => !r.pieces.isEmpty || r.op == .wclean || r.op == .wevict || r.op == .cflush
  | .win _ ps => !ps.isEmpty
  | _ => true

/-- The lanes whose results an entry still owes. -/
def Team.owedLanes (t : Team) (e : Entry) : List Nat := (t.pend.filter fun r => r.uid == e.resUid).map fun r => r.cell.lane.getD 0

/-- An entry made ready for its replay: a load performs again the lanes left in its mask image, its other accesses standing
as performed; the other kinds perform what they have not yet. -/
def Team.replayEntry (t : Team) (e : Entry) : Entry :=
  let e := { e with fault := false, slog := false }
  if e.kind = 1 then
    let owed := fun (p : Piece) => (t.owedLanes e).contains p.lane
    { e with perf := (e.pieces.filter fun p => !owed p).map (·.id), got := [], left := (e.pieces.filter owed).length }
  else e

/-- Whether a piece of an entry is sent again. -/
def Team.resends (t : Team) (e : Entry) (p : Piece) : Bool :=
  if e.kind = 1 then (t.owedLanes e).contains p.lane else !e.perf.contains p.id

/-- Entries in record order with fresh identities for their requests, from `uid` on. -/
def renewAll (uid core : Nat) : List Entry → List Entry
  | [] => []
  | e :: es => { e with works := e.works.zipIdx.map fun w => w.1.renew (uid + w.2) core } :: renewAll (uid + e.works.length) core es

/-- The items of a list of entries that are sent again, in record order. -/
def Team.replayItems (t : Team) (es : List Entry) : List LsItem :=
  (es.map fun e => if e.left = 0 then [] else (e.works.map fun i => i.again (t.resends e)).filter (·.live)).flatten

/-- A copy given back to its engine: every byte is copied again, and the first COUNTED bytes count nothing.  Its record's
BYTES never falls below what it has written (R249, R292). -/
def Copy.again (c : Copy) : Copy :=
  { c with idx := 0, ahead := [], early := [], before := max c.before c.bytes, bytes := 0, skip := c.counted, held := false
           kept := false, landed := false, rep := false }

/-- An MMA given back to its array. -/
def MmaJob.again (j : MmaJob) : MmaJob := { j with started := false, held := false, rep := false, early := [] }

/-- Entries that are DONE leave, and their counters fall (R292). -/
def Team.dropDone (t : Team) : Team := (t.inflight.filter (·.done)).foldl (fun t e => t.fall e true) t

/-- The results that the first issue of a resumed team waits for: those of instructions without an entry (R287). -/
def Team.orphans (t : Team) : List Nat :=
  (t.pend.filter fun r => r.val.isNone && t.inflight.all fun e => e.resUid != r.uid && e.uid != r.uid).map (·.uid)

/-- The scheduling state in which a stopped team goes on: a fault hold ends, since its fetch is made afresh, and a marker
passed before it parks the team. -/
def Team.goesOn (t : Team) : Sched :=
  match t.saved with
  | .waiting .fetchHold => if t.waitWord.getLsbD 87 then .parked else .ready
  | w => w

/-- A wait that is met already ends (R292). -/
def State.recheck (s : State) (ctx : Nat) : State :=
  match (s.team ctx).sched with
  | .waiting .events => if (s.cluster (s.colOfCtx ctx)).evq.isEmpty then s else s.endWait ctx false
  | _ => s.wakeCounters ctx

/-- A stopped team goes on where it stood, with its entries replayed in record order (R292).  Its MMAs and drains join those of the
core at once, past eight and past four if need be (DESIGN CHOICE, log entry 112). -/
def State.resumeTeam (s : State) (ctx : Nat) : State :=
  let t := s.team ctx
  if t.sched ≠ .frozen then s
  else
    let core := s.coreOf ctx
    let t := t.dropDone
    let es := renewAll s.uid core (t.inflight.map t.replayEntry)
    let uid := s.uid + (es.map fun e => e.works.length).sum
    let copies := es.filterMap fun e => e.copy.map (·.again)
    let jobs := es.filterMap fun e => e.mma.map (·.again)
    let t := { t with
      sched := t.goesOn, saved := .ready, live := 768, fresh := true, resumeHold := t.orphans
      inflight := es.map fun (e : Entry) => ({ e with copy := none, mma := none } : Entry)
      lsq := t.replayItems es ++ t.lsq.map fun (i : LsItem) => i.renew i.uid core }
    let t := { t with lsq := t.lsq ++ t.reexam uid }
    let s : State := { s.setTeam ctx t.settle with uid := uid + 1, copies := s.copies ++ copies }
    let c := s.core core
    (s.setCore core { c with arrq := c.arrq ++ jobs }).recheck ctx

/-! ## Where a block resumes (R53, R292) -/

/-- Less than 20 ms have passed since a moment (spec/14_power.md R309, R310). -/
def recent (at' : Option Nat) (time : Nat) : Bool := at'.elim false fun t => decide (time < t + 20000000)

/-- A team that was released from a GBAR while frozen goes on at a barrier boundary (spec/11_completion.md R247). -/
def State.meetBarrier (s : State) (ctx : Nat) : State :=
  let t := s.team ctx
  if t.atBarrier ∧ t.sched ≠ .frozen then (s.setTeam ctx { t with atBarrier := false }).boundary ctx true else s

/-- Stopped teams of a block go on where they stood, all of them or, for a single step, the stepped one. -/
def State.resumeTeams (s : State) (f : Nat) (b : Block) : State :=
  let s := (ctxsOf f b).foldl (fun s c => if b.stepping.elim true (· == teamIx c) then s.resumeTeam c else s) s
  (ctxsOf f b).foldl (fun s c => s.meetBarrier c) s

/-- The gangs that a block's teams belong to. -/
def State.gangsOf (s : State) (f : Nat) (b : Block) : List Nat :=
  gangList ((ctxsOf f b).foldl (fun g c => g ||| (s.team c).gangs) 0)

/-- Whether a block may stand in a cluster: its own, or one where the numbers of its gangs are free, none of them having a
member outside the block (R53). -/
def State.gangsMay (s : State) (f : Nat) (b : Block) (col : Nat) : Bool :=
  colOf b.core == col || (s.gangsOf f b).all fun g =>
    ((Tab.get? (s.cluster (colOf b.core)).gangs g).elim true fun x => x.members.all fun m => frameOf m == f) &&
      (Tab.get? (s.cluster col).gangs g).isNone

/-- The gangs of a block moved to another cluster with their numbers. -/
def State.moveGangs (s : State) (f : Nat) (b : Block) (col : Nat) : State :=
  let old := colOf b.core
  if old = col then s
  else (s.gangsOf f b).foldl (fun s g =>
    match Tab.get? (s.cluster old).gangs g with
    | none => s
    | some x =>
      let a := s.cluster old
      let s := s.setCluster old { a with gangs := Tab.del a.gangs g }
      s.setGang col g x) s

/-- The core that a due resume takes: the one that it left if it fits there, else another of the die; a control team's
own control core. -/
def State.resumeSpot (s : State) (f : Nat) (b : Block) : Option Resv :=
  match s.fitOn b.core f b with
  | some r => some r
  | none => if b.ctrl then none else s.placeOn (dieOf b.core) f b fun core => s.gangsMay f b (colOf core)

/-- A resume falls due and waits for its place (R292). -/
def State.due (s : State) (f : Nat) : State :=
  match s.block? f with
  | none => s
  | some b =>
    let d := dieOf b.core
    let x := s.die d
    if b.place ≠ .frozen ∨ x.resumeq.contains f then s else s.setDie d { x with resumeq := x.resumeq ++ [f] }

/-- Whether a block's class is being shed (R319). -/
def State.isShed (s : State) (b : Block) : Bool := s.power.shed.getLsbD b.clsEff && !b.ctrl && !b.monitor

/-- A frozen block restored on a core: its window and its teams as its frame holds them, all of them or, for a single
step, the stepped one running (R292, R296).  As at a placement, its core's fetch buffer keeps no line of its ASID (R94).  Its
teams resume at saved PCs (R64); one that was frozen at an entry slot that it had not issued from still has R39's check before it,
unless its PC has been written (DEDUCED, log entry 108). -/
def State.restore (s : State) (f : Nat) (b : Block) (r : Resv) : State :=
  let s := s.moveGangs f b (colOf r.core)
  let bytes := match b.window with
    | some w => s.windowRead f b w 0 b.scratch
    | none => []
  let b' := { b with
    core := r.core, slots := r.slots, spbase := r.base, window := none, imaged := false, migTarget := none, resumeAsked := false
    deadlineLeft := b.deadline, heldAt := false
    place := if b.stepping.isSome then .freezing else if b.heldAt then .held else .running
    freeze := if b.stepping.isSome then some .debug else none, forced := false, hit := false }
  let s := s.setBlock f b'
  let c := s.core r.core
  let s := s.setCore r.core { (c.dropAsid b.asid) with sp := c.sp.writeN r.base bytes }
  let s := (List.range b.teams).foldl (fun s ix =>
    let ctx := f * 32 + ix
    let t := s.team ctx
    if t.sched = .exited then s
    else
      let t' := s.loadTeam f b ix t
      s.setTeam ctx { t' with entryTgt := t.entryTgt && t'.pc == t.pc }) s
  let s := s.saveState f b'.place.code
  let s := s.resumeTeams f b
  let s := s.wake r.core
  if b.stepping.isNone ∧ s.isShed b' then s.requestFreeze f .shedding else s

/-- RESUME_PLACE (R292): the oldest due resume of a die takes its place, once its window image is written. -/
def execResumePlace (die : Nat) (s : State) : Host.Outcome State Fault Refusal :=
  let x := s.die die
  match x.resumeq with
  | [] => .next s
  | f :: rest =>
    match s.block? f with
    | none => .next (s.setDie die { x with resumeq := rest })
    | some b =>
      if b.place ≠ .frozen then .next (s.setDie die { x with resumeq := rest })
      else if !b.imaged then .next s
      else if !s.frameOk f then .next (s.terminate f Cause.saveflt)
      else match s.resumeSpot f b with
        | none => .next s
        | some r => .next ((s.setDie die { x with resumeq := rest }).restore f b r)

/-- WINDOW_IMAGE_WRITTEN (R288): a sealed window's copy is written into its frame, which the waiting accesses reach from
now on. -/
def execWindowImageWritten (frame : Nat) (s : State) : Host.Outcome State Fault Refusal :=
  match s.block? frame with
  | none => .next s
  | some b =>
    match b.window with
    | none => .next s
    | some w =>
      if b.imaged then .next s
      else if !s.frameOk frame then .next (s.terminate frame Cause.saveflt)
      else .next ((s.saveWindow frame b w).setBlock frame { b with window := some [], imaged := true })

/-! ## The host's commands (R280, R286, R289, R321) -/

/-- Blocks of a queue, ascending by frame. -/
def State.blocksOf (s : State) (q : Nat) : List Nat := (s.blocks.filter fun e => e.2.queue == q && !e.2.monitor).map (·.1)

/-- A host freeze of one block. -/
def State.hostFreeze (s : State) (f : Nat) : State :=
  match s.block? f with
  | none => s
  | some b => if b.monitor then s else s.requestFreeze f .host

/-- A host resume of one block: only a block that the host froze; one whose class is shed waits for the class (R321). -/
def State.hostResume (s : State) (f : Nat) : State :=
  match s.block? f with
  | none => s
  | some b =>
    if b.place ≠ .frozen ∨ (b.cause ≠ Cause.hostfrz ∧ b.cause ≠ Cause.forced) then s
    else if s.isShed b then s.setBlock f { b with resumeAsked := true }
    else s.due f

/-- FRZCMD_FREEZE_BLOCK (R286). -/
def execFrzcmdFreezeBlock (frame : Nat) (s : State) : Host.Outcome State Fault Refusal :=
  .next (s.onBar fun s => s.hostFreeze frame)
/-- FRZCMD_RESUME_BLOCK (R292). -/
def execFrzcmdResumeBlock (frame : Nat) (s : State) : Host.Outcome State Fault Refusal :=
  .next (s.onBar fun s => s.hostResume frame)
/-- FRZCMD_TERMINATE_BLOCK (R289). -/
def execFrzcmdTerminateBlock (frame : Nat) (s : State) : Host.Outcome State Fault Refusal :=
  .next (s.onBar fun s => if (s.block? frame).elim true (·.monitor) then s else s.terminate frame Cause.hostkill)
/-- FRZCMD_FREEZE_QUEUE (R286). -/
def execFrzcmdFreezeQueue (queue : Nat) (s : State) : Host.Outcome State Fault Refusal :=
  .next (s.onBar fun s => (s.blocksOf queue).foldl (fun s f => s.hostFreeze f) s)
/-- FRZCMD_RESUME_QUEUE (R292). -/
def execFrzcmdResumeQueue (queue : Nat) (s : State) : Host.Outcome State Fault Refusal :=
  .next (s.onBar fun s => (s.blocksOf queue).foldl (fun s f => s.hostResume f) s)

/-- DEADLINE_EXPIRY (R286): the cycles of a host freeze are over, and every team not yet stopped stops at its next
instruction boundary. -/
def execDeadlineExpiry (frame : Nat) (s : State) : Host.Outcome State Fault Refusal :=
  match s.block? frame with
  | none => .next s
  | some b =>
    if b.place = .freezing ∧ b.freeze = some .host ∧ b.deadlineLeft = 0 ∧ !b.forced then
      .next ((s.setBlock frame { b with forced := true }).stopDue frame)
    else .next s

/-! ## Migration (R294, R310, R311) -/

/-- Whether a block may still resume on its migration's target: the target has given up no block meanwhile (R310), and the
block's gangs may stand there (R53). -/
def State.mayLand (s : State) (f : Nat) (b : Block) (r : Resv) : Bool :=
  !recent (s.core r.core).gaveUp s.time && s.gangsMay f b (colOf r.core)

/-- MIGRATION_TRANSFER_COMPLETE (R294): the frame's contents have reached the target, and the block resumes there.  The
20 ms of the block and of the core that it leaves begin (R310).  Where the target may no longer take the block, the
reservation is released and the block's resume is due on its die (log entry 84). -/
def execMigrationTransferComplete (frame : Nat) (s : State) : Host.Outcome State Fault Refusal :=
  match s.block? frame with
  | none => .next s
  | some b =>
    match b.migTarget with
    | none => .next s
    | some r =>
      if b.place ≠ .frozen ∨ b.cause ≠ Cause.migrated then .next s
      else if !s.frameOk frame then .next (s.terminate frame Cause.saveflt)
      else if !s.mayLand frame b r then
        .next (((s.setBlock frame { b with migTarget := none }).withdrawn (colOf b.core)).due frame)
      else
        let c := s.core b.core
        let s := s.setCore b.core { c with gaveUp := some s.time, relieved := c.hot }
        .next (s.restore frame { b with migAt := some s.time } r)

/-- Nanoseconds that a migration may take to reach its freeze (R308, R322). -/
def Power.migNs (p : Power) : Nat := (max 1 p.migwait.toNat) * 100000

/-- MIGWAIT_EXPIRY (R310): a migration not frozen in time is withdrawn, and the column steps down (R311). -/
def execMigwaitExpiry (frame : Nat) (s : State) : Host.Outcome State Fault Refusal :=
  match s.block? frame with
  | none => .next s
  | some b =>
    if b.place = .freezing ∧ b.freeze = some .migration ∧ b.freezeAt + s.power.migNs ≤ s.time then
      let s := s.setBlock frame { b with place := .running, freeze := none, migTarget := none }
      .next (((s.saveState frame 1).withdrawn (colOf b.core)).resumeTeams frame b)
    else .next s

/-- SHED_FORCE_TIMEOUT (R319): 1.5 ms after a shed request, its teams stop at any instruction boundary. -/
def execShedForceTimeout (frame : Nat) (s : State) : Host.Outcome State Fault Refusal :=
  match s.block? frame with
  | none => .next s
  | some b =>
    if b.place = .freezing ∧ b.freeze = some .shedding ∧ b.freezeAt + 1500000 ≤ s.time ∧ !b.forced then
      .next ((s.setBlock frame { b with forced := true }).stopDue frame)
    else .next s

end Sys2Proof.Machine
end

