-- ==== Sys2Proof/Machine/Debug.lean ====
section
/-! DEFINITION. The debug monitor and the debug registers' commands (spec/13_preemption.md R296, R297). -/

namespace Sys2Proof.Machine

/-- The debug registers of a cluster changed. -/
def State.setDbg (s : State) (col : Nat) (f : Dbg → Dbg) : State :=
  let c := s.cluster col
  s.setCluster col { c with dbg := f c.dbg }

/-- The monitor's block: a team of width 16 with 64 v-registers in slot 31 of core 7 (R296). -/
def monitorBlock (col asid : Nat) : Block :=
  { asid, queue := 0, seq := 0, index := 0, teams := 1, width := 16, span := 16, vregs := 64, acc := 0, scratch := 0, spbase := 0
    core := col * 8 + 7, lcore := col * 8 + 7, slots := [31], cls := 0, clsEff := 0, deadline := 0, deadlineLeft := 0
    params := 0, handler := 0, monitor := true }

/-- Whether the monitor's slot and register bytes are free. -/
def State.monitorFits (s : State) (col : Nat) : Bool :=
  let hs := s.held (col * 8 + 7) (monitorFrame col)
  !((hs.map (·.slots)).flatten.contains 31) && decide ((hs.map (·.bytes)).sum + 4096 ≤ 786432) &&
    (s.block? (monitorFrame col)).isNone

/-- The monitor starts in handler mode, at once or when its reservation falls free. -/
def State.startMonitor (s : State) (col : Nat) : State :=
  let d := (s.cluster col).dbg
  if d.en ∧ !d.started ∧ s.monitorFits col then
    let f := monitorFrame col
    let s := (s.setDbg col fun d => { d with started := true }).startBlock f (monitorBlock col d.asid) d.entry
    s.setTeam (f * 32) { s.team (f * 32) with handler := true }
  else s

/-- The monitor's team ends (R296). -/
def State.stopMonitor (s : State) (col : Nat) : State :=
  let ctx := monitorFrame col * 32
  let s := s.setDbg col fun d => { d with started := false }
  if (Tab.get? s.teams ctx).isNone ∨ (s.team ctx).sched = .exited then s else s.endTeam ctx Cause.none 0

/-- A command on the debug registers of a cluster that is there (R296; spec/15_platform.md R328). -/
def State.onDebug (s : State) (col : Nat) (f : State → State) : State := if 96 ≤ col then s else s.onBar f

/-- EN and DBGASID written: setting EN starts the monitor, clearing it ends it (R296). -/
def State.writeDbgEn (s : State) (col : Nat) (val : Word64) : State :=
  let s := s.setDbg col fun d => { d with en := val.getLsbD 63, asid := bitsAt val.toNat 0 16 }
  if val.getLsbD 63 then s.startMonitor col else s.stopMonitor col

/-- DBG_ENABLE (R296). -/
def execDbgEnable (col : Nat) (val : Word64) (s : State) : Host.Outcome State Fault Refusal :=
  .next (s.onDebug col fun s => s.writeDbgEn col val)

/-- The block that a handle names, with the team's index; the monitor names no target of its own. -/
def State.dbgTarget (s : State) (col handle : Nat) : Option (Nat × Block × Nat) :=
  if !(s.cluster col).dbg.en then none
  else match s.byHandle col (handle % 256) with
    | none => none
    | some ctx => match s.blockOf? ctx with
      | none => none
      | some b => if b.monitor then none else some (frameOf ctx, b, teamIx ctx)

/-- Whether the monitor has stopped a block, and no resume of it is due. -/
def State.dbgStopped (s : State) (f : Nat) (b : Block) : Bool :=
  b.place == .frozen && (b.cause == Cause.dbgstop || b.cause == Cause.dbgstep) && s.dies.all fun d => !d.2.resumeq.contains f

/-- DBGRUN_STOP (R296). -/
def execDbgrunStop (col handle : Nat) (s : State) : Host.Outcome State Fault Refusal :=
  .next (s.onDebug col fun s => (s.dbgTarget col handle).elim s fun t => s.requestFreeze t.1 .debug)

/-- DBGRUN_STEP (R296): the block takes its place again, and only the named team issues, one instruction or pair.  A step of a
block that was still held when it was stopped does nothing (DESIGN CHOICE, log entry 113). -/
def execDbgrunStep (col handle : Nat) (s : State) : Host.Outcome State Fault Refusal :=
  .next (s.onDebug col fun s => match s.dbgTarget col handle with
    | none => s
    | some (f, b, ix) =>
      let t := s.team (f * 32 + ix)
      if s.dbgStopped f b ∧ !b.heldAt ∧ t.sched = .frozen ∧ !t.gone then
        (s.setBlock f { b with stepping := some ix, stepped := false }).due f
      else s)

/-- DBGRUN_RESUME (R296). -/
def execDbgrunResume (col handle : Nat) (s : State) : Host.Outcome State Fault Refusal :=
  .next (s.onDebug col fun s => (s.dbgTarget col handle).elim s fun t => if s.dbgStopped t.1 t.2.1 then s.due t.1 else s)

/-- RSPSEQ_WRITE (R296): the monitor's response count is written, and MSI-X vector 2 fires. -/
def execRspseqWrite (col : Nat) (val : Word64) (s : State) : Host.Outcome State Fault Refusal :=
  .next (s.onDebug col fun s => (s.setDbg col fun d => { d with rspseq := val }).emit (.msix 2))

end Sys2Proof.Machine
end

