-- ==== Sys2Proof/Machine/HostLink.lean ====
section
/-! DEFINITION. The host's CXL.mem requests and CXL.cache traffic, and requests of peers (spec/09_coherence.md R206 to
R208, R212, R213; spec/15_platform.md R327, R330, R339). -/

namespace Sys2Proof.Machine

/-- The bytes of device memory, 1.5 TiB. -/
def deviceBytes : Nat := 0x18000000000

/-- A host request for a host physical address, on a link that carries CXL.mem (R325): unmapped outside the decoder, answered without memory during a wipe, and
else carried to the home of its line (R206, R212, R327). -/
def State.hostMemory (s : State) (hpa : Nat) (during : Nat → OutMsg) (op : HomeOp) : State :=
  if s.plat.minimal || !s.plat.cxl then s
  else if hpa < s.plat.hdmbase ∨ s.plat.hdmbase + deviceBytes ≤ hpa then s.emit (.memUnmapped hpa)
  else
    let pl := (hpa - s.plat.hdmbase) / 128
    if s.plat.wiping then s.emit (during pl) else s.arrive pl { agent := 4, op }

/-- CXL_MEM_READ_SHARED (R206). -/
def execCxlMemReadShared (hpa : Nat) (s : State) : Host.Outcome State Fault Refusal := .next (s.hostMemory hpa .memPoison .hostShared)
/-- CXL_MEM_READ_EXCLUSIVE (R206). -/
def execCxlMemReadExclusive (hpa : Nat) (s : State) : Host.Outcome State Fault Refusal := .next (s.hostMemory hpa .memPoison .hostExcl)
/-- CXL_MEM_READ_UNCACHED (R206). -/
def execCxlMemReadUncached (hpa : Nat) (s : State) : Host.Outcome State Fault Refusal := .next (s.hostMemory hpa .memPoison .hostRead)
/-- CXL_MEM_WRITE (R206). -/
def execCxlMemWrite (hpa : Nat) (data : LineData) (s : State) : Host.Outcome State Fault Refusal :=
  .next (s.hostMemory hpa .memDone (.hostWrite data))

/-- BIRSP (R206): the host's answer to the one probe that its line has in flight, as ACK-I or, with data, ACK-D. -/
def execBirsp (line : Nat) (data : Option LineData) (s : State) : Host.Outcome State Fault Refusal :=
  match (s.dirEnt line).waitAck.find? fun w => w.1 == 4 with
  | none => .next s
  | some w => .next (s.answered line 4 w.2 data)

/-! ## Snoops of host lines (R208, R212, R213) -/

/-- A host snoop, on a link that carries CXL.cache (R325), which minimal mode does not (R334): RspIHitI for a line not in the filter, an error for a line lost in a fatal reset, else the snoop joins the
agent's queue. -/
def State.snoop (s : State) (pl kind : Nat) : State :=
  if s.plat.minimal || !s.plat.cxl then s
  else if (Tab.get? s.filter pl).isNone then
    s.emit (if s.plat.lostLines.contains pl then .snpError pl else .snpResp pl "RspIHitI" none)
  else
    let e := s.dirEnt pl
    (s.setDir pl { e with queue := e.queue ++ [{ agent := 5, op := .snoop kind }] }).serve pl

/-- SNPINV (R208). -/
def execSnpinv (line : Nat) (s : State) : Host.Outcome State Fault Refusal := .next (s.snoop line 0)
/-- SNPDATA (R208). -/
def execSnpdata (line : Nat) (s : State) : Host.Outcome State Fault Refusal := .next (s.snoop line 1)
/-- SNPCUR (R208). -/
def execSnpcur (line : Nat) (s : State) : Host.Outcome State Fault Refusal := .next (s.snoop line 2)

/-- CXL_CACHE_HOST_RESPONSE (R207): the host grants what the cache agent asked for, Shared or exclusively; the line enters
the filter and the waiting request goes on.  RdOwn and RdOwnNoData always bring the line exclusively. -/
def execCxlCacheHostResponse (line : Nat) (data : LineData) (excl : Bool) (s : State) : Host.Outcome State Fault Refusal :=
  let e := s.dirEnt line
  if !e.asked || !s.plat.cxl then .next s
  else match e.next with
    | none => .next (s.setDir line { e with asked := false })
    | some (r, _) =>
      let m := s.hostNeeds line r
      let bare := m == some (.rdOwnNoData line)
      let shared := m == some (.rdShared line)
      let s := if bare then s else s.homeWrite line data fullMask
      let s := { s with filter := Tab.put s.filter line { excl := excl || !shared, order := s.uid }, uid := s.uid + 1
                        plat := { s.plat with lostLines := s.plat.lostLines.filter (· != line) } }
      .next ((s.setDir line { e with asked := false }).serve line)

/-! ## Peers (R330) -/

/-- The bytes that a peer's request leaves in place of `old`, or none when it writes nothing (R329, R421). -/
def peerUpdate (o : PeerOp) (n old : Nat) : Option Nat :=
  match o with
  | .read => none
  | .write d => some (d.toNat % 2 ^ (8 * n))
  | .atomic op v => some (aop op n old (v.toNat % 2 ^ (8 * n)))
  | .cas c v => if old = c.toNat % 2 ^ (8 * n) then some (v.toNat % 2 ^ (8 * n)) else none

/-- PEER_REQUEST (R330): a read of `n` bytes, a write of them, or an atomic on them, at an offset of the export and within
one line; its home records nothing (R210).  A read and an atomic are answered with the bytes as they stood, a write with its
completion.  Refused while EN is clear, past SIZE, and until a wipe has completed, and where BASE + o lies past device
memory (DESIGN CHOICE, log entry 117). -/
def execPeerRequest (off n : Nat) (op : PeerOp) (s : State) : Host.Outcome State Fault Refusal :=
  let p := s.plat
  if !p.peerEn ∨ p.peerSize * 2 ^ 30 ≤ off ∨ deviceBytes ≤ p.peerBase + off ∨ p.wiping ∨ p.booting ∨ p.minimal then .next (s.emit (.peerError off))
  else
    let pa := p.peerBase + off
    let old := lineGet (s.homeRead (pa / 128)) (pa % 128) n
    let s := match peerUpdate op n old with
      | none => s
      | some x => s.homeWrite (pa / 128) (linePut 0 (pa % 128) n x) (byteMask (pa % 128) n)
    .next (s.emit (match op with
      | .write _ => .peerDone off
      | _ => .peerData off (BitVec.ofNat 1024 old)))

end Sys2Proof.Machine
end

