-- ==== Sys2Proof/Machine/Launch.lean ====
section
/-! DEFINITION. Queues, mappers, launch packets, the lottery, completion records and the host event ring
(spec/12_launch.md R255 to R272). -/

namespace Sys2Proof.Machine

/-! ## Queues (R255 to R258) -/

/-- A queue descriptor's words, as the queue table holds them. -/
structure Desc where
  v : Bool
  ring : Nat
  asid : Nat
  tickets : Nat
  sizelog : Nat
  clean : Bool                     -- every reserved bit is zero
  deriving DecidableEq, Repr

/-- The descriptor of a queue (R255). -/
def State.desc (s : State) (q : Nat) : Desc :=
  let a := s.launchRegs.qtab + 32 * q
  let w0 := s.physWord a
  let w1 := s.physWord (a + 8)
  { v := bitAt w0 63, ring := bitsAt w0 7 45 * 128, asid := bitsAt w1 32 16, tickets := bitsAt w1 16 16, sizelog := bitsAt w1 0 5
    clean := bitsAt w0 52 11 == 0 && bitsAt w0 0 7 == 0 && bitsAt w1 48 16 == 0 && bitsAt w1 5 11 == 0 &&
      s.physWord (a + 16) == 0 && s.physWord (a + 24) == 0 }

/-- A SIZELOG that a ring may have. -/
def sizeOk (n : Nat) : Bool := decide (1 ≤ n) && decide (n ≤ 20)

/-! ## Mappers and slots (R259, R260) -/

/-- The mapper of a queue. -/
def mapperOf (q : Nat) : Nat := q / 1024

/-- Slots of a mapper in use. -/
def State.slotsUsed (s : State) (m : Nat) : List Nat := s.queues.filterMap fun e => if mapperOf e.1 = m then e.2.slot else none

/-- The lowest-numbered free slot of a mapper. -/
def State.freeSlot (s : State) (m : Nat) : Option Nat := firstBelow 32 0 fun i => !(s.slotsUsed m).contains i

/-- An enabled queue with a packet to place takes a slot, or joins the mapper's FIFO (R259). -/
def State.seekSlot (s : State) (q : Nat) : State :=
  let x := s.queue q
  if !x.enabled ∨ !x.toPlace ∨ x.slot.isSome then s
  else match s.freeSlot (mapperOf q) with
    | some i => s.setQueue q { x with slot := some i, idleAt := s.time }
    | none =>
      let l := Tab.getD s.fifos (mapperOf q) []
      if l.contains q then s else { s.setQueue q { x with fifo := true } with fifos := Tab.put s.fifos (mapperOf q) (l ++ [q]) }

/-- A slot that frees goes to the head of the FIFO at once (R259). -/
def State.freeSlotOf (s : State) (q : Nat) : State :=
  let x := s.queue q
  match x.slot with
  | none => s
  | some i =>
    let s := s.setQueue q { x with slot := none }
    match Tab.getD s.fifos (mapperOf q) [] with
    | [] => s
    | h :: rest =>
      let y := s.queue h
      { s.setQueue h { y with slot := some i, fifo := false, idleAt := s.time } with fifos := Tab.put s.fifos (mapperOf q) rest }

/-- A queue leaves its mapper's FIFO. -/
def State.leaveFifo (s : State) (q : Nat) : State :=
  { s.setQueue q { s.queue q with fifo := false } with
    fifos := Tab.put s.fifos (mapperOf q) ((Tab.getD s.fifos (mapperOf q) []).filter (· != q)) }

/-- A queue that has nothing left to place begins its idle time (R259). -/
def State.noteIdle (s : State) (q : Nat) : State :=
  let x := s.queue q
  if x.toPlace then s else s.setQueue q { x with idleAt := s.time }

/-- Whether a notify write sets TAIL (R257). -/
def State.notifyOk (s : State) (q val : Nat) : Bool :=
  let x := s.queue q
  if x.known then decide (x.tail ≤ val) && decide (val ≤ x.head + 2 ^ x.sizelog)
  else
    let d := s.desc q
    s.launchRegs.qtab != 0 && d.v && sizeOk d.sizelog && decide (x.tail ≤ val) && decide (val ≤ 2 ^ d.sizelog)

/-- NOTIFY_WRITE (R257): an aligned 8-byte write at offset 0 of a queue's notify page.  Every accepted write starts the queue's
idle time anew (R260), one that leaves nothing to place too (DESIGN CHOICE, log entry 106). -/
def execNotifyWrite (queue off : Nat) (val : Word64) (s : State) : Host.Outcome State Fault Refusal :=
  if off ≠ 0 ∨ 131072 ≤ queue ∨ !s.up then .next s
  else if !s.notifyOk queue val.toNat then .next s
  else .next ((s.setQueue queue { s.queue queue with tail := val.toNat, idleAt := s.time }).seekSlot queue)

/-- QCMD_ENABLE (R258): a valid descriptor enables the queue; another leaves it disabled.  The energy counter is cleared
(spec/14_power.md R304). -/
def execQcmdEnable (queue : Nat) (s : State) : Host.Outcome State Fault Refusal :=
  if 131072 ≤ queue ∨ !s.up then .next s
  else
    let d := s.desc queue
    let x := { s.queue queue with energy := 0 }
    if d.v && d.tickets != 0 && d.clean && sizeOk d.sizelog then
      .next ((s.setQueue queue { x with
        enabled := true, known := true, ring := d.ring, asid := d.asid, tickets := d.tickets, sizelog := d.sizelog }).seekSlot queue)
    else .next (((s.setQueue queue { x with enabled := false }).freeSlotOf queue).leaveFifo queue)

/-- QCMD_DISABLE (R258): the slot is freed; HEAD, TAIL and the launches that have been read are kept. -/
def execQcmdDisable (queue : Nat) (s : State) : Host.Outcome State Fault Refusal :=
  if 131072 ≤ queue ∨ !s.up then .next s
  else .next (((s.setQueue queue { s.queue queue with enabled := false }).freeSlotOf queue).leaveFifo queue)

/-- QUEUE_IDLE_EXPIRY (R259): an active queue that has been idle for 10 µs gives up its slot, past the moment of expiry, at
which a notify write still keeps it (R260). -/
def execQueueIdleExpiry (queue : Nat) (s : State) : Host.Outcome State Fault Refusal :=
  let x := s.queue queue
  if x.slot.isNone ∨ x.toPlace ∨ s.time ≤ x.idleAt + 10000 then .next s else .next (s.freeSlotOf queue)

/-! ## Launch packets (R261, R262, R265) -/

/-- The fields of a packet's sixteen words. -/
def parsePacket (w : List Nat) : Packet :=
  let at' := fun i => w[i]?.getD 0
  let w2 := at' 2
  { entry := BitVec.ofNat 64 (at' 0), blocks := at' 1, ctrl := bitAt w2 51, serial := bitAt w2 50, event := bitAt w2 49
    hold := bitAt w2 48, cls := bitsAt w2 40 3, acc := bitsAt w2 32 5, vregs := bitsAt w2 20 10, span := bitsAt w2 16 2
    wlog := bitsAt w2 8 4, teams := bitsAt w2 0 6, deadline := bitsAt (at' 3) 32 32, scratch := bitsAt (at' 3) 0 20
    params := BitVec.ofNat 64 (at' 4), complete := BitVec.ofNat 64 (at' 5), handler := BitVec.ofNat 64 (at' 6)
    column := bitsAt (at' 7) 0 7 }

/-- A reserved bit of a packet is set; COLUMN is reserved without CTRL. -/
def packetReserved (w : List Nat) : Bool :=
  let at' := fun i => w[i]?.getD 0
  let w2 := at' 2
  bitsAt w2 52 12 != 0 || bitsAt w2 43 5 != 0 || bitsAt w2 37 3 != 0 || bitsAt w2 30 2 != 0 || bitsAt w2 18 2 != 0 ||
    bitsAt w2 12 4 != 0 || bitsAt w2 6 2 != 0 || bitsAt (at' 3) 20 12 != 0 || bitsAt (at' 7) 7 57 != 0 ||
    (!bitAt w2 51 && bitsAt (at' 7) 0 7 != 0) || (List.range 8).any fun i => at' (8 + i) != 0

/-- SPAN in lanes. -/
def spanLanes (code : Nat) : Nat := 16 * 2 ^ code

/-- A field outside its range, but those that a control launch leaves to R265. -/
def packetRange (p : Packet) : Bool :=
  (p.deadline != 0 && decide (p.deadline < 1024)) || p.complete.toNat % 32 != 0 ||
    if p.ctrl then decide (96 ≤ p.column)
    else decide (p.wlog < 4) || decide (10 < p.wlog) || p.span == 3 || decide (2 ^ p.wlog < spanLanes p.span) ||
      decide (p.vregs < 8) || decide (768 < p.vregs) || p.vregs % 8 != 0 || decide (16 < p.acc) || decide (16 < p.teams * p.acc) ||
      decide (p.teams < 1) || decide (32 < p.teams) || decide (524288 < p.scratch) || p.scratch % 128 != 0

/-- A block that no empty core fits (R41). -/
def packetNever (p : Packet) : Bool := !p.ctrl && decide (786432 < 2 ^ p.wlog * p.vregs * 4 * p.teams)

/-- A control launch that breaks R265. -/
def packetControl (p : Packet) : Bool :=
  p.ctrl && (p.blocks != 1 || p.teams != 1 || p.hold || p.wlog != 0 || p.span != 0 || p.vregs != 0 || p.acc != 0 || p.scratch != 0)

/-- The REASON that refuses a launch, 0 when none does (R262, R269). -/
def State.refusal (s : State) (asid : Nat) (w : List Nat) : Nat :=
  let p := parsePacket w
  if s.plat.lc = 0 ∨ s.plat.lc = 3 then 7
  else if packetReserved w then 1
  else if packetRange p then 2
  else if packetNever p then 3
  else if !bitAt (s.physWord (s.trans.base + 8 * asid)) 0 then 4
  else if !s.trans.en then 5
  else if packetControl p then 6
  else 0

/-- Whether the host holds a line of device memory. -/
def State.hostHolds (s : State) (pl : Nat) : Bool := (s.dirEnt pl).holders.contains 4

/-- A device's own access at system scope acts once the host has given up what it holds of the lines; until then a home takes
them back (spec/09_coherence.md R206). -/
def State.afterHost (s : State) (wait : Option (Nat × HomeOp)) (act : State → State) : State :=
  match wait with
  | some (pl, op) => s.homeAsk pl op
  | none => act s

/-- What the read of a queue's next packet waits for: the packet and the entry of its ASID are read coherently (R256,
spec/07_translation.md R156). -/
def State.packetWaits (s : State) (queue : Nat) : Option (Nat × HomeOp) :=
  let x := s.queue queue
  ([(x.ring + x.nread % 2 ^ x.sizelog * 128) / 128, (s.trans.base + 8 * x.asid) / 128].find? fun pl => (s.dirEnt pl).hostOwned).map fun pl => (pl, .pull)

/-- LAUNCH_PACKET_READ (R262): once every block of the launch before it is placed, the next written packet of an active
queue is read, and refused or made the head launch; a refused one and one of no blocks complete at once. -/
def execLaunchPacketRead (queue : Nat) (s : State) : Host.Outcome State Fault Refusal :=
  let x := s.queue queue
  if !x.enabled ∨ x.slot.isNone ∨ x.tail ≤ x.nread ∨ x.launches.any (fun l => l.refused == 0 && decide (l.placed < l.pkt.blocks)) then .next s
  else .next (s.afterHost (s.packetWaits queue) fun s =>
    let w := (bytesWords 16 (s.physRead (x.ring + x.nread % 2 ^ x.sizelog * 128) 128)).map (·.toNat)
    let l : Launch := { seq := x.nread, pkt := parsePacket w, refused := s.refusal x.asid w }
    let l := { l with doneAt := if l.isOver then some s.time else none }
    (s.setQueue queue { x with nread := x.nread + 1, launches := x.launches ++ [l] }).noteIdle queue)

/-! ## The lottery (R263 to R266) -/

/-- The launch of a queue whose blocks are being placed. -/
def Queue.placing (q : Queue) : Option Launch := q.launches.find? fun l => l.refused == 0 && decide (l.placed < l.pkt.blocks)

/-- The next block of a launch, with no place yet (R252, R261, R265). -/
def protoBlock (q : Nat) (x : Queue) (l : Launch) : Block :=
  let p := l.pkt
  let ctl := p.ctrl
  let dl := if p.deadline = 0 then 200000 else p.deadline
  { asid := x.asid, queue := q, seq := l.seq, index := BitVec.ofNat 64 l.placed, teams := p.teams
    width := if ctl then 1 else 2 ^ p.wlog, span := if ctl then 16 else spanLanes p.span, vregs := if ctl then 64 else p.vregs
    acc := if ctl then 0 else p.acc, scratch := if ctl then 65536 else p.scratch, spbase := 0, core := 0, lcore := 0, slots := []
    cls := p.cls, clsEff := p.cls, deadline := dl, deadlineLeft := dl, params := p.params, handler := p.handler, ctrl := ctl
    event := p.event, place := if p.hold then .held else .running }

/-- Where a die's distributor would place a queue's next block (R263, R266). -/
def State.spotFor (s : State) (d q : Nat) (x : Queue) (l : Launch) : Option (Nat × Resv) :=
  match s.freeFrame with
  | none => none
  | some f =>
    let b := protoBlock q x l
    if b.ctrl then
      (if l.pkt.column / 24 = d then (s.fitOn (768 + l.pkt.column) f b).map fun r => (f, r) else none)
    else (s.placeOn d f b fun _ => true).map fun r => (f, r)

/-- Whether the launch of a queue before one has completed (R263, R268). -/
def Queue.previousOver (q : Queue) (l : Launch) : Bool := q.launches.all fun h => decide (h.seq + 1 ≠ l.seq) || h.isOver

/-- Whether a queue's slot is eligible at a die's distributor (R263, R280, R292). -/
def State.eligible (s : State) (d q : Nat) (x : Queue) : Bool :=
  x.enabled && x.slot.isSome && (s.die d).resumeq.isEmpty &&
    match x.placing with
    | none => false
    | some l =>
      (!l.pkt.serial || x.previousOver l) &&
        (l.pkt.ctrl || !s.power.shed.getLsbD l.pkt.cls) && (s.spotFor d q x l).isSome

/-- The package's slot number of a queue. -/
def slotNumber (q : Nat) (x : Queue) : Nat := 32 * mapperOf q + x.slot.getD 0

/-- Eligible queues in ascending slot number, each with its launch and its tickets. -/
def State.eligibles (s : State) (d : Nat) : List (Nat × Nat × Nat) :=
  let es := s.queues.filter fun e => s.eligible d e.1 e.2
  let ordered := es.foldl (fun (t : Tab (Nat × Nat × Nat)) e =>
    Tab.put t (slotNumber e.1 e.2) (e.1, e.2.placing.elim 0 (·.seq), e.2.tickets)) []
  ordered.map (·.2)

/-- One advance of a generator (R264). -/
def xorshift (x : Word64) : Word64 :=
  let x := x ^^^ (x >>> 12)
  let x := x ^^^ (x <<< 25)
  x ^^^ (x >>> 27)

/-- The draw from a generator's new state. -/
def drawOf (x : Word64) : Nat := (x * 0x2545F4914F6CDD1D).toNat

/-- The queue and launch whose range of tickets holds a number. -/
def winnerOf : List (Nat × Nat × Nat) → Nat → Option (Nat × Nat)
  | [], _ => none
  | (q, l, n) :: rest, x => if x < n then some (q, l) else winnerOf rest (x - n)

/-- A queue's next block placed by a die's distributor (R266): its cluster is the one in which the distributor last placed;
its teams start together, or are held behind a HELD record. -/
def State.placeNext (s : State) (d q : Nat) : State :=
  let x := s.queue q
  match x.placing with
  | none => s
  | some l =>
    match s.spotFor d q x l with
    | none => s
    | some (f, r) =>
      let b := { protoBlock q x l with core := r.core, lcore := r.core, slots := r.slots, spbase := r.base }
      let s := s.setQueue q { x with launches := x.launches.map fun m => if m.seq = l.seq then { m with placed := m.placed + 1 } else m }
      let s := s.setDie d { s.die d with lastCluster := some (colOf r.core % 24) }
      let s := (s.startBlock f b l.pkt.entry).noteIdle q
      if b.place = .held then
        let c := s.cluster (colOf r.core)
        s.setCluster (colOf r.core) { c with evwait := c.evwait ++ [{ blockRecord b 4 with start := f + 1 }] }
      else s

/-- The draws of the present cycle that are still to come: where none has begun, every die with an eligible slot draws, the
lower die first (R264, R266). -/
def State.drawsNow (s : State) : List (Nat × List (Nat × Nat × Nat)) :=
  s.draws.getD (((List.range 4).map fun d => (d, s.eligibles d)).filter fun e => !e.2.isEmpty)

/-- A die's draw among slots: its generator advances, and the winner's next block is placed, if one is left and the slot is
still eligible (R263, R266). -/
def State.draw (s : State) (die : Nat) (es : List (Nat × Nat × Nat)) : State :=
  let x := s.die die
  let seed := xorshift x.seed
  let s := s.setDie die { x with seed }
  match winnerOf es (drawOf seed % (es.map (·.2.2)).sum) with
  | none => s
  | some (q, l) => if s.eligible die q (s.queue q) ∧ (s.queue q).placing.any (·.seq == l) then s.placeNext die q else s

/-- LOTTERY_DRAW (R264): the die whose turn it is in the cycle makes its draw. -/
def execLotteryDraw (die : Nat) (s : State) : Host.Outcome State Fault Refusal :=
  match s.drawsNow with
  | [] => .next s
  | (d, es) :: rest => .next (if d = die then ({ s with draws := some rest } : State).draw die es else s)

/-! ## Gating (R214, R267) -/

/-- The dispatch-free flag of a cluster: no resident team, no control team, and no dispatch on its way (R267). -/
def State.dispatchFree (s : State) (col : Nat) : Bool :=
  !(s.cluster col).waking && s.blocks.all fun e => e.2.place == .frozen || colOf e.2.core != col

/-- Every copy of a core's L1 goes to I, and what is on its way there is not kept; the writes of its M copies are on their
way to the Well (R214). -/
def State.emptyL1 (s : State) (core : Nat) : State :=
  let x := s.core core
  let s := (s.setCore core { x with l1 := [] }).spoilFills (dieOf core) fun f => f.core == core
  x.l1.foldl (fun s e => s.forgetLine (dieOf core) e.1) s

/-- Whether a pump ramp uses the arrays of a cluster (R302). -/
def State.ramped (s : State) (col : Nat) : Bool := decide (0 < (s.die (col / 24)).pump) && (s.die (col / 24)).pumpCols.contains col

/-- CLUSTER_GATING_COMMIT (R267): with the flag set and no pump ramp on its arrays, the L1s empty and the cluster is gated,
which is an end of work (R302).  The draws of its die that the cycle still owes come first: their dispatches win. -/
def execClusterGatingCommit (col : Nat) (s : State) : Host.Outcome State Fault Refusal :=
  if !s.dispatchFree col ∨ (s.cluster col).gated ∨ s.ramped col ∨ 96 ≤ col ∨ s.drawsNow.any (fun e => e.1 == col / 24) then .next s
  else
    let s := (List.range 8).foldl (fun s i => s.emptyL1 (col * 8 + i)) s
    let s := s.emptyL1 (768 + col)
    .next ((s.setCluster col { s.cluster col with gated := true }).noteEnd (col / 24) none)

/-- CLUSTER_WAKE_COMPLETE (R267): the wake is over and the block's teams issue. -/
def execClusterWakeComplete (col : Nat) (s : State) : Host.Outcome State Fault Refusal :=
  .next (s.setCluster col { s.cluster col with waking := false })

/-! ## The host event ring (R270 to R272) -/

/-- The entries that the ring holds; a SIZELOG outside 6 to 20 acts as 6 (R273). -/
def LaunchRegs.size (r : LaunchRegs) : Nat := if r.evSizelog < 6 ∨ 20 < r.evSizelog then 64 else 2 ^ r.evSizelog

/-- Whether the ring takes an entry: it is enabled and not full. -/
def LaunchRegs.room (r : LaunchRegs) : Bool := r.evEn && (r.evHead + 2 ^ 64 - r.evTail) % 2 ^ 64 != r.size

/-- The 64 bytes of an entry (R270). -/
def RingEnt.bytes (e : RingEnt) : List Byte :=
  toBytes 8 (place (b2n e.nowrite) 16 1 + place e.die 8 2 + place e.type 0 8) ++ toBytes 24 0 ++ wordsBytes e.body

/-- Unreported entries are reported: vector 0 fires (R272). -/
def State.report (s : State) : State := { s.emit (.msix 0) with launchRegs := { s.launchRegs with reported := s.launchRegs.evHead } }

/-- Whether the unreported entries number CNT, or entries are not to wait (R272). -/
def LaunchRegs.reportDue (r : LaunchRegs) : Bool :=
  decide (r.reported < r.evHead) && (r.timeus == 0 || decide (max 1 r.cnt ≤ r.evHead - r.reported))

/-- Vector 0 fires where the entries are due (R272). -/
def State.reportIfDue (s : State) : State := if s.launchRegs.reportDue then s.report else s

/-- An entry written, EVHEAD advanced past it, and the interrupts that follow (R271, R272). -/
def State.ringWrite (s : State) (e : RingEnt) : State :=
  let r := s.launchRegs
  let s := s.physWrite (r.evBase + r.evHead % r.size * 64) e.bytes
  let fresh := decide (r.reported = r.evHead)
  let s : State := { s with launchRegs := { s.launchRegs with
    evHead := r.evHead + 1, oldest := if fresh then s.time else r.oldest } }
  let s := if e.type = 3 then s.emit (.msix 1) else s
  s.reportIfDue

/-- MSI_COALESCE_TIMEOUT (R272): the oldest unreported entry has waited TIMEUS. -/
def execMsiCoalesceTimeout (s : State) : Host.Outcome State Fault Refusal :=
  let r := s.launchRegs
  .next (if r.reported < r.evHead ∧ r.oldest + r.timeus * 1000 ≤ s.time then s.report else s)

/-- EVTAIL_WRITE (R271): the host has consumed entries, and the ring has their room again. -/
def execEvtailWrite (val : Word64) (s : State) : Host.Outcome State Fault Refusal :=
  .next (if s.up then { s with launchRegs := { s.launchRegs with evTail := val.toNat } } else s)

/-! ## Completion (R268, R269) -/

/-- STATUS of a completion record. -/
def Launch.status (l : Launch) : Nat := if l.refused ≠ 0 then 2 else if l.term then 3 else if l.fcount ≠ 0 then 1 else 0

/-- The four words of a completion record (R269). -/
def completionWords (q time : Nat) (l : Launch) : List Word64 :=
  [BitVec.ofNat 64 time,
   BitVec.ofNat 64 (l.fcount % 2 ^ 32 * 2 ^ 32 + l.refused % 256 * 2 ^ 24 + l.fcause.toNat * 2 ^ 8 + l.status),
   l.faddr,
   BitVec.ofNat 64 (l.seq % 2 ^ 32 * 2 ^ 32 + q % 2 ^ 17)]

/-- A record stored at a virtual address under a queue's ASID, with the checks of an ordinary team's store; false when
one of them fails, and then nothing is logged (R269).  The record of a launch refused because COMPLETE is no multiple of 32 is
stored at that address: its first byte alone is translated, and what passes the page's end goes on in physical memory (DESIGN
CHOICE, log entry 105). -/
def State.storeRecord (s : State) (asid : Nat) (va : Word64) (bs : List Byte) : State × Bool :=
  if !canonical va then (s, false)
  else match s.translate 0 asid va.toNat { write := true } with
    | (s, .error _) => (s, false)
    | (s, .ok e) =>
      let pa := e.paOf va.toNat
      if e.attr.swm then (s.homeWrite (pa / 128) (linePut 0 (pa % 128) bs.length (ofBytes bs)) (byteMask (pa % 128) bs.length), true)
      else (s.physWrite pa bs, true)

/-- The oldest launch of a queue completes with a ring entry: its record is stored, the entry written, and HEAD rises. -/
def State.completes (s : State) (queue : Nat) (e : RingEnt) : State :=
  let x := s.queue queue
  match x.launches with
  | [] => s
  | l :: rest =>
    let w := if l.pkt.complete = 0 then (s, true) else s.storeRecord x.asid l.pkt.complete (wordsBytes e.body)
    let s := w.1.ringWrite { e with nowrite := !w.2 }
    s.setQueue queue { s.queue queue with launches := rest, head := x.head + 1 }

/-- What the store of a completion record waits for: its walk reads the tables coherently, and its line is to be the host's
no more (R268, spec/07_translation.md R156, spec/09_coherence.md R206). -/
def State.recordWaits (s : State) (asid : Nat) (va : Word64) : Option (Nat × HomeOp) :=
  if !canonical va then none
  else match s.walkWaits 0 asid va.toNat { write := true } with
    | some pl => some (pl, .pull)
    | none =>
      match (s.translate 0 asid va.toNat { write := true }).2 with
      | .error _ => none
      | .ok e => if s.hostHolds (e.paOf va.toNat / 128) then some (e.paOf va.toNat / 128, .recall) else none

/-- What the write of the next ring entry waits for (R271). -/
def State.ringWaits (s : State) : Option (Nat × HomeOp) :=
  let pl := (s.launchRegs.evBase + s.launchRegs.evHead % s.launchRegs.size * 64) / 128
  if s.hostHolds pl then some (pl, .recall) else none

/-- What the completion of a queue's oldest launch waits for. -/
def State.completionWaits (s : State) (queue : Nat) : Option (Nat × HomeOp) :=
  ((s.queue queue).launches.head?.bind fun l => if l.pkt.complete = 0 then none else s.recordWaits (s.queue queue).asid l.pkt.complete).orElse
    fun _ => s.ringWaits

/-- LAUNCH_COMPLETE (R268): the oldest launch of a queue whose record is not written is over.  Its record with the time at
which it completed (R269), its ring entry and HEAD are written, or take their place behind the entries that the ring holds (R271).  Records of one queue are written in
launch order. -/
def execLaunchComplete (queue : Nat) (s : State) : Host.Outcome State Fault Refusal :=
  let x := s.queue queue
  match x.launches.find? fun l => !l.posted with
  | none => .next s
  | some l =>
    let e : RingEnt := { type := 1, body := completionWords queue (l.doneAt.getD s.time) l, comp := some queue }
    if !l.isOver then .next s
    else if s.launchRegs.held.isEmpty ∧ s.launchRegs.room then .next (s.afterHost (s.completionWaits queue) fun s => s.completes queue e)
    else
      let s := s.setQueue queue { x with launches := x.launches.map fun m => if m.seq = l.seq then { m with posted := true } else m }
      .next (s.postHost e)

/-- HOST_RING_ENTRY_WRITE (R271): the oldest held entry is written once the ring has room. -/
def execHostRingEntryWrite (s : State) : Host.Outcome State Fault Refusal :=
  match s.launchRegs.held with
  | [] => .next s
  | e :: rest =>
    if !s.launchRegs.room then .next s
    else
      let wait := match e.comp with
        | some q => s.completionWaits q
        | none => s.ringWaits
      .next (s.afterHost wait fun s =>
        let s : State := { s with launchRegs := { s.launchRegs with held := rest } }
        match e.comp with
        | some q => s.completes q e
        | none => s.ringWrite e)

end Sys2Proof.Machine
end

