-- ==== Sys2Proof/Machine/Bank.lean ====
section
/-! DEFINITION. Errors of the Well, and the restitch that retires and restores its banks (spec/06_well.md R141 to R146). -/

namespace Sys2Proof.Machine

/-! ## Uncorrectable errors (R141) -/

/-- The contexts of an address space on the device, terminated with LOSTLINE. -/
def State.loseAsid (s : State) (asid : Nat) : State :=
  (s.blocks.filter fun e => e.2.asid == asid).foldl (fun s e => s.terminate e.1 Cause.lostline) s

/-- The machine-check record of a lost dirty line (spec/12_launch.md R270). -/
def lostLineWords (key time : Nat) : List Word64 :=
  [BitVec.ofNat 64 (vaOfLine key), BitVec.ofNat 64 (asidOfLine key % 2 ^ 16 * 2 ^ 48 + 1), BitVec.ofNat 64 time, 0]

/-- WELL_UE (R141): a dirty line of the Well is lost. -/
def execWellUe (die line : Nat) (s : State) : Host.Outcome State Fault Refusal :=
  match Tab.get? (s.die die).lines line with
  | none => .next s
  | some l =>
    if !l.inWell || !l.dirty then .next s
    else
      let s := (s.delLine die line).l1Drop die line
      let x := s.die die
      let s := s.setDie die { x with ue := min (x.ue + 1) 65535 }
      let s := s.postHost { type := 3, die := die, body := lostLineWords line s.time }
      .next (s.loseAsid (asidOfLine line))

/-! ## The restitch (R142, R143) -/

/-- Live banks of a die. -/
def Die.liveBanks (x : Die) : Nat := 1024 - x.retired.length

/-- What becomes of a request for a restitch: it runs, or a host command reports a status (R145). -/
def Die.judge (x : Die) (r : Restitch) : Option Nat :=
  if r.retire then
    (if x.retired.contains r.bank then some 2 else if x.liveBanks ≤ 896 then some 1 else none)
  else if x.repair.contains r.bank then some 3
  else if !x.retired.contains r.bank then some 2
  else none

/-- Whether the tile at a depth lies in a bank. -/
def inBank (retired : List Nat) (bank depth : Nat) : Bool := slotPos retired depth % 1024 == bank

/-- The tiles of a bank that are at rest. -/
def Die.bankTiles (x : Die) (bank : Nat) : List Nat :=
  x.chain.zipIdx.filterMap fun e => match e.1 with
    | none => none
    | some t => if inBank x.retired bank e.2 ∧ !((Tab.get? x.tiles t).elim false (·.transit)) then some t else none

/-- A restitch begins: the dirty lines of a retired bank's tiles are written back and the tiles dropped (R143). -/
def State.beginRestitch (s : State) (d : Nat) (r : Restitch) : State :=
  let x := s.die d
  let s := s.setDie d { x with restitch := some r }
  if r.retire then
    (x.bankTiles r.bank).foldl (fun s t => ((s.dropLines d t []).1).forgetTile d t) s
  else s

/-- Queued requests are taken in order until one runs. -/
def State.nextRestitch (s : State) (d : Nat) : List Restitch → State
  | [] => s.setDie d { s.die d with restitchq := [] }
  | r :: rest =>
    let x := s.die d
    match x.judge r with
    | none => (s.setDie d { x with restitchq := rest }).beginRestitch d r
    | some st => (s.setDie d { x with rstatus := if r.thermal then x.rstatus else st }).nextRestitch d rest

/-- A restitch asked for: behind a running one it is queued (R144, R146). -/
def State.askRestitch (s : State) (d : Nat) (r : Restitch) : State :=
  let x := s.die d
  if x.restitch.isSome then s.setDie d { x with restitchq := x.restitchq ++ [r] } else s.nextRestitch d [r]

/-- The chain without a bank's slots; a tile in transit keeps its reservation, renumbered with the live slots, and one that stands in a
slot of the bank keeps an entry of the chain (DESIGN CHOICE, log entry 109). -/
def chainWithout (retired : List Nat) (bank : Nat) (moving : Nat → Bool) (chain : List (Option Nat)) : List (Option Nat) :=
  (chain.zipIdx.filter fun e => !inBank retired bank e.2 || e.1.elim false moving).map (·.1)

/-- The chain with a bank's slots joined to it, empty; `n` bounds the walk. -/
def chainWith (retired : List Nat) (bank : Nat) : Nat → Nat → List (Option Nat) → List (Option Nat)
  | 0, _, chain => chain
  | _ + 1, _, [] => []
  | n + 1, depth, c :: rest =>
    if inBank retired bank depth then none :: chainWith retired bank n (depth + 1) (c :: rest)
    else c :: chainWith retired bank n (depth + 1) rest

/-- RESTITCH_COMPLETE (R143): depths are renumbered over the live slots, held requests go on, and the next restitch begins. -/
def execRestitchComplete (die : Nat) (s : State) : Host.Outcome State Fault Refusal :=
  let x := s.die die
  match x.restitch with
  | none => .next s
  | some r =>
    let moving := fun t => (Tab.get? x.tiles t).elim false (·.transit)
    let x' := { x with restitch := none, rstatus := if r.thermal then x.rstatus else 0 }
    let x' := if r.retire then
        { x' with retired := x.retired ++ [r.bank], heat := if r.thermal then x.heat ++ [r.bank] else x.heat
                  chain := chainWithout x.retired r.bank moving x.chain }
      else
        let ret := x.retired.filter (· != r.bank)
        { x' with retired := ret, heat := x.heat.filter (· != r.bank), chain := chainWith ret r.bank (2 * x.chain.length + 2) 0 x.chain }
    let s := ((s.setDie die x').trim die).pumpDie die
    .next (s.nextRestitch die x.restitchq)

/-- WRESTITCH_RETIRE (R143). -/
def execWrestitchRetire (die bank : Nat) (s : State) : Host.Outcome State Fault Refusal :=
  .next (s.onBar fun s => s.askRestitch die { bank := bank % 1024, retire := true })
/-- WRESTITCH_RESTORE (R143). -/
def execWrestitchRestore (die bank : Nat) (s : State) : Host.Outcome State Fault Refusal :=
  .next (s.onBar fun s => s.askRestitch die { bank := bank % 1024, retire := false })

/-- The sensor number of an SRAM die (spec/12_launch.md R270). -/
def sramSensor (die k : Nat) : Nat := 1024 + 2 * die + k % 2

/-- WELL_THERMAL_RESTORE (R144): a bank retired by heat whose sensor has stayed below RESTORE for 100 ms is restored. -/
def execWellThermalRestore (die bank : Nat) (s : State) : Host.Outcome State Fault Refusal :=
  let x := s.die die
  if !x.heat.contains bank ∨ x.restitchq.any (fun r => r.bank == bank) ∨ x.restitch.any (fun r => r.bank == bank) then .next s
  else match Tab.get? s.power.coolFrom (sramSensor die (Config.bankSram bank)) with
    | none => .next s
    | some t => if t + 100000000 ≤ s.time then .next (s.askRestitch die { bank, retire := false, thermal := true }) else .next s

/-- Banks of an SRAM die that heat retires, in ascending order (R144). -/
def State.heatRetire (s : State) (d k : Nat) : State :=
  ((List.range 1024).filter fun b => Config.bankSram b % 2 == k).foldl (fun s b =>
    let x := s.die d
    if x.retired.contains b ∨ x.restitch.any (fun r => r.bank == b) ∨ x.restitchq.any (fun r => r.bank == b) then s
    else s.askRestitch d { bank := b, retire := true, thermal := true }) s

end Sys2Proof.Machine
end

