-- ==== Sys2Proof/Machine/KMask.lean ====
section
/-! DEFINITION. The mask instructions (spec/17_ref_evpop_sxor.md R382, R383). -/

namespace Sys2Proof.Machine

/-- One bit of k-register VD for each active lane, from the bits of two masks. -/
def State.maskOp (s : State) (ctx : Nat) (f : VF) (h : Bool → Bool → Bool) : Issued :=
  let t := s.team ctx
  s.results ctx <| (t.active (s.widthOf ctx) f.pm f.pn).map fun l =>
    (.k f.vd.toNat l,
      some (if h ((t.kreg f.va.toNat).getLsbD l) ((t.kreg f.vb.toNat).getLsbD l) then 1 else 0))

/-- KAND (R383). -/
def execKand (f : VF) (s : State) : Host.Outcome State Fault Refusal :=
  s.atIssue (.kand f) fun ctx => s.maskOp ctx f fun a b => a && b
/-- KOR (R383). -/
def execKor (f : VF) (s : State) : Host.Outcome State Fault Refusal :=
  s.atIssue (.kor f) fun ctx => s.maskOp ctx f fun a b => a || b
/-- KXOR (R383). -/
def execKxor (f : VF) (s : State) : Host.Outcome State Fault Refusal :=
  s.atIssue (.kxor f) fun ctx => s.maskOp ctx f fun a b => a != b
/-- KANDN (R383). -/
def execKandn (f : VF) (s : State) : Host.Outcome State Fault Refusal :=
  s.atIssue (.kandn f) fun ctx => s.maskOp ctx f fun a b => a && !b

/-- KSET: every lane, whatever the mask (R383, R36). -/
def execKset (f : VF) (s : State) : Host.Outcome State Fault Refusal :=
  s.atIssue (.kset f) fun ctx =>
    s.results ctx <| (List.range (s.widthOf ctx)).map fun l => (.k f.vd.toNat l, some (BitVec.ofNat 1024 (f.imm.toNat % 2)))

/-- An s-register result of a mask instruction: nothing is written when no lane is active (R36, R383). -/
def State.maskResult (s : State) (ctx : Nat) (f : VF) (val : List Nat → Nat) : Issued :=
  let act := (s.team ctx).active (s.widthOf ctx) f.pm f.pn
  if act.isEmpty then s.results ctx [] else s.results ctx [(.s (f.vd.toNat - 768), some (BitVec.ofNat 1024 (val act)))]

/-- KPOPC (R383). -/
def execKpopc (f : VF) (s : State) : Host.Outcome State Fault Refusal :=
  s.atIssue (.kpopc f) fun ctx =>
    s.maskResult ctx f fun act => (act.filter fun l => ((s.team ctx).kreg f.va.toNat).getLsbD l).length

/-- KFIRST: the lowest active lane that the mask holds, or all ones (R383). -/
def execKfirst (f : VF) (s : State) : Host.Outcome State Fault Refusal :=
  s.atIssue (.kfirst f) fun ctx =>
    s.maskResult ctx f fun act => (act.filter fun l => ((s.team ctx).kreg f.va.toNat).getLsbD l).headD (2 ^ 64 - 1)

/-- The word index of KGET and KPUT. -/
def State.wordIndex (s : State) (ctx : Nat) (f : VF) : Nat :=
  if f.vb.toNat = 1023 then f.imm.toNat else ((s.team ctx).sreg (f.vb.toNat - 768)).toNat % 32

/-- Mask words in use at a width (R34). -/
def maskWords (w : Nat) : Nat := max 1 (w / 32)

/-- KGET: one mask word, zero-extended (R383). -/
def execKget (f : VF) (s : State) : Host.Outcome State Fault Refusal :=
  s.atIssue (.kget f) fun ctx =>
    let i := s.wordIndex ctx f
    s.maskResult ctx f fun _ => if i < maskWords (s.widthOf ctx) then maskWord ((s.team ctx).kreg f.va.toNat) i else 0

/-- KPUT: one mask word written whatever the mask, its bits at or above the width cleared (R383). -/
def execKput (f : VF) (s : State) : Host.Outcome State Fault Refusal :=
  s.atIssue (.kput f) fun ctx =>
    let i := s.wordIndex ctx f
    let w := s.widthOf ctx
    let x := ((s.team ctx).sreg (f.va.toNat - 768)).toNat
    s.results ctx <| ((List.range w).filter fun l => l / 32 == i).map fun l =>
      (.k f.vd.toNat l, some (if bitAt x (l % 32) then 1 else 0))

end Sys2Proof.Machine
end

