-- ==== Sys2Proof/Machine/Reset.lean ====
section
/-! DEFINITION. Resets, the wipe, the steps of a start, and the loss of power (spec/09_coherence.md R212, R213;
spec/15_platform.md R328, R334 to R336, R339). -/

namespace Sys2Proof.Machine

/-! ## What a reset leaves -/

/-- A die after the wipe: its repaired banks stay retired, and the error counts stay but for a cold reset (R144, R146). -/
def Die.wiped (x : Die) (d : Nat) (cold : Bool) : Die :=
  { seed := BitVec.ofNat 64 (d + 1), retired := x.repair, repair := x.repair, ue := if cold then 0 else x.ue
    corr := if cold then 0 else x.corr, refetch := if cold then 0 else x.refetch }

/-- The image that flash holds once a reset has cut off what was being written (R336). -/
def Platform.kept (p : Platform) : Option (List Byte) := if p.incoming.isSome then none else p.flash

/-- The platform's state after a reset: a start begins on the image that flash holds; what fuses and flash hold stays, and a
transition whose wipe this is (R339). -/
def Platform.restarted (p : Platform) (lost : List Nat) (cold : Bool) : Platform :=
  { lc := p.lc, lcNext := if cold then none else p.lcNext, reason := if cold then 0 else p.reason
    fails := if cold then 0 else p.fails, starts := p.starts, step := 0
    stopped := p.stopped, wiping := true, booting := true, sigIndex := p.sigIndex, flash := p.kept, boot := p.kept
    deadPeers := if cold then [] else p.deadPeers, failAt := if cold then [] else Tab.mapVal p.failAt fun _ _ => 0
    lostLines := lost }

/-- The device after the wipe has begun: it holds nothing, every register is at its reset value, and host and peer memory
stay as they are (R212, R339). -/
def State.wiped (s : State) (lost : List Nat) (cold : Bool) : State :=
  { State.reset with
    agenda := s.agenda, uid := s.uid, free := s.free, out := s.out, hostMem := s.hostMem, peerMem := s.peerMem
    dies := (List.range 4).map fun d => (d, (s.die d).wiped d cold)
    plat := s.plat.restarted lost cold }

/-! ## A warm reset before its wipe (R212) -/

/-- A die on which no team's work is under way: its lines, its tiles, its write-backs and the probes that have come stay. -/
def Die.halted (x : Die) : Die :=
  let probes := fun (l : List Req) => l.filter fun r => match r.op with
    | .probe .. => true
    | _ => false
  { x with
    anns := x.anns.filter fun a => match a with
      | .req r => !(probes [r]).isEmpty
      | _ => false
    mouthq := probes x.mouthq, tiles := Tab.mapVal x.tiles fun _ t => { t with held := probes t.held }
    waits := [], walks := [], fills := [], frwait := [], restitch := none, restitchq := [], resumeq := [], stuck := [], away := [], touched := []
    wbuf := x.wbuf.map fun w => { w with waits := [] } }

/-- The M copies of a core's L1 written through, and the L1 emptied. -/
def State.settleL1 (s : State) (core : Nat) : State :=
  let c := s.core core
  let d := dieOf core
  c.l1.foldl (fun s e => match Tab.get? (s.die d).lines e.1 with
    | some l => if e.2.st == .m && !l.swm then s.setLine d e.1 { l with st := .m, data := e.2.data } else s
    | none => s) (s.setCore core { c with l1 := [] })

/-- The dirty lines of software-managed and peer pages, pinned tiles' too, leave their dies: their bytes go to their homes
(R135, R212). -/
def State.writeManaged (s : State) : State :=
  s.dies.foldl (fun s d => (d.2.lines.filter fun l => l.2.swm && l.2.dirty).foldl (fun s l => (s.dropLine d.1 l.1 []).1) s) s

/-- Every launch is over: its blocks end unperformed, and nothing of a team is under way (R333). -/
def State.halted (s : State) : State :=
  let s := s.cores.foldl (fun s c => s.settleL1 c.1) s
  State.writeManaged { s with
    cur := none, draws := none, copies := [], teams := [], blocks := [], queues := [], fifos := []
    dies := Tab.mapVal s.dies fun _ d => d.halted
    cores := Tab.mapVal s.cores fun _ c => { c with fbuf := [], cpbuf := [], slog := [], arrq := [], bankq := [] }
    clusters := Tab.mapVal s.clusters fun _ c => { c with gangs := [], rrots := [], evq := [], evwait := [], relq := [] }
    launchRegs := { s.launchRegs with held := s.launchRegs.held.filter (·.comp.isNone) }
    plat := { s.plat with warming := true } }

/-- Whether bytes of a software-managed line are dirty on a die, on their way to its home, or to be merged there. -/
def State.managedDirty (s : State) (pl : Nat) : Bool :=
  (s.dies.any fun d => d.2.lines.any fun l => l.2.line == pl && l.2.swm && l.2.dirty) ||
    (s.msgs.any fun m => m.line == pl && m.mask.isSome) || ((s.dirEnt pl).queue ++ (s.dirEnt pl).cur.toList).any (·.merges)

/-- Whether such bytes are still to reach some home that can be reached. -/
def State.managedLeft (s : State) : Bool :=
  (s.dies.any fun d => d.2.lines.any fun l => l.2.swm && l.2.dirty && !s.peerDown l.2.line) ||
    (s.msgs.any fun m => m.mask.isSome && !s.peerDown m.line) || s.dir.any fun e => (e.2.queue ++ e.2.cur.toList).any (·.merges)

/-- Host lines whose newest data is on the device: on a die, on its way, or in the host cache agent's hands, from which a grant
on its way has sent it to the host. -/
def State.dirtyHost (s : State) : List Nat :=
  (s.filter.map (·.1)).filter fun pl => s.dirtyAnywhere pl || s.managedDirty pl || ((s.dirEnt pl).st != .granting && (s.dirEnt pl).dirty.isSome)

/-- Host lines that a fatal reset loses dirty: also those of software-managed pages that the filter no longer holds, with bytes on
a die, on their way, or to be merged (R213). -/
def State.lostHost (s : State) : List Nat :=
  let managed := (s.dies.map fun d => (d.2.lines.filter fun l => l.2.swm).map (·.2.line)).flatten ++ s.msgs.map (·.line) ++ s.dir.map (·.1)
  s.dirtyHost ++ (distinct managed).filter fun pl => isHostLine pl && s.managedDirty pl && !s.dirtyHost.contains pl

/-- Device lines of which the host holds a copy. -/
def State.hostHeld (s : State) : List Nat := (s.dir.filter fun e => e.1 < 2 ^ 44 && e.2.holders.contains 4).map (·.1)

/-- Whether a home has a request or a snoop of the host to answer. -/
def State.hostAsks (s : State) : Bool :=
  s.dir.any fun e => (e.2.queue ++ e.2.cur.toList).any fun r => r.agent == 4 || match r.op with
    | .snoop _ => true
    | _ => false

/-- Every home asks the host for its copies of device memory, and the host cache agent takes back its dirty lines, which go to
the host with DirtyEvict (R212 steps 1 and 2). -/
def State.takeBack (s : State) : State :=
  let s := s.hostHeld.foldl (fun s pl => s.homeAsk pl .recall) s
  s.dirtyHost.foldl (fun s pl => s.homeAsk pl .reclaim) s

/-- Whether nothing is left to take back. -/
def State.mayWipe (s : State) : Bool := s.hostHeld.isEmpty && s.dirtyHost.isEmpty && !s.hostAsks && !s.managedLeft

/-- A warm reset goes on: the wipe begins once the host has no copy of device memory and the device no dirty line of the host;
until then the host's requests and snoops are answered, and the dirty bytes of software-managed lines reach their homes (R135,
R212). -/
def State.beginWipe (s : State) : State := if !s.plat.warming then s else if s.mayWipe then s.wiped [] false else s.takeBack

/-- A warm reset (R212). -/
def State.warm (s : State) : State := s.halted.beginWipe

/-- A fatal reset: dirty host lines are lost (R213). -/
def State.fatal (s : State) (reason : Nat) : State :=
  let s' := s.wiped s.lostHost false
  { s' with plat := { s'.plat with reason } }

/-- RESETCTL_WARM_RESET (R212): the host's write of OP 1; the register BAR is deaf in minimal mode. -/
def execResetctlWarmReset (s : State) : Host.Outcome State Fault Refusal := .next (if s.plat.minimal ∨ s.plat.off then s else s.warm)
/-- CXL_RESET (R328). -/
def execCxlReset (s : State) : Host.Outcome State Fault Refusal := .next (if s.plat.off then s else s.warm)
/-- SECONDARY_BUS_RESET (R328). -/
def execSecondaryBusReset (s : State) : Host.Outcome State Fault Refusal := .next (if s.plat.off then s else s.warm)

/-- FATAL_RESET (R213). -/
def execFatalReset (s : State) : Host.Outcome State Fault Refusal := .next (if s.plat.off then s else s.fatal s.plat.reason)

/-- COLD_RESET (R334): power is applied, and a start begins. -/
def execColdReset (s : State) : Host.Outcome State Fault Refusal := .next (s.wiped [] true)

/-- POWER_LOSS (R336): everything volatile is gone; the signature index stays (R337). -/
def execPowerLoss (s : State) : Host.Outcome State Fault Refusal :=
  let s' := s.wiped [] true
  .next { s' with plat := { s'.plat with off := true } }

/-! ## The start (R334, R335) -/

/-- A start stops at a step: FAILS rises, REASON is recorded, and after the third failure in a row the device enters
minimal mode, else it retries, with a wipe of its own.  FAILS stays at 255 there (DESIGN CHOICE, log entry 116). -/
def State.startFails (s : State) (step reason : Nat) : State :=
  let fails := min (s.plat.fails + 1) 255
  { s with plat := { s.plat with
    fails, reason, stopped := step, step := 0, wiping := true, minimal := decide (3 ≤ fails), booting := decide (fails < 3) } }

/-- Banks found faulty are retired as repairs (R144). -/
def State.repairBanks (s : State) (faulty : List (Nat × Nat)) : State :=
  faulty.foldl (fun s f =>
    let x := s.die f.1
    if 4 ≤ f.1 ∨ 1024 ≤ f.2 ∨ x.repair.contains f.2 then s
    else s.setDie f.1 { x with repair := x.repair ++ [f.2], retired := if x.retired.contains f.2 then x.retired else x.retired ++ [f.2] }) s

/-- A step of the start has succeeded; the last one ends it. -/
def State.stepDone (s : State) (step : Nat) : State :=
  if step = 4 then { s with plat := { s.plat with step, trainFrom := s.time } }
  else if step = 5 then { s with plat := { s.plat with step, stopped := 5, booting := false, fails := 0, starts := s.plat.starts + 1 } }
  else { s with plat := { s.plat with step } }

/-- Whether the image that a start runs verifies (R334). -/
def Platform.imageValid (p : Platform) : Bool := p.boot.any Config.imageVerifies

/-- Whether 1 s has passed since the link's training began (R335). -/
def State.trainLate (s : State) : Bool := decide (s.plat.trainFrom + 1000000000 ≤ s.time)

/-- Whether a die has fewer than 896 live banks (R335, spec/06_well.md R145). -/
def State.banksShort (s : State) : Bool := (List.range 4).any fun d => decide ((s.die d).liveBanks < 896)

/-- Whether a step may stop for a reason, by what stands: an image that verifies is not refused for its signature, nor is a
wipe that has completed or a link that still has time (R335).  Whether a verified image's family and revision match the silicon
(reason 3) is no function of the image here: the step's argument says it (DESIGN CHOICE, log entry 107). -/
def State.mayStop (s : State) (step reason : Nat) : Bool :=
  match step with
  | 1 => reason == 1 || reason == 9
  | 2 => reason == (if s.plat.imageValid then 3 else 2)
  | 3 => reason == 4 || (reason == 5 && s.banksShort)
  | 4 => reason == 6 && s.plat.wiping
  | _ => reason == 7 && s.trainLate

/-- What stops a step, whatever is reported: an image that does not verify, and a link not trained in its 1 s. -/
def State.stopReason (s : State) (step reason : Nat) : Nat :=
  if step = 2 ∧ !s.plat.imageValid then 2 else if step = 5 ∧ s.trainLate then 7 else reason

/-- START_UP (R334): the next step of a start, with the reason for which it stops, or 0; step 3 retires the banks that its test
finds faulty, and step 4 ends with the wipe. -/
def execStartUp (step reason : Nat) (faulty : List (Nat × Nat)) (s : State) : Host.Outcome State Fault Refusal :=
  let p := s.plat
  if !p.booting ∨ p.off ∨ step ≠ p.step + 1 then .next s
  else
    let s := if step = 3 then s.repairBanks faulty else s
    let reason := if step = 3 ∧ reason ≠ 4 ∧ s.banksShort then 5 else s.stopReason step reason
    .next (if reason = 0 then (if step = 4 ∧ p.wiping then s else s.stepDone step)
      else if s.mayStop step reason then s.startFails step reason else s)

/-- CXL_TRAIN_TIMEOUT (R335): the link has not trained within 1 s of the wipe's end. -/
def execCxlTrainTimeout (s : State) : Host.Outcome State Fault Refusal :=
  .next (if s.plat.booting ∧ s.plat.step = 4 ∧ s.trainLate then s.startFails 5 7 else s)

/-- The link has trained, as CXL or, where the partner offers none or its rate is too low, as PCIe (R325). -/
def State.trained (s : State) (cxl : Bool) : State :=
  if s.plat.booting ∧ s.plat.step = 4 then { s with plat := { s.plat with cxl } } else s

/-- WIPE_COMPLETE (R339): all storage is zero, what the host has written since an earlier wipe of the same start too (R334), CXL.mem is served normally again, and a transition's new state takes effect. -/
def execWipeComplete (s : State) : Host.Outcome State Fault Refusal :=
  .next (if s.plat.off ∨ !s.plat.wiping then s
    else { s with mem := [], dir := [], plat := { s.plat with wiping := false, lc := s.plat.lcNext.getD s.plat.lc, lcNext := none } })

end Sys2Proof.Machine
end

