-- ==== Sys2Proof/Machine/Power.lean ====
section
/-! DEFINITION. Column levels, lane groups, the slope pump, the bell, heat, the shelf telemetry port, the droop curve,
clamping and shedding (spec/14_power.md R298 to R321). -/

namespace Sys2Proof.Machine

/-! ## Lane groups (R300, R301) -/

/-- Stall ratio of a window that ends: high above 70 %, low below 40 %, else as before (R301). -/
def stallRatio (old : Bool) (stalled window : Nat) : Bool :=
  if 7 * window < 10 * stalled then true else if 10 * stalled < 4 * window then false else old

/-- MODE.NT of the teams resident on a core that are not frozen. -/
def State.ntModes (s : State) (core : Nat) : List Nat :=
  ((s.blocks.filter fun e => e.2.core == core && e.2.place != .frozen).map fun e =>
    ((ctxsOf e.1 e.2).filter fun c => (s.team c).sched != .exited && (s.team c).sched != .frozen).map fun c =>
      bitsAt (s.team c).mode.toNat 4 2).flatten

/-- The groups in near-threshold mode after a window (R301). -/
def nextGroups (modes : List Nat) (high : Bool) (busy : BitVec 4) : BitVec 4 :=
  if modes.contains 2 then 0 else (if modes.contains 1 || high then BitVec.allOnes 4 else 0) ||| ~~~ busy

/-- NT_WINDOW (R301): a window of 4,096 cycles ends, and the groups of the next are set. -/
def execNtWindow (core : Nat) (s : State) : Host.Outcome State Fault Refusal :=
  let c := s.core core
  let now := s.cyclesOf (colOf core)
  if now < c.windowAt + 4096 then .next s
  else
    let high := stallRatio c.stallHigh c.stalled (now - c.windowAt)
    .next (s.setCore core { c with
      nt := nextGroups (s.ntModes core) high c.busy, stallHigh := high, stalled := 0, windowAt := now, busy := 0 })

/-! ## The bell and the column level (R299, R305 to R307) -/

/-- A bell raised for one block: it replaces the pending one, and none is kept of the cause last delivered (R306). -/
def Block.ring (b : Block) (c : Cause) (level : Nat) : Block :=
  if b.bellAddr = 0 then b else { b with bellPend := if c = b.bellLast then none else some (c, level) }

/-- A bell raised for every block of a column, frozen ones included; PEND of a frozen team shows it. -/
def State.ringColumn (s : State) (col : Nat) (c : Cause) (level : Nat) : State :=
  (s.blocks.filter fun e => colOf e.2.core == col).foldl (fun s e =>
    let s := s.setBlock e.1 (e.2.ring c level)
    (ctxsOf e.1 e.2).foldl (fun s x => s.saveStatus x) s) s

/-- COLUMN_LEVEL_STEP (R299): LEVEL moves one step toward the greater of the thermal level and the clamp; leaving 0 and
coming back to it ring the bell. -/
def execColumnLevelStep (col : Nat) (s : State) : Host.Outcome State Fault Refusal :=
  let c := s.cluster col
  let goal := max c.thermal s.power.clamp
  if c.level = goal then .next s
  else
    let level := if c.level < goal then c.level + 1 else c.level - 1
    let s := s.setCluster col { c with level }
    .next (if c.level = 0 then s.ringColumn col Cause.bellon level
      else if level = 0 then s.ringColumn col Cause.belloff 0 else s)

/-- Whether a team of a context's block has stopped for the bell. -/
def State.bellHeld (s : State) (ctx : Nat) : Bool :=
  (s.blockOf? ctx).elim false fun b => (ctxsOf (frameOf ctx) b).any fun c => (s.team c).forBell

/-- Whether a bell may be delivered to a team (R307): one that is ready and not in handler mode; while a team of the block has
stopped for the bell, that one alone. -/
def State.bellTakes (s : State) (ctx : Nat) : Bool :=
  let t := s.team ctx
  !t.handler && (t.forBell || (decide (t.sched = .ready) && !t.holding && !s.bellHeld ctx))

/-- Whether a pending bell comes to a team before its next instruction: at the first boundary at which it may (R307, R406). -/
def State.bellDue (s : State) (ctx : Nat) : Bool :=
  match s.blockOf? ctx with
  | none => false
  | some b => b.bellPend.isSome && b.bellAddr != 0 && b.place != .held && b.place != .frozen &&
      (ctxsOf (frameOf ctx) b).find? s.bellTakes == some ctx

/-- A team that has stopped for a bell goes on; another is not changed. -/
def State.noBell (s : State) (ctx : Nat) : State :=
  let t := s.team ctx
  if t.forBell then (s.setTeam ctx { t with sched := .ready }).afterEvent ctx else s

/-- BELL_DELIVERY (R307): a pending bell goes to the block's lowest-numbered ready team outside handler mode; an entry that
is no target is a precise trap instead.  A team with register results outstanding stops until they are back (R276); the bell
and its entry are those that stand then.  A bell that is pending when BELLARM disarms the block stays so, and is delivered once
the block arms again (DESIGN CHOICE, log entry 102). -/
def execBellDelivery (frame : Nat) (s : State) : Host.Outcome State Fault Refusal :=
  match s.block? frame with
  | none => .next s
  | some b =>
    match (ctxsOf frame b).find? s.bellTakes with
    | none => .next s
    | some ctx =>
      let t := s.team ctx
      match b.bellPend with
      | none => .next (s.noBell ctx)
      | some (c, level) =>
        if b.bellAddr = 0 then .next (s.noBell ctx)
        else if b.place = .held ∨ b.place = .frozen then .next s
        else if !t.pend.isEmpty then .next (s.setTeam ctx { t with sched := .trapping })
        else
          match s.checkTarget ctx b.bellAddr with
          | .later s' => .next s'
          | .bad e =>
            let s := (s.setBlock frame { b with bellPend := none }).setTeam ctx { t with sched := .ready }
            .next ((s.preciseTrap ctx e 0 t.pc t.pc 0).afterEvent ctx)
          | _ =>
            let s := s.setBlock frame { b with bellPend := none, bellLast := c }
            let s := s.setTeam ctx { t with bell := BitVec.ofNat 16 (level % 256 * 256 + c.toNat) }
            .next ((s.raise ctx { cause := c, deliv := 2, level := BitVec.ofNat 8 level, pc := t.pc, resume := t.pc }).afterEvent ctx)

/-! ## The slope pump (R302, R304) -/

/-- SLOPE in amperes per microsecond (R322). -/
def Power.slopeNow (p : Power) : Nat := min 200 (max 5 p.slope)

/-- The energy of one step of a ramp in nanojoules: 1.8 V times the mean current over the step's time (R304). -/
def rampEnergy (p p' slope : Nat) : Nat := 900 * (p * p - p' * p') / slope

/-- A ramp is over: its energy is divided among the queues whose work ended, in proportion to their currents (R304). -/
def State.endRamp (s : State) (die : Nat) : State :=
  let x := s.die die
  let total := max 1 (x.pumpQueues.map (·.2)).sum
  let s := x.pumpQueues.foldl (fun s q =>
    let y := s.queue q.1
    s.setQueue q.1 { y with energy := y.energy + x.pumpEnergy * q.2 / total / 1000 }) s
  s.setDie die { s.die die with pump := 0, pumpQueues := [], pumpCols := [], pumpEnergy := 0 }

/-- PUMP_RAMP_STEP (R302): each microsecond the pumped current of a die falls by the slope; with the pump disabled it is
gone. -/
def execPumpRampStep (die : Nat) (s : State) : Host.Outcome State Fault Refusal :=
  let x := s.die die
  if x.pump = 0 then .next s
  else if !s.power.pumpen then .next (s.endRamp die)
  else if s.time < x.pumpAt + 1000 then .next s
  else
    let slope := s.power.slopeNow
    let p' := x.pump - slope
    let s := s.setDie die { x with pump := p', pumpAt := s.time, pumpEnergy := x.pumpEnergy + rampEnergy x.pump p' slope }
    .next (if p' = 0 then s.endRamp die else s)

/-- The cores of a die whose matrix arrays are idle: in no gated cluster, and with no MMA queued (R302). -/
def State.idleArrays (s : State) (d : Nat) : List Nat :=
  ((List.range 192).map fun i => d * 192 + i).filter fun c => !(s.cluster (colOf c)).gated && (s.core c).arrq.isEmpty

/-- The current that ended work drew is measured: by queue, none for a gated cluster.  Where the current would fall faster
than the slope, which it does at any fall while a ramp already takes it down the slope, a ramp begins or grows on the die's idle
arrays, and carries what they can (R302). -/
def State.startRamp (s : State) (d : Nat) (shares : List (Option Nat × Nat)) : State :=
  let x := s.die d
  let mine := shares.filter fun q => x.ended.contains q.1
  let fall := (mine.map (·.2)).sum
  let idle := s.idleArrays d
  let carried := min (x.pump + fall) (Config.fillerAmps * idle.length)
  let s' := s.setDie d { x with
    pump := carried, pumpAt := if x.pump = 0 then s.time else x.pumpAt, pumpCols := distinct (x.pumpCols ++ idle.map colOf), ended := []
    pumpQueues := x.pumpQueues ++ mine.filterMap fun q => q.1.map fun n => (n, q.2) }
  if !s.power.pumpen ∨ (x.pump = 0 ∧ fall ≤ s.power.slopeNow) then s.setDie d { x with ended := [] }
  else if carried = 0 then s'.endRamp d
  else s'

/-! ## The draw, the cap and the classes (R317 to R321) -/

/-- E: the draw outside blocks and that of the classes not shed (R317). -/
def Power.estimate (p : Power) : Nat :=
  p.basedraw + (((List.range 8).filter fun c => !p.shed.getLsbD c).map fun c => Tab.getD p.classdraw c 0).sum

/-- Whether a draw is within the cap, CAP × PBUDGET / 1,024 watts. -/
def Power.fits (p : Power) (watts : Nat) : Bool := decide (watts * 1024 ≤ p.cap * p.pbudget)

/-- The estimated draw at a column level (R317, R318). -/
def Power.drawAt (p : Power) (level : Nat) : Nat := if level = 0 then p.estimate else Config.drawAtLevel p.estimate level

/-- Whether the estimated draw at a level is within the cap and within 2,250 W. -/
def Power.levelFits (p : Power) (level : Nat) : Bool := p.fits (p.drawAt level) && decide (p.drawAt level ≤ 2250)

/-- The lowest level whose estimate fits, or 12 (R318). -/
def Power.clampGoal (p : Power) : Nat := (firstBelow 12 0 p.levelFits).getD 12

/-- The restore condition of a shed class (R320). -/
def Power.mayRestore (p : Power) (c : Nat) : Bool :=
  decide (105 * 1024 * (p.estimate + Tab.getD p.shedDraw c 0) ≤ 100 * p.cap * p.pbudget)

/-- For each shed class, since when its restore condition has held. -/
def Power.noteHold (p : Power) (time : Nat) : Power :=
  { p with holdFrom := ((List.range 8).filter fun c => p.shed.getLsbD c && p.mayRestore c).map fun c =>
      (c, Tab.getD p.holdFrom c time) }

/-- Classes shed one by one from a class downward until E fits or SHEDFLOOR is reached (R319).  A class that draws nothing is not
among the least number for which E falls, as the rule's worked example has it (DEDUCED, log entry 123). -/
def Power.shedFrom (p : Power) : Nat → Power
  | 0 => p
  | c + 1 =>
    if p.fits p.estimate ∨ c < p.shedfloor then p
    else if p.shed.getLsbD c ∨ Tab.getD p.classdraw c 0 = 0 then p.shedFrom c
    else Power.shedFrom
      { p with shed := p.shed ||| BitVec.ofNat 8 (2 ^ c), shedDraw := Tab.put p.shedDraw c (Tab.getD p.classdraw c 0) } c

/-- Every block of a shed class is asked to freeze (R319). -/
def State.freezeShed (s : State) : State :=
  (s.blocks.filter fun e => s.isShed e.2).foldl (fun s e => s.requestFreeze e.1 .shedding) s

/-- The clamp never lets the estimate exceed 2,250 W (R318). -/
def Power.guard (p : Power) (time : Nat) : Power :=
  if 2250 < p.drawAt p.clampTarget then { p with clampTarget := max p.clampTarget p.clampGoal, lowerAt := time } else p

/-- What follows a frame after which E exceeds the cap: the clamp's goal is set and classes are shed (R318, R319). -/
def State.react (s : State) : State :=
  let p := s.power
  if p.fits p.estimate then { s with power := (p.guard s.time).noteHold s.time }
  else
    let p := { p with clampTarget := p.clampGoal, lowerAt := s.time }
    ({ s with power := (p.shedFrom 8).noteHold s.time }).freezeShed

/-! ## Frames of the shelf (R313 to R317) -/

/-- CRC-8 with polynomial 0x07 over `n` bits, the highest first. -/
def crc8 (x : Nat) : Nat → Nat → Nat
  | 0, acc => acc
  | n + 1, acc =>
    let bit := (acc / 128 + b2n (bitAt x n)) % 2
    crc8 x n ((acc * 2 % 256) ^^^ (if bit = 1 then 7 else 0))

/-- Whether a frame is valid (R314). -/
def frameValid (w : Nat) : Bool := bitsAt w 48 16 == 0xA5C3 && crc8 (w / 256) 56 0 == bitsAt w 0 8

/-- Breakpoints of a set that are enabled, with their thresholds, ascending by number. -/
def enabledPoints (t : Tab Breakpoint) (thr : BitVec 32 → Int) : List (Nat × Int) :=
  (t.filter (·.2.en)).map fun e => (e.1, thr e.2.thr)

/-- The breakpoint that a measurement chooses (R316). -/
def chooseFrom (pts : List (Nat × Int)) (inUse : Option Nat) (hyst : Nat) (m : Int) : Option Nat :=
  let ok := pts.filter fun p => decide (p.2 + (if inUse.elim false (fun u => decide (u < p.1)) then (hyst : Int) else 0) ≤ m)
  match ok.getLast? with
  | some p => some p.1
  | none => pts.head?.map (·.1)

/-- The fraction of a set. -/
def setFraction (t : Tab Breakpoint) (inUse : Option Nat) : Nat := inUse.elim 1024 fun i => min 1024 (Tab.getD t i {}).frac

/-- The least of the fractions that frames set: of frequency, of voltage, and BATTFRAC while the last frame had BATT
(R317). -/
def Power.fraction (p : Power) : Nat :=
  min (min (setFraction p.fbp p.fIn) (setFraction p.vbp p.vIn)) (if p.batt then min 1024 p.battfrac else 1024)

/-- A measuring frame taken: both sets choose, and the cap is computed (R316, R317). -/
def Power.measureFrame (p : Power) (freq vbus : Nat) (batt : Bool) : Power :=
  let fIn := chooseFrom (enabledPoints p.fbp BitVec.toInt) p.fIn p.hystf ((freq : Int) - p.nomf)
  let vIn := chooseFrom (enabledPoints p.vbp fun t => t.toNat) p.vIn p.hystv vbus
  let p := { p with freq, vbus, batt, seen := true, lost := false, fIn, vIn }
  { p with cap := p.fraction, frameFrac := p.fraction }

/-- STP_FRAME (R314): an invalid frame is counted; a valid one is counted and kept, and, unless a test, measures.  The first valid
frame follows none and counts no skip (DESIGN CHOICE, log entry 115). -/
def execStpFrame (bits : Word64) (s : State) : Host.Outcome State Fault Refusal :=
  let w := bits.toNat
  let p := s.power
  if !p.stpEn ∨ s.plat.off then .next s
  else if !frameValid w then .next { s with power := { p with crcerr := min (p.crcerr + 1) 65535 } }
  else
    let seq := bitsAt w 44 4
    let skip := p.lastSeq.elim false fun q => seq != (q + 1) % 16
    let p := { p with
      valid := (p.valid + 1) % 65536, seqskip := min (p.seqskip + b2n skip) 65535, lastSeq := some seq, stplast := bits }
    if bitAt w 8 then .next { s with power := p }
    else
      let p := p.measureFrame (bitsAt w 27 17) (bitsAt w 11 16) (bitAt w 10)
      let p := { p with lastAt := s.time, rampAt := if bitAt w 9 then some s.time else p.rampAt }
      .next ({ s with power := p } : State).react

/-- STP_LOSS_TIMEOUT (R315): 500 µs without a valid frame. -/
def execStpLossTimeout (s : State) : Host.Outcome State Fault Refusal :=
  let p := s.power
  .next (if p.stpEn ∧ !p.lost ∧ p.lastAt + 500000 ≤ s.time then { s with power := { p with lost := true, lostAt := s.time } } else s)

/-- STP_LOSS_HOLD_EXPIRY (R315): the cap has kept its last value for LOSSMS, and LOSSFRAC takes its place where it is
less than the fraction that the last frame set (R317; log entry 67).  A cap that falls so clamps and sheds at once, though R318
and R319 speak of a frame (DESIGN CHOICE, log entry 103). -/
def execStpLossHoldExpiry (s : State) : Host.Outcome State Fault Refusal :=
  let p := s.power
  .next (if p.stpEn ∧ p.lost ∧ p.lostAt + p.lossms * 1000000 ≤ s.time then
    ({ s with power := { p with cap := min p.frameFrac p.lossfrac } } : State).react else s)

/-! ## The clamp (R318) -/

/-- CLAMP_STEP (R318): the clamp moves one level toward its goal, at most once a microsecond. -/
def execClampStep (s : State) : Host.Outcome State Fault Refusal :=
  let p := s.power
  if p.clamp = p.clampTarget ∨ s.time < p.clampAt + 1000 then .next s
  else .next { s with power := { p with clamp := if p.clamp < p.clampTarget then p.clamp + 1 else p.clamp - 1, clampAt := s.time } }

/-- CLAMP_LOWER (R318): 100 µs after the last change the clamp's goal falls by one level if the estimate there fits. -/
def execClampLower (s : State) : Host.Outcome State Fault Refusal :=
  let p := s.power
  .next (if 0 < p.clamp ∧ p.clamp = p.clampTarget ∧ p.lowerAt + 100000 ≤ s.time ∧ p.levelFits (p.clamp - 1) then
    { s with power := { p with clampTarget := p.clamp - 1, lowerAt := s.time } } else s)

/-- A draw measured: class 0 to 7, or 8 for the draw outside blocks (R317); the clamp never lets the estimate exceed
2,250 W (R318). -/
def State.measure (s : State) (cls watts : Nat) : State :=
  let p := s.power
  let p := if cls < 8 then { p with classdraw := Tab.put p.classdraw cls (watts % 65536) } else { p with basedraw := watts % 65536 }
  { s with power := (p.guard s.time).noteHold s.time }

/-! ## Restoring classes (R320, R321) -/

/-- The lowest class that is shed. -/
def Power.lowestShed (p : Power) : Option Nat := firstBelow 8 0 fun c => p.shed.getLsbD c

/-- A block of a restored class goes on: a frozen one resumes, one still asked to freeze goes on where it stands. -/
def State.unshed (s : State) (f : Nat) : State :=
  match s.block? f with
  | none => s
  | some b =>
    if b.place = .frozen then
      (if b.cause = Cause.shed ∨ b.resumeAsked then (s.setBlock f { b with resumeAsked := false }).due f else s)
    else if b.place = .freezing ∧ b.freeze = some .shedding then
      ((s.setBlock f { b with place := .running, freeze := none, forced := false }).saveState f 1).resumeTeams f b
    else s

/-- CLASS_RESTORE (R320): the lowest shed class whose condition has held for 100 ms is restored, and its blocks resume in
ascending order of frame. -/
def execClassRestore (cls : Nat) (s : State) : Host.Outcome State Fault Refusal :=
  let p := s.power
  let held := (Tab.get? p.holdFrom cls).elim false fun t => decide (t + 100000000 ≤ s.time)
  let quiet := p.rampAt.elim true fun t => decide (t + 100000000 ≤ s.time)
  if p.lowestShed = some cls ∧ held ∧ quiet ∧ p.mayRestore cls ∧ p.restoreAt + 10000000 ≤ s.time then
    let p := { p with shed := p.shed &&& ~~~ BitVec.ofNat 8 (2 ^ cls), restoreAt := s.time }
    let s := { s with power := (p.guard s.time).noteHold s.time }
    .next ((s.blocks.filter fun e => e.2.clsEff == cls && !e.2.ctrl && !e.2.monitor).foldl (fun s e => s.unshed e.1) s)
  else .next s

/-! ## Heat (R308 to R312) -/

/-- A sample of a sensor, or the last one where none comes. -/
def reading (rs : List (Nat × BitVec 16)) (n : Nat) (last : BitVec 16) : BitVec 16 := ((rs.find? fun r => r.1 == n).map (·.2)).getD last

/-- TMARGIN in sixteenths of a degree. -/
def Power.margin (p : Power) : Int := 16 * (p.tmargin.toNat : Int)

/-- Whether a core may take a block that leaves a hot core of its die (R309). -/
def State.targetOk (s : State) (src f : Nat) (b : Block) (core : Nat) : Bool :=
  let t := (s.core core).temp.toInt
  core != src && decide (t + s.power.margin ≤ (s.core src).temp.toInt) && decide (t ≤ s.power.tmaxtgt.toInt) &&
    !recent (s.core core).gaveUp s.time && s.gangsMay f b (colOf core) && (s.fitOn core f b).isSome

/-- The coolest of a list of cores, the lowest number among equals. -/
def State.coolest (s : State) (cores : List Nat) : Option Nat :=
  cores.foldl (fun best c => match best with
    | none => some c
    | some d => if (s.core c).temp.toInt < (s.core d).temp.toInt then some c else best) none

/-- The place that a block's migration reserves (R309). -/
def State.migrationTarget (s : State) (src f : Nat) (b : Block) : Option Resv :=
  (s.coolest (((List.range 192).map fun i => dieOf src * 192 + i).filter (s.targetOk src f b))).bind fun c => s.fitOn c f b

/-- Whether a block on a hot core is passed over (R309).  A block whose freeze by the host or the debugger is pending, of which
the rule's list does not speak, is passed over too, and reserves no target (DESIGN CHOICE, log entry 104). -/
def State.passedOver (s : State) (b : Block) : Bool :=
  b.place != .running || s.isShed b || recent b.migAt s.time || b.ctrl || b.monitor

/-- One block of a hot core considered: it is asked to freeze for its migration, or found without a target. -/
def State.consider (s : State) (src f : Nat) : State :=
  match s.block? f with
  | none => s
  | some b =>
    if s.passedOver b then s
    else match s.migrationTarget src f b with
      | some r => (s.setBlock f { b with migTarget := some r }).requestFreeze f .migration
      | none => s.setCluster (colOf src) { s.cluster (colOf src) with noTarget := true }

/-- A core found hot at a sample: its blocks are considered in ascending order of frame; with nothing to migrate no target
is found (R309, R311). -/
def State.newlyHot (s : State) (core : Nat) : State :=
  let here := s.blocks.filter fun e => e.2.core == core && e.2.place != .frozen
  let s' := here.foldl (fun s e => s.consider core e.1) s
  if here.all (fun e => s.passedOver e.2) && here.all (fun e => e.2.migTarget.isNone) then
    s'.setCluster (colOf core) { s'.cluster (colOf core) with noTarget := true }
  else s'

/-- A core's sample taken; once no core of its column is hot, what was found of a target no longer raises the level (R311). -/
def State.sampleCore (s : State) (rs : List (Nat × BitVec 16)) (core : Nat) : State :=
  let c := s.core core
  let temp := reading rs core c.temp
  let hot := decide (s.power.thot.toInt < temp.toInt)
  let s := s.setCore core { c with temp, hot, relieved := c.relieved && hot }
  let x := s.cluster (colOf core)
  if x.noTarget && (List.range 8).all fun i => !(s.core (core / 8 * 8 + i)).hot then s.setCluster (colOf core) { x with noTarget := false }
  else s

/-- An SRAM die's sample taken: heat retires its banks, and its time below RESTORE goes on or ends (R144). -/
def State.sampleSram (s : State) (rs : List (Nat × BitVec 16)) (d k : Nat) : State :=
  let n := sramSensor d k
  let old := Tab.getD s.power.sramTemp n 0
  let temp := reading rs n old
  let cool := decide (temp.toInt < (s.die d).wrestore.toInt)
  let p := s.power
  let s := { s with power := { p with
    sramTemp := Tab.put p.sramTemp n temp
    coolFrom := if cool then Tab.put p.coolFrom n (Tab.getD p.coolFrom n s.time) else Tab.del p.coolFrom n } }
  if (s.die d).wretire.toInt < temp.toInt then s.heatRetire d k else s

/-- The lowest sensor whose reading exceeds TTRIP. -/
def tripped (rs : List (Nat × BitVec 16)) (limit : BitVec 16) : Option (Nat × BitVec 16) :=
  (rs.filter fun r => decide (limit.toInt < r.2.toInt)).foldl (fun best r => match best with
    | none => some r
    | some b => if r.1 < b.1 then some r else best) none

/-- The die that holds a sensor (spec/12_launch.md R270). -/
def sensorDie (n : Nat) : Nat := if n < 1024 then n / 192 % 4 else if n < 1032 then (n - 1024) / 2 else (n - 1032) % 4

/-- A trip: a machine check of KIND 2 where the ring can take one, then a fatal reset with REASON 8 (R312). -/
def State.trip (s : State) (n : Nat) (t : BitVec 16) : State :=
  let e : RingEnt := { type := 3, die := sensorDie n
                       body := [t.setWidth 64, BitVec.ofNat 64 (place n 32 16 + 2), BitVec.ofNat 64 s.time, 0] }
  (if s.launchRegs.held.isEmpty ∧ s.launchRegs.room then s.ringWrite e else s).fatal 8

/-- Sensors of the package. -/
def isSensor (n : Nat) : Bool := decide (n < 768) || (decide (1024 ≤ n) && decide (n < 1036))

/-- TEMP_SAMPLE (R308): at a whole multiple of 10 µs every sensor is sampled; a trip is judged first, then hot cores and
their blocks, then the SRAM dies. -/
def execTempSample (readings : List (Nat × BitVec 16)) (s : State) : Host.Outcome State Fault Refusal :=
  let rs := readings.filter fun r => isSensor r.1
  if s.time % 10000 ≠ 0 ∨ s.plat.off then .next s
  else match tripped rs s.power.ttrip with
    | some (n, t) => .next (s.trip n t)
    | none =>
      let cores := (List.range 768).filter fun c => rs.any fun r => r.1 == c
      let fresh := cores.filter fun c => !(s.core c).hot && decide (s.power.thot.toInt < (reading rs c 0).toInt)
      let s := cores.foldl (fun s c => s.sampleCore rs c) s
      let s := fresh.foldl (fun s c => s.newlyHot c) s
      let s := (List.range 8).foldl (fun s i => s.sampleSram rs (i / 2) (i % 2)) s
      let p := s.power
      .next { s with power := { p with
        sramTemp := (rs.filter fun r => decide (1032 ≤ r.1)).foldl (fun t r => Tab.put t r.1 r.2) p.sramTemp } }

/-- THERMAL_LEVEL_TICK (R311): each millisecond a column's thermal level rises while a hot core finds no relief, or falls
once every core reads 5 °C below THOT. -/
def execThermalLevelTick (col : Nat) (s : State) : Host.Outcome State Fault Refusal :=
  let c := s.cluster col
  if s.time < c.thermalAt + 1000000 then .next s
  else
    let cores := (List.range 8).map fun i => s.core (col * 8 + i)
    let rises := cores.any fun x => x.hot && (c.noTarget || x.relieved)
    let cool := cores.all fun x => decide (x.temp.toInt ≤ s.power.thot.toInt - 80)
    .next (s.setCluster col
      (if rises then { c with thermal := min 12 (c.thermal + 1), thermalAt := s.time }
       else if cool then { c with thermal := c.thermal - 1, thermalAt := s.time, noTarget := false }
       else { c with thermalAt := s.time }))

end Sys2Proof.Machine
end

