-- ==== Sys2Proof/Machine/Platform.lean ====
section
/-! DEFINITION. The register BAR, attestation, custody and the sideband (spec/15_platform.md R328 to R338, with the
register tables of R146, R163, R273, R280, R296, R322 and R323). -/

namespace Sys2Proof.Machine

/-! ## Registers as they read -/

/-- The device block's word 0x008. -/
def Platform.statusWord (p : Platform) : Nat := place (b2n p.minimal) 63 1 + place p.lc 60 3 + place p.reason 8 8 + place p.fails 0 8

/-- The device block (R328). -/
def State.readDevice (s : State) (o : Nat) : Nat :=
  match o with
  | 0x000 => 0x0768A101
  | 0x008 => s.plat.statusWord
  | 0x010 => s.plat.hdmbase
  | _ => 0

/-- Queues and the event ring (R273). -/
def State.readLaunch (s : State) (o : Nat) : Nat :=
  let r := s.launchRegs
  match o with
  | 0x000 => r.qtab
  | 0x010 => (s.die 0).seed.toNat
  | 0x018 => (s.die 1).seed.toNat
  | 0x020 => (s.die 2).seed.toNat
  | 0x028 => (s.die 3).seed.toNat
  | 0x030 => place (b2n r.evEn) 63 1 + r.evBase + r.evSizelog
  | 0x038 => r.evHead
  | 0x040 => r.evTail
  | 0x048 => place r.timeus 32 16 + place r.cnt 0 16
  | _ => 0

/-- Translation, package (R163). -/
def State.readTrans (s : State) (o : Nat) : Nat :=
  match o with
  | 0x000 => s.trans.base + b2n s.trans.en
  | 0x008 => s.trans.invva
  | 0x018 => place (b2n !s.trans.inval.isEmpty) 63 1
  | _ => 0

/-- Fault commands of a die (R163). -/
def State.readFault (s : State) (d o : Nat) : Nat :=
  let x := s.die d
  if o = 0x008 then place (b2n !x.frwait.isEmpty) 63 1 + place x.frecs.length 32 13 + place x.logged 0 32 else 0

/-- The Well of a die (R146). -/
def State.readWell (s : State) (d o : Nat) : Nat :=
  let x := s.die d
  if o < 0x080 then ((List.range 64).map fun b => if x.retired.contains (o * 8 + b) then 0 else 2 ^ b).sum
  else match o with
    | 0x080 => place x.liveBanks 32 11 + place x.slots 0 20
    | 0x088 => place x.codes 32 23 + place x.cistern 0 23
    | 0x090 => place x.ue 48 16 + place x.corr 32 16 + place x.refetch 0 32
    | 0x098 => place (b2n x.restitch.isSome) 63 1 + place x.rstatus 60 3
    | 0x0A0 => place x.wrestore.toNat 16 16 + place x.wretire.toNat 0 16
    | 0x0A8 => place (x.tiles.filter (·.2.pinned)).length 0 13
    | _ => 0

/-- Frames of the pool in use. -/
def State.framesUsed (s : State) : Nat := (s.blocks.filter fun e => !e.2.monitor).length

/-- The save pool and the freeze commands (R280). -/
def State.readPool (s : State) (o : Nat) : Nat :=
  match o with
  | 0x000 => place (b2n s.pool.en) 63 1 + s.pool.base
  | 0x008 => s.pool.frames
  | 0x010 => s.pool.saveva
  | 0x018 => s.pool.frames - s.framesUsed
  | 0x028 => (s.blocks.filter fun e => e.2.place == .frozen).length
  | _ => 0

/-- The debug registers of a cluster (R296). -/
def State.readDebug (s : State) (col o : Nat) : Nat :=
  let d := (s.cluster col).dbg
  if o = 0x000 then place (b2n d.en) 63 1 + d.asid
  else if o = 0x008 then d.entry.toNat
  else if o = 0x018 then d.reqseq.toNat
  else if o = 0x020 then d.rspseq.toNat
  else if 0x040 ≤ o ∧ o < 0x080 then (Tab.getD d.req ((o - 0x040) / 8) 0).toNat
  else if 0x080 ≤ o ∧ o < 0x0C0 then (Tab.getD d.rsp ((o - 0x080) / 8) 0).toNat
  else 0

/-- A breakpoint's word (R322). -/
def Breakpoint.word (b : Breakpoint) : Nat := place (b2n b.en) 63 1 + place b.frac 32 11 + b.thr.toNat

/-- The supply of a column in millivolts: that of its level with its trim (R299). -/
def State.supply (s : State) (col : Nat) : Nat := 600 - 15 * (s.cluster col).level + (Config.trim col).val

/-- Whether one bound sets a column's level rather than the other, in the midst of a change too (R299, R322); at a tie each
does (DESIGN CHOICE, log entry 114). -/
def setsLevel (level mine other : Nat) : Bool := decide (0 < level) && decide (0 < mine) && decide (other ≤ mine)

/-- COLSTAT of a column (R322). -/
def State.colstat (s : State) (col : Nat) : Nat :=
  let c := s.cluster col
  let t0 := (s.core (col * 8)).temp
  let tmax := (List.range 8).foldl (fun m i => let t := (s.core (col * 8 + i)).temp; if m.toInt < t.toInt then t else m) t0
  place tmax.toNat 48 16 + place (s.supply col) 32 10 + place (b2n (setsLevel c.level s.power.clamp c.thermal)) 9 1 +
    place (b2n (setsLevel c.level c.thermal s.power.clamp)) 8 1 + place c.level 0 4

/-- The power registers (R322). -/
def State.readPower (s : State) (o : Nat) : Nat :=
  let p := s.power
  match o with
  | 0x000 => place (b2n p.stpEn) 63 1 + place p.nomf 32 17 + place p.hystv 24 8 + place p.hystf 0 16
  | 0x008 => place (b2n p.lost) 63 1 + place p.crcerr 32 16 + place p.seqskip 16 16 + place p.valid 0 16
  | 0x010 => p.stplast.toNat
  | 0x018 => place p.pbudget 48 16 + place p.lossfrac 32 11 + place p.lossms 24 8 + place p.battfrac 10 11 + place p.shedfloor 0 3
  | 0x020 => place p.cap 32 11 + place p.shed.toNat 16 8 + place p.clamp 0 4
  | 0x028 => place (b2n p.pumpen) 63 1 + place p.slope 0 8
  | 0x030 => place p.ttrip.toNat 48 16 + place p.thot.toNat 32 16 + place p.tmaxtgt.toNat 16 16 + place p.tmargin.toNat 8 8 +
      place p.migwait.toNat 0 8
  | _ =>
    if 0x040 ≤ o ∧ o < 0x080 then Tab.getD p.classdraw ((o - 0x040) / 8) 0
    else if o = 0x080 then p.basedraw
    else if 0x0C0 ≤ o ∧ o < 0x140 then (Tab.getD p.fbp ((o - 0x0C0) / 8) {}).word
    else if 0x140 ≤ o ∧ o < 0x1C0 then (Tab.getD p.vbp ((o - 0x140) / 8) {}).word
    else if 0x200 ≤ o ∧ o < 0x500 then s.colstat ((o - 0x200) / 8)
    else 0

/-- The peer block (R330). -/
def State.readPeers (s : State) (o : Nat) : Nat :=
  let p := s.plat
  if o = 0x000 then place (b2n p.peerEn) 63 1 + place p.peerSize 30 11 + place p.peerSelf 0 10
  else if o = 0x008 then p.peerBase
  else if 0x400 ≤ o ∧ o < 0x2400 then
    let e := Tab.getD p.peertab ((o - 0x400) / 8) (false, 0)
    place (b2n e.1) 63 1 + place e.2 0 10
  else 0

/-- A register of the BAR as an access of `n` bytes reads it: what no block defines reads zero, and so does every access that is
not an aligned 8-byte word (R328).  In minimal mode the BAR does not work (R334), and during a start or a warm reset it is not
served either: every read gives 0 (DEDUCED, log entry 80). -/
def State.regRead (s : State) (off : Nat) (n : Nat := 8) : Nat :=
  if n ≠ 8 ∨ off % 8 ≠ 0 ∨ !s.up then 0
  else if off < 0x100000 then s.readDevice off
  else if off < 0x200000 then s.readLaunch (off - 0x100000)
  else if off < 0x300000 then s.readTrans (off - 0x200000)
  else if off < 0x340000 then s.readFault ((off - 0x300000) / 0x10000) (off % 0x10000)
  else if 0x400000 ≤ off ∧ off < 0x440000 then s.readWell ((off - 0x400000) / 0x10000) (off % 0x10000)
  else if 0x500000 ≤ off ∧ off < 0x600000 then s.readPool (off - 0x500000)
  else if 0x600000 ≤ off ∧ off < 0x660000 then s.readDebug ((off - 0x600000) / 0x1000) (off % 0x1000)
  else if 0x700000 ≤ off ∧ off < 0x800000 then s.readPower (off - 0x700000)
  else if 0x800000 ≤ off ∧ off < 0x900000 then (s.queue ((off - 0x800000) / 8)).energy / 1000 % 2 ^ 64
  else if 0xA00000 ≤ off ∧ off < 0xB00000 then s.readPeers (off - 0xA00000)
  else 0

/-- A queue's notify page as an access of `n` bytes reads it (R257). -/
def State.notifyRead (s : State) (q off : Nat) (n : Nat := 8) : Nat :=
  if n ≠ 8 then 0 else if off = 0 then (s.queue q).tail else if off = 8 then (s.queue q).head else 0

/-! ## Registers as they are written (R328) -/

/-- The queue and ring registers without a step of their own. -/
def State.writeLaunch (s : State) (o v : Nat) : State :=
  let r := s.launchRegs
  let seed := fun d => if v = 0 then s else s.setDie d { s.die d with seed := BitVec.ofNat 64 v }
  match o with
  | 0x000 => { s with launchRegs := { r with qtab := bitsAt v 12 40 * 4096 } }
  | 0x010 => seed 0
  | 0x018 => seed 1
  | 0x020 => seed 2
  | 0x028 => seed 3
  | 0x030 => { s with launchRegs := { r with evEn := bitAt v 63, evBase := bitsAt v 12 40 * 4096, evSizelog := bitsAt v 0 5 } }
  | 0x048 => ({ s with launchRegs := { r with timeus := bitsAt v 32 16, cnt := bitsAt v 0 16 } } : State).reportIfDue
  | _ => s

/-- The translation registers without a step of their own. -/
def State.writeTrans (s : State) (o v : Nat) : State :=
  match o with
  | 0x000 => { s with trans := { s.trans with base := bitsAt v 12 40 * 4096, en := bitAt v 0 } }
  | 0x008 => s.setInvva v
  | _ => s

/-- The save pool's registers, which do not change while a frame is in use (R280). -/
def State.writePool (s : State) (o v : Nat) : State :=
  if s.framesUsed ≠ 0 then s
  else match o with
    | 0x000 => { s with pool := { s.pool with en := bitAt v 63, base := bitsAt v 22 30 * 2 ^ 22 } }
    | 0x008 => { s with pool := { s.pool with frames := min (bitsAt v 0 17) 65536 } }
    | 0x010 => { s with pool := { s.pool with saveva := bitsAt v 22 42 * 2 ^ 22 } }
    | _ => s

/-- The debug registers without a step of their own. -/
def State.writeDebug (s : State) (col o v : Nat) : State :=
  let w := BitVec.ofNat 64 v
  if o = 0x008 then s.setDbg col fun d => { d with entry := w }
  else if o = 0x018 then s.setDbg col fun d => { d with reqseq := w }
  else if 0x040 ≤ o ∧ o < 0x080 then s.setDbg col fun d => { d with req := Tab.put d.req ((o - 0x040) / 8) w }
  else if 0x080 ≤ o ∧ o < 0x0C0 then s.setDbg col fun d => { d with rsp := Tab.put d.rsp ((o - 0x080) / 8) w }
  else s

/-- STPCFG written: with EN clear the cap is 1,024, and the port's silence is counted from EN's setting (R314, R315). -/
def Power.writeCfg (p : Power) (v time : Nat) : Power :=
  let en := bitAt v 63
  let p' := { p with stpEn := en, nomf := bitsAt v 32 17, hystv := bitsAt v 24 8, hystf := bitsAt v 0 16 }
  if !en then { p' with cap := 1024 } else if p.stpEn then p' else { p' with lastAt := time, lost := false }

/-- The power registers (R322). -/
def State.writePower (s : State) (o v : Nat) : State :=
  let p := s.power
  let bp : Breakpoint := { en := bitAt v 63, frac := bitsAt v 32 11, thr := BitVec.ofNat 32 v }
  match o with
  | 0x000 => { s with power := (p.writeCfg v s.time).noteHold s.time }
  | 0x018 =>
    let p := { p with
      pbudget := bitsAt v 48 16, lossfrac := bitsAt v 32 11, lossms := bitsAt v 24 8, battfrac := bitsAt v 10 11
      shedfloor := bitsAt v 0 3 }
    { s with power := p.noteHold s.time }
  | 0x028 => { s with power := { p with pumpen := bitAt v 63, slope := bitsAt v 0 8 } }
  | 0x030 => { s with power := { p with
      ttrip := BitVec.ofNat 16 (bitsAt v 48 16), thot := BitVec.ofNat 16 (bitsAt v 32 16)
      tmaxtgt := BitVec.ofNat 16 (bitsAt v 16 16), tmargin := BitVec.ofNat 8 (bitsAt v 8 8), migwait := BitVec.ofNat 8 v } }
  | _ =>
    if 0x0C0 ≤ o ∧ o < 0x140 then { s with power := { p with fbp := Tab.put p.fbp ((o - 0x0C0) / 8) bp } }
    else if 0x140 ≤ o ∧ o < 0x1C0 then
      { s with power := { p with vbp := Tab.put p.vbp ((o - 0x140) / 8) { bp with thr := BitVec.ofNat 32 (bitsAt v 0 16) } } }
    else s

/-- The peer block (R330). -/
def State.writePeers (s : State) (o v : Nat) : State :=
  let p := s.plat
  if o = 0x000 then { s with plat := { p with peerEn := bitAt v 63, peerSize := bitsAt v 30 11, peerSelf := bitsAt v 0 10 } }
  else if o = 0x008 then { s with plat := { p with peerBase := bitsAt v 30 34 * 2 ^ 30 } }
  else if 0x400 ≤ o ∧ o < 0x2400 then
    { s with plat := { p with peertab := Tab.put p.peertab ((o - 0x400) / 8) (bitAt v 63, bitsAt v 0 10) } }
  else s

/-- WTHERM of a die (R146). -/
def State.writeWell (s : State) (d o v : Nat) : State :=
  if o = 0x0A0 then
    s.setDie d { s.die d with wrestore := BitVec.ofNat 16 (bitsAt v 16 16), wretire := BitVec.ofNat 16 (bitsAt v 0 16) }
  else s

/-- The registers without a step of their own. -/
def State.writeField (s : State) (off v : Nat) : State :=
  if off = 0x10 then { s with plat := { s.plat with hdmbase := bitsAt v 30 34 * 2 ^ 30 } }
  else if 0x100000 ≤ off ∧ off < 0x200000 then s.writeLaunch (off - 0x100000) v
  else if 0x200000 ≤ off ∧ off < 0x300000 then s.writeTrans (off - 0x200000) v
  else if 0x400000 ≤ off ∧ off < 0x440000 then s.writeWell ((off - 0x400000) / 0x10000) (off % 0x10000) v
  else if 0x500000 ≤ off ∧ off < 0x600000 then s.writePool (off - 0x500000) v
  else if 0x600000 ≤ off ∧ off < 0x660000 then s.writeDebug ((off - 0x600000) / 0x1000) (off % 0x1000) v
  else if 0x700000 ≤ off ∧ off < 0x800000 then s.writePower (off - 0x700000) v
  else if 0xA00000 ≤ off ∧ off < 0xB00000 then s.writePeers (off - 0xA00000) v
  else s

/-- FCMD of a die (R163). -/
def State.faultCommand (s : State) (d v : Nat) : Host.Outcome State Fault Refusal :=
  let asid := bitsAt v 32 16
  let id := bitsAt v 0 12
  match bitsAt v 60 4 with
  | 1 => execFcmdReplayRecord d id s
  | 2 => execFcmdCancelRecord d id s
  | 3 => execFcmdReplayAsid d asid s
  | 4 => execFcmdCancelAsid d asid s
  | _ => .next s

/-- FRZCMD (R280). -/
def State.freezeCommand (s : State) (v : Nat) : Host.Outcome State Fault Refusal :=
  let q := bitsAt v 32 17
  let f := bitsAt v 0 17
  match bitsAt v 60 4 with
  | 1 => execFrzcmdFreezeBlock f s
  | 2 => execFrzcmdResumeBlock f s
  | 3 => execFrzcmdTerminateBlock f s
  | 4 => execFrzcmdFreezeQueue q s
  | 5 => execFrzcmdResumeQueue q s
  | _ => .next s

/-- The registers whose write is a command, in ascending order of offset; none for another register (R143, R163, R273, R280,
R296, R328). -/
def State.command (s : State) (off : Nat) (val : Word64) : Option (Host.Outcome State Fault Refusal) :=
  let v := val.toNat
  let op := bitsAt v 60 4
  if off = 0x18 then some (if op = 1 then execResetctlWarmReset s else .next s)
  else if off = 0x100008 then
    some (if op = 1 then execQcmdEnable (bitsAt v 0 17) s else if op = 2 then execQcmdDisable (bitsAt v 0 17) s else .next s)
  else if off = 0x100040 then some (execEvtailWrite val s)
  else if off = 0x200010 then
    some (match op with
      | 1 => execInvcmdPage (bitsAt v 32 16) s.trans.invva (bitsAt v 48 2) s
      | 2 => execInvcmdAsid (bitsAt v 32 16) s
      | 3 => execInvcmdAll s
      | _ => .next s)
  else if 0x300000 ≤ off ∧ off < 0x340000 ∧ off % 0x10000 = 0 then some (s.faultCommand ((off - 0x300000) / 0x10000) v)
  else if 0x400000 ≤ off ∧ off < 0x440000 ∧ off % 0x10000 = 0x98 then
    some (let d := (off - 0x400000) / 0x10000
      match bitsAt v 16 2 with
      | 1 => execWrestitchRetire d (bitsAt v 0 10) s
      | 2 => execWrestitchRestore d (bitsAt v 0 10) s
      | _ => .next s)
  else if off = 0x500020 then some (s.freezeCommand v)
  else if 0x600000 ≤ off ∧ off < 0x660000 then
    let col := (off - 0x600000) / 0x1000
    match off % 0x1000 with
    | 0x000 => some (execDbgEnable col val s)
    | 0x010 => some (match op with
      | 1 => execDbgrunStop col (bitsAt v 0 8) s
      | 2 => execDbgrunStep col (bitsAt v 0 8) s
      | 3 => execDbgrunResume col (bitsAt v 0 8) s
      | _ => .next s)
    | 0x020 => some (execRspseqWrite col val s)
    | _ => none
  else none

/-- REGISTER_WRITE (R328): an aligned write of 8 bytes carries out its register's command, or writes the register; one that is
not aligned, and every one while the BAR is not served, is ignored. -/
def execRegisterWrite (off : Nat) (val : Word64) (s : State) : Host.Outcome State Fault Refusal :=
  if !s.up ∨ off % 8 ≠ 0 then .next s
  else (s.command off val).getD (.next (s.writeField off val.toNat))

/-! ## The register BAR as teams reach it (R146, R296): log entry 19 -/

/-- A write of some size to the register BAR: one that is not of 8 bytes is ignored (R328). -/
def State.regWrite (s : State) (off n : Nat) (val : Word64) : State :=
  if n ≠ 8 then s
  else match execRegisterWrite off val s with
    | .next t => t
    | _ => s

/-- One piece of a team's access to the register BAR, whose line lies at an offset there: a load reads the register, a store
writes it, and every other access is ignored and reads zero (R328). -/
def State.regPiece (s : State) (d base : Nat) (r : Req) (p : Piece) : State :=
  let off := base + p.va % 128
  let n := if p.off = 0 then p.n else 0
  let s := if r.op == .store && !s.isDup r.ctx r.tag p.id then s.regWrite off n (BitVec.ofNat 64 p.data.toNat) else s
  let s := if !r.op.writes then s
    else if s.isDup r.ctx r.tag p.id then s.freeSupp (.mouth d) r.ctx r.tag r.low
    else s.record (.mouth d) r.ctx r.tag r.low p.id (if r.op.isAtomic then some 0 else none)
  s.credit r.ctx r.ent p.id p.lane
    (if r.op == .load then p.got (s.regRead off n) else if r.op.reads then p.got 0 else [])

/-- A team's request that waits at a line of the register BAR is performed there, in its turn at that line. -/
def State.mmio (s : State) (d idx : Nat) : State :=
  match (s.die d).waits[idx]? with
  | none => s
  | some w =>
    let first := ((s.die d).waits.filter fun v => v.key == w.key && !s.linesHeld v.req [w.key]).head?
    match w.tr.bind fun t => s.barLine t.1 with
    | none => s
    | some base =>
      if first ≠ some w ∨ w.req.op.maint then s
      else
        let s := w.req.pieces.foldl (fun s p => s.regPiece d base w.req p) s
        s.finishWait d w

/-! ## Configuration space (R325, R326) -/

/-- The options that the device supports. -/
def CfgOption.supported : CfgOption → Bool
  | .memorySpace | .busMaster | .msix | .aer | .cxlCache | .cxlMem | .hdmDecoder | .ideIo | .ideCache | .ideMem => true
  | _ => false

/-- A host's write of an enable bit; that of an option which is not supported stays 0. -/
def State.configWrite (s : State) (o : CfgOption) (on : Bool) : State :=
  let rest := s.plat.cfg.filter (· != o)
  if s.plat.off then s else { s with plat := { s.plat with cfg := if on && o.supported then rest ++ [o] else rest } }

/-- An enable bit as the host reads it. -/
def State.configRead (s : State) (o : CfgOption) : Bool := s.plat.cfg.contains o

/-- The device block's word 0x008 in the Denuitos DVSEC, minimal mode included (R340). -/
def State.configStatus (s : State) : Nat := s.plat.statusWord

/-- The host places the register BAR, a multiple of 16 MiB. -/
def State.placeBar (s : State) (hpa : Nat) : State :=
  if s.plat.off then s else { s with plat := { s.plat with barBase := some (hpa / 2 ^ 24 * 2 ^ 24) } }

/-! ## The sideband (R332, R333) -/

/-- A request on the sideband: none without supply, and status 1 while another is served. -/
def State.sideband (s : State) (f : State → State) : State :=
  if s.plat.off then s else if s.plat.sbBusy then s.emit (.sideband [1]) else f s

/-- STATUS (R333): command 0x01. -/
def execStatus (s : State) : Host.Outcome State Fault Refusal :=
  .next (s.sideband fun s => s.emit (.sideband (0 :: toBytes 8 s.plat.statusWord ++ toBytes 8 s.plat.starts)))

/-- The step at which the last start stopped, or that the present one has reached (R334). -/
def Platform.stepReached (p : Platform) : Nat := if p.booting ∧ 0 < p.step then p.step else p.stopped

/-- REASON (R333): command 0x02. -/
def execReason (s : State) : Host.Outcome State Fault Refusal :=
  .next (s.sideband fun s => s.emit (.sideband
    (0 :: toBytes 1 s.plat.reason ++ toBytes 1 s.plat.fails ++ toBytes 1 s.plat.stepReached)))

/-- WIPE (R333): command 0x04; the answer, then a warm reset. -/
def execWipe (s : State) : Host.Outcome State Fault Refusal := .next (s.sideband fun s => (s.emit (.sideband [0])).warm)

/-- MCTP_CONTROL (R332). -/
def execMctpControl (msg : List Byte) (s : State) : Host.Outcome State Fault Refusal :=
  .next (s.sideband fun s => s.emit (.mctp (Config.mctpAnswer msg)))

/-- The value of a PLDM sensor: core temperatures, column supplies, package power, and the measurements of the shelf;
0 for a number that no sensor has (DESIGN CHOICE, log entry 119). -/
def State.sensor (s : State) (n : Nat) : Nat :=
  if n < 768 then (s.core n).temp.toNat
  else if n < 864 then s.supply (n - 768)
  else if n = 864 then Config.packagePower s.free
  else if n = 865 then s.power.freq
  else if n = 866 then s.power.vbus
  else 0

/-- PLDM_SENSOR_READ (R332). -/
def execPldmSensorRead (sensor : Nat) (s : State) : Host.Outcome State Fault Refusal :=
  .next (s.sideband fun s => { s.emit (.sensor sensor (s.sensor sensor)) with free := s.free + 1 })

/-- A vendor request with a command byte that no command has is answered 3 (R333). -/
def State.otherCommand (s : State) (cmd : Nat) : State :=
  if 1 ≤ cmd ∧ cmd ≤ 5 then s else s.sideband fun s => s.emit (.sideband [3])

/-- An image received whole: one that verifies is written to flash, and one that fails is discarded (R336).  It takes the place
of an earlier one whose write is still running (DESIGN CHOICE, log entry 118). -/
def State.receiveImage (s : State) (image : List Byte) : State :=
  if Config.imageVerifies image then { s with plat := { s.plat with incoming := some image } } else s

/-- FIRMWARE_UPDATE (R336): an update by PLDM. -/
def execFirmwareUpdate (image : List Byte) (s : State) : Host.Outcome State Fault Refusal :=
  .next (s.sideband fun s => s.receiveImage image)

/-- An update through the recovery mailbox, in minimal mode. -/
def State.mailbox (s : State) (image : List Byte) : State := if s.plat.minimal && !s.plat.off then s.receiveImage image else s

/-- The flash write of an update ends: flash holds the image, which takes effect at the next reset (R336). -/
def State.flashDone (s : State) : State :=
  match s.plat.incoming with
  | none => s
  | some i => { s with plat := { s.plat with flash := some i, incoming := none } }

/-- The image that the present start runs. -/
def Platform.image (p : Platform) : List Byte := p.boot.getD []

/-- The configuration measurement: it follows the repaired banks of each die (R337). -/
def State.configDigest (s : State) : BitVec 256 := Config.configMeasurement ((List.range 4).map fun d => (s.die d).repair)

/-- The body of an attestation report (R337). -/
def State.reportBody (s : State) (nonce : BitVec 256) : List Byte :=
  toBytes 32 nonce.toNat ++ toBytes 32 Config.romMeasurement.toNat ++ toBytes 32 (Config.imageMeasurement s.plat.image).toNat ++
    toBytes 32 s.configDigest.toNat ++ toBytes 4 s.plat.lc ++ toBytes 4 s.plat.sigIndex

/-- A signature's 2,692 bytes. -/
def signatureBytes (body : List Byte) (i : Nat) : List Byte := ((Config.signature body i) ++ List.replicate 2692 0).take 2692

/-- ATTEST (R337): command 0x03; the signature index rises before the report is released, and past 65,535 nothing is signed. -/
def execAttest (nonce : BitVec 256) (s : State) : Host.Outcome State Fault Refusal :=
  .next (s.sideband fun s =>
    if 65536 ≤ s.plat.sigIndex then s.emit (.sideband [4])
    else
      let body := s.reportBody nonce
      let i := s.plat.sigIndex
      { s.emit (.sideband (0 :: body ++ signatureBytes body i)) with plat := { s.plat with sigIndex := i + 1 } })

/-- The transitions of the life cycle (R338). -/
def lifeCycleAllows (old new : Nat) : Bool :=
  (old == 0 && new == 1) || (old == 1 && (new == 2 || new == 3)) || (old == 2 && new == 3) || (old == 3 && new == 1)

/-- TRANSITION (R338): command 0x05; a bad token is answered 5, a transition that is not allowed 2; else the wipe comes
before the new state takes effect. -/
def execTransition (target : Nat) (token : List Byte) (s : State) : Host.Outcome State Fault Refusal :=
  .next (s.sideband fun s =>
    if !Config.tokenVerifies s.plat.image s.plat.lc target token then s.emit (.sideband [5])
    else if !lifeCycleAllows s.plat.lc target then s.emit (.sideband [2])
    else
      let s := s.emit (.sideband [0])
      ({ s with plat := { s.plat with lcNext := some target } } : State).warm)

end Sys2Proof.Machine
end

