-- ==== Sys2Proof/Machine/VInt.lean ====
section
/-! DEFINITION. The integer and logic instructions of the vector mould, VSEL and VMOV (spec/18_ref_trap_vmul.md
R407 to R410, R417; spec/19_ref_vmulh_zwr.md R425 to R427). -/

namespace Sys2Proof.Machine

/-- The mould: each active lane of VD gets `g` of its sources, read at issue (R408, R36, R38). -/
def State.vecOp (s : State) (ctx : Nat) (f : VF) (g : Nat → Nat → Nat → Nat) : Issued :=
  let t := s.team ctx
  let ty := f.ty.toNat
  let imm := f.imm.toNat
  s.results ctx <| ((t.active (s.widthOf ctx) f.pm f.pn).map fun l =>
    laneResult ty f.vd.toNat l
      (g (t.operand ty f.va.toNat imm l) (t.operand ty f.vb.toNat imm l) (t.operand ty f.vc.toNat imm l))).flatten

/-- Element by element on exact integers, brought into the type (R98, R107). -/
def intElems (ty : Nat) (sat : Bool) (h : Int → Int → Int → Int) (a b c : Nat) : Nat :=
  buildElems ty fun i =>
    narrowInt ty sat (h (elemInt ty (elemAt ty a i)) (elemInt ty (elemAt ty b i)) (elemInt ty (elemAt ty c i)))

/-- Element by element on the bits. -/
def bitElems (ty : Nat) (h : Nat → Nat → Nat) (a b : Nat) : Nat :=
  buildElems ty fun i => h (elemAt ty a i) (elemAt ty b i)

/-- VADD: a + b, wrapped, or clamped with SAT (R409). -/
def execVadd (f : VF) (s : State) : Host.Outcome State Fault Refusal :=
  s.atIssue (.vadd f) fun ctx => s.vecOp ctx f (intElems f.ty.toNat f.sat fun a b _ => a + b)

/-- VSUB: a − b (R426). -/
def execVsub (f : VF) (s : State) : Host.Outcome State Fault Refusal :=
  s.atIssue (.vsub f) fun ctx => s.vecOp ctx f (intElems f.ty.toNat f.sat fun a b _ => a - b)

/-- VMUL: a × b (R409). -/
def execVmul (f : VF) (s : State) : Host.Outcome State Fault Refusal :=
  s.atIssue (.vmul f) fun ctx => s.vecOp ctx f (intElems f.ty.toNat f.sat fun a b _ => a * b)

/-- VMULH: bits [2n − 1:n] of the exact product (R426). -/
def execVmulh (f : VF) (s : State) : Host.Outcome State Fault Refusal :=
  s.atIssue (.vmulh f) fun ctx =>
    s.vecOp ctx f (intElems f.ty.toNat false fun a b _ => a * b / (2 ^ tyBits f.ty.toNat : Nat))

/-- VMAD: a × b + c, formed exactly (R409). -/
def execVmad (f : VF) (s : State) : Host.Outcome State Fault Refusal :=
  s.atIssue (.vmad f) fun ctx => s.vecOp ctx f (intElems f.ty.toNat f.sat fun a b c => a * b + c)

/-- VMIN: the lesser of a and b (R409). -/
def execVmin (f : VF) (s : State) : Host.Outcome State Fault Refusal :=
  s.atIssue (.vmin f) fun ctx => s.vecOp ctx f (intElems f.ty.toNat false fun a b _ => min a b)

/-- VMAX: the greater of a and b (R409). -/
def execVmax (f : VF) (s : State) : Host.Outcome State Fault Refusal :=
  s.atIssue (.vmax f) fun ctx => s.vecOp ctx f (intElems f.ty.toNat false fun a b _ => max a b)

/-- VAND: bitwise, over all 32 bits (R409). -/
def execVand (f : VF) (s : State) : Host.Outcome State Fault Refusal :=
  s.atIssue (.vand f) fun ctx => s.vecOp ctx f fun a b _ => a &&& b

/-- VOR (R426). -/
def execVor (f : VF) (s : State) : Host.Outcome State Fault Refusal :=
  s.atIssue (.vor f) fun ctx => s.vecOp ctx f fun a b _ => a ||| b

/-- VXOR (R426). -/
def execVxor (f : VF) (s : State) : Host.Outcome State Fault Refusal :=
  s.atIssue (.vxor f) fun ctx => s.vecOp ctx f fun a b _ => a ^^^ b

/-- VSHL: a shifted left by b mod n, wrapped (R426). -/
def execVshl (f : VF) (s : State) : Host.Outcome State Fault Refusal :=
  s.atIssue (.vshl f) fun ctx =>
    s.vecOp ctx f fun a b _ => bitElems f.ty.toNat (fun x y => x * 2 ^ (y % tyBits f.ty.toNat)) a b

/-- VSHR: zero-filling, for every TY (R426). -/
def execVshr (f : VF) (s : State) : Host.Outcome State Fault Refusal :=
  s.atIssue (.vshr f) fun ctx =>
    s.vecOp ctx f fun a b _ => bitElems f.ty.toNat (fun x y => x / 2 ^ (y % tyBits f.ty.toNat)) a b

/-- VSRA: sign-filling, for every TY (R426). -/
def execVsra (f : VF) (s : State) : Host.Outcome State Fault Refusal :=
  s.atIssue (.vsra f) fun ctx =>
    s.vecOp ctx f fun a b _ =>
      let n := tyBits f.ty.toNat
      bitElems f.ty.toNat (fun x y => wrapN n (signed n x / (2 ^ (y % n) : Nat))) a b

/-- VPOPC: the number of one bits (R426). -/
def execVpopc (f : VF) (s : State) : Host.Outcome State Fault Refusal :=
  s.atIssue (.vpopc f) fun ctx =>
    s.vecOp ctx f fun a _ _ => bitElems f.ty.toNat (fun x _ => popcount (tyBits f.ty.toNat) x) a 0

/-- VCLZ: leading zero bits; a zero element gives n (R409). -/
def execVclz (f : VF) (s : State) : Host.Outcome State Fault Refusal :=
  s.atIssue (.vclz f) fun ctx =>
    s.vecOp ctx f fun a _ _ => bitElems f.ty.toNat (fun x _ => tyBits f.ty.toNat - bitLen x) a 0

/-- VMOV: the source's bits, unchanged (R417). -/
def execVmov (f : VF) (s : State) : Host.Outcome State Fault Refusal :=
  s.atIssue (.vmov f) fun ctx => s.vecOp ctx f fun a b _ => if f.vb.toNat = 1023 then b else a

/-- VSEL: a where the k-register is set, b elsewhere (R427). -/
def execVsel (f : VF) (s : State) : Host.Outcome State Fault Refusal :=
  s.atIssue (.vsel f) fun ctx =>
    let t := s.team ctx
    let ty := f.ty.toNat
    s.results ctx <| ((t.active (s.widthOf ctx) f.pm f.pn).map fun l =>
      laneResult ty f.vd.toNat l
        (if (t.kreg f.vc.toNat).getLsbD l then t.operand ty f.va.toNat f.imm.toNat l
          else t.operand ty f.vb.toNat f.imm.toNat l)).flatten

/-- One bit of k-register VD for each active lane (R410). -/
def State.cmpOp (s : State) (ctx : Nat) (f : VF) (h : Nat → Nat → Bool) : Issued :=
  let t := s.team ctx
  let ty := f.ty.toNat
  s.results ctx <| (t.active (s.widthOf ctx) f.pm f.pn).map fun l =>
    (.k f.vd.toNat l,
      some (if h (t.operand ty f.va.toNat f.imm.toNat l) (t.operand ty f.vb.toNat f.imm.toNat l) then 1 else 0))

/-- VCMP (R410). -/
def execVcmp (f : VF) (s : State) : Host.Outcome State Fault Refusal :=
  s.atIssue (.vcmp f) fun ctx =>
    s.cmpOp ctx f fun a b => condInt f.vc.toNat (elemInt f.ty.toNat a) (elemInt f.ty.toNat b)

end Sys2Proof.Machine
end

