-- ==== Sys2Proof/Machine/VFloat.lean ====
section
/-! DEFINITION. The floating-point instructions of the vector mould, VCVT and the transcendentals
(spec/18_ref_trap_vmul.md R410 to R415; spec/19_ref_vmulh_zwr.md R428). -/

namespace Sys2Proof.Machine

/-- Element by element on floating-point values, after DAZ, rounded into the type with FTZ and SAT (R103 to R106). -/
def floatElems (mode : Word64) (f : VF) (h : Nat → FV → FV → FV → FV) (a b c : Nat) : Nat :=
  let ty := f.ty.toNat
  let fm := fmtOf ty
  let rnd := rndOf mode f.rnd
  let val := fun x i => unpack fm (dazIn (modeDaz mode) fm (elemAt ty x i))
  buildElems ty fun i => roundFV fm rnd f.sat (modeFtz mode) (h rnd (val a i) (val b i) (val c i))

/-- VFADD: round(a + b) (R414). -/
def execVfadd (f : VF) (s : State) : Host.Outcome State Fault Refusal :=
  s.atIssue (.vfadd f) fun ctx => s.vecOp ctx f (floatElems (s.team ctx).mode f fun r a b _ => addFV r a b)

/-- VFSUB: round(a − b) (R414). -/
def execVfsub (f : VF) (s : State) : Host.Outcome State Fault Refusal :=
  s.atIssue (.vfsub f) fun ctx => s.vecOp ctx f (floatElems (s.team ctx).mode f fun r a b _ => addFV r a (negFV b))

/-- VFMUL: round(a × b) (R414). -/
def execVfmul (f : VF) (s : State) : Host.Outcome State Fault Refusal :=
  s.atIssue (.vfmul f) fun ctx => s.vecOp ctx f (floatElems (s.team ctx).mode f fun _ a b _ => mulFV a b)

/-- VFMA: a × b + c, the exact value rounded once (R414). -/
def execVfma (f : VF) (s : State) : Host.Outcome State Fault Refusal :=
  s.atIssue (.vfma f) fun ctx =>
    s.vecOp ctx f (floatElems (s.team ctx).mode f fun r a b c => addFV r (mulFV a b) c)

/-- Element by element on the bits of two floating-point sources. -/
def floatBits (ty : Nat) (h : Fmt → Nat → Nat → Nat) (a b : Nat) : Nat :=
  buildElems ty fun i => h (fmtOf ty) (elemAt ty a i) (elemAt ty b i)

/-- VFMIN (R414). -/
def execVfmin (f : VF) (s : State) : Host.Outcome State Fault Refusal :=
  s.atIssue (.vfmin f) fun ctx =>
    s.vecOp ctx f fun a b _ => floatBits f.ty.toNat (fun fm => minMaxBits fm (modeDaz (s.team ctx).mode) false) a b

/-- VFMAX (R414). -/
def execVfmax (f : VF) (s : State) : Host.Outcome State Fault Refusal :=
  s.atIssue (.vfmax f) fun ctx =>
    s.vecOp ctx f fun a b _ => floatBits f.ty.toNat (fun fm => minMaxBits fm (modeDaz (s.team ctx).mode) true) a b

/-- VFCMP: DAZ applies, −0.0 equals +0.0 (R410). -/
def execVfcmp (f : VF) (s : State) : Host.Outcome State Fault Refusal :=
  s.atIssue (.vfcmp f) fun ctx =>
    let daz := modeDaz (s.team ctx).mode
    s.cmpOp ctx f fun a b => condFloat f.vc.toNat (unpack fF32 (dazIn daz fF32 a)) (unpack fF32 (dazIn daz fF32 b))

/-- VFCLASS: the class of the input as it stands (R414, R104). -/
def execVfclass (f : VF) (s : State) : Host.Outcome State Fault Refusal :=
  s.atIssue (.vfclass f) fun ctx => s.vecOp ctx f fun a _ _ => floatBits f.ty.toNat (fun fm x _ => classBits fm x) a 0

/-- VFRND: rounded to an integral value (R414). -/
def execVfrnd (f : VF) (s : State) : Host.Outcome State Fault Refusal :=
  s.atIssue (.vfrnd f) fun ctx =>
    let m := (s.team ctx).mode
    s.vecOp ctx f fun a _ _ =>
      floatBits f.ty.toNat (fun fm x _ => integralBits fm (rndOf m f.rnd) (modeFtz m) (modeDaz m) x) a 0

/-- One element converted from a source type to a destination type (R110, R412). -/
def convElem (mode : Word64) (rnd : Nat) (sat : Bool) (src dst x : Nat) : Nat :=
  let wide := fun ty => tyF ty
  let into := fun (v : FV) =>
    if wide dst then roundFV (fmtOf dst) rnd sat (modeFtz mode) v else roundNarrow (fmtOf dst) rnd sat v
  if tyInt src then
    let v := elemInt src x
    if tyInt dst then narrowInt dst (sat && decide (tyBits dst ≤ tyBits src)) v else into (.fin (decide (v < 0)) v.natAbs 0)
  else
    let fm := fmtOf src
    let v := unpack fm (if wide src then dazIn (modeDaz mode) fm x else x)
    if tyInt dst then toIntBits rnd (tyBits dst) (tySigned dst) v else into v

/-- The converted lane: with more destination elements than source elements the part is written into what VD holds (R412). -/
def cvtLane (mode : Word64) (f : VF) (old a : Nat) : Nat :=
  let src := cvtSrc f
  let dst := f.ty.toNat
  let p := cvtPart f
  let conv := convElem mode (rndOf mode f.rnd) f.sat src dst
  let ns := tyCount src
  if ns < tyCount dst then
    buildElems dst fun i => if p * ns ≤ i ∧ i < p * ns + ns then conv (elemAt src a (i - p * ns)) else elemAt dst old i
  else buildElems dst fun j => conv (elemAt src a (p * tyCount dst + j))

/-- VCVT (R411, R412). -/
def execVcvt (f : VF) (s : State) : Host.Outcome State Fault Refusal :=
  s.atIssue (.vcvt f) fun ctx =>
    let t := s.team ctx
    s.results ctx <| ((t.active (s.widthOf ctx) f.pm f.pn).map fun l =>
      laneResult f.ty.toNat f.vd.toNat l
        (cvtLane t.mode f (t.vreg f.vd.toNat l).toNat (t.operand (cvtSrc f) f.va.toNat f.imm.toNat l))).flatten

/-- A transcendental on each element (R116, R117). -/
def transElems (mode : Word64) (op : Nat) (f : VF) (a : Nat) : Nat :=
  floatBits f.ty.toNat (fun fm x _ => transBits op f.ty.toNat fm (modeFtz mode) (modeDaz mode) x) a 0

/-- VRCP: 1 / a (R428). -/
def execVrcp (f : VF) (s : State) : Host.Outcome State Fault Refusal :=
  s.atIssue (.vrcp f) fun ctx => s.vecOp ctx f fun a _ _ => transElems (s.team ctx).mode 0 f a

/-- VRSQ: 1 / √a (R428). -/
def execVrsq (f : VF) (s : State) : Host.Outcome State Fault Refusal :=
  s.atIssue (.vrsq f) fun ctx => s.vecOp ctx f fun a _ _ => transElems (s.team ctx).mode 1 f a

/-- VEXP2: 2^a (R415). -/
def execVexp2 (f : VF) (s : State) : Host.Outcome State Fault Refusal :=
  s.atIssue (.vexp2 f) fun ctx => s.vecOp ctx f fun a _ _ => transElems (s.team ctx).mode 2 f a

/-- VLOG2: log2 a (R415). -/
def execVlog2 (f : VF) (s : State) : Host.Outcome State Fault Refusal :=
  s.atIssue (.vlog2 f) fun ctx => s.vecOp ctx f fun a _ _ => transElems (s.team ctx).mode 3 f a

/-- VTANH: tanh a (R428). -/
def execVtanh (f : VF) (s : State) : Host.Outcome State Fault Refusal :=
  s.atIssue (.vtanh f) fun ctx => s.vecOp ctx f fun a _ _ => transElems (s.team ctx).mode 4 f a

end Sys2Proof.Machine
end

