-- ==== Sys2Proof/Machine/VLane.lean ====
section
/-! DEFINITION. Instructions that move or combine values between lanes (spec/18_ref_trap_vmul.md R413, R416;
spec/19_ref_vmulh_zwr.md R429, R430; spec/03_execution.md R37). -/

namespace Sys2Proof.Machine

/-- The span of a context (R37). -/
def State.spanOf (s : State) (ctx : Nat) : Nat := (s.blockOf? ctx).elim 16 (·.span)

/-- The lane index of VEXTR and VINS (R413). -/
def State.laneIndex (s : State) (ctx : Nat) (f : VF) : Nat :=
  if f.vb.toNat = 1023 then f.imm.toNat else ((s.team ctx).sreg (f.vb.toNat - 768)).toNat % s.widthOf ctx

/-- VEXTR: one lane of a v-register into an s-register, whatever the mask (R413). -/
def execVextr (f : VF) (s : State) : Host.Outcome State Fault Refusal :=
  s.atIssue (.vextr f) fun ctx =>
    s.results ctx [(.s (f.vd.toNat - 768),
      some (BitVec.ofNat 1024 ((s.team ctx).operand f.ty.toNat f.va.toNat 0 (s.laneIndex ctx f))))]

/-- VINS: an s-register into one lane of a v-register, whatever the mask (R413). -/
def execVins (f : VF) (s : State) : Host.Outcome State Fault Refusal :=
  s.atIssue (.vins f) fun ctx =>
    s.results ctx (laneResult f.ty.toNat f.vd.toNat (s.laneIndex ctx f) ((s.team ctx).sreg (f.va.toNat - 768)).toNat)

/-- The source position of VSHFL within its group, none for a lane that keeps its own value (R429). -/
def shflPos (mode span j d : Nat) : Option Nat :=
  match mode with
  | 0 => some d
  | 1 => if d ≤ j then some (j - d) else none
  | 2 => if j + d < span then some (j + d) else none
  | _ => some (j ^^^ d)

/-- The count operand of VSHFL and VROT for a lane: an immediate, or a register's low 32 bits modulo the span (R429). -/
def State.shflCount (s : State) (ctx : Nat) (f : VF) (l : Nat) : Nat :=
  if f.vb.toNat = 1023 then f.imm.toNat else (s.team ctx).operand 1 f.vb.toNat 0 l % s.spanOf ctx

/-- Each active lane receives the value of a position of its span group (R429). -/
def State.moveLanes (s : State) (ctx : Nat) (f : VF) (pos : Nat → Nat → Option Nat) : Issued :=
  let t := s.team ctx
  let span := s.spanOf ctx
  if f.vb.toNat = 1023 ∧ span ≤ f.imm.toNat then .trap Cause.badspan 0
  else
    s.results ctx <| ((t.active (s.widthOf ctx) f.pm f.pn).map fun l =>
      let j := l % span
      let src := l - j + (pos j (s.shflCount ctx f l)).getD j
      laneResult f.ty.toNat f.vd.toNat l (t.operand f.ty.toNat f.va.toNat 0 src)).flatten

/-- VSHFL (R429). -/
def execVshfl (f : VF) (s : State) : Host.Outcome State Fault Refusal :=
  s.atIssue (.vshfl f) fun ctx => s.moveLanes ctx f (shflPos f.vc.toNat (s.spanOf ctx))

/-- VROT: position (j + d) mod span (R429). -/
def execVrot (f : VF) (s : State) : Host.Outcome State Fault Refusal :=
  s.atIssue (.vrot f) fun ctx => s.moveLanes ctx f fun j d => some ((j + d) % s.spanOf ctx)

/-- The combining step of VMATCH and VSCAN: 0 add, 1 min, 2 max, 3 and, 4 or, 5 xor.  FTZ and DAZ do not apply (R416, R430). -/
def combine (op ty rnd x y : Nat) : Nat :=
  match op with
  | 0 => if ty = 6 then addF32 rnd x y else (x + y) % 2 ^ tyBits ty
  | 1 => if ty = 6 then minMaxBits fF32 false false x y else if elemInt ty x ≤ elemInt ty y then x else y
  | 2 => if ty = 6 then minMaxBits fF32 false true x y else if elemInt ty y ≤ elemInt ty x then x else y
  | 3 => x &&& y
  | 4 => x ||| y
  | _ => x ^^^ y

/-- An f32 result that is NaN is the canonical NaN (R97). -/
def canonTy (ty x : Nat) : Nat := if ty = 6 then canon fF32 x else x

/-- A reduction of values in order; the first is taken as it stands. -/
def reduceVals (op ty rnd : Nat) : List Nat → Nat
  | [] => 0
  | x :: xs => canonTy ty (xs.foldl (combine op ty rnd) x)

/-- VMATCH: a reduction over the active lanes of the group that share a key (R416). -/
def execVmatch (f : VF) (s : State) : Host.Outcome State Fault Refusal :=
  s.atIssue (.vmatch f) fun ctx =>
    let t := s.team ctx
    let span := s.spanOf ctx
    let ty := f.ty.toNat
    let op := f.vc.toNat
    let act := t.active (s.widthOf ctx) f.pm f.pn
    let key := fun l => t.operand 1 f.va.toNat 0 l
    s.results ctx <| (act.map fun l =>
      let m := act.filter fun x => x / span == l / span && key x == key l
      laneResult ty f.vd.toNat l
        (match op with
          | 6 => m.length
          | 7 => m.headD l
          | _ => reduceVals op ty (rndOf t.mode f.rnd) (m.map fun x => t.operand ty f.vb.toNat f.imm.toNat x))).flatten

/-- The identity of a scan (R430). -/
def scanIdentity (op ty : Nat) : Nat :=
  let n := tyBits ty
  match op with
  | 1 => if ty = 6 then 0x7F800000 else if tySigned ty then 2 ^ (n - 1) - 1 else 2 ^ n - 1
  | 2 => if ty = 6 then 0xFF800000 else if tySigned ty then 2 ^ (n - 1) else 0
  | 3 => 2 ^ n - 1
  | _ => 0

/-- VSCAN: a prefix over the active lanes of each span group, inclusive or exclusive (R430). -/
def execVscan (f : VF) (s : State) : Host.Outcome State Fault Refusal :=
  s.atIssue (.vscan f) fun ctx =>
    let t := s.team ctx
    let span := s.spanOf ctx
    let ty := f.ty.toNat
    let op := bitsAt f.vc.toNat 0 3
    let excl := bitAt f.vc.toNat 3
    let act := t.active (s.widthOf ctx) f.pm f.pn
    s.results ctx <| (act.map fun l =>
      let before := act.filter fun x => x / span == l / span && decide (x < l)
      let vals := (if excl then before else before ++ [l]).map fun x => t.operand ty f.va.toNat f.imm.toNat x
      laneResult ty f.vd.toNat l
        (if vals.isEmpty then scanIdentity op ty else reduceVals op ty (rndOf t.mode f.rnd) vals)).flatten

end Sys2Proof.Machine
end

