-- ==== Sys2Proof/Machine/Dispatch.lean ====
section
/-! DEFINITION. The dispatch: one arm for each constructor of the syntax. -/

namespace Sys2Proof.Machine

/-- What an instruction, or a step of the device, does to the machine. -/
def exec (i : Instr) (s : State) : Host.Outcome State Fault Refusal :=
  match i with
  | .vadd f => Sys2Proof.Machine.execVadd f s
  | .vsub f => Sys2Proof.Machine.execVsub f s
  | .vmul f => Sys2Proof.Machine.execVmul f s
  | .vmulh f => Sys2Proof.Machine.execVmulh f s
  | .vmad f => Sys2Proof.Machine.execVmad f s
  | .vmin f => Sys2Proof.Machine.execVmin f s
  | .vmax f => Sys2Proof.Machine.execVmax f s
  | .vand f => Sys2Proof.Machine.execVand f s
  | .vor f => Sys2Proof.Machine.execVor f s
  | .vxor f => Sys2Proof.Machine.execVxor f s
  | .vshl f => Sys2Proof.Machine.execVshl f s
  | .vshr f => Sys2Proof.Machine.execVshr f s
  | .vsra f => Sys2Proof.Machine.execVsra f s
  | .vcmp f => Sys2Proof.Machine.execVcmp f s
  | .vsel f => Sys2Proof.Machine.execVsel f s
  | .vmov f => Sys2Proof.Machine.execVmov f s
  | .vcvt f => Sys2Proof.Machine.execVcvt f s
  | .vpopc f => Sys2Proof.Machine.execVpopc f s
  | .vclz f => Sys2Proof.Machine.execVclz f s
  | .vextr f => Sys2Proof.Machine.execVextr f s
  | .vins f => Sys2Proof.Machine.execVins f s
  | .vfadd f => Sys2Proof.Machine.execVfadd f s
  | .vfsub f => Sys2Proof.Machine.execVfsub f s
  | .vfmul f => Sys2Proof.Machine.execVfmul f s
  | .vfma f => Sys2Proof.Machine.execVfma f s
  | .vfmin f => Sys2Proof.Machine.execVfmin f s
  | .vfmax f => Sys2Proof.Machine.execVfmax f s
  | .vfcmp f => Sys2Proof.Machine.execVfcmp f s
  | .vfclass f => Sys2Proof.Machine.execVfclass f s
  | .vfrnd f => Sys2Proof.Machine.execVfrnd f s
  | .vrcp f => Sys2Proof.Machine.execVrcp f s
  | .vrsq f => Sys2Proof.Machine.execVrsq f s
  | .vexp2 f => Sys2Proof.Machine.execVexp2 f s
  | .vlog2 f => Sys2Proof.Machine.execVlog2 f s
  | .vtanh f => Sys2Proof.Machine.execVtanh f s
  | .vshfl f => Sys2Proof.Machine.execVshfl f s
  | .vrot f => Sys2Proof.Machine.execVrot f s
  | .vmatch f => Sys2Proof.Machine.execVmatch f s
  | .vscan f => Sys2Proof.Machine.execVscan f s
  | .kand f => Sys2Proof.Machine.execKand f s
  | .kor f => Sys2Proof.Machine.execKor f s
  | .kxor f => Sys2Proof.Machine.execKxor f s
  | .kandn f => Sys2Proof.Machine.execKandn f s
  | .kset f => Sys2Proof.Machine.execKset f s
  | .kpopc f => Sys2Proof.Machine.execKpopc f s
  | .kfirst f => Sys2Proof.Machine.execKfirst f s
  | .kget f => Sys2Proof.Machine.execKget f s
  | .kput f => Sys2Proof.Machine.execKput f s
  | .sadd f => Sys2Proof.Machine.execSadd f s
  | .saddi f => Sys2Proof.Machine.execSaddi f s
  | .ssub f => Sys2Proof.Machine.execSsub f s
  | .smul f => Sys2Proof.Machine.execSmul f s
  | .smulh f => Sys2Proof.Machine.execSmulh f s
  | .sdiv f => Sys2Proof.Machine.execSdiv f s
  | .srem f => Sys2Proof.Machine.execSrem f s
  | .sand f => Sys2Proof.Machine.execSand f s
  | .sor f => Sys2Proof.Machine.execSor f s
  | .sxor f => Sys2Proof.Machine.execSxor f s
  | .sshl f => Sys2Proof.Machine.execSshl f s
  | .sshr f => Sys2Proof.Machine.execSshr f s
  | .ssra f => Sys2Proof.Machine.execSsra f s
  | .smin f => Sys2Proof.Machine.execSmin f s
  | .smax f => Sys2Proof.Machine.execSmax f s
  | .scmp f => Sys2Proof.Machine.execScmp f s
  | .ssel f => Sys2Proof.Machine.execSsel f s
  | .smov f => Sys2Proof.Machine.execSmov f s
  | .smovi f => Sys2Proof.Machine.execSmovi f s
  | .sread f => Sys2Proof.Machine.execSread f s
  | .sreadV f => Sys2Proof.Machine.execSreadV f s
  | .swrite f => Sys2Proof.Machine.execSwrite f s
  | .shset f => Sys2Proof.Machine.execShset f s
  | .vld f => Sys2Proof.Machine.execVld f s
  | .vst f => Sys2Proof.Machine.execVst f s
  | .vldx f => Sys2Proof.Machine.execVldx f s
  | .vstx f => Sys2Proof.Machine.execVstx f s
  | .sld f => Sys2Proof.Machine.execSld f s
  | .sst f => Sys2Proof.Machine.execSst f s
  | .vlds f => Sys2Proof.Machine.execVlds f s
  | .vsts f => Sys2Proof.Machine.execVsts f s
  | .vatom f => Sys2Proof.Machine.execVatom f s
  | .vcas f => Sys2Proof.Machine.execVcas f s
  | .vatoms f => Sys2Proof.Machine.execVatoms f s
  | .pref f => Sys2Proof.Machine.execPref f s
  | .shld f => Sys2Proof.Machine.execShld f s
  | .shst f => Sys2Proof.Machine.execShst f s
  | .wdepth f => Sys2Proof.Machine.execWdepth f s
  | .wpin f => Sys2Proof.Machine.execWpin f s
  | .wunpin f => Sys2Proof.Machine.execWunpin f s
  | .wevict f => Sys2Proof.Machine.execWevict f s
  | .wclean f => Sys2Proof.Machine.execWclean f s
  | .cflush f => Sys2Proof.Machine.execCflush f s
  | .cinv f => Sys2Proof.Machine.execCinv f s
  | .waitcnt f => Sys2Proof.Machine.execWaitcnt f s
  | .xfence f => Sys2Proof.Machine.execXfence f s
  | .mma f => Sys2Proof.Machine.execMma f s
  | .zclr f => Sys2Proof.Machine.execZclr f s
  | .zrd f => Sys2Proof.Machine.execZrd f s
  | .zwr f => Sys2Proof.Machine.execZwr f s
  | .zdrain f => Sys2Proof.Machine.execZdrain f s
  | .cpy f => Sys2Proof.Machine.execCpy f s
  | .cpym f => Sys2Proof.Machine.execCpym f s
  | .rrot f => Sys2Proof.Machine.execRrot f s
  | .barinit f => Sys2Proof.Machine.execBarinit f s
  | .bararv f => Sys2Proof.Machine.execBararv f s
  | .barwait f => Sys2Proof.Machine.execBarwait f s
  | .gjoin f => Sys2Proof.Machine.execGjoin f s
  | .gjoinAny f => Sys2Proof.Machine.execGjoinAny f s
  | .gleave f => Sys2Proof.Machine.execGleave f s
  | .gbar f => Sys2Proof.Machine.execGbar f s
  | .br f => Sys2Proof.Machine.execBr f s
  | .bcond f => Sys2Proof.Machine.execBcond f s
  | .bany f => Sys2Proof.Machine.execBany f s
  | .bnone f => Sys2Proof.Machine.execBnone f s
  | .call f => Sys2Proof.Machine.execCall f s
  | .jmp f => Sys2Proof.Machine.execJmp f s
  | .ret f => Sys2Proof.Machine.execRet f s
  | .divg f => Sys2Proof.Machine.execDivg f s
  | .delse f => Sys2Proof.Machine.execDelse f s
  | .djoin f => Sys2Proof.Machine.execDjoin f s
  | .dloop f => Sys2Proof.Machine.execDloop f s
  | .dbrk f => Sys2Proof.Machine.execDbrk f s
  | .exit f => Sys2Proof.Machine.execExit f s
  | .yield f => Sys2Proof.Machine.execYield f s
  | .nop f => Sys2Proof.Machine.execNop f s
  | .trap f => Sys2Proof.Machine.execTrap f s
  | .tret f => Sys2Proof.Machine.execTret f s
  | .bellarm f => Sys2Proof.Machine.execBellarm f s
  | .modewr f => Sys2Proof.Machine.execModewr f s
  | .ctxrd f => Sys2Proof.Machine.execCtxrd f s
  | .ctxwr f => Sys2Proof.Machine.execCtxwr f s
  | .evpop f => Sys2Proof.Machine.execEvpop f s
  | .evpush f => Sys2Proof.Machine.execEvpush f s
  | .evwait f => Sys2Proof.Machine.execEvwait f s
  | .trel f => Sys2Proof.Machine.execTrel f s
  | .trelRelease col => Sys2Proof.Machine.execTrelRelease col s
  | .registerResultReturn ctx uid lanes => Sys2Proof.Machine.execRegisterResultReturn ctx uid lanes s
  | .accessComplete ctx ent => Sys2Proof.Machine.execAccessComplete ctx ent s
  | .trapDelivery ctx => Sys2Proof.Machine.execTrapDelivery ctx s
  | .fatalFaultDelivery ctx => Sys2Proof.Machine.execFatalFaultDelivery ctx s
  | .bellDelivery frame => Sys2Proof.Machine.execBellDelivery frame s
  | .drumAnnouncementAct die => Sys2Proof.Machine.execDrumAnnouncementAct die s
  | .wellBeatAdmit die => Sys2Proof.Machine.execWellBeatAdmit die s
  | .transitArrival die tile => Sys2Proof.Machine.execTransitArrival die tile s
  | .l1Fill core line => Sys2Proof.Machine.execL1Fill core line s
  | .l1HoldExpiry core line => Sys2Proof.Machine.execL1HoldExpiry core line s
  | .wellUe die line => Sys2Proof.Machine.execWellUe die line s
  | .memue die line => Sys2Proof.Machine.execMemue die line s
  | .wrestitchRetire die bank => Sys2Proof.Machine.execWrestitchRetire die bank s
  | .wrestitchRestore die bank => Sys2Proof.Machine.execWrestitchRestore die bank s
  | .restitchComplete die => Sys2Proof.Machine.execRestitchComplete die s
  | .wellThermalRestore die bank => Sys2Proof.Machine.execWellThermalRestore die bank s
  | .pageWalkComplete die walk => Sys2Proof.Machine.execPageWalkComplete die walk s
  | .fcmdReplayRecord die id => Sys2Proof.Machine.execFcmdReplayRecord die id s
  | .fcmdCancelRecord die id => Sys2Proof.Machine.execFcmdCancelRecord die id s
  | .fcmdReplayAsid die asid => Sys2Proof.Machine.execFcmdReplayAsid die asid s
  | .fcmdCancelAsid die asid => Sys2Proof.Machine.execFcmdCancelAsid die asid s
  | .sideLogPerform core idx => Sys2Proof.Machine.execSideLogPerform core idx s
  | .invcmdPage asid va size => Sys2Proof.Machine.execInvcmdPage asid va size s
  | .invcmdAsid asid => Sys2Proof.Machine.execInvcmdAsid asid s
  | .rds agent line => Sys2Proof.Machine.execRds agent line s
  | .rdx agent line => Sys2Proof.Machine.execRdx agent line s
  | .own agent line => Sys2Proof.Machine.execOwn agent line s
  | .upg agent line => Sys2Proof.Machine.execUpg agent line s
  | .wb agent line => Sys2Proof.Machine.execWb agent line s
  | .wbk agent line => Sys2Proof.Machine.execWbk agent line s
  | .cmp agent line => Sys2Proof.Machine.execCmp agent line s
  | .homeQueueServe line => Sys2Proof.Machine.execHomeQueueServe line s
  | .gntS agent line => Sys2Proof.Machine.execGntS agent line s
  | .gntE agent line => Sys2Proof.Machine.execGntE agent line s
  | .gntX agent line => Sys2Proof.Machine.execGntX agent line s
  | .wba agent line => Sys2Proof.Machine.execWba agent line s
  | .prShr agent line => Sys2Proof.Machine.execPrShr agent line s
  | .prInv agent line => Sys2Proof.Machine.execPrInv agent line s
  | .ackI agent line => Sys2Proof.Machine.execAckI agent line s
  | .ackD agent line => Sys2Proof.Machine.execAckD agent line s
  | .ackWb agent line => Sys2Proof.Machine.execAckWb agent line s
  | .ackSt agent line => Sys2Proof.Machine.execAckSt agent line s
  | .cxlMemReadShared hpa => Sys2Proof.Machine.execCxlMemReadShared hpa s
  | .cxlMemReadExclusive hpa => Sys2Proof.Machine.execCxlMemReadExclusive hpa s
  | .cxlMemReadUncached hpa => Sys2Proof.Machine.execCxlMemReadUncached hpa s
  | .cxlMemWrite hpa data => Sys2Proof.Machine.execCxlMemWrite hpa data s
  | .birsp line data => Sys2Proof.Machine.execBirsp line data s
  | .snpinv line => Sys2Proof.Machine.execSnpinv line s
  | .snpdata line => Sys2Proof.Machine.execSnpdata line s
  | .snpcur line => Sys2Proof.Machine.execSnpcur line s
  | .peerRequest off n op => Sys2Proof.Machine.execPeerRequest off n op s
  | .peererr die line => Sys2Proof.Machine.execPeererr die line s
  | .peerLinkTimeout dest => Sys2Proof.Machine.execPeerLinkTimeout dest s
  | .mmaStart core job => Sys2Proof.Machine.execMmaStart core job s
  | .mmaCommit core job => Sys2Proof.Machine.execMmaCommit core job s
  | .copyElement copy => Sys2Proof.Machine.execCopyElement copy s
  | .countingEvent core => Sys2Proof.Machine.execCountingEvent core s
  | .eventRecordEnter col => Sys2Proof.Machine.execEventRecordEnter col s
  | .notifyWrite queue off val => Sys2Proof.Machine.execNotifyWrite queue off val s
  | .qcmdEnable queue => Sys2Proof.Machine.execQcmdEnable queue s
  | .qcmdDisable queue => Sys2Proof.Machine.execQcmdDisable queue s
  | .queueIdleExpiry queue => Sys2Proof.Machine.execQueueIdleExpiry queue s
  | .launchPacketRead queue => Sys2Proof.Machine.execLaunchPacketRead queue s
  | .lotteryDraw die => Sys2Proof.Machine.execLotteryDraw die s
  | .clusterGatingCommit col => Sys2Proof.Machine.execClusterGatingCommit col s
  | .clusterWakeComplete col => Sys2Proof.Machine.execClusterWakeComplete col s
  | .blockEnd frame => Sys2Proof.Machine.execBlockEnd frame s
  | .launchComplete queue => Sys2Proof.Machine.execLaunchComplete queue s
  | .evtailWrite val => Sys2Proof.Machine.execEvtailWrite val s
  | .frzcmdFreezeBlock frame => Sys2Proof.Machine.execFrzcmdFreezeBlock frame s
  | .frzcmdResumeBlock frame => Sys2Proof.Machine.execFrzcmdResumeBlock frame s
  | .frzcmdTerminateBlock frame => Sys2Proof.Machine.execFrzcmdTerminateBlock frame s
  | .frzcmdFreezeQueue queue => Sys2Proof.Machine.execFrzcmdFreezeQueue queue s
  | .frzcmdResumeQueue queue => Sys2Proof.Machine.execFrzcmdResumeQueue queue s
  | .deadlineExpiry frame => Sys2Proof.Machine.execDeadlineExpiry frame s
  | .windowImageWritten frame => Sys2Proof.Machine.execWindowImageWritten frame s
  | .resumePlace die => Sys2Proof.Machine.execResumePlace die s
  | .migrationTransferComplete frame => Sys2Proof.Machine.execMigrationTransferComplete frame s
  | .dbgEnable col val => Sys2Proof.Machine.execDbgEnable col val s
  | .dbgrunStop col handle => Sys2Proof.Machine.execDbgrunStop col handle s
  | .dbgrunStep col handle => Sys2Proof.Machine.execDbgrunStep col handle s
  | .dbgrunResume col handle => Sys2Proof.Machine.execDbgrunResume col handle s
  | .rspseqWrite col val => Sys2Proof.Machine.execRspseqWrite col val s
  | .ntWindow core => Sys2Proof.Machine.execNtWindow core s
  | .columnLevelStep col => Sys2Proof.Machine.execColumnLevelStep col s
  | .pumpRampStep die => Sys2Proof.Machine.execPumpRampStep die s
  | .tempSample readings => Sys2Proof.Machine.execTempSample readings s
  | .migwaitExpiry frame => Sys2Proof.Machine.execMigwaitExpiry frame s
  | .thermalLevelTick col => Sys2Proof.Machine.execThermalLevelTick col s
  | .stpFrame bits => Sys2Proof.Machine.execStpFrame bits s
  | .shedForceTimeout frame => Sys2Proof.Machine.execShedForceTimeout frame s
  | .classRestore cls => Sys2Proof.Machine.execClassRestore cls s
  | .startUp step reason faulty => Sys2Proof.Machine.execStartUp step reason faulty s
  | .mctpControl msg => Sys2Proof.Machine.execMctpControl msg s
  | .pldmSensorRead sensor => Sys2Proof.Machine.execPldmSensorRead sensor s
  | .firmwareUpdate image => Sys2Proof.Machine.execFirmwareUpdate image s
  | .attest nonce => Sys2Proof.Machine.execAttest nonce s
  | .transition target token => Sys2Proof.Machine.execTransition target token s
  | .registerWrite off val => Sys2Proof.Machine.execRegisterWrite off val s
  | .reservedOpcode w => Sys2Proof.Machine.execReservedOpcode w s
  | .cxlCacheHostResponse line data excl => Sys2Proof.Machine.execCxlCacheHostResponse line data excl s
  | .portLinkFailure dest => Sys2Proof.Machine.execPortLinkFailure dest s
  | .invcmdAll => Sys2Proof.Machine.execInvcmdAll s
  | .invalidationComplete => Sys2Proof.Machine.execInvalidationComplete s
  | .hostRingEntryWrite => Sys2Proof.Machine.execHostRingEntryWrite s
  | .msiCoalesceTimeout => Sys2Proof.Machine.execMsiCoalesceTimeout s
  | .stpLossTimeout => Sys2Proof.Machine.execStpLossTimeout s
  | .stpLossHoldExpiry => Sys2Proof.Machine.execStpLossHoldExpiry s
  | .clampStep => Sys2Proof.Machine.execClampStep s
  | .clampLower => Sys2Proof.Machine.execClampLower s
  | .resetctlWarmReset => Sys2Proof.Machine.execResetctlWarmReset s
  | .cxlReset => Sys2Proof.Machine.execCxlReset s
  | .secondaryBusReset => Sys2Proof.Machine.execSecondaryBusReset s
  | .coldReset => Sys2Proof.Machine.execColdReset s
  | .fatalReset => Sys2Proof.Machine.execFatalReset s
  | .cxlTrainTimeout => Sys2Proof.Machine.execCxlTrainTimeout s
  | .wipeComplete => Sys2Proof.Machine.execWipeComplete s
  | .status => Sys2Proof.Machine.execStatus s
  | .reason => Sys2Proof.Machine.execReason s
  | .wipe => Sys2Proof.Machine.execWipe s
  | .lineChecks => Sys2Proof.Machine.execLineChecks s
  | .powerLoss => Sys2Proof.Machine.execPowerLoss s

end Sys2Proof.Machine
end

