-- ==== Sys2Proof/Machine/Schedule.lean ====
section
/-! DEFINITION. The schedule: which agent of the device moves next.  The moves of `Act` cover the choices that no rule of
spec/ times (log entry 5); an issue fetches, decodes and runs the words at a team's program counter. -/

namespace Sys2Proof.Machine

/-! ## An issue -/

/-- An instruction that a team issues, or the checks of its slot; the other constructors are steps of the device. -/
def Instr.issued (i : Instr) : Bool := (encode i).isSome || i == .lineChecks

/-- The state in which a fetched word issues. -/
def State.issuingAs (s : State) (ctx : Nat) (second : Option Word96) : State :=
  { s with cur := some ctx, pairSecond := second.map decode, pairMark := false }

/-- The second member of a pair issues when the first has completed (R25, R68). -/
def State.runSecond (s : State) (ctx : Nat) (pc : Word64) (w : Word96) : Host.Outcome State Fault Refusal :=
  if (s.team ctx).pc = nextPc pc ∧ s.canIssue ctx then exec (decode w) s else .next s

/-- The words of a slot, or of a pair, issued. -/
def State.runWords (s : State) (ctx : Nat) (w : Word96) (second : Option Word96) : Host.Outcome State Fault Refusal :=
  let pc := (s.team ctx).pc
  let s' := s.issuingAs ctx second
  match second with
  | none => exec (decode w) s'
  | some w2 =>
    match exec (decode w) s' with
    | .next t => if (s'.issueTrap ctx (decode w)).isNone then t.runSecond ctx pc w2 else .next t
    | o => o

/-- A team issues: the words that it fetches run, or the checks of the line take the place of an instruction; a team whose
wait is to be resumed resumes it (R406). -/
def State.issue (s : State) (ctx : Nat) : Host.Outcome State Fault Refusal :=
  if s.canIssue ctx then
    match s.fetch ctx with
    | .words s' w second => if (s.team ctx).rewait then .next ((s'.resumeWait ctx w).afterIssue ctx) else s'.runWords ctx w second
    | _ => exec .lineChecks (s.issuingAs ctx none)
  else .next s

/-- The teams of a core that can issue, in the cyclic order that begins after the slot that issued last (R44). -/
def State.turn (s : State) (core : Nat) : List Nat :=
  let last := (s.core core).last
  let here := (s.blocks.filter fun e => e.2.core == core).map fun e => ctxsOf e.1 e.2
  let ready := here.flatten.filter s.canIssue
  (ready.foldl (fun (t : Tab Nat) c => Tab.put t ((s.slotOf c + 31 - last) % 32) c) []).map (·.2)

/-- Words that need a vector pipe, the load/store path or an engine port (R38, R44). -/
def needsPort (w : Word96) : Bool :=
  let op := (w.extractLsb' 88 8).toNat
  decide (op < 0x40) || (decide (0x60 ≤ op) && decide (op < 0xA0))

/-- Whether an issue was passed over: nothing was done (R44). -/
def issueHeld : Host.Outcome State Fault Refusal → Bool
  | .next s => s.cur.isNone
  | _ => false

/-- Whether the scheduler may pass over a ready team: its next word needs a pipe or a port, which may be busy, its line is
still on its way, or the instruction cannot be taken (R44); a bell may stand before it. -/
def State.mayPass (s : State) (ctx : Nat) : Bool :=
  s.bellDue ctx || match s.fetch ctx with
  | .words _ w _ => needsPort w || issueHeld (s.issue ctx)
  | _ => true

/-- A team may issue now: it is ready, no bell comes to it first (spec/14_power.md R307), and every ready team before it in the
cyclic order may be passed over (R44). -/
def State.mayIssue (s : State) (ctx : Nat) : Bool :=
  s.canIssue ctx && !s.bellDue ctx && ((s.turn (s.coreOf ctx)).takeWhile (· != ctx)).all s.mayPass

/-! ## Time (R298) -/

/-- Sixteenths of a cycle that a column's clock has begun after `n` cycles of one at level 0 (R299). -/
def Cluster.parts (c : Cluster) (n : Nat) : Nat := c.part + n * (16 - c.level)

/-- Whole cycles that a column's clock completes in `n` cycles of one at level 0 (R299). -/
def Cluster.made (c : Cluster) (n : Nat) : Nat := c.parts n / 16

/-- The teams resident on a core, each with whether it is ready: not one of a held block, which waits, nor one in a fault
hold (R43, R254). -/
def State.residents (s : State) (core : Nat) : List Bool :=
  ((s.blocks.filter fun e => e.2.core == core && e.2.place != .frozen).map fun e =>
    (((ctxsOf e.1 e.2).map s.team).filter fun t => t.sched != .exited && t.sched != .frozen).map fun t =>
      e.2.place != .held && t.sched == .ready && !t.holding).flatten

/-- Whether a core holds a resident team and none that is ready (R301). -/
def State.stallsNow (s : State) (core : Nat) : Bool := !(s.residents core).isEmpty && !(s.residents core).contains true

/-- Whether a block's deadline counts: while it stops for the host, but not a control team in EVWAIT (R252, R286). -/
def State.deadlineRuns (s : State) (f : Nat) (b : Block) : Bool :=
  b.place == .freezing && b.freeze == some .host && !(b.ctrl && (s.team (f * 32)).sched == .waiting .events)

/-- Nanoseconds since device reset at the end of a number of cycles at level 0, which are at 2.4 GHz (spec/00_scope.md R6). -/
def nsAt (cycles : Nat) : Nat := cycles * 5 / 12

/-- Cycles at level 0 go by, and with them the time; a new cycle has its own draws (R6, R264). -/
def State.pass (s : State) (n : Nat) : State :=
  { s with
    draws := if n = 0 then s.draws else none
    time := s.time + (nsAt (s.cycles + n) - nsAt s.cycles)
    cycles := s.cycles + n
    clusters := Tab.mapVal s.clusters fun _ c => { c with lag := c.lag + n - c.made n, part := c.parts n % 16 }
    cores := Tab.mapVal s.cores fun i c =>
      if s.stallsNow i then { c with stalled := c.stalled + (s.cluster (colOf i)).made n } else c
    blocks := Tab.mapVal s.blocks fun f b =>
      if s.deadlineRuns f b then { b with deadlineLeft := b.deadlineLeft - (s.cluster (colOf b.core)).made n } else b }

/-- Whether some die has an eligible slot, so that every cycle has its draw (R264). -/
def State.drawing (s : State) : Bool := (List.range 4).any fun d => !(s.eligibles d).isEmpty

/-- Time passes.  Each die with an eligible slot draws in every cycle: the draws that a cycle still owes are made before it is
over, and time then goes on by that one cycle, as it does while a slot stays eligible (R264). -/
def State.tick (s : State) (n : Nat) : State :=
  match s.drawsNow with
  | [] => s.pass (if s.drawing then min n 1 else n)
  | l => (l.foldl (fun (s : State) e => s.draw e.1 e.2) { s with draws := some [] }).pass (min n 1)

/-! ## The moves -/

/-- A copy leaves a core's L1 of its own accord. -/
def State.dropL1 (s : State) (core line : Nat) : State :=
  let c := s.core core
  (s.setCore core { c with l1 := Tab.del c.l1 line }).forgetLine (dieOf core) line

/-- A leaf that one of a die's agents answers from, in the place of the one that it holds for the page. -/
def State.giveLeaf (s : State) (die agent : Nat) (e : TlbEnt) : State :=
  let x := s.die die
  s.setDie die { x with
    tlb := tlbPut (x.tlb.filter fun v => !(v.agent == agent && v.asid == e.asid && v.va == e.va)) (agent * 4096) e }

/-- An agent of a die answers from the leaf of a 64 KiB page that some agent of the device has walked since the last invalidation:
where the group's entries differ, each of those walked may give the translation (R155; DEDUCED, log entry 125). -/
def State.shareTlb (s : State) (src idx die agent : Nat) : State :=
  (s.die src).walked[idx]?.elim s fun e => s.giveLeaf die (agent % 4) e

/-- A translation of an access in flight while BUSY is set uses an entry that the invalidation has removed (R167). -/
def State.oldTlb (s : State) (idx : Nat) : State :=
  s.trans.old[idx]?.elim s fun e => if s.trans.inval.any (invTlb · e.2) then s.giveLeaf e.1 e.2.agent e.2 else s

/-- A move of the schedule. -/
def State.act (s : State) : Act → Host.Outcome State Fault Refusal
  | .issue ctx => if s.mayIssue ctx then s.issue ctx else .next s
  | .event i => if Instr.issued i then .next s else exec i s
  | .announce ctx idx => .next (s.goItem ctx idx)
  | .lane ctx idx piece => .next (s.goLane ctx idx piece)
  | .tick n => .next (s.tick n)
  | .operand core job i => .next (s.readOperand core job i)
  | .drainCp core => .next (s.flushCore core)
  | .evictL1 core line => .next (s.dropL1 core line)
  | .evictTlb die => .next (s.setDie die { s.die die with tlb := [] })
  | .shareTlb src idx die agent => .next (s.shareTlb src idx die agent)
  | .oldTlb idx => .next (s.oldTlb idx)
  | .dropFetch core => .next (s.setCore core { s.core core with fbuf := [] })
  | .measure cls watts => .next (s.measure cls watts)
  | .charge queue uj => .next (s.setQueue queue { s.queue queue with energy := (s.queue queue).energy + uj })
  | .ramp die shares => .next (s.startRamp die shares)
  | .pick copy elem => .next (s.pick copy elem)
  | .early copy elem => .next (s.readEarly copy elem)
  | .monitor col => .next (s.startMonitor col)
  | .sideband busy => .next { s with plat := { s.plat with sbBusy := busy } }
  | .flashDone => .next s.flashDone
  | .mailbox image => .next (s.mailbox image)
  | .config o on => .next (s.configWrite o on)
  | .placeBar hpa => .next (s.placeBar hpa)
  | .regWrite off n val => .next (s.regWrite off n val)
  | .link cxl => .next (s.trained cxl)
  | .otherCommand cmd => .next (s.otherCommand cmd)
  | .beginWipe => .next s.beginWipe
  | .peerOwn dest off b => .next { s with peerMem := s.peerMem.write (dest % 1024 * 2 ^ 42 + off % 2 ^ 42) b }
  | .peerUp dest => .next (s.peerUp dest)
  | .mmio die idx => .next (s.mmio die idx)
  | .corrected die => .next (s.setDie die { s.die die with corr := min ((s.die die).corr + 1) 65535 })
  | .refetched die => .next (s.setDie die { s.die die with refetch := min ((s.die die).refetch + 1) (2 ^ 32 - 1) })

/-! ## The order when the agenda names none -/

/-- The device's steps on messages under way. -/
def msgEvent (m : Msg) : Instr :=
  match m.kind with
  | .rds => .rds m.agent m.line
  | .rdx => .rdx m.agent m.line
  | .own => .own m.agent m.line
  | .upg => .upg m.agent m.line
  | .wb => .wb m.agent m.line
  | .wbk => .wbk m.agent m.line
  | .cmp => .cmp m.agent m.line
  | .gntS => .gntS m.agent m.line
  | .gntE => .gntE m.agent m.line
  | .gntX => .gntX m.agent m.line
  | .wba => .wba m.agent m.line
  | .prShr => .prShr m.agent m.line
  | .prInv => .prInv m.agent m.line
  | .ackI => .ackI m.agent m.line
  | .ackD => .ackD m.agent m.line
  | .ackWb => .ackWb m.agent m.line
  | .ackSt => .ackSt m.agent m.line

/-- Steps that a die may have due. -/
def dieEvents (d : Nat) (x : Die) : List Instr :=
  [.drumAnnouncementAct d, .wellBeatAdmit d] ++ (x.tiles.filter (·.2.transit)).map (fun t => .transitArrival d t.1) ++
    (List.range x.walks.length).map (.pageWalkComplete d) ++ (x.fills.map fun f => .l1Fill f.core f.key) ++
    (if x.restitch.isSome then [.restitchComplete d] else []) ++ (if x.pump = 0 then [] else [.pumpRampStep d]) ++
    (if x.resumeq.isEmpty then [] else [.resumePlace d])

/-- Steps that a team may have due. -/
def teamActs (ctx : Nat) (t : Team) : List Act :=
  ((distinct (t.pend.map (·.uid))).map fun u => Act.event (.registerResultReturn ctx u (BitVec.allOnes 1024))) ++
    (t.inflight.map fun e => Act.event (.accessComplete ctx e.uid)) ++
    [.event (.trapDelivery ctx), .event (.fatalFaultDelivery ctx)] ++ (List.range t.lsq.length).map (.announce ctx)

/-- Steps that a core may have due. -/
def coreEvents (c : Nat) (x : Core) : List Instr :=
  (if x.bankq.isEmpty then [] else [.countingEvent c]) ++ (x.arrq.map fun j => .mmaStart c j.uid) ++
    (x.arrq.map fun j => .mmaCommit c j.uid) ++ ((List.range x.slog.length).map (.sideLogPerform c)) ++
    (x.l1.filter (·.2.held)).map fun l => .l1HoldExpiry c l.1

/-- Steps that a cluster may have due. -/
def clusterEvents (col : Nat) (x : Cluster) : List Instr :=
  (if x.evwait.isEmpty then [] else [.eventRecordEnter col]) ++ (if x.relq.isEmpty then [] else [.trelRelease col]) ++
    (if x.waking then [.clusterWakeComplete col] else []) ++ [.columnLevelStep col]

/-- Steps that a block may have due. -/
def blockEvents (f : Nat) : List Instr :=
  [.blockEnd f, .windowImageWritten f, .migrationTransferComplete f, .bellDelivery f, .deadlineExpiry f, .migwaitExpiry f,
   .shedForceTimeout f]

/-- Steps of the device that may be due, the host's and the outside world's left out. -/
def State.dueEvents (s : State) : List Instr :=
  (s.msgs.map msgEvent) ++ (s.dies.map fun d => dieEvents d.1 d.2).flatten ++ (s.dir.map fun e => .homeQueueServe e.1) ++
    (s.cores.map fun c => coreEvents c.1 c.2).flatten ++ (s.copies.map fun c => .copyElement c.uid) ++
    (s.clusters.map fun c => clusterEvents c.1 c.2).flatten ++ (s.blocks.map fun b => blockEvents b.1).flatten ++
    (s.queues.map fun q => [.launchPacketRead q.1, .launchComplete q.1]).flatten ++
    ((List.range 4).map .lotteryDraw) ++ (if s.trans.inval.isEmpty then [] else [.invalidationComplete]) ++
    [.hostRingEntryWrite]

/-- Moves that may be due. -/
def State.dueActs (s : State) : List Act :=
  s.dueEvents.map Act.event ++ (s.teams.map fun t => teamActs t.1 t.2).flatten ++
    (if s.plat.barBase.isSome then (s.dies.map fun d => (List.range d.2.waits.length).map (Act.mmio d.1)).flatten else []) ++
    (if s.plat.warming then [.beginWipe] else [])

/-- The first move of a list that changes the machine. -/
def State.firstChange (s : State) : List Act → Option State
  | [] => none
  | a :: rest =>
    match s.act a with
    | .next s' => if s' = s then s.firstChange rest else some s'
    | _ => s.firstChange rest

/-- The state after the first of a list of teams that is not passed over has issued, or has asked for what its fetch needs (R44). -/
def State.issueFirst (s : State) : List Nat → Option State
  | [] => none
  | ctx :: rest =>
    match s.issue ctx with
    | .next s' => if s'.cur.isNone ∧ s' = { s with cur := none, pairSecond := none, pairMark := false } then s.issueFirst rest else some s'
    | _ => s.issueFirst rest

/-- The cores that hold blocks, in an order that moves on with time, so that no core shuts the others out. -/
def State.coresInTurn (s : State) : List Nat :=
  let cores := distinct (s.blocks.map (·.2.core))
  let k := s.cycles / 12 % max 1 cores.length
  cores.drop k ++ cores.take k

/-- With an empty agenda: a step that is due, else an issue of the next core with a ready team that is not passed over;
5 ns, which are 12 cycles of the fabric and of a column at level 0, go by where no step is due. -/
def State.default (s : State) : Host.Outcome State Fault Refusal :=
  match s.firstChange s.dueActs with
  | some s' => .next s'
  | none =>
    match s.coresInTurn.findSome? fun c => s.issueFirst ((s.turn c).filter fun x => !s.bellDue x) with
    | some s' => .next (s'.tick 12)
    | none => .next (s.tick 12)

/-- The next move: the head of the agenda, else the default order. -/
def State.move (s : State) : Host.Outcome State Fault Refusal :=
  match s.agenda with
  | a :: rest => ({ s with agenda := rest } : State).act a
  | [] => s.default

/-! ## A program placed by hand -/

/-- The line word of a line whose slot 0 holds a word and whose other slots hold zeros: TGT of slot 0, and even parity
(R59, R60). -/
def lineWordFor (w : Word96) : Nat := 1 + place (b2n (odd 96 w.toNat)) 9 1 + place 1 14 1

/-- A fetch line with one word in slot 0 (R58). -/
def lineFor (w : Word96) : BitVec 512 := BitVec.ofNat 512 (w.toNat + lineWordFor w * 2 ^ 480)

/-- A block of one team of width 16 on core 0, in frame 0. -/
def handBlock : Block :=
  { asid := 1, queue := 0, seq := 0, index := 0, teams := 1, width := 16, span := 16, vregs := 768, acc := 16, scratch := 1024
    spbase := 0, core := 0, lcore := 0, slots := [0], cls := 0, clsEff := 0, deadline := 200000, deadlineLeft := 200000
    params := 0, handler := 0 }

/-- A state in which team 0 of frame 0 can issue, the team placed there if none can. -/
def State.withTeam (s : State) : State :=
  if s.canIssue 0 then s
  else (s.setCluster 0 { s.cluster 0 with gated := false, waking := false }).startBlock 0 handBlock 0x1000

/-- A word in slot 0 of the line at team 0's program counter, in the fetch buffer of its core, and that team to issue
next. -/
def State.withWord (s : State) (w : Word96) : State :=
  let s := s.withTeam
  let t := s.team 0
  let pc := pcLine t.pc
  let s := s.setTeam 0 { t with pc }
  let core := s.coreOf 0
  let c := s.core core
  let s := s.setCore core { c with fbuf := Tab.put c.fbuf (fetchKey (s.asidOf 0) pc.toNat) (lineFor w, {}) }
  { s with agenda := .issue 0 :: s.agenda }

end Sys2Proof.Machine
end

