-- ==== Sys2Proof/Machine/Step.lean ====
section
/-! DEFINITION. One step of the machine. -/

namespace Sys2Proof.Machine

/-- One step: the next move of the schedule. -/
def step (s : State) : Host.Outcome State Fault Refusal := s.move

/-- The state with an instruction word where the next step fetches it; bits above `nbits` are zero. -/
def State.withFetchWord (s : State) (nbits w : Nat) : State := s.withWord (BitVec.ofNat 96 (w % 2 ^ min nbits 96))

end Sys2Proof.Machine
end

