-- ==== Sys2Proof/Safety.lean ====
section
/-! DEFINITION. The terms that claims about the machine use: when a team's instruction runs, what an issue changes, the
results that a team has outstanding, and the canonical form of memory. -/

namespace Sys2Proof.Machine

/-! ## Issues -/

/-- Team `ctx` issues, in a block that runs with no freeze asked of it and no single step of the debugger. -/
def State.Runs (s : State) (ctx : Nat) : Prop :=
  s.cur = some ctx ∧ s.canIssue ctx = true ∧
    ∃ b, s.blockOf? ctx = some b ∧ b.place = .running ∧ b.stepping = none

/-- The checks before an instruction's own entry find nothing: those of R92 and, for the first member of a pair, those
of R68. -/
def State.Passes (s : State) (ctx : Nat) (i : Instr) : Prop := s.issueTrap ctx i = none

/-- Whether an issue acts on a switch marker: its own, or that of its pair's first member (R25, R43). -/
def State.marks (s : State) (i : Instr) : Bool := s.pairSecond.isNone && (swOf i || s.pairMark)

/-- A team that goes on at a program counter, parked by a marker until its results are back. -/
def Team.passed (t : Team) (pc : Word64) (m : Bool) : Team := ({ t with pc, fresh := false, entryTgt := false, fetchRep := false }).mark m

/-- Nothing differs but the team, and what every issue notes: the place in the core's cyclic order, the lane groups at
work, identities given out, and the pair in progress. -/
structure OnlyTeam (s t : State) (ctx : Nat) : Prop where
  others : ∀ c, c ≠ ctx → Tab.get? t.teams c = Tab.get? s.teams c
  cores : ∀ k, t.core k = { s.core k with last := (t.core k).last, busy := (t.core k).busy }
  rest : t = { s with teams := t.teams, cores := t.cores, uid := t.uid, pairSecond := t.pairSecond, pairMark := t.pairMark }

/-- Nothing of a team differs but its outstanding results and what every issue changes: the program counter and the
scheduling state. -/
def SameRegs (u v : Team) : Prop :=
  v = { u with pend := v.pend, pc := v.pc, sched := v.sched, fresh := v.fresh, entryTgt := v.entryTgt, fetchRep := v.fetchRep }

/-- Tiles that differ in nothing but kept attributes. -/
def SameTiles (x y : Tab Tile) : Prop := ∀ k, ∃ a, Tab.get? y k = (Tab.get? x k).map fun (t : Tile) => { t with attr := a }

/-- Nothing differs but translations, the attributes kept with tiles, and fetch lines that a fetch has brought in. -/
structure OnlyFetch (s t : State) : Prop where
  dies : ∀ d, t.die d = { s.die d with tlb := (t.die d).tlb, walked := (t.die d).walked, tiles := (t.die d).tiles, away := (t.die d).away }
  tiles : ∀ d, SameTiles (s.die d).tiles (t.die d).tiles
  cores : ∀ k, t.core k = { s.core k with fbuf := (t.core k).fbuf }
  rest : t = { s with dies := t.dies, cores := t.cores }

/-- Nothing differs but what a fetch has brought in, and what homes have been asked to take back before a line can be read. -/
structure OnlyAsk (s t : State) : Prop where
  dies : ∀ d, t.die d = { s.die d with tlb := (t.die d).tlb, walked := (t.die d).walked, tiles := (t.die d).tiles, away := (t.die d).away }
  tiles : ∀ d, SameTiles (s.die d).tiles (t.die d).tiles
  cores : ∀ k, t.core k = { s.core k with fbuf := (t.core k).fbuf }
  asks : ∀ l, ∃ q, t.dirEnt l = { s.dirEnt l with queue := (s.dirEnt l).queue ++ q }
  rest : t = { s with dies := t.dies, cores := t.cores, dir := t.dir }

/-- Nothing differs but dies, cores and messages. -/
def OnlyFabric (s t : State) : Prop := t = { s with dies := t.dies, cores := t.cores, msgs := t.msgs }

/-! ## What an issue comes to -/

/-- `exec` answers a next state in which the instruction is complete and the team goes on at the next slot.  `s'` is the
state with what the instruction changes outside its team, and `t` the team with what it changes there. -/
def State.GoesOn (s : State) (ctx : Nat) (i : Instr) (s' : State) (t : Team) : Prop :=
  ∃ u, exec i s = .next u ∧ OnlyTeam s' u ctx ∧ u.team ctx = t.passed (nextPc (s.team ctx).pc) (s.marks i)

/-- `exec` answers a next state in which the team stands as `t`: it waits at the instruction, or has ended. -/
def State.Stays (s : State) (ctx : Nat) (i : Instr) (s' : State) (t : Team) : Prop :=
  ∃ u, exec i s = .next u ∧ OnlyTeam s' u ctx ∧ u.team ctx = t

/-- A team that waits at its instruction. -/
def Team.waitsFor (t : Team) (w : WaitFor) (i : Instr) : Team :=
  { t with sched := .waiting w, waitWord := wordOf i, fresh := false, entryTgt := false, fetchRep := false }

/-- The instruction is passed over and tried again: nothing is done (R44). -/
def State.Holds (s : State) (i : Instr) : Prop := exec i s = .next { s with cur := none, pairSecond := none, pairMark := false }

/-- The instruction traps precisely at its own program counter, with nothing of it performed (R276). -/
def State.TrapsWith (s : State) (ctx : Nat) (i : Instr) (c : Cause) (addr : Word64) : Prop :=
  exec i s = .next ((({ s with pairSecond := none, pairMark := false } : State).raise ctx
    { cause := c, pc := (s.team ctx).pc, resume := (s.team ctx).pc, word := wordOf i, addr }).afterIssue ctx)

/-- `exec` answers a next state in which the team goes on at a target whose line was found good, or, when the fetch of its
line faults, waits at the target under a record of that fault (R63, R161); while a home takes the line back the instruction is
passed over (R44); a target that fails R63 traps. -/
def State.Transfers (s : State) (ctx : Nat) (i : Instr) (target : Word64) (g : Team → Team) : Prop :=
  match s.checkTarget ctx target with
  | .ok s' => ∃ u, exec i s = .next u ∧ OnlyFetch s s' ∧ OnlyTeam s' u ctx ∧
      u.team ctx = (g (s.team ctx)).passed target (s.marks i)
  | .fault s' ty lv => ∃ u, exec i s = .next (u.fetchFault ctx ty lv) ∧ OnlyFetch s s' ∧ OnlyTeam s' u ctx ∧
      u.team ctx = (g (s.team ctx)).passed target (s.marks i)
  | .later s' => OnlyAsk s s' ∧ exec i s = .next { s' with cur := none, pairSecond := none, pairMark := false }
  | .bad c => s.TrapsWith ctx i c target

/-! ## Outstanding results (R45) -/

/-- The value that a team has outstanding for a register cell. -/
def Team.due (t : Team) (c : Cell) : Option (BitVec 1024) := (t.pend.find? fun r => r.cell == c).bind (·.val)

/-- `exec` answers a next state in which the instruction's results, and no others, are newly outstanding: cell `c` is due
the value `w c` where there is one, and what it was due before elsewhere.  The team goes on at the next slot, no register
has changed yet, and nothing else of the machine is touched. -/
def State.Gives (s : State) (ctx : Nat) (i : Instr) (w : Cell → Option (BitVec 1024)) : Prop :=
  ∃ t, exec i s = .next t ∧ OnlyTeam s t ctx ∧ SameRegs (s.team ctx) (t.team ctx) ∧
    (t.team ctx).pc = nextPc (s.team ctx).pc ∧
    ∀ c, (t.team ctx).due c = (w c).elim ((s.team ctx).due c) some

/-- A lane below the width whose bit of the execution mask is set and whose predicate holds (R35). -/
def State.activeLane (s : State) (ctx : Nat) (pm : BitVec 4) (pn : Bool) (l : Nat) : Bool :=
  decide (l < s.widthOf ctx) && (s.team ctx).exec.getLsbD l && ((s.team ctx).kreg pm.toNat).getLsbD l != pn

/-- The results of a V-format instruction that gives lane `l` of VD the value `x l`: in active lanes only, and in a
register pair for a 64-bit type (R36, R74). -/
def State.laneWrites (s : State) (ctx : Nat) (f : VF) (x : Nat → Nat) : Cell → Option (BitVec 1024)
  | .v r l =>
    if s.activeLane ctx f.pm f.pn l then
      if r = f.vd.toNat then some (BitVec.ofNat 1024 (x l % 2 ^ 32))
      else if ty64 f.ty.toNat ∧ r = f.vd.toNat + 1 then some (BitVec.ofNat 1024 (x l / 2 ^ 32 % 2 ^ 32))
      else none
    else none
  | _ => none

/-- The results of an instruction that gives bit `l` of k-register `k` the value `x l`, in the lanes that `on` names. -/
def maskWrites (k : Nat) (on : Nat → Bool) (x : Nat → Bool) : Cell → Option (BitVec 1024)
  | .k n l => if n = k ∧ on l then some (if x l then 1 else 0) else none
  | _ => none

/-- The one result of an s-register. -/
def scalarWrite (n : Nat) (x : Word64) : Cell → Option (BitVec 1024)
  | .s m => if m = n then some (x.setWidth 1024) else none
  | _ => none

/-- The element `e` of a source field, VA, VB or VC, in a lane. -/
def State.srcElem (s : State) (ctx : Nat) (f : VF) (fld : BitVec 10) (l e : Nat) : Nat :=
  elemAt f.ty.toNat ((s.team ctx).operand f.ty.toNat fld.toNat f.imm.toNat l) e

/-- A V-format instruction that gives every element of VD, in every active lane, a value computed from the elements at its
place in VA, VB and VC. -/
def State.GivesElems (s : State) (ctx : Nat) (i : Instr) (f : VF) (g : Nat → Nat → Nat → Nat) : Prop :=
  ∃ x : Nat → Nat, s.Gives ctx i (s.laneWrites ctx f x) ∧
    ∀ l e, s.activeLane ctx f.pm f.pn l = true → e < tyCount f.ty.toNat →
      elemAt f.ty.toNat (x l) e = g (s.srcElem ctx f f.va l e) (s.srcElem ctx f f.vb l e) (s.srcElem ctx f f.vc l e)

/-! ## Memory instructions at issue -/

/-- The team owes a result to a cell. -/
def Team.owes (t : Team) (c : Cell) : Prop := ∃ r ∈ t.pend, r.cell = c

/-- The pieces of a queued item. -/
def LsItem.pieces (x : LsItem) : List Piece :=
  match x.work with
  | .glob r => r.pieces
  | .win _ ps => ps
  | _ => []

/-- A queued item asks for an operation, of memory or of the window. -/
def LsItem.asks (x : LsItem) (op : ReqOp) (win : Bool) : Prop :=
  if win then ∃ ps, x.work = .win op ps else ∃ r, x.work = .glob r ∧ r.op = op

/-- A team with a counted entry more: its requests wait to be sent, and its counter and, for a class-T instruction, its next
tag have risen (R179, R284). -/
def Team.enters (t : Team) (e : Entry) (items : List LsItem) (pend : List Result) : Team :=
  { t with
    pend, inflight := t.inflight ++ [e], lsq := t.lsq ++ items, nextTag := t.nextTag + b2n e.clsT
    ldcnt := t.ldcnt + b2n e.ld, stcnt := t.stcnt + b2n e.st }

/-- `exec` answers a next state in which a memory instruction's accesses are on their way: an entry, and requests whose
pieces are together those of the accesses.  A reading instruction owes its lanes' cells, with no value yet, and no other
result changes. -/
def State.SendsAccesses (s : State) (ctx : Nat) (i : Instr) (m : MemOp) (as : List Access) : Prop :=
  let t := s.team ctx
  let cells := ((as.map fun a => loadCells i a.lane 0).flatten).map (·.1)
  ∃ e items pend, s.GoesOn ctx i s (t.enters e items pend) ∧
    e.uid = s.uid ∧ e.kind = m.kind ∧ e.pc = t.pc ∧ e.word = wordOf i ∧ e.works = items ∧ e.perf = [] ∧
    e.left = ((as.map m.pieces).flatten).length ∧ e.clsT = m.op.writes ∧ e.st = m.op.writes ∧ e.ld = !m.op.writes ∧
    (m.op.writes = true → e.tag = t.nextTag) ∧
    ((items.map (·.pieces)).flatten).Perm ((as.map m.pieces).flatten) ∧ (∀ x ∈ items, x.ent = s.uid ∧ x.asks m.op m.win) ∧
    ∀ c, if m.op.reads = true ∧ c ∈ cells then ({ t with pend } : Team).owes c ∧ ({ t with pend } : Team).due c = none
      else (({ t with pend } : Team).owes c ↔ t.owes c) ∧ ({ t with pend } : Team).due c = t.due c

/-- A memory instruction at issue: it traps with the first check that an access fails, goes on with nothing to do when it has
no access, is passed over when its team, block or core has no room, and otherwise sends its accesses (R148, R149, R179). -/
def State.IssuesAccesses (s : State) (ctx : Nat) (i : Instr) (m : MemOp) (as : List Access) : Prop :=
  match m.check ((s.blockOf? ctx).elim 0 (·.scratch)) as with
  | some c => s.TrapsWith ctx i c 0
  | none =>
    if as = [] then s.GoesOn ctx i s (s.team ctx)
    else if s.room ctx m.reserve (if m.op.writes then as.length * m.n else 0) = true then s.SendsAccesses ctx i m as
    else s.Holds i

/-- A team with an engine instruction's entry more: its counter and, for a class-T instruction, its next tag have risen. -/
def Team.entersEngine (t : Team) (e : Entry) (pend : List Result) : Team :=
  { t with pend, inflight := t.inflight ++ [e], nextTag := t.nextTag + b2n e.clsT, cpcnt := t.cpcnt + b2n e.cp }

/-- An entry of an engine instruction: its identity, KIND, and how many completions it waits for (R284). -/
def Entry.isFor (e : Entry) (s : State) (ctx : Nat) (i : Instr) (kind left : Nat) (clsT cp : Bool) : Prop :=
  e.uid = s.uid ∧ e.kind = kind ∧ e.left = left ∧ e.clsT = clsT ∧ e.cp = cp ∧ e.pc = (s.team ctx).pc ∧ e.word = wordOf i ∧
    e.perf = [] ∧ e.ld = false ∧ e.st = false

/-! ## Memory -/

/-- The three memories are in their canonical form. -/
def State.MemoryOk (s : State) : Prop := s.mem.wf = true ∧ s.hostMem.wf = true ∧ s.peerMem.wf = true

end Sys2Proof.Machine
end

