-- ==== Sys2Proof/Certificates/Slice0/Obligations.lean ====
section
/-! DEFINITION. The statements for the provers.  `Runs` is a team that issues in a running block, `Passes` the checks of
R92 and R68, `Gives` a next state in which exactly the named results are newly outstanding and nothing else has changed. -/

open Sys2Proof Sys2Proof.Machine

/-! ## The vector mould -/

/-- R409, R426, R107: the integer instructions that honour SAT compute the exact integer of each element and bring it into the
type, clamped with SAT and wrapped without.  R409, R426: VMIN, VMAX and VMULH on each element's integer; VMULH gives bits [2n
− 1:n] of the exact product. -/
def Obligations.IntegerVectorResults : Prop :=
  (∀ r ∈ ([(.vadd, fun a b _ => a + b), (.vsub, fun a b _ => a - b), (.vmul, fun a b _ => a * b),
         (.vmad, fun a b c => a * b + c)] : List ((VF → Instr) × (Int → Int → Int → Int))),
       ∀ (s : State) (ctx : Nat) (f : VF), s.Runs ctx → s.Passes ctx (r.1 f) →
         s.GivesElems ctx (r.1 f) f fun a b c =>
           let ty := f.ty.toNat
           let n := tyBits ty
           let x := r.2 (elemInt ty a) (elemInt ty b) (elemInt ty c)
           if f.sat then
             if tySigned ty then wrapN n (max (-2 ^ (n - 1)) (min (2 ^ (n - 1) - 1) x))
             else wrapN n (max 0 (min (2 ^ n - 1) x))
           else wrapN n x) ∧
  (∀ r ∈ ([(.vmin, fun _ a b => min a b), (.vmax, fun _ a b => max a b), (.vmulh, fun n a b => a * b / 2 ^ n)] :
         List ((VF → Instr) × (Nat → Int → Int → Int))),
       ∀ (s : State) (ctx : Nat) (f : VF), s.Runs ctx → s.Passes ctx (r.1 f) →
         s.GivesElems ctx (r.1 f) f fun a b _ =>
           wrapN (tyBits f.ty.toNat) (r.2 (tyBits f.ty.toNat) (elemInt f.ty.toNat a) (elemInt f.ty.toNat b)))

/-- R426, R409: shifts by b mod n, counts of one bits and of leading zeros, element by element.  R409, R426, R417, R427: the
bitwise instructions and VMOV act on a lane's bits as they stand; VSEL takes VA where the k-register that VC names is set, and
VB elsewhere. -/
def Obligations.VectorBitwise : Prop :=
  (∀ r ∈ ([(.vshl, fun n a b => a * 2 ^ (b % n) % 2 ^ n), (.vshr, fun n a b => a / 2 ^ (b % n)),
         (.vsra, fun n a b => wrapN n (signed n a / 2 ^ (b % n))), (.vpopc, fun n a _ => popcount n a),
         (.vclz, fun n a _ => n - bitLen a)] : List ((VF → Instr) × (Nat → Nat → Nat → Nat))),
       ∀ (s : State) (ctx : Nat) (f : VF), s.Runs ctx → s.Passes ctx (r.1 f) →
         s.GivesElems ctx (r.1 f) f fun a b _ => r.2 (tyBits f.ty.toNat) a b) ∧
  (∀ (s : State) (ctx : Nat) (f : VF), s.Runs ctx →
       let a := fun l => (s.team ctx).operand f.ty.toNat f.va.toNat f.imm.toNat l
       let b := fun l => (s.team ctx).operand f.ty.toNat f.vb.toNat f.imm.toNat l
       (s.Passes ctx (.vand f) → s.Gives ctx (.vand f) (s.laneWrites ctx f fun l => a l &&& b l)) ∧
       (s.Passes ctx (.vor f) → s.Gives ctx (.vor f) (s.laneWrites ctx f fun l => a l ||| b l)) ∧
       (s.Passes ctx (.vxor f) → s.Gives ctx (.vxor f) (s.laneWrites ctx f fun l => a l ^^^ b l)) ∧
       (s.Passes ctx (.vmov f) →
         s.Gives ctx (.vmov f) (s.laneWrites ctx f fun l => if f.vb.toNat = 1023 then b l else a l)) ∧
       (s.Passes ctx (.vsel f) →
         s.Gives ctx (.vsel f) (s.laneWrites ctx f fun l => if ((s.team ctx).kreg f.vc.toNat).getLsbD l then a l else b l)))

/-- R410: VCMP and VFCMP write one bit of k-register VD in each active lane, the condition that VC names. -/
def Obligations.VectorCompares : Prop :=
  ∀ (s : State) (ctx : Nat) (f : VF), s.Runs ctx →
    let a := fun l => (s.team ctx).operand f.ty.toNat f.va.toNat f.imm.toNat l
    let b := fun l => (s.team ctx).operand f.ty.toNat f.vb.toNat f.imm.toNat l
    let v := fun x => unpack fF32 (dazIn (modeDaz (s.team ctx).mode) fF32 x)
    (s.Passes ctx (.vcmp f) →
      s.Gives ctx (.vcmp f) (maskWrites f.vd.toNat (s.activeLane ctx f.pm f.pn) fun l =>
        condInt f.vc.toNat (elemInt f.ty.toNat (a l)) (elemInt f.ty.toNat (b l)))) ∧
    (s.Passes ctx (.vfcmp f) →
      s.Gives ctx (.vfcmp f) (maskWrites f.vd.toNat (s.activeLane ctx f.pm f.pn) fun l =>
        condFloat f.vc.toNat (v (a l)) (v (b l))))

/-- R414, R103, R104, R106: VFADD, VFSUB, VFMUL and VFMA round the exact value once, after DAZ on the sources, with the
rounding mode in force, FTZ and SAT.  R414, R104, R97: VFMIN, VFMAX, VFCLASS and VFRND on each element's bits; that
VFMIN and VFMAX read a subnormal source as the zero that DAZ makes of it, and return that zero, is log entry 65 (DEDUCED). -/
def Obligations.FloatVectorResults : Prop :=
  (∀ r ∈ ([(.vfadd, fun m a b _ => addFV m a b), (.vfsub, fun m a b _ => addFV m a (negFV b)),
         (.vfmul, fun _ a b _ => mulFV a b), (.vfma, fun m a b c => addFV m (mulFV a b) c)] :
         List ((VF → Instr) × (Nat → FV → FV → FV → FV))),
       ∀ (s : State) (ctx : Nat) (f : VF), s.Runs ctx → s.Passes ctx (r.1 f) →
         let mode := (s.team ctx).mode
         let fm := fmtOf f.ty.toNat
         let v := fun x => unpack fm (dazIn (modeDaz mode) fm x)
         s.GivesElems ctx (r.1 f) f fun a b c =>
           roundFV fm (rndOf mode f.rnd) f.sat (modeFtz mode) (r.2 (rndOf mode f.rnd) (v a) (v b) (v c)) %
             2 ^ tyBits f.ty.toNat) ∧
  (∀ r ∈ ([(.vfmin, fun m _ fm a b => minMaxBits fm (modeDaz m) false a b),
         (.vfmax, fun m _ fm a b => minMaxBits fm (modeDaz m) true a b), (.vfclass, fun _ _ fm a _ => classBits fm a),
         (.vfrnd, fun m r fm a _ => integralBits fm (rndOf m r) (modeFtz m) (modeDaz m) a)] :
         List ((VF → Instr) × (Word64 → BitVec 3 → Fmt → Nat → Nat → Nat))),
       ∀ (s : State) (ctx : Nat) (f : VF), s.Runs ctx → s.Passes ctx (r.1 f) →
         s.GivesElems ctx (r.1 f) f fun a b _ =>
           r.2 (s.team ctx).mode f.rnd (fmtOf f.ty.toNat) a b % 2 ^ tyBits f.ty.toNat)

/-- R411, R412, R110: VCVT converts the elements of its source type.  With more destination elements than source elements the
part that it names is written and the other elements keep what VD holds. -/
def Obligations.VectorConversion : Prop :=
  ∀ (s : State) (ctx : Nat) (f : VF), s.Runs ctx → s.Passes ctx (.vcvt f) →
    let src := cvtSrc f
    let dst := f.ty.toNat
    let conv := convElem (s.team ctx).mode (rndOf (s.team ctx).mode f.rnd) f.sat src dst
    let a := fun l => (s.team ctx).operand src f.va.toNat f.imm.toNat l
    ∃ x : Nat → Nat, s.Gives ctx (.vcvt f) (s.laneWrites ctx f x) ∧
      ∀ l e, s.activeLane ctx f.pm f.pn l = true → e < tyCount dst →
        elemAt dst (x l) e =
          (if tyCount src < tyCount dst then
            if cvtPart f * tyCount src ≤ e ∧ e < cvtPart f * tyCount src + tyCount src then
              conv (elemAt src (a l) (e - cvtPart f * tyCount src))
            else elemAt dst ((s.team ctx).vreg f.vd.toNat l).toNat e
          else conv (elemAt src (a l) (cvtPart f * tyCount dst + e))) % 2 ^ tyBits dst

/-- R415, R428, R117: a transcendental gives each element the fixed function of its input bits, FTZ and DAZ. R116: the table
of special inputs, in each of the three formats and whatever the mode: +0, −0, +∞, −∞ and NaN. R116: no result of VTANH
exceeds 1.0 in magnitude, and VTANH(−x) is exactly −VTANH(x), for an input that is no NaN.  R116: the row of 1.0, and of a
negative finite input; VEXP2 of an integer whose power is representable, and VLOG2 of an integer power of two, are exact; VRCP
and VRSQ are within 2 ulp in f32 and 1 ulp in f16 and bf16, or the nearest value; the others lie as near to an enclosure of the
exact result, or are the nearest value below it. The result bits within R116's bounds are a free value (log entry 1). -/
def Obligations.Transcendentals : Prop :=
  (∀ r ∈ ([(.vrcp, 0), (.vrsq, 1), (.vexp2, 2), (.vlog2, 3), (.vtanh, 4)] : List ((VF → Instr) × Nat)),
       ∀ (s : State) (ctx : Nat) (f : VF), s.Runs ctx → s.Passes ctx (r.1 f) →
         s.GivesElems ctx (r.1 f) f fun a _ _ =>
           transBits r.2 f.ty.toNat (fmtOf f.ty.toNat) (modeFtz (s.team ctx).mode) (modeDaz (s.team ctx).mode) a %
             2 ^ tyBits f.ty.toNat) ∧
  (∀ f ∈ [fF32, fF16, fBF16], ∀ ty ftz daz,
       let inf := f.maxFin + 1
       let m := 2 ^ (f.w - 1)
       let one := roundMag f 0 false 1 0
       ∀ r ∈ ([(0, [inf, m + inf, 0, m, f.nan]), (1, [inf, m + inf, 0, f.nan, f.nan]), (2, [one, one, inf, 0, f.nan]),
           (3, [m + inf, m + inf, inf, f.nan, f.nan]), (4, [0, m, one, m + one, f.nan])] : List (Nat × List Nat)),
         [0, m, inf, m + inf, f.nan].map (transBits r.1 ty f ftz daz) = r.2) ∧
  (∀ f ∈ [fF32, fF16, fBF16], ∀ ty ftz daz x, x < 2 ^ (f.w - 1) → (unpack f x).isNan = false →
       magOf f (transBits 4 ty f ftz daz x) ≤ roundMag f 0 false 1 0 ∧
         transBits 4 ty f ftz daz (x + 2 ^ (f.w - 1)) = transBits 4 ty f ftz daz x + 2 ^ (f.w - 1)) ∧
  (∀ f ∈ [fF32, fF16, fBF16], ∀ ty ftz daz,
       let one := roundMag f 0 false 1 0
       [0, 1, 2, 3].map (fun op => transBits op ty f ftz daz one) = [one, one, roundMag f 0 false 1 1, 0] ∧
       ∀ x m e, unpack f (dazIn daz f x) = .fin true m e → m ≠ 0 →
         transBits 1 ty f ftz daz x = f.nan ∧ transBits 3 ty f ftz daz x = f.nan) ∧
  (∀ r ∈ ([(fF32, 2, -149, 127), (fF16, 1, -24, 15), (fBF16, 1, -133, 127)] : List (Fmt × Nat × Int × Int)),
     ∀ ty daz x neg m e, unpack r.1 (dazIn daz r.1 x) = .fin neg m e → m ≠ 0 →
       let f := r.1
       let y := fun op => transBits op ty f false daz x
       let near := fun (c : Nat) (low : Bool) (v : Encl) =>
         let n := min (roundMag f 0 false v.1 v.2.2) (f.maxFin + 1)
         enclWithin f r.2.1 c low v = true ∨ (enclWithin f r.2.1 n low v = false ∧ c = n - 1)
       (rcpNear f m e ≤ f.maxFin → negOf f (y 0) = neg ∧
         (rcpWithin f r.2.1 (magOf f (y 0)) m e = true ∨ magOf f (y 0) = rcpNear f m e)) ∧
       (neg = false → rsqWithin f r.2.1 (magOf f (y 1)) m e = true ∨ y 1 = rsqNear f m e) ∧
       (∀ n : Nat, m * 2 ^ e.toNat = n * 2 ^ (-e).toNat →
         let k : Int := if neg then -n else n
         r.2.2.1 ≤ k → k ≤ r.2.2.2 → y 2 = roundMag f 0 false 1 k) ∧
       (∀ j : Nat, neg = false → m * 2 ^ e.toNat = 2 ^ j * 2 ^ (-e).toNat → y 3 = roundFin f 0 false false false j 0) ∧
       (m % 2 ^ (-e).toNat ≠ 0 → neg = true ∨ (m / 2 ^ (-e).toNat : Int) ≤ r.2.2.2 → near (y 2) true (exp2Encl f neg m e)) ∧
       ((∀ j : Nat, m * 2 ^ e.toNat ≠ 2 ^ j * 2 ^ (-e).toNat) → neg = false → near (magOf f (y 3)) false (log2Encl m e).2) ∧
       ∃ c, near c false (tanhEncl m e) ∧ magOf f (y 4) = min (roundMag f 0 false 1 0) c)

/-! ## Lanes and masks -/

/-- R429, R37: VSHFL and VROT give an active lane the value of a position of its own span group; a position that VSHFL names
outside the group leaves the lane its own value, and an immediate count that is no position of the group traps BADSPAN.  R416,
R430: VMATCH and VSCAN combine the active lanes of a span group: those that share the lane's key, or those at and below the
lane.  R413: VEXTR moves one lane into an s-register and VINS an s-register into one lane, whatever the execution mask. -/
def Obligations.LaneInstructions : Prop :=
  ((∀ r ∈ ([(.vshfl, fun f span j d => (shflPos f.vc.toNat span j d).getD j), (.vrot, fun _ span j d => (j + d) % span)] :
            List ((VF → Instr) × (VF → Nat → Nat → Nat → Nat))),
          ∀ (s : State) (ctx : Nat) (f : VF), s.Runs ctx → s.Passes ctx (r.1 f) →
            let span := s.spanOf ctx
            (f.vb.toNat ≠ 1023 ∨ f.imm.toNat < span →
              s.Gives ctx (r.1 f) (s.laneWrites ctx f fun l =>
                (s.team ctx).operand f.ty.toNat f.va.toNat 0 (l - l % span + r.2 f span (l % span) (s.shflCount ctx f l)))) ∧
            (f.vb.toNat = 1023 → span ≤ f.imm.toNat →
              s.TrapsWith ctx (r.1 f) Cause.badspan 0)) ∧
     (∀ (s : State) (ctx : Nat) (f : VF), s.Runs ctx →
          let t := s.team ctx
          let span := s.spanOf ctx
          let ty := f.ty.toNat
          let act := t.active (s.widthOf ctx) f.pm f.pn
          let key := fun l => t.operand 1 f.va.toNat 0 l
          let group := fun l => act.filter fun x => x / span == l / span && key x == key l
          let before := fun l => act.filter fun x => x / span == l / span && decide (x < l)
          let val := fun (fld : BitVec 10) l => t.operand ty fld.toNat f.imm.toNat l
          (s.Passes ctx (.vmatch f) → s.Gives ctx (.vmatch f) (s.laneWrites ctx f fun l =>
            if f.vc.toNat = 6 then (group l).length else if f.vc.toNat = 7 then (group l).headD l
            else reduceVals f.vc.toNat ty (rndOf t.mode f.rnd) ((group l).map (val f.vb)))) ∧
          (s.Passes ctx (.vscan f) → s.Gives ctx (.vscan f) (s.laneWrites ctx f fun l =>
            let op := bitsAt f.vc.toNat 0 3
            let vals := (if bitAt f.vc.toNat 3 then before l else before l ++ [l]).map (val f.va)
            if vals.isEmpty then scanIdentity op ty else reduceVals op ty (rndOf t.mode f.rnd) vals)))) ∧
  (∀ (s : State) (ctx : Nat) (f : VF), s.Runs ctx →
       (s.Passes ctx (.vextr f) → s.Gives ctx (.vextr f) (scalarWrite (f.vd.toNat - 768)
         (BitVec.ofNat 64 ((s.team ctx).operand f.ty.toNat f.va.toNat 0 (s.laneIndex ctx f))))) ∧
       (s.Passes ctx (.vins f) → s.Gives ctx (.vins f) fun c =>
         let x := ((s.team ctx).sreg (f.va.toNat - 768)).toNat
         if c = .v f.vd.toNat (s.laneIndex ctx f) then some (BitVec.ofNat 1024 (x % 2 ^ 32))
         else if ty64 f.ty.toNat ∧ c = .v (f.vd.toNat + 1) (s.laneIndex ctx f) then
           some (BitVec.ofNat 1024 (x / 2 ^ 32 % 2 ^ 32))
         else none))

/-- R382, R383: the mask instructions on bits: KAND, KOR, KXOR and KANDN in active lanes, KSET in every lane below the width,
KPUT in the lanes of one mask word.  R383, R36: KPOPC, KFIRST and KGET write an s-register when at least one lane is active,
and nothing when none is. -/
def Obligations.MaskInstructions : Prop :=
  (∀ (s : State) (ctx : Nat) (f : VF), s.Runs ctx →
       let a := fun l => ((s.team ctx).kreg f.va.toNat).getLsbD l
       let b := fun l => ((s.team ctx).kreg f.vb.toNat).getLsbD l
       let act := s.activeLane ctx f.pm f.pn
       let w := s.widthOf ctx
       (s.Passes ctx (.kand f) → s.Gives ctx (.kand f) (maskWrites f.vd.toNat act fun l => a l && b l)) ∧
       (s.Passes ctx (.kor f) → s.Gives ctx (.kor f) (maskWrites f.vd.toNat act fun l => a l || b l)) ∧
       (s.Passes ctx (.kxor f) → s.Gives ctx (.kxor f) (maskWrites f.vd.toNat act fun l => a l != b l)) ∧
       (s.Passes ctx (.kandn f) → s.Gives ctx (.kandn f) (maskWrites f.vd.toNat act fun l => a l && !b l)) ∧
       (s.Passes ctx (.kset f) →
         s.Gives ctx (.kset f) (maskWrites f.vd.toNat (fun l => decide (l < w)) fun _ => f.imm.getLsbD 0)) ∧
       (s.Passes ctx (.kput f) →
         s.Gives ctx (.kput f) (maskWrites f.vd.toNat (fun l => decide (l < w) && l / 32 == s.wordIndex ctx f) fun l =>
           bitAt ((s.team ctx).sreg (f.va.toNat - 768)).toNat (l % 32)))) ∧
  (∀ (s : State) (ctx : Nat) (f : VF), s.Runs ctx →
       let act := (s.team ctx).active (s.widthOf ctx) f.pm f.pn
       let held := act.filter fun l => ((s.team ctx).kreg f.va.toNat).getLsbD l
       let put := fun (x : Nat) (c : Cell) =>
         if act = [] then none else scalarWrite (f.vd.toNat - 768) (BitVec.ofNat 64 x) c
       (s.Passes ctx (.kpopc f) → s.Gives ctx (.kpopc f) (put held.length)) ∧
       (s.Passes ctx (.kfirst f) → s.Gives ctx (.kfirst f) (put (held.headD (2 ^ 64 - 1)))) ∧
       (s.Passes ctx (.kget f) → s.Gives ctx (.kget f) (put
         (if s.wordIndex ctx f < maskWords (s.widthOf ctx) then maskWord ((s.team ctx).kreg f.va.toNat) (s.wordIndex ctx f)
           else 0))))

/-! ## Scalars -/

/-- R395, R396: the scalar instructions read their sources at issue and give SD one value.  A result for s0 is due like any
other and is discarded when it is written (R78, the statement ResultsReturn).  R395, R397: SSEL keeps its choice by the old
value of SD; SDIV and SREM round the quotient toward zero, and trap SDIVZERO when the divisor is 0. -/
def Obligations.ScalarInstructions : Prop :=
  (∀ r ∈ ([(.sadd, fun _ a b => a + b), (.saddi, fun f a _ => a + f.imm), (.ssub, fun _ a b => a - b),
         (.smul, fun _ a b => a * b), (.smulh, fun _ a b => BitVec.ofInt 64 (a.toInt * b.toInt / 2 ^ 64)),
         (.sand, fun _ a b => a &&& b), (.sor, fun _ a b => a ||| b), (.sxor, fun _ a b => a ^^^ b),
         (.sshl, fun _ a b => a <<< (b.toNat % 64)), (.sshr, fun _ a b => a >>> (b.toNat % 64)),
         (.ssra, fun _ a b => a.sshiftRight (b.toNat % 64)), (.smin, fun _ a b => if a.toInt ≤ b.toInt then a else b),
         (.smax, fun _ a b => if b.toInt ≤ a.toInt then a else b), (.smov, fun _ a _ => a), (.smovi, fun f _ _ => f.imm),
         (.scmp, fun f a b => if condScalar (f.imm.toNat % 8) a b then 1 else 0)] :
         List ((SF → Instr) × (SF → Word64 → Word64 → Word64))),
       ∀ (s : State) (ctx : Nat) (f : SF), s.Runs ctx → s.Passes ctx (r.1 f) →
         s.Gives ctx (r.1 f)
           (scalarWrite f.sd.toNat (r.2 f ((s.team ctx).sreg f.sa.toNat) ((s.team ctx).sreg f.sb.toNat)))) ∧
  (∀ (s : State) (ctx : Nat) (f : SF), s.Runs ctx →
       let a := (s.team ctx).sreg f.sa.toNat
       let b := (s.team ctx).sreg f.sb.toNat
       let q : Int := if f.imm.getLsbD 0 then (a.toNat / b.toNat : Nat) else a.toInt.tdiv b.toInt
       (s.Passes ctx (.ssel f) →
         s.Gives ctx (.ssel f) (scalarWrite f.sd.toNat (if (s.team ctx).sreg f.sd.toNat ≠ 0 then a else b))) ∧
       (s.Passes ctx (.sdiv f) → b ≠ 0 → s.Gives ctx (.sdiv f) (scalarWrite f.sd.toNat (BitVec.ofInt 64 q))) ∧
       (s.Passes ctx (.srem f) → b ≠ 0 →
         s.Gives ctx (.srem f) (scalarWrite f.sd.toNat (a - b * BitVec.ofInt 64 q))) ∧
       (s.Passes ctx (.sdiv f) → b = 0 → s.TrapsWith ctx (.sdiv f) Cause.sdivzero 0) ∧
       (s.Passes ctx (.srem f) → b = 0 → s.TrapsWith ctx (.srem f) Cause.sdivzero 0))

/-- R55, R56, R391: SREAD gives an s-register the special register's value, or its low 32 bits to a v-register in every lane
of the execution mask; 27 and above trap BADREG, and so does LANE into an s-register.  SHSET replaces one field of a record.
R55: what each number reads, in the order of its table. TEMP of a control core is its core's temperature field, which stays
zero (log entry 100). -/
def Obligations.SpecialRegisterReads : Prop :=
  ∀ (s : State) (ctx : Nat) (f : SF), s.Runs ctx →
    let n := srNumber f
    (s.Passes ctx (.sread f) → n < 27 → n ≠ 0 →
      s.Gives ctx (.sread f) (scalarWrite f.sd.toNat (BitVec.ofNat 64 (s.special ctx n 0)))) ∧
    (s.Passes ctx (.sread f) → (27 ≤ n ∨ n = 0) →
      s.TrapsWith ctx (.sread f) Cause.badreg 0) ∧
    (s.Passes ctx (.sreadV f) → n < 27 → s.Gives ctx (.sreadV f) fun c => match c with
      | .v r l =>
        if r = (f.imm.extractLsb' 13 10).toNat ∧ l < s.widthOf ctx ∧ (s.team ctx).exec.getLsbD l = true then
          some (BitVec.ofNat 1024 (s.special ctx n l % 2 ^ 32))
        else none
      | _ => none) ∧
    (s.Passes ctx (.sreadV f) → 27 ≤ n →
      s.TrapsWith ctx (.sreadV f) Cause.badreg 0) ∧
    (s.Passes ctx (.shset f) → s.Gives ctx (.shset f) fun c =>
      if c = .h f.sd.toNat then
        some ((setField ((s.team ctx).hreg f.sd.toNat) (shsetField f.sb.toNat).1 (shsetField f.sb.toNat).2
          ((s.team ctx).sreg f.sa.toNat + f.imm).toNat).setWidth 1024)
      else none) ∧
    ∀ b lane, s.blockOf? ctx = some b →
      let t := s.team ctx
      let trapRec := if t.handler = true ∧ b.monitor = false then s.frameVA (frameOf ctx) (trapArea (teamIx ctx)) else 0
      (List.range 27).map (fun k => s.special ctx k lane) =
        [lane, teamIx ctx, b.teams, b.index.toNat,
         ((s.queue b.queue).launches.find? fun l => l.seq == b.seq).elim 0 (·.pkt.blocks), b.width, b.span] ++
        [b.lcore, b.core, colOf b.core % 24, dieOf b.core, s.cyclesOf (colOf b.core), s.time, t.mode.toNat, b.params.toNat] ++
        [b.spbase, b.preq, t.bell.toNat, b.cls, b.queue, b.asid, (s.core b.core).nt.toNat, t.gangs.toNat, 0] ++
        [(s.core b.core).temp.toNat, t.faultpc.toNat, trapRec]


/-! ## Words and steps -/

/-- Example words of the spec's entries stand for the statements printed beside them: one of each format (R342, R385, R386,
R224, R393, R398; the VFADD word is in the listing under 'Fetch lines of the kernel', with the fields of R69 to R77). -/
def Obligations.ExampleWords : Prop :=
  decode 0x18800A020090018800000000#96 = .vfadd { sw := true, vd := 10, va := 8, vb := 9, ty := 6, rnd := 1 } ∧
  decode 0x520090000000002000000020#96 = .smovi { sd := 9, imm := 0x2000000020 } ∧
  decode 0x6480080FFF46800000000000#96 =
    .sld { sw := true, data := 8, base := 3, idx := 1023, sz := 2, scope := 3, ord := 1 } ∧
  decode 0x8A00220003D6008000000001#96 = .rrot { ha := 1, hb := 2, bar := 15, s1 := 22, sub := 0x008000000001 } ∧
  decode 0xA200020000000000FFFFFFFE#96 = .bany { ksel := 2, disp := 0xFFFFFFFE } ∧
  decode 0xC30050000000000000000000#96 = .modewr { sa := 5 } ∧
  decode 0xB20000000000000000000000#96 = .nop {}

/-- Decoding takes back what encoding writes: for every well-formed instruction that has a word, the word decodes to the
instruction, with every operand at every value the encoding admits; only program instructions have a word (R69 to R89). -/
def Obligations.DecodeOfEncode : Prop :=
  ∀ i : Instr, i.wellFormed = true → ∀ w, encode i = some w → decode w = i ∧ decodeBytes (bytesOfWord w) = .ok (i, [])

/-- Encoding takes back what decoding reads: every 96-bit word stands for a well-formed instruction whose word it is, so no
bit of a word is lost and no word is refused (R89, R93). -/
def Obligations.EncodeOfDecode : Prop :=
  ∀ w : Word96, (decode w).wellFormed = true ∧ encode (decode w) = some w

/-- A step whose move is the issue of a team fetches the line at the team's program counter and runs the word that its slot
decodes to, or, of a pair, the first member and then the second if the first went on to it (R58 to R68, R92). A team that TRET
left with the wait of that instruction to be resumed resumes it and issues nothing (R406); that it is the wait of whatever word
stands at RESUME when the team would next issue is the model's choice (DESIGN CHOICE, log entry 90).  Which move comes next is the
schedule's (DESIGN CHOICE, log entry 5). -/
def Obligations.StepRunsDecoded : Prop :=
  ∀ (s s' : State) (ctx : Nat) (rest : List Act) (l : BitVec 512), s.agenda = .issue ctx :: rest →
    let s0 : State := { s with agenda := rest }
    let pc := (s.team ctx).pc
    let i := pcSlot pc
    let lw := lineWord l
    s0.mayIssue ctx = true → badSlot pc = false → canonical (pcLine pc) = true → s0.fetchLine ctx pc = .ok s' l →
    lparBad lw = false → (issuing lw i).any (parBad l) = false → ((s.team ctx).entryTgt = true → tgtBit lw i = true) →
    bitsAt lw 15 17 = 0 → malformed lw = false → (0 < i → pairBit lw (i - 1) = false) →
    ((s.team ctx).rewait = true → step s = .next ((s'.resumeWait ctx (slotWord l i)).afterIssue ctx)) ∧
    ((s.team ctx).rewait = false → pairBit lw i = false →
      step s = exec (decode (slotWord l i)) { s' with cur := some ctx, pairSecond := none, pairMark := false }) ∧
    ((s.team ctx).rewait = false → pairBit lw i = true →
      let first := { s' with cur := some ctx, pairSecond := some (decode (slotWord l (i + 1))), pairMark := false }
      ∀ t, exec (decode (slotWord l i)) first = .next t → first.issueTrap ctx (decode (slotWord l i)) = none →
        step s = if (t.team ctx).pc = nextPc (s'.team ctx).pc ∧ t.canIssue ctx = true then exec (decode (slotWord l (i + 1))) t
          else .next t)

/-- A line is taken from the core's fetch buffer where its kept attributes allow the fetch.  One that the buffer does not hold
comes from the die's Well, when the line is valid there and its kept attributes allow the fetch, else from memory through a
translation that may fetch; a page that refuses it is a fault of the line (R60, R94, R150, R157).  A walk that kept attributes
or a replay ask for finds no entry of the TLB, and what it grants is kept (R150, R156).  A line under a second tag, or one that
the host owns, is taken back by its home first, one of host memory is asked of the host first (R207), and a CINV of the team's own
for the line is applied first (R158, R206, R356).  That a fetch of a peer's line first goes to the peer is the model's reading (DEDUCED,
log entry 87), and so is a fetch at an address of the register BAR, which host memory answers (log entry 19). -/
def Obligations.FetchReadsMemory : Prop :=
  ∀ (s : State) (ctx : Nat) (pc : Word64),
    let va := (pcLine pc).toNat
    let d := s.dieOfCtx ctx
    let asid := s.asidOf ctx
    let key := lineKey asid va
    let need : Need := { fetch := true, user := !s.isHandler ctx }
    let buffered := Tab.get? (s.core (s.coreOf ctx)).fbuf (fetchKey asid va)
    let comes := fun (s2 : State) (data : LineData) (a : Attr) => ∃ s3 l, s.fetchLine ctx pc = .ok s3 l ∧ OnlyFetch s2 s3 ∧
      l = BitVec.ofNat 512 (lineGet data (va % 128) 64) ∧
      Tab.get? (s3.core (s.coreOf ctx)).fbuf (fetchKey asid va) = some (l, a)
    (s.cinvOut ctx key = true → s.fetchLine ctx pc = .later s) ∧
    (s.cinvOut ctx key = false →
      (∀ l a, buffered = some (l, a) → a.x = true → (a.u = true ∨ s.isHandler ctx = true) → s.fetchLine ctx pc = .ok s l) ∧
      (buffered = none →
        (∀ data a, s.wellFetch d key (s.isHandler ctx) = some (data, a) → comes s data a) ∧
        (s.wellFetch d key (s.isHandler ctx) = none →
          let kept := s.keptRefuses d key
          let s0 := if kept = true ∨ (s.team ctx).fetchRep = true then s.dropTlb d asid va else s
          (∀ pl, s0.walkWaits d asid va need = some pl → s.fetchLine ctx pc = .later (s0.homeAsk pl .pull)) ∧
          (s0.walkWaits d asid va need = none → ∀ s1 r, s0.translate d asid va need = (s1, r) →
            match r with
            | .error (ty, lv) => s.fetchLine ctx pc = .fault s1 ty lv ∧ OnlyFetch s s1
            | .ok e =>
              let s2 := if kept = true then s1.keepLeaf d (tileOfLine key) e.attr else s1
              let pl := e.paOf va / 128
              (∀ op, s2.homeFirst key pl e.attr.swm = some op → s.fetchLine ctx pc = .later (s2.homeAsk pl op)) ∧
              (s2.homeFirst key pl e.attr.swm = none →
                (s2.fetchFirst ctx pc.toNat pl = true → s.fetchLine ctx pc = .later (s2.fetchAway ctx pc.toNat pl)) ∧
                (s2.fetchFirst ctx pc.toNat pl = false →
                  comes (s2.fetchBack ctx pc.toNat pl) (s2.seenLine d key pl e.attr.swm) e.attr))))))

/-- A word that fails the checks of R92, or a pair that fails those of R67 and R68, traps precisely with the cause of the
first check, logged with its own word and program counter and ADDR 0; nothing of it is performed.  R93: a word with a reserved
opcode traps precisely with ILLOP, its record naming the word as it stands.  R62, R66, R92, R161: the line checks of a slot
that is to issue: one that fails traps with no word decoded, a fetch fault holds the team at its program counter under a fault
record of path 3, and checks that pass leave the team alone.  R92: a word passes, and so does a pair, when no check of either
word fails, nor R67 of the pair; for a word of each format, what is checked and in which order.  That the held team keeps R39's
check of an entry slot due is the model's reading (DEDUCED, log entry 108), and that a record that waits for a free index keeps the
TIME of the failure is its choice (DESIGN CHOICE, log entry 92). -/
def Obligations.ChecksBeforeIssue : Prop :=
  (∀ (s : State) (ctx : Nat) (i : Instr) (c : Cause) (second : Bool), encode i ≠ none → s.cur = some ctx →
       s.canIssue ctx = true → s.issueTrap ctx i = some (c, second) →
       let pc := (s.team ctx).pc
       exec i s = .next ((({ s with pairSecond := none, pairMark := false } : State).raise ctx
         { cause := c, pc := if second then nextPc pc else pc, resume := pc, addr := 0
           word := if second then s.pairSecond.elim 0 wordOf else wordOf i }).afterIssue ctx)) ∧
  (∀ (s : State) (ctx : Nat) (w : Word96), s.cur = some ctx → s.canIssue ctx = true →
       exec (.reservedOpcode w) s = .next ((({ s with pairSecond := none, pairMark := false } : State).raise ctx
         { cause := Cause.illop, pc := (s.team ctx).pc, resume := (s.team ctx).pc, word := w, addr := 0 }).afterIssue ctx)) ∧
  (∀ (s : State) (ctx : Nat), s.cur = some ctx → s.canIssue ctx = true →
       let pc := (s.team ctx).pc
       (badSlot pc = true → exec .lineChecks s = .next ((s.raise ctx { cause := Cause.badslot, pc, resume := pc }).afterIssue ctx)) ∧
       (badSlot pc = false → canonical (pcLine pc) = false →
         exec .lineChecks s = .next ((s.raise ctx { cause := Cause.noncanon, pc, resume := pc }).afterIssue ctx)) ∧
       (∀ s' w second, s.fetch ctx = .words s' w second → exec .lineChecks s = .next s' ∧ OnlyFetch s s') ∧
       (∀ s' ty lv, s.fetch ctx = .hold s' ty lv → ∃ u, exec .lineChecks s = .next u ∧
         u.team ctx = { s.team ctx with
           sched := .waiting .fetchHold, waitWord := 0, fresh := true, fetchRep := false } ∧
         let d := s.dieOfCtx ctx
         let page := (pcLine pc).toNat / 4096 * 4096
         let r : FRec := { va := page, asid := s.asidOf ctx, type := ty, level := lv, rep := (s.team ctx).fetchRep
                           write := false, path := 3, pcore := s.coreOf ctx % 1024, time := s.time, att := [] }
         let same := (s.die d).frecs.find? fun e => e.2.va == page && e.2.asid == s.asidOf ctx && e.2.type == ty
         (∀ e, same = some e → Tab.get? (u.die d).frecs e.1 = some { e.2 with att := e.2.att ++ [.fetch ctx] }) ∧
         (same = none →
           (∀ id, freeRecord (s.die d).frecs = some id →
             Tab.get? (u.die d).frecs id = some { r with att := [.fetch ctx] }) ∧
           (freeRecord (s.die d).frecs = none → (u.die d).frwait = (s.die d).frwait ++ [(.fetch ctx, r)]))) ∧
       (∀ s', s.fetch ctx = .later s' → exec .lineChecks s = .next s' ∧ OnlyAsk s s') ∧
       (∀ s' c w, s.fetch ctx = .trap s' c w → OnlyFetch s s' ∧
         exec .lineChecks s = .next ((s'.raise ctx { cause := c, pc, resume := pc, word := w }).afterIssue ctx))) ∧
  (∀ (s : State) (ctx : Nat) (i : Instr), s.issueTrap ctx i = none ↔
       s.decodeTrap ctx i = none ∧ ∀ j, s.pairSecond = some j →
         s.decodeTrap ctx j = none ∧ pairOk i j = true ∧ s.badSpan ctx i = false ∧ s.badSpan ctx j = false) ∧
  (∀ (s : State) (ctx : Nat) (b : Block), s.blockOf? ctx = some b → b.vregs ≤ 768 →
       let v := fun (pair : Prop) (r : Nat) => r < b.vregs ∧ (pair → r % 2 = 0 ∧ r + 1 < b.vregs)
       (∀ w, s.decodeTrap ctx (.reservedOpcode w) = some Cause.illop) ∧
       (∀ f : VF, let pair := f.ty = 11 ∨ f.ty = 12
         s.decodeTrap ctx (.vadd f) =
           if f.res ≠ 0 ∨ (f.pn = true ∧ f.pm = 0) ∨ f.rnd ≠ 0 ∨ f.vc ≠ 0 ∨ (f.vb.toNat ≠ 1023 ∧ f.imm ≠ 0) then some Cause.rsvfld
           else if ¬ (v pair f.vd.toNat ∧ (v pair f.va.toNat ∨ (768 ≤ f.va.toNat ∧ f.va.toNat < 832)) ∧
             (v pair f.vb.toNat ∨ (768 ≤ f.vb.toNat ∧ f.vb.toNat < 832) ∨ f.vb.toNat = 1023)) then some Cause.badreg
           else if f.ty.toNat ∈ [6, 7, 8, 9, 10, 13, 14, 15] then some Cause.badtype else none) ∧
       (∀ f : SF, s.decodeTrap ctx (.sadd f) = if f.pm ≠ 0 ∨ f.pn = true ∨ f.imm ≠ 0 then some Cause.rsvfld else none) ∧
       (∀ f : MF, s.decodeTrap ctx (.vld f) =
         if f.res ≠ 0 ∨ 4 < f.sz.toNat ∨ 4 < f.scope.toNat ∨ 1 < f.well.toNat ∨ f.aop ≠ 0 ∨ f.shift ≠ 0 ∨ (f.pn = true ∧ f.pm = 0) ∨
           f.idx.toNat ≠ 1023 ∨ (f.sx = true ∧ 1 < f.sz.toNat) ∨ 1 < f.ord.toNat then some Cause.rsvfld
         else
           let n := if f.sz = 3 then 2 else if f.sz = 4 then 4 else 1
           if f.data.toNat % n ≠ 0 ∨ b.vregs < f.data.toNat + n then some Cause.badreg else none) ∧
       (∀ f : XF, s.decodeTrap ctx (.mma f) =
         if s.isControl ctx = true then some Cause.badctl
         else if f.pm ≠ 0 ∨ f.pn = true ∨ f.hc ≠ 0 ∨ f.bar ≠ 0 ∨ f.s1 ≠ 0 ∨ f.sub.toNat / 2 ≠ 0 then some Cause.rsvfld
         else if b.acc ≤ f.zd.toNat then some Cause.badacc else none) ∧
       (∀ f : CF, s.decodeTrap ctx (.br f) =
         if f.pm ≠ 0 ∨ f.pn = true ∨ f.res ≠ 0 ∨ f.sa ≠ 0 ∨ f.ksel ≠ 0 ∨ f.cc ≠ 0 then some Cause.rsvfld else none) ∧
       (∀ f : YF, s.decodeTrap ctx (.ctxrd f) =
         if s.isHandler ctx = false then some Cause.privop
         else if f.pm ≠ 0 ∨ f.pn = true ∨ f.code ≠ 0 ∨ f.sub.toNat % 2 ^ 53 ≠ 0 then some Cause.rsvfld
         else if b.vregs ≤ f.sub.toNat / 2 ^ 53 then some Cause.badreg else none))

/-! ## The machine after reset, and memory -/

/-- What the register tables and the rules give for reset: no queue is enabled, every chain is empty, PUMPEN is set with
SLOPE 40, NOMF 50,000, PBUDGET 2,000, SHEDFLOOR 1, no class shed, THOT and the other temperature limits, WTHERM, and the seeds of
the lotteries (R118, R144, R258, R264, R302, R309, R317, R322). The life-cycle state, Deployed, and the empty memories and
registers that the spec gives no value are the model's choice (log entries 6, 7 and 8). -/
def Obligations.ResetValues : Prop :=
  let s := State.reset
  s.queues = [] ∧ s.teams = [] ∧ s.blocks = [] ∧ s.msgs = [] ∧ s.launchRegs = {} ∧ s.pool.en = false ∧
  (∀ d, (s.die d).chain = [] ∧ (s.die d).tiles = [] ∧ (s.die d).lines = [] ∧ (s.die d).wrestore = 0x05F0 ∧
    (s.die d).wretire = 0x06E0) ∧
  (∀ c, (s.core c).nt = 0 ∧ (s.core c).l1 = [] ∧ (s.core c).sp = []) ∧
  s.power.pumpen = true ∧ s.power.slope = 40 ∧ s.power.nomf = 50000 ∧ s.power.hystf = 20 ∧ s.power.hystv = 10 ∧
  s.power.pbudget = 2000 ∧ s.power.shedfloor = 1 ∧ s.power.shed = 0 ∧ s.power.clamp = 0 ∧ s.power.cap = 1024 ∧
  s.power.stpEn = false ∧ s.power.ttrip = 0x0730 ∧ s.power.thot = 0x05F0 ∧ s.power.tmaxtgt = 0x0550 ∧
  s.power.tmargin = 8 ∧ s.power.migwait = 10 ∧
  (∀ d, d < 4 → (s.die d).seed.toNat = d + 1) ∧ s.plat.lc = 2 ∧
  (∀ a, s.mem.read a = 0 ∧ s.hostMem.read a = 0 ∧ s.peerMem.read a = 0)

/-- Every step keeps the three memories in their canonical form. -/
def Obligations.StepKeepsMemoryForm : Prop :=
  ∀ s t : State, s.MemoryOk → step s = .next t → t.MemoryOk

/-- The memories of the machine after reset are in canonical form. -/
def Obligations.ResetMemoryForm : Prop := State.reset.MemoryOk

/-- R174, R191, R196: what is written to coherent memory is what every later coherent read of those bytes gives, whichever
die, buffer or message holds the newest copy of each line; every other byte keeps its value. That such an access acts in one
step on every copy is the model's choice (log entry 14).  R184, R185, R421: an access performed on a line.  A load reads its
bytes and changes nothing; a store leaves its datum there, an atomic what its operation makes of the old value, a
compare-and-swap its new value where the old one is the compare value; every other byte stays, and a duplicate changes none.
R419, R421, R393: once a lane's bytes have all come, its value goes to the results that the instruction owes: a vector load's
or atomic's registers, a scalar load's register, extended as the word says. -/
def Obligations.CoherentReadAfterWrite : Prop :=
  (∀ (s : State) (pa : Nat) (bs : List Byte), pa + bs.length ≤ 2 ^ 52 →
    (s.physWrite pa bs).physRead pa bs.length = bs ∧
    ∀ q, q < 2 ^ 52 → (q < pa ∨ pa + bs.length ≤ q) → (s.physWrite pa bs).physRead q 1 = s.physRead q 1) ∧
  (∀ (a : LineAcc) (r : Req) (pt : Point) (p : Piece), p.va % 128 + p.n ≤ 128 →
    let off := p.va % 128
    let old := lineGet a.data off p.n
    let u := a.piece r pt p
    let x := p.data.toNat % 2 ^ (8 * p.n)
    (∀ q, q < 128 → (q < off ∨ off + p.n ≤ q) → lineGet u.data q 1 = lineGet a.data q 1) ∧
    (r.op = .load → u.data = a.data ∧ u.s = a.s.credit r.ctx r.ent p.id p.lane (p.got old)) ∧
    (a.s.isDup r.ctx r.tag p.id = true → u.data = a.data) ∧
    (a.s.isDup r.ctx r.tag p.id = false →
      (r.op = .store → lineGet u.data off p.n = x ∧ u.wrote = true) ∧
      (∀ op, r.op = .atomic op → lineGet u.data off p.n = aop op p.n old x % 2 ^ (8 * p.n) ∧
        u.s = (a.s.record pt r.ctx r.tag r.low p.id (some (BitVec.ofNat 512 old))).credit r.ctx r.ent p.id p.lane (p.got old)) ∧
      (r.op = .cas → lineGet u.data off p.n = if old = p.cmp.toNat % 2 ^ (8 * p.n) then x else old))) ∧
  (∀ (p : Piece) (x : Nat), p.off = 0 → p.n ≤ 64 → x < 2 ^ (8 * p.n) → laneValue (p.got x) p.lane p.n = some x) ∧
  (∀ (t : Team) (e : Entry) (id lane x : Nat) (got : List (Nat × Byte)), t.sched ≠ .frozen →
    t.inflight.find? (fun y => y.uid == e.uid) = some e → id ∉ e.perf → got ≠ [] →
    laneValue (e.got ++ got) lane (accessBytes (decode e.word)) = some x →
    let gets := fun (c : Cell) (v : Nat) => ∀ r ∈ t.pend, r.uid = e.resUid → r.cell = c → r.val = none →
      { r with val := some (BitVec.ofNat 1024 v) } ∈ (t.credit e.uid id lane got).pend
    (∀ f, decode e.word = .vld f →
      let n := 2 ^ f.sz.toNat
      (n < 4 → gets (.v f.data.toNat lane) (if f.sx = true then wrapN 32 (signed (8 * n) x) else x)) ∧
      ∀ k, k < n / 4 → gets (.v (f.data.toNat + k) lane) (x / 2 ^ (32 * k) % 2 ^ 32)) ∧
    (∀ f, decode e.word = .vatom f → ∀ k, k < 2 ^ f.sz.toNat / 4 →
      gets (.v (f.data.toNat + k) lane) (x / 2 ^ (32 * k) % 2 ^ 32)) ∧
    (∀ f, decode e.word = .sld f →
      gets (.s f.data.toNat) (if f.sx = true then wrapN 64 (signed (8 * 2 ^ f.sz.toNat) x) else x)))

/-- R45, R78: REGISTER_RESULT_RETURN writes the results of an identity that have come, those of lanes only for the lanes
named, and no longer owes them; no register cell that none of them names changes, nor anything else of the team. A write of s0
is discarded. A parked team that owes nothing more is ready. When a result returns is left to the schedule (log entry 62). -/
def Obligations.ResultsReturn : Prop :=
  ∀ (s : State) (ctx uid : Nat) (lanes : Mask) (t : Team) (b : Block), Tab.get? s.teams ctx = some t →
    s.blockOf? ctx = some b → b.place = .running → b.stepping = none →
    let now := fun r : Result => r.uid == uid && r.val.isSome && r.cell.lane.elim true lanes.getLsbD
    ∃ u, exec (.registerResultReturn ctx uid lanes) s = .next u ∧ OnlyTeam s u ctx ∧
      u.team ctx = { t with
        pend := t.pend.filter fun r => !now r
        sched := (u.team ctx).sched, s := (u.team ctx).s, v := (u.team ctx).v, k := (u.team ctx).k, h := (u.team ctx).h
        z := (u.team ctx).z } ∧
      (u.team ctx).sreg 0 = 0 ∧
      (∀ n, (∀ x ∈ t.pend, now x = true → x.cell ≠ .s n) → (u.team ctx).sreg n = t.sreg n) ∧
      (∀ r l, (∀ x ∈ t.pend, now x = true → ∀ r' l', x.cell = .v r' l' → r' * 1024 + l' ≠ r * 1024 + l) →
        (u.team ctx).vreg r l = t.vreg r l) ∧
      (∀ n l, (∀ x ∈ t.pend, now x = true → x.cell ≠ .k n l) →
        ((u.team ctx).kreg n).getLsbD l = (t.kreg n).getLsbD l) ∧
      (∀ n, (∀ x ∈ t.pend, now x = true → x.cell ≠ .h n) → (u.team ctx).hreg n = t.hreg n) ∧
      (∀ j i c, c < 32 →
        (∀ x ∈ t.pend, now x = true → ∀ j' i', x.cell = .zrow j' i' → j' * 1024 + i' * 32 ≠ j * 1024 + i * 32) →
        (u.team ctx).zelem j i c = t.zelem j i c) ∧
      (∀ x ∈ t.pend, now x = true → ∀ n, x.cell = .s n → n ≠ 0 → (∀ y ∈ t.pend, now y = true → y.cell = .s n → y = x) →
        (u.team ctx).sreg n = (x.val.getD 0).setWidth 64) ∧
      (∀ x ∈ t.pend, now x = true → ∀ n, x.cell = .h n → (∀ y ∈ t.pend, now y = true → y.cell = .h n → y = x) →
        (u.team ctx).hreg n = (x.val.getD 0).setWidth 512) ∧
      (∀ x ∈ t.pend, now x = true → ∀ n l, x.cell = .k n l → n ≠ 0 → l < 1024 →
        (∀ y ∈ t.pend, now y = true → y.cell = .k n l → y = x) →
        ((u.team ctx).kreg n).getLsbD l = (x.val.getD 0).getLsbD 0) ∧
      (∀ x ∈ t.pend, now x = true → ∀ r l, x.cell = .v r l →
        (∀ y ∈ t.pend, now y = true → ∀ r' l', y.cell = .v r' l' → r' * 1024 + l' = r * 1024 + l → y = x) →
        (u.team ctx).vreg r l = (x.val.getD 0).setWidth 32) ∧
      (∀ x ∈ t.pend, now x = true → ∀ j i c, x.cell = .zrow j i → c < 32 →
        (∀ y ∈ t.pend, now y = true → ∀ j' i', y.cell = .zrow j' i' → j' * 1024 + i' * 32 = j * 1024 + i * 32 → y = x) →
        (u.team ctx).zelem j i c = rowElem (x.val.getD 0) c) ∧
      (t.sched = .parked → t.fatal = [] → (u.team ctx).pend = [] → (u.team ctx).sched = .ready)


/-! ## Control -/

/-- R63: the checks of a transfer's target, in their order.  A line that fails parity is fetched once more, and the second
copy, once the core has discarded the first, is judged (R60).  A fault of the line's fetch, or a home that must act first, ends
the check (log entry 13). -/
def Obligations.TargetChecks : Prop :=
  ∀ (s : State) (ctx : Nat) (pc : Word64),
    (badSlot pc = true → s.checkTarget ctx pc = .bad Cause.badslot) ∧
    (badSlot pc = false → canonical (pcLine pc) = false → s.checkTarget ctx pc = .bad Cause.noncanon) ∧
    (badSlot pc = false → canonical (pcLine pc) = true →
      (∀ s' l, s.fetchLine ctx pc = .ok s' l → lparBad (lineWord l) = false →
        s.checkTarget ctx pc = if tgtBit (lineWord l) (pcSlot pc) then .ok s' else .bad Cause.badtgt) ∧
      (∀ s1 s2 l m, s.fetchLine ctx pc = .ok s1 l → lparBad (lineWord l) = true →
        (s1.dropFetchLine ctx pc).refetch ctx pc false = .ok s2 m →
        s.checkTarget ctx pc = if lparBad (lineWord m) then .bad Cause.linepar
          else if tgtBit (lineWord m) (pcSlot pc) then .ok s2 else .bad Cause.badtgt) ∧
      (∀ s' ty lv, s.fetchLine ctx pc = .fault s' ty lv → s.checkTarget ctx pc = .fault s' ty lv) ∧
      (∀ s', s.fetchLine ctx pc = .later s' → s.checkTarget ctx pc = .later s'))

/-- R342, R343, R349, R351: the direct branches. A branch that is taken goes to 64 × DISP beyond its own line, at SLOT; one
that is not taken goes on at the next slot and checks nothing. R352, R381: CALL writes the program counter of the next slot
to S(SA) at issue once its target has passed; JMP and RET take the whole target from S(SA). A fault in fetching the target's
line is logged for the target, where the team waits for it (R63, R161; log entry 13). -/
def Obligations.BranchesCallsAndReturns : Prop :=
  (∀ r ∈ ([(.br, fun _ _ => True), (.bcond, fun f t =>
           let x := (t.sreg f.sa.toNat).toInt
           match f.cc.toNat with
           | 0 => x = 0
           | 1 => x ≠ 0
           | 2 => x < 0
           | _ => 0 ≤ x),
         (.bany, fun f t => ∃ l, l < 1024 ∧ t.exec.getLsbD l = true ∧ (t.kreg f.ksel.toNat).getLsbD l = true),
         (.bnone, fun f t => ∀ l, l < 1024 → t.exec.getLsbD l = true → (t.kreg f.ksel.toNat).getLsbD l = false)] :
         List ((CF → Instr) × (CF → Team → Prop))),
       ∀ (s : State) (ctx : Nat) (f : CF), s.Runs ctx → s.Passes ctx (r.1 f) →
         (¬ r.2 f (s.team ctx) → s.GoesOn ctx (r.1 f) s (s.team ctx)) ∧
         (r.2 f (s.team ctx) → s.Transfers ctx (r.1 f)
           ((((s.team ctx).pc &&& ~~~ 63) + 64 * f.disp.signExtend 64) ||| f.slot.setWidth 64) id)) ∧
  (∀ (s : State) (ctx : Nat) (f : CF), s.Runs ctx →
       let t := s.team ctx
       (s.Passes ctx (.call f) → s.Transfers ctx (.call f) (branchTarget t.pc f) fun t =>
         { t with
           pend := t.pend.filter fun r => r.cell != .s f.sa.toNat
           s := if f.sa = 0 then t.s else Tab.put t.s f.sa.toNat (nextPc t.pc) }) ∧
       (s.Passes ctx (.jmp f) → s.Transfers ctx (.jmp f) (t.sreg f.sa.toNat) id) ∧
       (s.Passes ctx (.ret f) → s.Transfers ctx (.ret f) (t.sreg f.sa.toNat) id))

/-- R48, R370: the divergence instructions on the execution mask and the mask stack, whose innermost frame comes first, and
their traps DIVOVF and DIVUNF. -/
def Obligations.Divergence : Prop :=
  ∀ (s : State) (ctx : Nat) (f : CF), s.Runs ctx →
    let t := s.team ctx
    let k := t.kreg f.ksel.toNat
    (s.Passes ctx (.divg f) → if t.stack.length < 32 then
        s.GoesOn ctx (.divg f) s
          { t with stack := { loop := false, saved := t.exec, cond := t.exec &&& k } :: t.stack, exec := t.exec &&& k }
      else s.TrapsWith ctx (.divg f) Cause.divovf 0) ∧
    (s.Passes ctx (.dloop f) → if t.stack.length < 32 then
        s.GoesOn ctx (.dloop f) s { t with stack := { loop := true, saved := t.exec, cond := 0 } :: t.stack }
      else s.TrapsWith ctx (.dloop f) Cause.divovf 0) ∧
    (s.Passes ctx (.delse f) →
      (∀ top rest, t.stack = top :: rest → top.loop = false →
        s.GoesOn ctx (.delse f) s
          { t with stack := { top with cond := top.saved &&& ~~~ top.cond } :: rest, exec := top.saved &&& ~~~ top.cond }) ∧
      ((t.stack.head?.all fun x => x.loop) = true → s.TrapsWith ctx (.delse f) Cause.divunf 0)) ∧
    (s.Passes ctx (.djoin f) →
      (∀ top rest, t.stack = top :: rest → s.GoesOn ctx (.djoin f) s { t with stack := rest, exec := top.saved }) ∧
      (t.stack = [] → s.TrapsWith ctx (.djoin f) Cause.divunf 0)) ∧
    (s.Passes ctx (.dbrk f) →
      (∀ above inner below, t.stack = above ++ inner :: below → (∀ g ∈ above, g.loop = false) → inner.loop = true →
        s.GoesOn ctx (.dbrk f) s
          { t with
            stack := (above.map fun g =>
              { g with saved := g.saved &&& ~~~ (t.exec &&& k), cond := g.cond &&& ~~~ (t.exec &&& k) }) ++ inner :: below
            exec := t.exec &&& ~~~ (t.exec &&& k) }) ∧
      ((∀ g ∈ t.stack, g.loop = false) → s.TrapsWith ctx (.dbrk f) Cause.divunf 0))

/-- R386: NOP changes nothing, and its word is 0xB200_0000_0000_0000_0000_0000; with SW set, a team that has results
outstanding parks until they have returned, and then is ready again. -/
def Obligations.NopAdvances : Prop :=
  encode (.nop {}) = some 0xB20000000000000000000000#96 ∧
  (∀ (s : State) (ctx : Nat) (f : CF), s.Runs ctx → s.Passes ctx (.nop f) → s.pairSecond = none → s.pairMark = false →
    s.GoesOn ctx (.nop f) s (s.team ctx) ∧
    (f.sw = true → (s.team ctx).pend ≠ [] → ∃ u, exec (.nop f) s = .next u ∧ (u.team ctx).sched = .parked) ∧
    (f.sw = true → (s.team ctx).pend = [] → (s.team ctx).fatal = [] → ∃ u, exec (.nop f) s = .next u ∧ (u.team ctx).sched = .ready) ∧
    (f.sw = false → ∃ u, exec (.nop f) s = .next u ∧ (u.team ctx).sched = .ready)) ∧
  ∀ (s : State) (ctx uid : Nat) (lanes : Mask) (t : Team) (b : Block), Tab.get? s.teams ctx = some t → s.blockOf? ctx = some b →
    b.place = .running → b.stepping = none → t.sched = .parked → t.fatal = [] → t.pend ≠ [] →
    ∃ u, exec (.registerResultReturn ctx uid lanes) s = .next u ∧ ((u.team ctx).sched = .ready ↔
      ∀ r ∈ t.pend, r.uid = uid ∧ r.val.isSome = true ∧ r.cell.lane.elim true lanes.getLsbD = true) ∧
      ((u.team ctx).sched ≠ .ready → (u.team ctx).sched = .parked)

/-- R377, R53, R268: EXIT ends the team, which leaves its gangs by announcements in ascending number; what it has in flight
and its counters stay.  A trap or fatal fault that it has not taken is kept for the flags that it sets (DESIGN CHOICE, log entry
26).  R56, R286, R438: YIELD is a barrier boundary, at which the block's class takes effect; with no freeze asked of its block
the team goes on; with one asked it stops after the YIELD and keeps the v-registers that the YIELD names, and every s-, k- and
h-register, mask and accumulator. -/
def Obligations.ExitAndYield : Prop :=
  (∀ (s : State) (ctx : Nat) (f : CF), s.Runs ctx → s.Passes ctx (.exit f) →
       let t := s.team ctx
       let d := s.dieOfCtx ctx
       let leaves := ((List.range 64).filter fun g => t.gangs.getLsbD g).map fun g => Ann.gleave ctx g
       ∃ u, exec (.exit f) s = .next u ∧
         u.team ctx = { t with
           sched := .exited, pend := [], trap := none, fatal := flagging (t.trap.toList ++ t.fatal), endCause := Cause.none
           handler := false, fatalRun := false } ∧
         (u.die d).anns = (s.die d).anns ++ leaves ∧ (u.team ctx).inflight = t.inflight ∧
         (∀ c, c ≠ ctx → Tab.get? u.teams c = Tab.get? s.teams c) ∧ u.mem = s.mem ∧ u.blocks = s.blocks ∧ u.queues = s.queues) ∧
  (∀ (s : State) (ctx : Nat) (f : CF) (b : Block), s.Runs ctx → s.Passes ctx (.yield f) → s.blockOf? ctx = some b →
       (s.power.shed.getLsbD b.cls = false ∨ b.ctrl = true ∨ b.monitor = true) →
       s.GoesOn ctx (.yield f) (s.setBlock (frameOf ctx) { b with clsEff := b.cls }) (s.team ctx)) ∧
  (∀ (s : State) (ctx : Nat) (f : CF) (b : Block) (src : FreezeSrc), s.cur = some ctx → s.canIssue ctx = true →
       s.blockOf? ctx = some b → s.Passes ctx (.yield f) → b.place = .freezing → b.freeze = some src → b.stepping = none →
       (s.power.shed.getLsbD b.cls = false ∨ b.ctrl = true ∨ b.monitor = true) → (s.team ctx).pend = [] →
       (∃ c ∈ ctxsOf (frameOf ctx) b, c ≠ ctx ∧ (s.team c).sched ≠ .frozen ∧ (s.team c).sched ≠ .exited) →
       let t := s.team ctx
       ∃ u, exec (.yield f) s = .next u ∧ (u.team ctx).sched = .frozen ∧ (u.team ctx).pc = nextPc t.pc ∧
         (u.team ctx).live = min f.disp.toNat b.vregs ∧
         (∀ r l, r < 768 → l < 1024 → (u.team ctx).vreg r l = if r < min f.disp.toNat b.vregs then t.vreg r l else 0) ∧
         (u.team ctx).s = t.s ∧ (u.team ctx).k = t.k ∧
         (u.team ctx).h = t.h ∧ (u.team ctx).z = t.z ∧ (u.team ctx).exec = t.exec ∧ (u.team ctx).stack = t.stack ∧
         (u.team ctx).handler = t.handler ∧ (∀ c, c ≠ ctx → Tab.get? u.teams c = Tab.get? s.teams c) ∧
         Tab.get? u.blocks (frameOf ctx) = some { b with clsEff := b.cls })

/-! ## Traps -/

/-- R276, R403: TRAP #n of a team with a handler and no result outstanding.  The record names the TRAP and the next slot, with
cause 0x70 + n; record, lane image and execution mask stand in the team's trap area; FAULTPC is set, the team is in handler
mode with every lane below the width, and goes on at the handler, whose entry is still to be checked.  R276, R277, R279: a
precise trap with results outstanding waits for them and TRAP_DELIVERY then takes it; in handler mode, or without a handler,
the team ends with the cause, which its launch counts.  The save frames lie in the device's memory (R280). -/
def Obligations.TakingTraps : Prop :=
  (∀ (s : State) (ctx : Nat) (f : YF) (b : Block), s.Runs ctx → s.Passes ctx (.trap f) → s.blockOf? ctx = some b →
       let t := s.team ctx
       t.pend = [] → t.handler = false → b.handler ≠ 0 → s.frameOk (frameOf ctx) = true →
       s.framePA (frameOf ctx) 0x3FFFFF < 0x18000000000 →
       let area := s.framePA (frameOf ctx) (trapArea (teamIx ctx))
       let record : TrapInfo := { cause := Cause.trap0 + f.code, pc := t.pc, resume := nextPc t.pc, word := wordOf (.trap f), addr := 0 }
       ∃ u, exec (.trap f) s = .next u ∧
         u.team ctx = { t with
           faultpc := t.pc, handler := true, exec := lanesBelow b.width, pc := b.handler, sched := .ready, trap := none
           fresh := true, entryTgt := true, fetchRep := false, waitWord := 0, rewait := false, fatalRun := false } ∧
         u.physRead area 320 = trapRecord record s.time ++ toBytes 128 0 ++ toBytes 128 t.exec.toNat ∧
         (∀ q, q < 2 ^ 52 → (q < area ∨ area + 320 ≤ q) → u.physRead q 1 = s.physRead q 1) ∧
         (∀ c, c ≠ ctx → Tab.get? u.teams c = Tab.get? s.teams c) ∧ u.blocks = s.blocks) ∧
  (∀ (s : State) (ctx : Nat) (i : TrapInfo),
       let t := s.team ctx
       (t.pend ≠ [] → s.raise ctx i = s.setTeam ctx { t with trap := some i, sched := .trapping }) ∧
       (t.pend = [] → s.raise ctx i = s.deliver ctx i) ∧
       (t.handler = true → s.deliver ctx i = s.endTeam ctx i.cause i.addr) ∧
       (t.handler = false → s.handlerFor ctx i = none → i.deliv ≠ 2 → s.deliver ctx i = s.endTeam ctx i.cause i.addr) ∧
       (i.cause ≠ Cause.none → ∀ b, s.blockOf? ctx = some b → b.monitor = false →
         ((s.endTeam ctx i.cause i.addr).team ctx).sched = .exited ∧
         ((s.endTeam ctx i.cause i.addr).team ctx).endCause = i.cause ∧
         ((s.endTeam ctx i.cause i.addr).queue b.queue).launches =
           (s.queue b.queue).launches.map fun l => if l.seq = b.seq then l.count i.cause i.addr else l) ∧
       (t.trap = some i → t.sched = .trapping → t.pend = [] → exec (.trapDelivery ctx) s =
         .next ((((s.setTeam ctx { t with trap := none }).deliver ctx i).flagObjects i.cause i.objs).afterEvent ctx)))

/-- R278, R406: TRET restores the execution mask and goes on at RESUME, both as the trap area now holds them, with lanes at
and above the width clear; it leaves handler mode and changes nothing else of the team.  With REWAIT set, the wait of the
instruction at RESUME is resumed without its being issued again, at once or, where TRET's marker parks the team or its line
cannot be fetched yet, when the team would next issue: a GBAR waits on for the phase that its arrival counts in, a WAITCNT for
its bounds, an EVWAIT for a record; that this holds for instructions other than GBAR is log entry 90 (DESIGN CHOICE).  Outside handler mode it traps BADTRET, and it waits for the team's stores to its trap area. -/
def Obligations.TrapReturn : Prop :=
  ∀ (s : State) (ctx : Nat) (f : YF) (b : Block), s.Runs ctx → s.Passes ctx (.tret f) → s.blockOf? ctx = some b →
    b.monitor = false →
    let t := s.team ctx
    let area := s.framePA (frameOf ctx) (trapArea (teamIx ctx))
    let resume := BitVec.ofNat 64 (s.physWord (area + 16))
    let back : Team :=
      { t with
        handler := false, fatalRun := false, pc := resume, fresh := true, entryTgt := false, suspWait := none, suspWord := 0
        sched := .ready, rewait := false
        exec := BitVec.ofNat 1024 (ofBytes (s.physRead (area + 192) 128)) &&& lanesBelow b.width }
    (t.handler = false → s.TrapsWith ctx (.tret f) Cause.badtret 0) ∧
    (t.handler = true → s.trapStores ctx = true → s.Holds (.tret f)) ∧
    (t.handler = true → s.trapStores ctx = false → s.frameOk (frameOf ctx) = true →
      (bitAt (s.physWord area) 25 = false → s.Stays ctx (.tret f) s (back.mark f.sw)) ∧
      (bitAt (s.physWord area) 25 = true →
        let t1 : Team := Team.mark { back with rewait := true, suspWait := t.suspWait, suspWord := t.suspWord } f.sw
        let s1 := s.setTeam ctx t1
        ((s1.canIssue ctx = false ∨ ∀ s' w x, s1.fetch ctx ≠ .words s' w x) → s.Stays ctx (.tret f) s t1) ∧
        (s1.canIssue ctx = true → ∀ s' w x, s1.fetch ctx = .words s' w x →
          let waits := fun (c : WaitFor) =>
            { t1 with rewait := false, suspWait := none, suspWord := 0, sched := .waiting c, waitWord := w, fresh := false, fetchRep := false }
          (∀ g h, decode w = .gbar h → t.suspWait = some g →
            s.Stays ctx (.tret f) s' (waits (.gbar g (t.lsq.all fun i => i.work != .gbar g)))) ∧
          (∀ h, decode w = .waitcnt h → t.countersMet (waitBounds h.disp.toNat) = false →
            s.Stays ctx (.tret f) s' (waits (waitBounds h.disp.toNat))) ∧
          (∀ h, decode w = .evwait h → (s.cluster (s.colOfCtx ctx)).evq = [] → s.Stays ctx (.tret f) s' (waits .events)))))

/-! ## Special registers and waits -/

/-- R385, R100: MODEWR.  R305: BELLARM.  R56: SWRITE of BELL clears it, SWRITE of PCLASS lowers the block's class, and every
other number traps BADREG.  R254, R404: TREL sends the handle with its ASID to the cluster's distributor.  That BELLARM with 0 leaves a
bell that is pending as it is is the model's choice (DESIGN CHOICE, log entry 102). -/
def Obligations.RegisterWrites : Prop :=
  ∀ (s : State) (ctx : Nat), s.Runs ctx → ∀ b, s.blockOf? ctx = some b →
    let t := s.team ctx
    (∀ f : YF, s.Passes ctx (.modewr f) →
      let x := t.sreg f.sa.toNat
      if x.toNat / 64 ≠ 0 ∨ x.toNat / 16 % 4 = 3 then s.TrapsWith ctx (.modewr f) Cause.rsvfld 0
      else s.GoesOn ctx (.modewr f) s { t with mode := x }) ∧
    (∀ f : YF, s.Passes ctx (.bellarm f) →
      s.GoesOn ctx (.bellarm f) (s.setBlock (frameOf ctx) { b with bellAddr := t.sreg f.sa.toNat }) t) ∧
    (∀ f : SF, s.Passes ctx (.swrite f) →
      let n := srNumber f
      let x := (t.sreg f.sa.toNat).toNat
      (n = 17 → s.GoesOn ctx (.swrite f) s { t with bell := 0 }) ∧
      (n = 18 → if x ≤ 7 ∧ b.cls ≤ x then s.GoesOn ctx (.swrite f) (s.setBlock (frameOf ctx) { b with cls := x }) t
        else s.TrapsWith ctx (.swrite f) Cause.privop 0) ∧
      (n ≠ 17 → n ≠ 18 → s.TrapsWith ctx (.swrite f) Cause.badreg 0)) ∧
    (∀ f : YF, s.Passes ctx (.trel f) →
      let x := s.cluster (s.colOfCtx ctx)
      s.GoesOn ctx (.trel f)
        (s.setCluster (s.colOfCtx ctx) { x with relq := x.relq ++ [((t.sreg f.sa.toNat).toNat % 256, s.asidOf ctx)] }) t)

/-- R179, R433: WAITCNT passes when each named counter is at or below its bound, else the team waits; the bounds are bytes 0
to 2 of DISP, left out by bits 24 to 26.  R187, R437: XFENCE names the paths of both sets in the team's list of fences;
one that names CP first makes the copy
engine's writes visible (R171). -/
def Obligations.WaitsAndFences : Prop :=
  ∀ (s : State) (ctx : Nat) (f : MF), s.Runs ctx →
    let t := s.team ctx
    let d := f.disp.toNat
    let met := (bitAt d 24 = true ∨ t.ldcnt ≤ d % 256) ∧ (bitAt d 25 = true ∨ t.stcnt ≤ d / 256 % 256) ∧
      (bitAt d 26 = true ∨ t.cpcnt ≤ d / 65536 % 256)
    (s.Passes ctx (.waitcnt f) →
      (met → s.GoesOn ctx (.waitcnt f) s t) ∧
      (¬ met → s.Stays ctx (.waitcnt f) s (t.waitsFor (waitBounds d) (.waitcnt f)))) ∧
    (s.Passes ctx (.xfence f) → (f.disp.getLsbD 1 = true → s.frameOk (frameOf ctx) = true) → s.GoesOn ctx (.xfence f)
      (if f.disp.getLsbD 1 then s.flushCp (s.colOfCtx ctx) else s)
      { t with fences := t.fences ++ [{ first := f.disp.extractLsb' 0 4, second := f.disp.extractLsb' 4 4, uid := s.uid }] })

/-- R253, R374, R375: EVPOP removes the oldest record of the cluster's queue in one action and owes w0 to S(SA) and w1 to
S(SB), zeros when the queue is empty; EVWAIT goes on when the queue holds a record and waits when it does not.  R376: EVPUSH
takes an entry of KIND 7 that carries w0 and S(SA), and counts in STCNT. -/
def Obligations.EventInstructions : Prop :=
  ∀ (s : State) (ctx : Nat) (f : YF), s.Runs ctx →
    let t := s.team ctx
    let col := s.colOfCtx ctx
    let x := s.cluster col
    let r := x.evq.head?.getD (0, 0)
    (s.Passes ctx (.evpop f) → s.fenced ctx s.uid 3 = false → ∃ u, exec (.evpop f) s = .next u ∧
      OnlyTeam (s.setCluster col { x with evq := x.evq.drop 1 }) u ctx ∧ SameRegs t (u.team ctx) ∧
      (u.team ctx).pc = nextPc t.pc ∧
      ∀ c, (u.team ctx).due c = if c = .s f.sb.toNat then some (r.2.setWidth 1024)
        else if c = .s f.sa.toNat then some (r.1.setWidth 1024) else t.due c) ∧
    (s.Passes ctx (.evwait f) → s.fenced ctx s.uid 3 = false →
      if x.evq = [] then s.Stays ctx (.evwait f) s (t.waitsFor .events (.evwait f)) else s.GoesOn ctx (.evwait f) s t) ∧
    (s.Passes ctx (.evpush f) → s.isControl ctx = true → s.TrapsWith ctx (.evpush f) Cause.badctl 0) ∧
    (s.Passes ctx (.evpush f) → s.isControl ctx = false → s.room ctx 16 0 = true → ∃ e item,
      s.GoesOn ctx (.evpush f) s
        { t with inflight := t.inflight ++ [e], lsq := t.lsq ++ [item], nextTag := t.nextTag + 1, stcnt := t.stcnt + 1 } ∧
      item.work = .evpush (s.eventW0 ctx 0 (0x80 + f.code.toNat)) (t.sreg f.sa.toNat) ∧
      e.kind = 7 ∧ e.path = 3 ∧ e.st = true ∧ e.left = 1 ∧ e.pc = t.pc ∧ e.works = [item] ∧ e.tag = t.nextTag)

/-- R363 to R367: CTXRD and CTXWR of a target that passes their checks: CTXRD owes each word of the element to the lane and
register of its place, in lanes of the execution mask; CTXWR writes the words into the target's frame. A target that fails
traps with the cause of the check. The frame's image of a context follows log entry 40. -/
def Obligations.ContextAccess : Prop :=
  ∀ (s : State) (ctx : Nat) (f : YF), s.Runs ctx →
    let t := s.team ctx
    let w := s.widthOf ctx
    let x := (t.sreg f.sb.toNat).toNat
    (s.Passes ctx (.ctxrd f) → ∀ target b, s.ctxCheck ctx f false = .ok (target, b) →
      let ws := s.elemRead target b (x % 1024) (x / 65536 % 2048)
      s.Gives ctx (.ctxrd f) fun c =>
        ((List.range ws.length).find? fun k =>
          decide (c = .v (yVr f + k / min 32 w) (k % min 32 w)) && t.exec.getLsbD (k % min 32 w)).map
            fun k => (ws[k]?.getD 0).setWidth 1024) ∧
    (s.Passes ctx (.ctxwr f) → ∀ target b, s.ctxCheck ctx f true = .ok (target, b) → ∃ u, exec (.ctxwr f) s = .next u ∧
      OnlyTeam (s.elemWrite target b (x % 1024) (x / 65536 % 2048)
        ((List.range (elemWords (x % 1024))).map fun k => t.vreg (yVr f + k / min 32 w) (k % min 32 w))) u ctx) ∧
    (∀ c, s.Passes ctx (.ctxrd f) → s.ctxCheck ctx f false = .error c → s.TrapsWith ctx (.ctxrd f) c 0) ∧
    (∀ c, s.Passes ctx (.ctxwr f) → s.ctxCheck ctx f true = .error c → s.TrapsWith ctx (.ctxwr f) c 0)


/-! ## Loads, stores and atomics -/

/-- R83: a lane's address is S(BASE), plus IDX's low 32 bits as a signed value shifted left, plus DISP, plus the per-lane
term, modulo 2^64. -/
def Obligations.EffectiveAddress : Prop :=
  ∀ (t : Team) (f : MF) (elem l : Nat), t.ea f elem l =
    t.sreg f.base.toNat +
      (if f.idx.toNat = 1023 then 0 else (t.vreg f.idx.toNat l).signExtend 64 <<< f.shift.toNat) +
      f.disp.signExtend 64 + BitVec.ofNat 64 elem

/-- R148, R149, R419, R421: the checks of the active lanes' accesses: an address that is not canonical, an atomic or a record
that is not aligned, an unaligned access that crosses a 4 KiB boundary, and a window access past the block's window. -/
def Obligations.AccessChecks : Prop :=
  ∀ (m : MemOp) (window : Nat) (as : List Access), 0 < m.n → m.n ≤ 64 →
    (m.check window as = some Cause.noncanon ↔ m.win = false ∧
      ∃ a ∈ as, ¬ (a.addr.toNat < 2 ^ 56 ∨ 2 ^ 64 - 2 ^ 56 ≤ a.addr.toNat)) ∧
    (m.win = false → (∀ a ∈ as, a.addr.toNat < 2 ^ 56 ∨ 2 ^ 64 - 2 ^ 56 ≤ a.addr.toNat) →
      m.check window as = if (∃ a ∈ as, a.addr.toNat % m.n ≠ 0 ∧
          (m.op.isAtomic = true ∨ m.n = 64 ∨ a.addr.toNat % 4096 + m.n > 4096)) then some Cause.misalign else none) ∧
    (m.win = true → (m.op.isAtomic = true → ∀ a ∈ as, a.addr.toNat % m.n = 0) → m.n < 64 →
      m.check window as = if (∃ a ∈ as, window < a.addr.toNat + m.n) then some Cause.spbound else none)

/-- R419: the vector loads send one access for each active lane.  R432: the vector stores send the data of each active lane as
it stands at issue. -/
def Obligations.VectorLoadsAndStores : Prop :=
  (∀ r ∈ ([(.vld, false), (.vldx, false), (.vlds, true)] : List ((MF → Instr) × Bool)),
       ∀ (s : State) (ctx : Nat) (f : MF), s.Runs ctx → s.Passes ctx (r.1 f) →
         let n := 2 ^ f.sz.toNat
         let lanes := (s.team ctx).active (s.widthOf ctx) f.pm f.pn
         s.IssuesAccesses ctx (r.1 f)
           { op := .load, win := r.2, n, kind := 1, reserve := if f.idx.toNat = 1023 then 0 else 8 * s.widthOf ctx }
           (lanes.map fun l => { lane := l, addr := (s.team ctx).ea f (if f.idx.toNat = 1023 then l * n else 0) l })) ∧
  (∀ r ∈ ([(.vst, false), (.vstx, false), (.vsts, true)] : List ((MF → Instr) × Bool)),
       ∀ (s : State) (ctx : Nat) (f : MF), s.Runs ctx → s.Passes ctx (r.1 f) →
         let n := 2 ^ f.sz.toNat
         let w := s.widthOf ctx
         let lanes := (s.team ctx).active w f.pm f.pn
         s.IssuesAccesses ctx (r.1 f)
           { op := .store, win := r.2, n, kind := 2, reserve := (if f.idx.toNat = 1023 then 0 else 8 * w) + w * n }
           (lanes.map fun l => { lane := l, addr := (s.team ctx).ea f (if f.idx.toNat = 1023 then l * n else 0) l
                                 data := (s.team ctx).datum f.data.toNat l n }))

/-- R421: the vector atomics send an operand for each active lane, a compare-and-swap its compare value from DATA and its new
value from the registers above it. -/
def Obligations.VectorAtomics : Prop :=
  ∀ (s : State) (ctx : Nat) (f : MF), s.Runs ctx →
    let t := s.team ctx
    let n := 2 ^ f.sz.toNat
    let w := s.widthOf ctx
    let extra := if f.idx.toNat = 1023 then 0 else 8 * w
    let as := fun (data cmp : Nat → Nat) => (t.active w f.pm f.pn).map fun l =>
      ({ lane := l, addr := t.ea f (if f.idx.toNat = 1023 then l * n else 0) l, data := data l, cmp := cmp l } : Access)
    (s.Passes ctx (.vatom f) → s.IssuesAccesses ctx (.vatom f)
      { op := .atomic f.aop.toNat, n, kind := 3, reserve := extra + w * n } (as (fun l => t.datum f.data.toNat l n) fun _ => 0)) ∧
    (s.Passes ctx (.vatoms f) → s.IssuesAccesses ctx (.vatoms f)
      { op := .atomic f.aop.toNat, win := true, n, kind := 3, reserve := extra + w * n }
      (as (fun l => t.datum f.data.toNat l n) fun _ => 0)) ∧
    (s.Passes ctx (.vcas f) → s.IssuesAccesses ctx (.vcas f)
      { op := .cas, n, kind := 3, reserve := extra + 2 * w * n }
      (as (fun l => t.datum (f.data.toNat + n / 4) l n) fun l => t.datum f.data.toNat l n))

/-- R83, R390, R393: the team-uniform loads and stores send one access, at lane 0's place, whatever the execution mask.  R387:
PREF asks for its lanes' bytes and owes nothing; lanes whose address is not canonical, or that cross a 4 KiB boundary
unaligned, are dropped.  Without IDX it names one address, whatever the mask. -/
def Obligations.UniformAccessesAndPrefetch : Prop :=
  (∀ (s : State) (ctx : Nat) (f : MF), s.Runs ctx →
       let t := s.team ctx
       let a := fun data => ([{ lane := 0, addr := t.ea f 0 0, data }] : List Access)
       (s.Passes ctx (.sld f) → s.IssuesAccesses ctx (.sld f) { op := .load, n := 2 ^ f.sz.toNat, kind := 1 } (a 0)) ∧
       (s.Passes ctx (.sst f) → s.IssuesAccesses ctx (.sst f)
         { op := .store, n := 2 ^ f.sz.toNat, kind := 2, reserve := 8 } (a (t.sreg f.data.toNat).toNat)) ∧
       (s.Passes ctx (.shld f) → s.IssuesAccesses ctx (.shld f) { op := .load, n := 64, kind := 1 } (a 0)) ∧
       (s.Passes ctx (.shst f) → s.IssuesAccesses ctx (.shst f)
         { op := .store, n := 64, kind := 2, reserve := 64 } (a (t.hreg f.data.toNat).toNat))) ∧
  (∀ (s : State) (ctx : Nat) (f : MF), s.Runs ctx → s.Passes ctx (.pref f) →
       let t := s.team ctx
       let n := 2 ^ f.sz.toNat
       let lanes := if f.idx.toNat = 1023 then [0] else t.active (s.widthOf ctx) f.pm f.pn
       let as := (lanes.map fun l => ({ lane := l, addr := t.ea f 0 l } : Access)).filter fun a =>
         canonical a.addr && !crosses4K a.addr.toNat n
       ∃ items, s.GoesOn ctx (.pref f) s { t with lsq := t.lsq ++ items } ∧
         (∀ x ∈ items, x.ent = 0 ∧ x.asks .pref false) ∧
         ((items.map (·.pieces)).flatten).Perm ((as.map (MemOp.pieces { op := .pref, n, kind := 0 })).flatten))

/-- R134, R354, R355, R434, R435: the Well instructions and the cache controls.  An address that is not canonical traps;
WDEPTH and WPIN owe S(DATA); WEVICT, WCLEAN and CFLUSH count in STCNT under an entry of KIND 4; CFLUSH and CINV drop their
core's own copies of the line at issue. -/
def Obligations.WellRequests : Prop :=
  ∀ (s : State) (ctx : Nat) (f : MF), s.Runs ctx →
    let t := s.team ctx
    let ea := t.ea f 0 0
    let asks := fun (op : ReqOp) (x : LsItem) => ∃ r, x.work = .glob r ∧ r.op = op ∧ r.va = ea.toNat ∧ r.ctx = ctx ∧ r.ent = x.ent
    (∀ r ∈ ([.wdepth, .wpin, .wunpin, .wevict, .wclean, .cflush, .cinv] : List (MF → Instr)),
      s.Passes ctx (r f) → canonical ea = false → s.TrapsWith ctx (r f) Cause.noncanon 0) ∧
    (canonical ea = true →
      (∀ r ∈ ([(.wdepth, .wdepth), (.wpin, .wpin)] : List ((MF → Instr) × ReqOp)), s.Passes ctx (r.1 f) →
        ∃ item, asks r.2 item ∧ item.ent = 0 ∧ s.GoesOn ctx (r.1 f) s
          { t with
            lsq := t.lsq ++ [item]
            pend := (t.pend.filter fun x => x.cell != .s f.data.toNat) ++ [{ uid := s.uid, cell := .s f.data.toNat, val := none }] }) ∧
      (s.Passes ctx (.wunpin f) →
        ∃ item, asks .wunpin item ∧ item.ent = 0 ∧ s.GoesOn ctx (.wunpin f) s { t with lsq := t.lsq ++ [item] }) ∧
      (s.Passes ctx (.cinv f) →
        ∃ item, asks .cinv item ∧ item.ent = 0 ∧ s.GoesOn ctx (.cinv f) (s.dropOwn ctx ea) { t with lsq := t.lsq ++ [item] }) ∧
      (∀ r ∈ ([(.wevict, .wevict, s), (.wclean, .wclean, s), (.cflush, .cflush, s.dropOwn ctx ea)] :
          List ((MF → Instr) × ReqOp × State)), s.Passes ctx (r.1 f) →
        if s.room ctx 0 0 = true then ∃ e item, asks r.2.1 item ∧ item.ent = e.uid ∧ e.uid = s.uid ∧ e.kind = 4 ∧
          e.clsT = true ∧ e.st = true ∧ e.ld = false ∧ e.left = 1 ∧ e.works = [item] ∧
          s.GoesOn ctx (r.1 f) r.2.2 (t.enters e [item] t.pend)
        else s.Holds (r.1 f)))


/-! ## The matrix array and the copy engine at issue -/

/-- R439, R440: the accumulator moves on elements.  ZCLR owes zero to every row, ZRD the 32 elements of a row to the lanes of
the registers in lanes of the execution mask, ZWR a row of the values that the lanes hold, whatever the mask. -/
def Obligations.AccumulatorMoves : Prop :=
  ∀ (s : State) (ctx : Nat) (f : XF), s.Runs ctx →
    let t := s.team ctx
    let p := min 32 (s.widthOf ctx)
    let vr := (f.sub.extractLsb' 38 10).toNat
    let row := if f.sub.getLsbD 32 then (t.sreg f.s1.toNat).toNat % 32 else (f.sub.extractLsb' 33 5).toNat
    (s.Passes ctx (.zclr f) → s.Gives ctx (.zclr f) fun c => match c with
      | .zrow j r => if j = f.zd.toNat ∧ r < 32 then some 0 else none
      | _ => none) ∧
    (s.Passes ctx (.zrd f) → s.Gives ctx (.zrd f) fun c =>
      ((List.range 32).find? fun k => decide (c = .v (vr + k / p) (k % p)) && t.exec.getLsbD (k % p)).map
        fun k => (t.zelem f.zd.toNat row k).setWidth 1024) ∧
    (s.Passes ctx (.zwr f) → ∃ x, s.Gives ctx (.zwr f) (fun c => if c = .zrow f.zd.toNat row then some x else none) ∧
      ∀ k < 32, rowElem x k = t.vreg (vr + k / p) (k % p))

/-- R216 to R221, R225, R226, R384: MMA with records that pass their checks joins the array queue with its records and options
as they stand, and the accumulator's commit is owed.  It is passed over while the queue holds eight. -/
def Obligations.MmaIssue : Prop :=
  ∀ (s : State) (ctx : Nat) (f : XF), s.Runs ctx → s.Passes ctx (.mma f) →
    let t := s.team ctx
    let a := t.hreg f.ha.toNat
    let b := t.hreg f.hb.toNat
    let k := mmaK (Shape.fmt a)
    let windows : List Window := [{ rc := a, n := 32, m := k }, { rc := b, n := k, m := 32 }]
    let bad := badRecord a mmaUse || badRecord b mmaUse || badMma a b
    (bad = true → s.TrapsWith ctx (.mma f) Cause.badshape 0) ∧
    (bad = false → (f.sub.getLsbD 0 = true ∧ Shape.fmt a < 13) → s.TrapsWith ctx (.mma f) Cause.rsvfld 0) ∧
    (bad = false → ¬ (f.sub.getLsbD 0 = true ∧ Shape.fmt a < 13) →
      match s.windowCheck ctx windows none with
      | some c => s.TrapsWith ctx (.mma f) c 0
      | none =>
        if 8 ≤ (s.core (s.coreOf ctx)).arrq.length ∨ s.room ctx 4480 0 = false then s.Holds (.mma f)
        else ∃ (e : Entry) (j : MmaJob), e.isFor s ctx (.mma f) 10 1 false false ∧ j.uid = s.uid ∧ j.ent = s.uid ∧ j.ctx = ctx ∧
          j.zd = f.zd.toNat ∧ j.ra = a ∧ j.rb = b ∧ j.nega = f.nega ∧ j.negb = f.negb ∧ j.acd = f.acd ∧
          j.sat = f.sub.getLsbD 0 ∧ j.after = 0 ∧ j.started = false ∧ j.ops = none ∧
          s.GoesOn ctx (.mma f) (s.queueMma ctx j) (t.entersEngine e
            ((t.pend.filter fun r => r.cell != .commit f.zd.toNat s.uid) ++
              [{ uid := s.uid, cell := .commit f.zd.toNat s.uid, val := none }])))

/-- R228 to R237, R358, R441: CPY and ZDRAIN with records that pass their checks give the copy engine a copy, counted by
CPCNT; a drain's snapshot is the accumulator as it stands at issue.  A copy into a scratchpad without reduction is class N.  A
drain checks RED and BAR before its record (R441). -/
def Obligations.CopyAndDrainIssue : Prop :=
  ∀ (s : State) (ctx : Nat) (f : XF), s.Runs ctx →
    let t := s.team ctx
    let bar := (t.sreg f.bar.toNat).toNat
    let be := f.sub.getLsbD 39
    let red := (f.sub.extractLsb' 40 3).toNat
    (s.Passes ctx (.cpy f) →
      let src := t.hreg f.ha.toNat
      let dst := t.hreg f.hb.toNat
      let n := (t.sreg f.s1.toNat).toNat % 2 ^ 20
      let m := (t.sreg f.s1.toNat).toNat / 2 ^ 32 % 2 ^ 20
      let ws : List Window := [{ rc := src, n, m }, { rc := dst, n, m, dst := true }]
      match firstCause (copyChecks src dst false red ++ [s.windowCheck ctx ws (if be then some (bar, dst) else none)]) with
      | some c => s.TrapsWith ctx (.cpy f) c 0
      | none =>
        if s.room ctx 144 0 = true then
          ∃ (e : Entry) (c : Copy), e.isFor s ctx (.cpy f) 8 1 (!((Shape.space dst == 1 || Shape.space dst == 2) && red == 0)) true ∧
            c.kind = .cpy ∧ c.ent = s.uid ∧ c.uid = s.uid ∧ c.ctx = ctx ∧ c.src = src ∧ c.dst = dst ∧ c.n = n ∧ c.m = m ∧
            c.red = red ∧ c.be = be ∧ c.bar = bar ∧ c.evt = f.sub.getLsbD 38 ∧ c.idx = 0 ∧
            s.GoesOn ctx (.cpy f) { s with copies := s.copies ++ [c] } (t.entersEngine e t.pend)
        else s.Holds (.cpy f)) ∧
    (s.Passes ctx (.zdrain f) →
      let dst := t.hreg f.ha.toNat
      let ws : List Window := [{ rc := dst, n := 32, m := 32, dst := true }]
      match firstCause [failIf (decide (1 < red) || (!be && f.bar != 0)) Cause.rsvfld,
          failIf (badRecord dst { dst := true }) Cause.badshape, failIf (badDrain (Shape.fmt dst) (f.sub.getLsbD 0) red) Cause.badshape,
          s.windowCheck ctx ws (if be then some (bar, dst) else none)] with
      | some c => s.TrapsWith ctx (.zdrain f) c 0
      | none =>
        if s.drains (s.coreOf ctx) < 4 ∧ s.room ctx 4160 0 = true then
          ∃ (e : Entry) (c : Copy), e.isFor s ctx (.zdrain f) 11 1 true true ∧ c.kind = .drain ∧ c.ent = s.uid ∧ c.uid = s.uid ∧
            c.ctx = ctx ∧
            c.dst = dst ∧ c.red = red ∧ c.sat = f.sub.getLsbD 0 ∧ c.be = be ∧ c.bar = bar ∧ c.evt = f.sub.getLsbD 38 ∧
            c.snap.length = 1024 ∧ (∀ r k, r < 32 → k < 32 → c.snap[r * 32 + k]? = some (t.zelem f.zd.toNat r k)) ∧
            s.GoesOn ctx (.zdrain f) { s with copies := s.copies ++ [c] } (t.entersEngine e t.pend)
        else s.Holds (.zdrain f))

/-- R233, R234, R236, R361, R388: CPYM gives the copy engine a copy and the array queue an MMA that starts after it, under one
entry with both to complete.  RROT gives the cluster its share of a round and the engine its copy. -/
def Obligations.CpymAndRrotIssue : Prop :=
  ∀ (s : State) (ctx : Nat) (f : XF), s.Runs ctx →
    let t := s.team ctx
    let bar := (t.sreg f.bar.toNat).toNat
    let be := f.sub.getLsbD 39
    let a := t.hreg f.ha.toNat
    let b := t.hreg f.hb.toNat
    (s.Passes ctx (.cpym f) →
      let src := t.hreg f.hc.toNat
      let dst := t.hreg (f.sub.extractLsb' 43 5).toNat
      let n := (t.sreg f.s1.toNat).toNat % 2 ^ 20
      let m := (t.sreg f.s1.toNat).toNat / 2 ^ 32 % 2 ^ 20
      let ws : List Window := [{ rc := src, n, m }, { rc := dst, n, m, dst := true }] ++ mmaWindows a b
      let records := [failIf (badRecord src {}) Cause.badshape, failIf (badRecord dst { dst := true }) Cause.badshape,
        failIf (badRecord a mmaUse) Cause.badshape, failIf (badRecord b mmaUse) Cause.badshape]
      match firstCause (records ++ copyChecks src dst true 0 ++ mmaChecks a b (f.sub.getLsbD 0) ++
          [s.windowCheck ctx ws (if be then some (bar, dst) else none)]) with
      | some c => s.TrapsWith ctx (.cpym f) c 0
      | none =>
        if 8 ≤ (s.core (s.coreOf ctx)).arrq.length ∨ s.room ctx 4624 0 = false then s.Holds (.cpym f)
        else ∃ (e : Entry) (c : Copy) (j : MmaJob), e.isFor s ctx (.cpym f) 9 2 be true ∧ c.kind = .cpym ∧ c.uid = s.uid ∧
          c.ent = s.uid ∧ c.src = src ∧
          c.dst = dst ∧ c.n = n ∧ c.m = m ∧ c.be = be ∧ c.bar = bar ∧ j.after = c.uid ∧ j.ent = s.uid ∧ j.uid = s.uid ∧
          j.zd = f.zd.toNat ∧ j.ra = a ∧ j.rb = b ∧ j.nega = f.nega ∧ j.negb = f.negb ∧ j.acd = f.acd ∧
          j.sat = f.sub.getLsbD 0 ∧ j.be = be ∧ j.bar = bar ∧
          s.GoesOn ctx (.cpym f) (({ s with copies := s.copies ++ [c] } : State).queueMma ctx j) (t.entersEngine e t.pend)) ∧
    (s.Passes ctx (.rrot f) →
      let col := s.colOfCtx ctx
      let g := (t.sreg f.s1.toNat).toNat % 64
      let ws : List Window := [{ rc := a, n := 32, m := 32 }, { rc := b, n := 32, m := 32, dst := true }]
      (((s.gang? col g).all fun x => !(x.members.contains ctx && s.ringGang x)) = true →
        s.TrapsWith ctx (.rrot f) Cause.gangnot 0) ∧
      ∀ x, s.gang? col g = some x → x.members.contains ctx = true → s.ringGang x = true →
        match firstCause [failIf (badRecord a { own := true }) Cause.badshape,
            failIf (badRecord b { own := true, dst := true }) Cause.badshape, failIf (Shape.fmt a != Shape.fmt b) Cause.badshape,
            s.windowCheck ctx ws (if be then some (bar, b) else none)] with
        | some c => s.TrapsWith ctx (.rrot f) c 0
        | none =>
          if s.room ctx 144 0 = true then ∃ (e : Entry) (c : Copy), e.isFor s ctx (.rrot f) 12 1 true true ∧ c.kind = .rrot ∧
            c.uid = s.uid ∧
            c.ent = s.uid ∧ c.formed = false ∧ c.be = be ∧ c.bar = bar ∧
            s.GoesOn ctx (.rrot f)
              (({ s with copies := s.copies ++ [c] } : State).setCluster col { s.cluster col with
                rrots := (s.cluster col).rrots ++
                  [{ ctx, gang := g, ent := s.uid, src := a, dst := b, dir := f.sub.getLsbD 0, be, bar }] })
              (t.entersEngine e t.pend)
          else s.Holds (.rrot f))

/-! ## Barriers and gangs at issue -/

/-- R241 to R243, R345 to R347: BARINIT and BARARV of an object within the window and aligned send their request under an
entry counted in STCNT; BARWAIT examines the object, its fault flag before its phase, and goes on, traps or waits.  R243, R275:
an object outside the window, and then one that is not aligned, traps; the record of a BARWAIT names the object's offset. -/
def Obligations.BarrierIssue : Prop :=
  ∀ (s : State) (ctx : Nat) (f : XF) (b : Block), s.Runs ctx → s.blockOf? ctx = some b →
    let t := s.team ctx
    let off := t.sreg f.bar.toNat
    (∀ r ∈ ([(.barinit, 0), (.bararv, 0), (.barwait, off)] : List ((XF → Instr) × Word64)), s.Passes ctx (r.1 f) →
      (b.scratch < off.toNat + 32 → s.TrapsWith ctx (r.1 f) Cause.spbound r.2) ∧
      (off.toNat + 32 ≤ b.scratch → off.toNat % 32 ≠ 0 → s.TrapsWith ctx (r.1 f) Cause.misalign r.2)) ∧
    (off.toNat + 32 ≤ b.scratch → off.toNat % 32 = 0 →
      (∀ r ∈ ([(.barinit, 5, 16, .barinit off.toNat ((t.sreg f.s1.toNat).toNat % 2 ^ 32)
            (t.sreg (f.sub.extractLsb' 42 6).toNat).toNat), (.bararv, 6, 0, .bararv off.toNat)] :
          List ((XF → Instr) × Nat × Nat × LsWork)), s.Passes ctx (r.1 f) →
        if s.room ctx r.2.2.1 0 = true then ∃ e item, e.uid = s.uid ∧ e.kind = r.2.1 ∧ e.left = 1 ∧ e.clsT = true ∧
          e.st = true ∧ e.ld = false ∧ e.tag = t.nextTag ∧ e.works = [item] ∧ item.work = r.2.2.2 ∧ item.ent = s.uid ∧
          item.rel = decide (r.2.1 = 6) ∧ s.GoesOn ctx (r.1 f) s (t.enters e [item] t.pend)
        else s.Holds (r.1 f)) ∧
      (s.Passes ctx (.barwait f) →
        let wanted := (t.sreg f.s1.toNat).getLsbD 0
        let item : LsItem := { uid := s.uid, ent := 0, work := .barexam off.toNat wanted }
        let o := s.object (frameOf ctx) b off.toNat
        (s.mayGo ctx item = true →
          (o / 2 ^ 207 % 2 = 1 → s.TrapsWith ctx (.barwait f) (BitVec.ofNat 7 (o / 2 ^ 200)) off) ∧
          (o / 2 ^ 207 % 2 = 0 → o.testBit 192 = wanted →
            s.Stays ctx (.barwait f) s (t.waitsFor (.bar off.toNat wanted) (.barwait f))) ∧
          (o / 2 ^ 207 % 2 = 0 → o.testBit 192 ≠ wanted →
            (s.power.shed.getLsbD b.cls = false ∨ b.ctrl = true ∨ b.monitor = true) →
            s.Stays ctx (.barwait f) (s.setBlock (frameOf ctx) { b with clsEff := b.cls })
              (t.passed (nextPc t.pc) f.sw))) ∧
        (s.mayGo ctx item = false →
          s.Stays ctx (.barwait f) s
            ({ t with lsq := t.lsq ++ [item] }.waitsFor (.bar off.toNat wanted) (.barwait f)))))

/-- R51 to R53, R378 to R380: a join or a leave is announced at the die's Drum and holds its team until it has acted; a GBAR
of a member queues its arrival, a release, and waits for the phase, and one outside the gang traps GANGNOT.  A control team
traps BADCTL.  A join that acts makes its team a member: of the gang named, formed where it did not exist and of its own
address space where it did, or of the lowest number that is free, which is written to S(S1); else it traps GANGFULL.  A leave
that acts takes the member out, the gang ending with its last and a phase that its arrivals now fill closing.  An arrival counts
once; the last one changes the phase, sets the count to zero and releases the waiting members.  That a member that leaves after it has
arrived takes its arrival with it is the model's choice (DESIGN CHOICE, log entry 89). -/
def Obligations.GangIssue : Prop :=
  (∀ (s : State) (ctx : Nat) (f : XF), s.Runs ctx →
    let t := s.team ctx
    let g := (t.sreg f.s1.toNat).toNat % 64
    (∀ r ∈ ([(.gjoin, .gjoin ctx g false f.s1.toNat), (.gjoinAny, .gjoin ctx 0 true f.s1.toNat), (.gleave, .gleave ctx g)] :
        List ((XF → Instr) × Ann)), s.Passes ctx (r.1 f) →
      if s.isControl ctx = true then s.TrapsWith ctx (r.1 f) Cause.badctl 0
      else s.Stays ctx (r.1 f)
        (s.setDie (s.dieOfCtx ctx) { s.die (s.dieOfCtx ctx) with anns := (s.die (s.dieOfCtx ctx)).anns ++ [r.2] })
        (t.waitsFor .gangChange (r.1 f))) ∧
    (s.Passes ctx (.gbar f) →
      if s.isControl ctx = true then s.TrapsWith ctx (.gbar f) Cause.badctl 0
      else if t.gangs.getLsbD g = true then ∃ item : LsItem, item.work = .gbar g ∧ item.rel = true ∧ item.ent = 0 ∧
        s.Stays ctx (.gbar f) s ({ t with lsq := t.lsq ++ [item] }.waitsFor (.gbar g false) (.gbar f))
      else s.TrapsWith ctx (.gbar f) Cause.gangnot 0)) ∧
  ∀ (s : State) (ctx g : Nat),
    let t := s.team ctx
    let col := s.colOfCtx ctx
    let on := fun (t : Team) => Team.mark { t with sched := .ready, pc := nextPc t.pc, waitWord := 0 } (t.waitWord.getLsbD 87)
    let trap := fun c => (s.raise ctx { cause := c, pc := t.pc, resume := t.pc, word := t.waitWord, addr := 0 }).afterEvent ctx
    let joined := { t with gangs := t.gangs ||| BitVec.ofNat 64 (2 ^ g) }
    let calm := fun c => ∃ b, s.blockOf? c = some b ∧ b.place = .running ∧ b.stepping = none ∧
      (s.power.shed.getLsbD b.cls = false ∨ b.ctrl = true ∨ b.monitor = true)
    let freed := fun (l : List Nat) => l.Nodup ∧ ∀ c ∈ l, calm c ∧ (s.team c).fatal = [] ∧ ∃ k, (s.team c).sched = .waiting (.gbar g k)
    (t.sched = .waiting .gangChange → calm ctx →
      (s.gang? col g = none → (s.gjoinAct ctx g false 0).gang? col g = some { asid := s.asidOf ctx, members := [ctx] } ∧
        (s.gjoinAct ctx g false 0).team ctx = on joined) ∧
      (∀ x, s.gang? col g = some x →
        (x.asid ≠ s.asidOf ctx → s.gjoinAct ctx g false 0 = trap Cause.gangfull) ∧
        (x.asid = s.asidOf ctx → ctx ∈ x.members → s.gjoinAct ctx g false 0 = s.gangDone ctx) ∧
        (x.asid = s.asidOf ctx → ctx ∉ x.members →
          (s.gjoinAct ctx g false 0).gang? col g = some { x with members := x.members ++ [ctx] } ∧
          (s.gjoinAct ctx g false 0).team ctx = on joined)) ∧
      (∀ n, (∀ i < 64, (s.gang? col i).isSome = true) → s.gjoinAct ctx n true g = trap Cause.gangfull) ∧
      (∀ n sd, g < 64 → s.gang? col g = none → (∀ i < g, (s.gang? col i).isSome = true) →
        (s.gjoinAct ctx n true sd).gang? col g = some { asid := s.asidOf ctx, members := [ctx] } ∧
        (sd ≠ 0 → ((s.gjoinAct ctx n true sd).team ctx).sreg sd = BitVec.ofNat 64 g) ∧
        ((s.gjoinAct ctx n true sd).team ctx).gangs = joined.gangs ∧
        ((s.gjoinAct ctx n true sd).team ctx).pc = nextPc t.pc) ∧
      (t.gangs.getLsbD g = false → s.gleaveAct ctx g = trap Cause.gangnot) ∧
      ∀ x, t.gangs.getLsbD g = true → s.gang? col g = some x → ctx ∈ x.members → (∀ r ∈ (s.cluster col).rrots, r.gang ≠ g) →
        let ms := x.members.filter fun c => c != ctx
        let rs := x.arrived.filter fun c => c != ctx
        let u := s.gleaveAct ctx g
        (ms = [] → u.gang? col g = none) ∧
        (ms ≠ [] → (rs = [] ∨ rs.length ≠ ms.length) → u.gang? col g = some { x with members := ms, arrived := rs } ∧
          u.team ctx = on { t with gangs := t.gangs &&& ~~~ BitVec.ofNat 64 (2 ^ g) }) ∧
        (rs ≠ [] → rs.length = ms.length → freed rs →
          u.gang? col g = some { x with members := ms, arrived := [], phase := !x.phase } ∧
          ∀ c ∈ rs, u.team c = on (s.team c))) ∧
    ∀ x, s.gang? col g = some x → ctx ∈ x.members →
      (ctx ∈ x.arrived → s.gbarAct ctx g = s) ∧
      (ctx ∉ x.arrived →
        (x.arrived.length + 1 ≠ x.members.length →
          s.gbarAct ctx g = s.setGang col g { x with arrived := x.arrived ++ [ctx] }) ∧
        (x.arrived.length + 1 = x.members.length → freed (x.arrived ++ [ctx]) →
          (s.gbarAct ctx g).gang? col g = some { x with arrived := [], phase := !x.phase } ∧
          ∀ c ∈ x.arrived ++ [ctx], (s.gbarAct ctx g).team c = on (s.team c)))

/-! ## What comes back to teams -/

/-- R178, R179, R234: ACCESS_COMPLETE of an entry with nothing left takes it out of the record, lowers the counter that it is
counted on, and lets a team go on whose bounds are then met; CPYM's CPCNT falls with its copy, while its entry stays for its
MMA; a fence is over when nothing of the team before it is left (R187). R166, R276: FATAL_FAULT_DELIVERY takes the oldest fatal fault of a team that is parked, waits or is held, with RESUME
the team's PC. R306, R307: BELL_DELIVERY takes the block's pending bell to its lowest-numbered ready team outside handler
mode. The save frames lie in the device's memory (R280). The order of a fatal fault and the end of a wait, and the record of a
bell, are readings of the model (log entries 27 and 52), and so is that the record keeps the wait that TRET left to be resumed
(log entry 90). -/
def Obligations.CompletionsFaultsAndBells : Prop :=
  ∀ (s : State) (ctx : Nat) (t : Team) (b : Block), Tab.get? s.teams ctx = some t → s.blockOf? ctx = some b →
    b.place = .running → b.stepping = none → s.framePA (frameOf ctx) 0x3FFFFF < 0x18000000000 →
    let f := frameOf ctx
    let area := s.framePA f (trapArea (teamIx ctx))
    let takes := fun (u : State) (r : TrapInfo) => u.physRead area 320 = trapRecord r s.time ++
      toBytes 128 (r.lanes.getD 0).toNat ++ toBytes 128 t.exec.toNat ∧
      (∀ q, q < 2 ^ 52 → (q < area ∨ area + 320 ≤ q) → u.physRead q 1 = s.physRead q 1) ∧
      (∀ c, c ≠ ctx → Tab.get? u.teams c = Tab.get? s.teams c)
    (∀ e : Entry, t.sched ≠ .frozen → t.inflight.find? (fun x => x.uid == e.uid) = some e →
      (e.left = 0 → (e.ld = true → ∀ r ∈ t.pend, r.uid ≠ e.resUid) →
        ∃ u, exec (.accessComplete ctx e.uid) s = .next u ∧ OnlyTeam s u ctx ∧
          let v := u.team ctx
          v.inflight = t.inflight.filter (fun x => x.uid != e.uid) ∧ v.ldcnt = t.ldcnt - b2n e.ld ∧
          v.stcnt = t.stcnt - b2n e.st ∧ v.cpcnt = t.cpcnt - b2n e.cp ∧ v.pend = t.pend ∧ v.s = t.s ∧ v.v = t.v ∧
          v.k = t.k ∧ v.h = t.h ∧ v.z = t.z ∧ v.exec = t.exec ∧ v.mode = t.mode ∧ v.handler = t.handler ∧ v.gangs = t.gangs ∧
          v.fences = t.fences.filter (fun f => v.inflight.any (fun x => decide (x.uid < f.uid)) ||
            (s.bareOut ctx).any fun r => decide (r.uid < f.uid)) ∧
          ((∀ w, t.sched = .waiting w → v.countersMet w = false) → v.pc = t.pc ∧ v.sched = t.sched) ∧
          (∀ w, t.sched = .waiting w → v.countersMet w = true → t.fatal = [] →
            v.pc = nextPc t.pc ∧ ∀ w', v.sched ≠ .waiting w')) ∧
      (e.left ≠ 0 → e.kind = 9 → e.cp = true → e.perf.contains 1 = true → (∀ w, t.sched ≠ .waiting w) →
        ∃ u, exec (.accessComplete ctx e.uid) s = .next u ∧ OnlyTeam s u ctx ∧ (u.team ctx).cpcnt = t.cpcnt - 1 ∧
          (u.team ctx).inflight = t.inflight.map fun x => if x.uid = e.uid then { x with cp := false } else x)) ∧
    (∀ i rest, t.fatal = i :: rest → t.takesFatal = true → (∀ g x, t.sched ≠ .waiting (.gbar g x)) → t.pend = [] →
      t.handler = false → b.handler ≠ 0 → s.frameOk f = true → i.objs = [] →
      ∃ u, exec (.fatalFaultDelivery ctx) s = .next u ∧ takes u { i with deliv := 1, resume := t.pc, rewait := i.rewait || t.rewait } ∧ u.blocks = s.blocks ∧
        ∃ q, u.team ctx =
          { t with faultpc := i.pc, handler := true, exec := lanesBelow b.width, pc := b.handler, sched := .ready, trap := none
                   fresh := true, entryTgt := true, fetchRep := false, fatal := rest, fatalRun := true, waitWord := 0
                   rewait := false, lsq := q }) ∧
    (∀ c level, b.bellPend = some (c, level) → (ctxsOf f b).find? s.bellTakes = some ctx → b.bellAddr ≠ 0 → t.pend = [] →
      s.frameOk f = true → (∀ s', s.checkTarget ctx b.bellAddr = .later s' → exec (.bellDelivery f) s = .next s') ∧
      ((∀ e, s.checkTarget ctx b.bellAddr ≠ .bad e) → (∀ s', s.checkTarget ctx b.bellAddr ≠ .later s') → ∃ u, exec (.bellDelivery f) s = .next u ∧
        takes u { cause := c, deliv := 2, level := BitVec.ofNat 8 level, pc := t.pc, resume := t.pc, rewait := t.rewait } ∧
        u.blocks = Tab.put s.blocks f { b with bellPend := none, bellLast := c } ∧
        u.team ctx = { t with
          bell := BitVec.ofNat 16 (level % 256 * 256 + c.toNat), faultpc := t.pc, handler := true, exec := lanesBelow b.width
          pc := b.bellAddr, sched := .ready, trap := none, fresh := true, entryTgt := true, fetchRep := false, fatalRun := false
          waitWord := 0, rewait := false }))

/-- R240: what a counting event makes of an object's ARRIVED, GOT, PHASE and F, and that COUNTING_EVENT applies the oldest
event of the bank to the object of the block that it names, once for a tag.  R250: EVENT_RECORD_ENTER moves the oldest waiting
record into a queue with room.  R254: TREL_RELEASE starts the held block that its handle and ASID name. -/
def Obligations.CountsEventsAndReleases : Prop :=
  (∀ o a n : Nat,
    let o' := Bar.apply o a n
    Bar.target o' = Bar.target o ∧ Bar.expect o' = Bar.expect o ∧
    (Bar.fault o = true → o' = o) ∧
    (Bar.fault o = false → (Bar.target o < Bar.arrived o + a ∨ Bar.expect o < Bar.got o + n) →
      Bar.fault o' = true ∧ Bar.cause o' = Cause.barovf ∧ Bar.phase o' = Bar.phase o ∧ Bar.arrived o' = Bar.arrived o ∧
      Bar.got o' = Bar.got o) ∧
    (Bar.fault o = false → Bar.arrived o + a = Bar.target o → Bar.got o + n = Bar.expect o →
      Bar.fault o' = false ∧ Bar.phase o' = !Bar.phase o ∧ Bar.arrived o' = 0 ∧ Bar.got o' = 0) ∧
    (Bar.fault o = false → Bar.arrived o + a ≤ Bar.target o → Bar.got o + n ≤ Bar.expect o →
      ¬ (Bar.arrived o + a = Bar.target o ∧ Bar.got o + n = Bar.expect o) →
      Bar.fault o' = false ∧ Bar.phase o' = Bar.phase o ∧ Bar.arrived o' = Bar.arrived o + a ∧ Bar.got o' = Bar.got o + n)) ∧
  (∀ (s : State) (core : Nat) (e : CountEvt) (rest : List CountEvt), (s.core core).bankq = e :: rest →
    (s.block? e.frame = none → exec (.countingEvent core) s = .next (s.setCore core { s.core core with bankq := rest })) ∧
    (∀ b, s.block? e.frame = some b → b.window.isSome = true → b.imaged = false → exec (.countingEvent core) s = .next s) ∧
    ∀ b, s.block? e.frame = some b → b.window = none → b.core = core →
      ∃ w : State, exec (.countingEvent core) s = .next (w.examBlock e.frame) ∧ (w.core core).bankq = rest ∧ w.blocks = s.blocks ∧
        w.object e.frame b e.off = (if s.isDup e.ctx e.tag e.id = true then s.object e.frame b e.off
          else Bar.apply (s.object e.frame b e.off) e.a e.n % 2 ^ 256) ∧
        (∀ a, (a < padAddr b e.off ∨ padAddr b e.off + 32 ≤ a) → (w.core core).sp.read a = (s.core core).sp.read a) ∧
        ∀ c, c ≠ core → (w.core c).sp = (s.core c).sp) ∧
  (∀ (s : State) (col : Nat) (r : EvRec) (rest : List EvRec), (s.cluster col).evwait = r :: rest →
    (256 ≤ (s.cluster col).evq.length → exec (.eventRecordEnter col) s = .next s) ∧
    ((s.cluster col).evq.length < 256 → s.controlTeam? col = none →
      ∃ u, exec (.eventRecordEnter col) s = .next u ∧
        u.cluster col = { s.cluster col with evwait := rest, evq := (s.cluster col).evq ++ [(r.w0, r.w1)] } ∧
        (∀ c, c ≠ col → u.cluster c = s.cluster c) ∧
        u.copies = (s.copies.map fun c => if c.uid = r.copy then { c with posted := true } else c) ∧
        u = { s with clusters := u.clusters, copies := u.copies, teams := u.teams }) ∧
    ∀ ctx b, (s.cluster col).evq.length < 256 → s.controlTeam? col = some ctx → (s.team ctx).sched = .waiting .events →
      (s.team ctx).fatal = [] → s.blockOf? ctx = some b → b.place = .running →
      ∃ u, exec (.eventRecordEnter col) s = .next u ∧ (u.team ctx).pc = nextPc (s.team ctx).pc ∧
        (∀ w, (u.team ctx).sched ≠ .waiting w) ∧ (u.cluster col).evq = (s.cluster col).evq ++ [(r.w0, r.w1)]) ∧
  (∀ (s : State) (col h asid : Nat) (rest : List (Nat × Nat)), (s.cluster col).relq = (h, asid) :: rest →
    let s' := s.setCluster col { s.cluster col with relq := rest }
    (s.heldBlock col h asid = none → exec (.trelRelease col) s = .next s') ∧
    ∀ f b, s.heldBlock col h asid = some (f, b) → (∀ r ∈ (s.cluster col).evwait, r.start ≠ f + 1) →
      exec (.trelRelease col) s = .next (s'.setBlock f { b with place := .running }) ∧ b.place = .held ∧ b.asid = asid ∧
        b.core % 8 * 32 + b.slots[0]?.getD 0 = h)

/-! ## The Drum, the mouth and the L1s -/

/-- R192: DRUM_ANNOUNCEMENT_ACT takes the oldest announcement of a die: a request acts on the L1s and goes on to the mouth,
and a store takes the coherent copies of the other cores away.  R122, R123: WELL_BEAT_ADMIT admits requests in Drum order, after the side logs have taken what waits for a place (R161), and what waits at
the die goes on; a
touch brings its tile to depth 0, and a tile from course 1 or deeper enters transit.  R126: TRANSIT_ARRIVAL applies the
requests that the tile held, in their order, a touch allocating the tile anew where one before it has taken the tile away
(R127), and the tile is at rest, or leaves the Well where a WEVICT has taken its place; that WPIN, WUNPIN and WEVICT move a
tile's place at their admission, so that nothing is left of the first two on arrival, is a reading of the model (DEDUCED, log entry 68).
R193, R150, R194: L1_FILL keeps a line that no announcement has overtaken, or gives a copy that is there its new attributes, and L1_HOLD_EXPIRY lets the
queued announcements act.  A request that cannot be admitted is carried, with those behind it (R122, R125, R143). -/
def Obligations.DrumMouthAndL1 : Prop :=
  ∀ (s : State) (d : Nat),
    let x := s.die d
    (∀ a rest, x.anns = a :: rest →
      let s1 := s.setDie d { x with anns := rest }
      (∀ r, a = .req r → ∃ u, exec (.drumAnnouncementAct d) s = .next u ∧ (u.die d).mouthq = x.mouthq ++ [r] ∧
        (u.die d).anns = rest ∧ u.teams = s.teams ∧ u.mem = s.mem ∧ (∀ e, e ≠ d → u.die e = s.die e) ∧
        (r.op = .store → ∀ p ∈ r.pieces, ∀ c l, c ≠ r.core → dieOf c = d →
          Tab.get? (s.core c).l1 (lineKey r.asid p.va) = some l → l.attr.swm = false → l.held = false →
          Tab.get? (u.core c).l1 (lineKey r.asid p.va) = none)) ∧
      (∀ c g any sd, a = .gjoin c g any sd → exec (.drumAnnouncementAct d) s = .next (s1.gjoinAct c g any sd)) ∧
      (∀ c g, a = .gleave c g → exec (.drumAnnouncementAct d) s = .next (s1.gleaveAct c g)) ∧
      (∀ c g, a = .gbar c g → exec (.drumAnnouncementAct d) s = .next (s1.gbarAct c g))) ∧
    exec (.wellBeatAdmit d) s = .next (((s.fillLogs d).admitUpTo d 8).pumpDie d) ∧
    (∀ n, (x.mouthq = [] → s.admitUpTo d (n + 1) = s) ∧
      ∀ r rest, x.mouthq = r :: rest →
        (s.carried d r = true ↔ x.restitch.isSome = true ∨ (x.needsEntry r = true ∧ 512 ≤ x.transitUsed) ∨ x.deepTransit = true ∨
          ∃ inv clean pl st, r.op = .probe inv clean pl st ∧ s.l1Held d (lineKey r.asid r.va) = true) ∧
        s.admitUpTo d (n + 1) = if s.carried d r = true then s
          else ((s.setDie d { x with mouthq := rest }).admitReq d r).admitUpTo d n) ∧
    (∀ tile uid, (Tab.get? x.tiles tile = none → x.chain.length < x.slots →
        ((s.touchTile d tile uid).die d).chain = some tile :: dropFirst (·.isNone) x.chain) ∧
      ∀ t dep, Tab.get? x.tiles tile = some t → t.pinned = false → x.depth? tile = some dep →
        ((s.touchTile d tile uid).die d).chain = some tile :: x.chain.eraseIdx dep ∧
        Tab.get? ((s.touchTile d tile uid).die d).tiles tile =
          some { t with transit := t.transit || decide (1 ≤ course (slotPos x.retired dep)) }) ∧
    (∀ tile t, Tab.get? x.tiles tile = some t → t.transit = true → x.restitch = none →
      exec (.transitArrival d tile) s = .next ((t.held.foldl (fun s r => s.applyHeld d r)
        (s.setDie d { x with tiles := Tab.put x.tiles tile { t with held := [] } })).landTile d tile)) ∧
    (∀ tile t, Tab.get? x.tiles tile = some t →
      (x.placed tile = true →
        s.landTile d tile = s.setDie d { x with tiles := Tab.put x.tiles tile { t with transit := false } }) ∧
      (x.placed tile = false → s.landTile d tile = ((s.dropLines d tile []).1).forgetTile d tile)) ∧
    (∀ r, r.op = .wpin ∨ r.op = .wunpin → s.applyHeld d r = s) ∧
    (∀ r, r.op ≠ .wpin → r.op ≠ .wunpin → let tile := tileKey r.asid r.va
      s.applyHeld d r = if (Tab.get? x.tiles tile).isNone = true ∧ r.touch none = true then (s.touchTile d tile r.uid).applyReq d r
        else s.applyReq d r) ∧
    (∀ core line f, dieOf core = d → x.fills.find? (fun f => f.core == core && f.key == line && f.data.isSome) = some f →
      let s1 := s.setDie d { x with fills := dropFirst (· == f) x.fills }
      exec (.l1Fill core line) s = .next (
        if f.keep = true ∧ Tab.get? (s.core core).l1 line = none ∧ (s.cluster (colOf core)).gated = false then
          s1.setCore core { s.core core with
            l1 := Tab.put (s.core core).l1 line { st := .s, data := f.data.getD 0, attr := f.attr } }
        else match Tab.get? (s.core core).l1 line with
          | some e => s1.setCore core { s.core core with
              l1 := Tab.put (s.core core).l1 line { e with attr := if f.keep then f.attr else e.attr } }
          | none => s1.forgetLine d line)) ∧
    (∀ core line l, Tab.get? (s.core core).l1 line = some l → l.held = true →
      exec (.l1HoldExpiry core line) s = .next (s.setCore core { s.core core with
        l1 := if l.queued.contains true then Tab.del (s.core core).l1 line
          else Tab.put (s.core core).l1 line { l with
            st := if l.queued.contains false then .s else l.st
            held := false, queued := [] } }))

/-! ## The banks of the Well -/

/-- R141: WELL_UE of a dirty line in the Well: the line is gone, the die's UE count has risen, a machine check is on its way
to the host, and every block of the line's address space is ended with LOSTLINE: each of its teams that had not ended. R143 to R145: a retire or a restore begins a
restitch, waits behind one, or reports a status; RESTITCH_COMPLETE renumbers the chain. R144: a bank retired by heat is
restored after 100 ms below RESTORE. The map from banks to SRAM dies is a free value (log entry 9); that no host command acts
while the register BAR is not served is log entry 80. -/
def Obligations.BanksAndErrors : Prop :=
  ∀ (s : State) (d : Nat),
    let x := s.die d
    (∀ line l, Tab.get? x.lines line = some l → l.inWell = true → l.dirty = true →
      ∃ w : State, exec (.wellUe d line) s = .next (w.loseAsid (asidOfLine line)) ∧
        (∀ f b ix, s.block? f = some b → b.asid = asidOfLine line → ix < b.teams →
          let v := (w.loseAsid (asidOfLine line)).team (f * 32 + ix)
          v.sched = .exited ∧ ((s.team (f * 32 + ix)).gone = false → v.endCause = Cause.lostline)) ∧
        Tab.get? (w.die d).lines line = none ∧
        (∀ k, k ≠ line → Tab.get? (w.die d).lines k = Tab.get? x.lines k) ∧
        (w.die d).ue = min (x.ue + 1) 65535 ∧ w.teams = s.teams ∧ w.blocks = s.blocks ∧ w.mem = s.mem ∧
        w.launchRegs = { s.launchRegs with
          held := s.launchRegs.held ++ [{ type := 3, die := d, body := lostLineWords line s.time }] }) ∧
    (∀ line, (∀ l, Tab.get? x.lines line = some l → l.inWell = false ∨ l.dirty = false) →
      exec (.wellUe d line) s = .next s) ∧
    (∀ bank retire,
      let i : Instr := if retire then .wrestitchRetire d bank else .wrestitchRestore d bank
      let r : Restitch := { bank := bank % 1024, retire }
      (s.up = false → exec i s = .next s) ∧
      (s.up = true → x.restitch.isSome = true → exec i s = .next (s.setDie d { x with restitchq := x.restitchq ++ [r] })) ∧
      (s.up = true → x.restitch = none →
        (∀ st, x.judge r = some st → ∃ u, exec i s = .next u ∧ u.die d = { x with rstatus := st, restitchq := [] } ∧
          ∀ e, e ≠ d → u.die e = s.die e) ∧
        (x.judge r = none → (retire = true → x.bankTiles (bank % 1024) = []) →
          ∃ u, exec i s = .next u ∧ u.die d = { x with restitch := some r, restitchq := [] } ∧ ∀ e, e ≠ d → u.die e = s.die e)) ∧
      (x.judge r = if retire then
          (if bank % 1024 ∈ x.retired then some 2 else if 1024 - x.retired.length ≤ 896 then some 1 else none)
        else if bank % 1024 ∈ x.repair then some 3 else if bank % 1024 ∈ x.retired then none else some 2)) ∧
    (∀ r, x.restitch = some r → x.restitchq = [] → x.waits = [] → (∀ l ∈ x.lines, l.2.leaving = false) →
      let ret := if r.retire then x.retired ++ [r.bank] else x.retired.filter (· != r.bank)
      let chain := if r.retire then chainWithout x.retired r.bank (fun t => (Tab.get? x.tiles t).elim false (·.transit)) x.chain
        else chainWith ret r.bank (2 * x.chain.length + 2) 0 x.chain
      chain.length ≤ ({ x with retired := ret } : Die).slots →
      ∃ u, exec (.restitchComplete d) s = .next u ∧ (u.die d).retired = ret ∧ (u.die d).chain = chain ∧
        (u.die d).restitch = none ∧ (u.die d).lines = x.lines ∧ (r.thermal = false → (u.die d).rstatus = 0) ∧
        ∀ e, e ≠ d → u.die e = s.die e) ∧
    (x.restitch = none → exec (.restitchComplete d) s = .next s) ∧
    (∀ bank t, bank ∈ x.heat → (∀ r ∈ x.restitchq, r.bank ≠ bank) → (∀ r, x.restitch = some r → r.bank ≠ bank) →
      Tab.get? s.power.coolFrom (sramSensor d (Config.bankSram bank)) = some t →
      exec (.wellThermalRestore d bank) s = .next
        (if t + 100000000 ≤ s.time then s.askRestitch d { bank, retire := false, thermal := true } else s))

/-! ## Translation faults and invalidation -/

/-- R157, R161: PAGE_WALK_COMPLETE gives the waiting access its translation, or attaches it to a fault record, once the host
has given up the tables' lines that it owns (R156). R164: a replay
frees the record and sends its accesses again, those in the side log in the log's order. R165, R274, R331: a cancel, MEMUE
and PEERERR make the access fatal. R167: an invalidation takes every overlapping translation away and sweeps the lines under
its tags until none is left. The freeing of side-log entries, the counters of cancelled accesses, the repeated sweep and the
point at which MEMUE acts are the model's choices (log entries 25, 34, 38 and 39); what a dead peer link fails, and when, is
log entry 87, and that no command acts while the register BAR is not served log entry 80 (both DEDUCED). -/
def Obligations.FaultsAndInvalidation : Prop :=
  ∀ (s : State) (d : Nat),
    let x := s.die d
    let frecs := fun (u : State) => (u.die d).frecs
    (∀ n w v, x.walks[n]? = some w → w.recheck = false → w.req.op ≠ .wdepth → w.req.op ≠ .wpin →
      x.waits.find? (fun v => v.key == w.key && v.req.uid == w.req.uid) = some v →
      let va := vaOfLine w.key
      let need : Need := { write := w.req.op.writes, user := w.req.user }
      let s1 := s.setDie d { x with walks := x.walks.eraseIdx n }
      (∀ pl, s.walkWaits d w.req.asid va need = some pl → exec (.pageWalkComplete d n) s = .next (s.homeAsk pl .pull)) ∧
      (s.walkWaits d w.req.asid va need = none → match s1.translate d w.req.asid va need with
      | (s2, .ok e) => e.attr.nowell = false → exec (.pageWalkComplete d n) s = .next
          (((s2.keepAttr d (tileOfLine w.key) e.attr).rewait d { v with tr := some (e.paOf va / 128, e.attr) }).pumpLine d w.key false)
      | (s2, .error (ty, lv)) => v.req.op = .load → v.req.strong = false → (s.team v.req.ctx).sched ≠ .frozen →
        (∃ e ∈ (s.team v.req.ctx).inflight, e.uid = v.req.ent) →
        exec (.pageWalkComplete d n) s = .next
          (((s2.unwait d v).attach d v.req
            { va := va / 4096 * 4096, asid := v.req.asid, type := ty, level := lv, rep := v.req.replay, write := false, path := 0
              pcore := v.req.core % 1024, time := s.time, att := [] }).pumpLine d w.key false))) ∧
    (∀ core n e, (s.core core).slog[n]? = some e → e.replay = true → e.sent = false →
      exec (.sideLogPerform core n) s = .next (
        if ((s.core core).slog.take n).any (fun f => f.req.lines.any e.req.lines.contains) = true then s
        else (s.setCore core { s.core core with slog := (s.core core).slog.set n { e with sent := true } }).announce
          (dieOf core) (.req { e.req with replay := true, low := (s.team e.req.ctx).lowWater }))) ∧
    (∀ core n e, (s.core core).slog[n]? = some e → e.replay = true → e.sent = true → s.reqOwes e.req = false →
      (∀ k, (s.die k).waits = []) → (∀ k, ∀ l ∈ (s.die k).lines, l.2.leaving = false) →
      exec (.sideLogPerform core n) s =
        .next ((s.setCore core { s.core core with slog := (s.core core).slog.eraseIdx n }).fillLog core)) ∧
    (∀ id f r, Tab.get? x.frecs id = some f → f.att = [.req r] → x.frwait = [] → x.waits = [] →
      (∀ l ∈ x.lines, l.2.leaving = false) → s.up = true →
      (∀ i ∈ [Instr.fcmdReplayRecord d id, Instr.fcmdReplayAsid d f.asid],
        (i = .fcmdReplayRecord d id ∨ x.recordsOf f.asid = [id]) →
        (∀ e ∈ (s.core r.core).slog, e.req.uid ≠ r.uid) →
        ∃ u, exec i s = .next u ∧ Tab.get? (frecs u) id = none ∧ (∀ k, k ≠ id → Tab.get? (frecs u) k = Tab.get? x.frecs k) ∧
          (u.die d).anns = x.anns ++ [.req { r with replay := true, low := (s.team r.ctx).lowWater }] ∧
            tlbHit (u.die d).tlb f.asid f.va = none ∧
          u.teams = s.teams ∧ u.mem = s.mem) ∧
      (∀ i ∈ [Instr.fcmdCancelRecord d id, Instr.fcmdCancelAsid d f.asid],
        (i = .fcmdCancelRecord d id ∨ x.recordsOf f.asid = [id]) →
        ∀ t e, Tab.get? s.teams r.ctx = some t → t.sched ≠ .frozen → t.sched ≠ .exited → t.fatalKept < 2 →
        t.inflight.find? (fun e => e.uid == r.ent) = some e →
        ∃ u, exec i s = .next u ∧ Tab.get? (frecs u) id = none ∧
          (u.team r.ctx).fatal = t.fatal ++ [{ cause := cancelCause 0 f.type, deliv := 1, pc := e.pc, resume := 0, word := e.word
                                               addr := BitVec.ofNat 64 f.va, lanes := maskOfReq (decode e.word) r }])) ∧
    (s.up = false → ∀ id asid, ∀ i ∈ [Instr.fcmdReplayRecord d id, .fcmdReplayAsid d asid, .fcmdCancelRecord d id,
      .fcmdCancelAsid d asid], exec i s = .next s) ∧
    (∀ w t e m line, x.waits = [w] → s.lineOf d w = line → w.req.ent ≠ 0 → Tab.get? s.teams w.req.ctx = some t →
      (∀ l ∈ x.lines, l.2.leaving = false) → (∀ y ∈ x.stuck, y.2.2 ≠ line) → (∀ y ∈ x.away, y.2.2 ≠ line) → t.gone = false → t.fatalKept < 2 →
        t.inflight.find? (fun e => e.uid == w.req.ent) = some e →
      (∀ b ∈ x.wbuf, b.line ≠ line) →
      ∀ i c, (i = .memue d line ∧ c = Cause.memue ∧ s.msg? .gntS d line = some m ∧ m.swm = false) ∨
        (i = .peererr d line ∧ c = Cause.peererr ∧ 2 ^ 45 ≤ line ∧ m ∈ s.msgs ∧ m.agent = d ∧ m.line = line) →
      ∃ u, exec i s = .next u ∧ (∀ o ∈ (u.die d).outst, o.2 ≠ line) ∧ (u.die d).waits = [] ∧
        (u.team w.req.ctx).fatal = t.fatal ++ [{ cause := c, deliv := 1, pc := e.pc, resume := 0, word := e.word
                                                 addr := BitVec.ofNat 64 (vaOfLine w.key / 4096 * 4096)
                                                 lanes := maskOfReq (decode e.word) (x.whole w) }]) ∧
    (∀ line, (d, line) ∉ s.peerTraffic → exec (.peererr d line) s = .next s) ∧
    (∀ i r, (i = .invcmdAll ∧ r = (3, none, none)) ∨
        (∃ a v n, i = .invcmdPage a v n ∧ r = (1, some a, some (va57 (bitsAt v 12 45 * 4096), invSize n))) ∨
        (∃ a, i = .invcmdAsid a ∧ r = (2, some a, none)) →
      (s.up = false → exec i s = .next s) ∧
      (s.up = true → ∃ w : State, exec i s = .next (w.sweep r) ∧ w.trans.inval = s.trans.inval ++ [r] ∧
        (∀ k, (w.die k).lines = (s.die k).lines ∧ (w.die k).tlb = (s.die k).tlb.filter fun e => !invTlb r e) ∧
        w.mem = s.mem ∧ w.teams = s.teams)) ∧
    (∀ r rest, s.trans.inval = r :: rest →
      ((∀ y ∈ s.dies, (∀ l ∈ y.2.lines, invLine r l.1 = false) ∧ (∀ o ∈ y.2.outst, invLine r o.1 = false) ∧
        (∀ w ∈ y.2.waits, w.tr = none ∨ invLine r w.key = false) ∧ (∀ w ∈ y.2.wbuf, invLine r w.key = false) ∧
        (∀ f ∈ y.2.fills, f.keep = false ∨ invLine r f.key = false) ∧
        (∀ e ∈ y.2.tlb, invTlb r e = false) ∧ ∀ t ∈ y.2.tiles, t.2.attr = none ∨ invTile r t.1 = false) →
       (∀ c ∈ s.cores, (∀ e ∈ c.2.fbuf, invFetch r e.1 = false) ∧ ∀ e ∈ c.2.l1, invLine r e.1 = false) →
       (∀ e ∈ s.dir, (∀ q, e.2.cur = some q → q.op ≠ .reclaim) ∧
         ∀ q ∈ e.2.queue ++ e.2.cur.toList, q.merges = false ∨ invLine r q.key = false) →
        exec .invalidationComplete s = .next { s with trans := { s.trans with inval := rest, old := s.trans.old.filter fun e => !invTlb r e.2 } }) ∧
      ((∃ y ∈ s.dies, ∃ l ∈ y.2.lines, invLine r l.1 = true) → exec .invalidationComplete s = .next (s.sweep r))) ∧
    (∀ dest, exec (.portLinkFailure dest) s = .next { s with plat := { s.plat with
        failAt := Tab.put s.plat.failAt dest s.time
        deadPeers := if dest ∈ s.plat.deadPeers then s.plat.deadPeers else s.plat.deadPeers ++ [dest] } } ∧
      (Tab.get? s.plat.failAt dest = none → exec (.peerLinkTimeout dest) s = .next s) ∧
      ∀ t, Tab.get? s.plat.failAt dest = some t →
        (s.time < t + 1000000 → exec (.peerLinkTimeout dest) s = .next s) ∧
        (t + 1000000 ≤ s.time →
          ((∀ e ∈ s.peerTraffic, s.destOf e.2 ≠ some dest) → exec (.peerLinkTimeout dest) s = .next s) ∧
          ∀ a line, s.peerTraffic = [(a, line)] → s.destOf line = some dest →
            exec (.peerLinkTimeout dest) s = .next (((s.peerFail a line).failStuck a line).failAway a line)))

/-! ## The homes of device memory -/

/-- The request messages of a line that no agent holds: RDS and RDX are granted E with memory's data, OWN is granted X, UPG E
(R198, R199), and a line of the home's queue is served the same way (R197). RDX of a line that one other die shares waits for
the probe that invalidates it, and UPG of the only sharer is granted X at once. A grant is installed, and CMP ends it. A
write-back by the owner goes into memory, another's is discarded, and WBA answers both and frees the buffer (R205). GNT-X
carries no data (R198). -/
def Obligations.HomeRequests : Prop :=
  ∀ (s : State) (a pl : Nat), a < 4 → pl < 2 ^ 44 →
    let e := s.dirEnt pl
    let idle := e.cur = none ∧ e.queue = [] ∧ s.probeOld pl = false
    (∀ r ∈ ([(.rds a pl, .rds, .rds, .gntE), (.rdx a pl, .rdx, .rdx, .gntE), (.own a pl, .own, .own, .gntX),
        (.upg a pl, .upg, .upg, .gntE)] : List (Instr × MsgKind × HomeOp × MsgKind)),
      (∀ m, s.msg? r.2.1 a pl = some m → m.swm = false → idle → e.base = .uncached → e.sharers = 0 →
        ∃ u, exec r.1 s = .next u ∧
          u.msgs = dropFirst (· == m) s.msgs ++ [{ kind := r.2.2.2, agent := a, line := pl, key := m.key
                                                   stamp := (e.stamp + 1) % 65536
                                                   data := if r.2.2.2 = .gntX then 0 else s.homeRead pl, atomic := m.atomic }] ∧
          (u.dirEnt pl).st = .granting ∧ (u.dirEnt pl).base = .exclusive ∧ (u.dirEnt pl).owner = a ∧
          (u.dirEnt pl).sharers = agentBit a ∧ (u.dirEnt pl).stamp = (e.stamp + 1) % 65536 ∧
          (u.dirEnt pl).cur = some { agent := a, op := r.2.2.1, asid := asidOfLine m.key, key := m.key, atomic := m.atomic } ∧
          u = { s with msgs := u.msgs, dir := u.dir } ∧ ∀ q, q ≠ pl → u.dirEnt q = s.dirEnt q) ∧
      (∀ m, s.msg? r.2.1 a pl = some m → m.swm = true → exec r.1 s = .next ((s.dropMsg m).send
        { kind := .gntE, agent := a, line := pl, key := m.key, data := s.homeRead pl, swm := true })) ∧
      (∀ m, s.msg? r.2.1 a pl = some m → m.swm = false → ∀ c, e.cur = some c → (probesFor e c).2 = false →
        ∃ u, exec r.1 s = .next u ∧ u.dirEnt pl = { e with queue := e.queue ++
            [{ agent := a, op := r.2.2.1, asid := asidOfLine m.key, key := m.key, atomic := m.atomic }] } ∧
          u.msgs = dropFirst (· == m) s.msgs) ∧
      (∀ q rest, e.cur = none → s.probeOld pl = false → e.queue = q :: rest → q.agent = a → q.op = r.2.2.1 →
        (∀ y ∈ rest, ∀ k, y.op ≠ .snoop k) → e.base = .uncached → e.sharers = 0 →
        ∃ u, exec (.homeQueueServe pl) s = .next u ∧ (u.dirEnt pl).queue = rest ∧ (u.dirEnt pl).base = .exclusive ∧
          (u.dirEnt pl).owner = a ∧
          u.msgs = s.msgs ++ [{ kind := r.2.2.2, agent := a, line := pl, key := q.key, stamp := (e.stamp + 1) % 65536
                                data := if r.2.2.2 = .gntX then 0 else s.homeRead pl, atomic := q.atomic }])) ∧
    (∀ m o, s.msg? .rdx a pl = some m → m.swm = false → idle → e.base = .shared → o < 4 → o ≠ a → e.sharers = agentBit o →
      e.key = m.key → ∃ u, exec (.rdx a pl) s = .next u ∧
        u.msgs = dropFirst (· == m) s.msgs ++ [{ kind := .prInv, agent := o, line := pl, key := e.key
                                                 stamp := (e.stamp + 1) % 65536 }] ∧
        (u.dirEnt pl).st = .probing ∧ (u.dirEnt pl).waitAck = [(o, (e.stamp + 1) % 65536)]) ∧
    (∀ m, s.msg? .upg a pl = some m → m.swm = false → idle → e.base = .shared → e.sharers = agentBit a → e.key = m.key →
      ∃ u, exec (.upg a pl) s = .next u ∧ (u.dirEnt pl).base = .exclusive ∧ (u.dirEnt pl).owner = a ∧
        ∃ g, u.msgs = dropFirst (· == m) s.msgs ++ [g] ∧ g.kind = .gntX ∧ g.agent = a) ∧
    (∀ r ∈ ([(.gntS a pl, .gntS, .s), (.gntE a pl, .gntE, .e), (.gntX a pl, .gntX, .e)] : List (Instr × MsgKind × DSt)),
      ∀ m, s.msg? r.2.1 a pl = some m → m.swm = false → (s.die a).restitch = none → (s.die a).waits = [] →
      (∀ l, Tab.get? (s.die a).lines m.key = some l → l.line = pl ∧ l.dirty = false ∧ l.leaving = false ∧ r.2.1 = .gntX) →
      (r.2.1 = .gntX → (Tab.get? (s.die a).lines m.key).isSome = true) →
      ∃ u l, exec r.1 s = .next u ∧ Tab.get? (u.die a).lines m.key = some l ∧ l.line = pl ∧ l.st = r.2.2 ∧ l.stamp = m.stamp ∧
        l.data = (Tab.get? (s.die a).lines m.key).elim m.data (·.data) ∧ (∀ o ∈ (u.die a).outst, o.2 ≠ pl) ∧
        (∀ k, k ≠ m.key → Tab.get? (u.die a).lines k = Tab.get? (s.die a).lines k) ∧
        u.msgs = dropFirst (· == m) s.msgs ++ [{ kind := .cmp, agent := a, line := pl, key := m.key }]) ∧
    (∀ m, s.msg? .cmp a pl = some m → exec (.cmp a pl) s = .next (
      if e.st = .granting ∧ e.cur.any (·.agent == a) = true then (s.dropMsg m).setDir pl e.settle else s.dropMsg m)) ∧
    (∀ r ∈ ([(.wb a pl, .wb), (.wbk a pl, .wbk)] : List (Instr × MsgKind)), ∀ m, s.msg? r.2 a pl = some m → m.mask = none →
      e.cur = none → ∃ u, exec r.1 s = .next u ∧
        u.msgs = dropFirst (· == m) s.msgs ++ [{ kind := .wba, agent := a, line := pl, key := m.key, swm := m.swm }] ∧
        u.homeRead pl = (if e.owned? = some a then m.data else s.homeRead pl) ∧
        (u.dirEnt pl).base = (if e.owned? ≠ some a then e.base
          else if r.2 = .wbk then (if e.base = .owned then .shared else e.base)
          else if e.sharers &&& ~~~ agentBit a = 0 then .uncached else .shared)) ∧
    (∀ m w, s.msg? .wba a pl = some m → (s.die a).wbuf.find? (fun w => w.line == pl) = some w → w.waits = [] →
      (s.die a).waits = [] → (∀ l ∈ (s.die a).lines, l.2.leaving = false) →
      exec (.wba a pl) s = .next ((s.dropMsg m).setDie a { s.die a with wbuf := dropFirst (· == w) (s.die a).wbuf }))

/-- R200 to R205: a probe that comes to a die is announced at its Drum, and, admitted with its tile at rest and no L1 holding
the line, is answered from the die's state: a dirty line with its data, a clean or absent one without; PR_SHR leaves M as O and
E as S, PR_INV takes the line away, a probe older than the grant that the die holds the line under changes nothing, and with a
write-back under way and no line the answer names its stamp. R199, R204, R205: the last answer that a home waits for grants the
line, ACK-D's data going into memory; an answer that nobody waits for is discarded; ACK-WB makes the home wait for the
write-back, or removes an agent whose write-back has come. R206: BIRSP is the host's answer. That answers stand behind their
die's WBK on the way to the home is log entry 77, that a host snoop's PR_SHR leaves the copy clean log entry 33, and how stale
probes are told is log entry 24. -/
def Obligations.ProbesAndAnswers : Prop :=
  ∀ (s : State) (a pl : Nat),
    let e := s.dirEnt pl
    let x := s.die a
    (∀ m, ∀ r ∈ ([(.prShr a pl, .prShr, false), (.prInv a pl, .prInv, true)] : List (Instr × MsgKind × Bool)),
      s.msg? r.2.1 a pl = some m → exec r.1 s = .next ((s.dropMsg m).setDie a { x with anns := x.anns ++ [.req
        { uid := 0, ent := 0, ctx := 0, core := a * 192, asid := asidOfLine m.key, op := .probe r.2.2 m.clean pl m.stamp
          va := vaOfLine m.key }] })) ∧
    (∀ r inv clean stamp, let s0 := s.fillLogs a
      x.mouthq = [r] → r.op = .probe inv clean pl stamp → s0.carried a r = false →
      (∀ t, Tab.get? x.tiles (tileKey r.asid r.va) = some t → t.transit = false) →
      s0.die a = x ∧ exec (.wellBeatAdmit a) s =
        .next (((s0.setDie a { x with mouthq := [] }).probed a (lineKey r.asid r.va) pl stamp inv clean).pumpDie a)) ∧
    (∀ k stamp inv clean, let u := s.probed a k pl stamp inv clean
      let answer : Msg := { kind := .ackI, agent := a, line := pl, key := k, stamp }
      (∀ l, Tab.get? x.lines k = some l → l.line = pl → l.swm = false →
        if staleProbe l.stamp stamp = true then (u.die a).lines = x.lines ∧ u.msgs = s.msgs ++ [{ answer with kind := .ackSt }]
        else u.msgs = s.msgs ++ [{ answer with kind := if l.dirty then .ackD else .ackI, data := l.data }] ∧
          Tab.get? (u.die a).lines k = if inv then none else some { l with
            st := if l.st = .m ∨ l.st = .o then (if clean then .s else .o) else .s }) ∧
      (Tab.get? x.lines k = none → (u.die a).lines = x.lines ∧
        ((∀ w ∈ x.wbuf, w.line ≠ pl) → u.msgs = s.msgs ++ [answer]) ∧
        ∀ w, x.wbuf = [w] → w.line = pl → w.mask = none → u.msgs = s.msgs ++
          [if staleProbe w.stamp stamp then { answer with kind := .ackSt } else { answer with kind := .ackWb, wb := w.stamp }])) ∧
    (∀ m, ∀ r ∈ ([(.ackI a pl, .ackI, none), (.ackSt a pl, .ackSt, none), (.ackD a pl, .ackD, some m.data)] :
        List (Instr × MsgKind × Option LineData)), s.msg? r.2.1 a pl = some m →
      ((s.msg? .wbk a pl).isSome = true → exec r.1 s = .next s) ∧
      (s.msg? .wbk a pl = none → (a, m.stamp) ∉ e.waitAck → exec r.1 s = .next (s.dropMsg m)) ∧
      (∀ c, s.msg? .wbk a pl = none → e.cur = some c → c.op = .rdx → c.agent < 4 → pl < 2 ^ 44 → e.st = .probing →
        e.waitAck = [(a, m.stamp)] → e.waitWb = [] → e.again = false → e.dirty = none →
        ∃ u, exec r.1 s = .next u ∧ (u.dirEnt pl).base = .exclusive ∧ (u.dirEnt pl).owner = c.agent ∧
          (u.dirEnt pl).st = .granting ∧ u.homeRead pl = r.2.2.getD (s.homeRead pl) ∧
          u.msgs = dropFirst (· == m) s.msgs ++ [{ kind := .gntE, agent := c.agent, line := pl, key := c.key
                                                   stamp := (e.stamp + 1) % 65536, data := r.2.2.getD (s.homeRead pl)
                                                   atomic := c.atomic }])) ∧
    (∀ m, s.msg? .ackWb a pl = some m → s.msg? .wbk a pl = none →
      let taken := { e with waitAck := e.waitAck.filter (· != (a, m.stamp)), again := true }
      ((a, m.stamp) ∉ e.waitAck → exec (.ackWb a pl) s = .next (s.dropMsg m)) ∧
      ((a, m.stamp) ∈ e.waitAck → (∃ w ∈ s.msgs, w.kind = .wb ∧ w.agent = a ∧ w.line = pl ∧ w.stamp = m.wb) →
        exec (.ackWb a pl) s = .next ((s.dropMsg m).setDir pl { taken with waitWb := e.waitWb ++ [a] })) ∧
      ((a, m.stamp) ∈ e.waitAck → (∀ w ∈ s.msgs, w.kind = .wb → w.agent = a → w.line = pl → w.stamp ≠ m.wb) →
        exec (.ackWb a pl) s = .next (((s.dropMsg m).setDir pl { e.remove a with
          waitAck := taken.waitAck, again := true }).proceed pl))) ∧
    (∀ data, ((∀ w ∈ e.waitAck, w.1 ≠ 4) → exec (.birsp pl data) s = .next s) ∧
      ∀ c st, e.cur = some c → c.op = .rdx → c.agent < 4 → pl < 2 ^ 44 → e.st = .probing → e.waitAck = [(4, st)] →
        e.waitWb = [] → e.again = false → e.dirty = none →
        ∃ u, exec (.birsp pl data) s = .next u ∧ (u.dirEnt pl).base = .exclusive ∧ (u.dirEnt pl).owner = c.agent ∧
          u.homeRead pl = data.getD (s.homeRead pl) ∧
          u.msgs = s.msgs ++ [{ kind := .gntE, agent := c.agent, line := pl, key := c.key, stamp := (e.stamp + 1) % 65536
                                data := data.getD (s.homeRead pl), atomic := c.atomic }])

/-- R206, R212, R327: a host request of device memory within the decoder's range, for a line that no agent holds: a read
answers with memory's data and, but for an uncached one, leaves the host its exclusive holder; a write goes into memory.
Outside the range nothing is mapped, and during a wipe nothing is read or written. A link that runs as PCIe carries neither
CXL.mem nor CXL.cache (R325), and minimal mode answers no snoop (R334). R207, R208: a snoop of a host line, and
the host's answer to what the cache agent asked for. R330: a peer's read, write or atomic of the export. States shown to the host and
the serving of peers from home memory are readings of the model (log entries 33 and 50), and that a lost line's snoop answers an error
and leaves it lost is its choice (DESIGN CHOICE, log entry 74). -/
def Obligations.HostAndPeerRequests : Prop :=
  ∀ (s : State) (hpa : Nat) (data : LineData),
    let pl := (hpa - s.plat.hdmbase) / 128
    let e := s.dirEnt pl
    let reads := [Instr.cxlMemReadShared hpa, .cxlMemReadExclusive hpa, .cxlMemReadUncached hpa]
    (∀ i ∈ reads ++ [.cxlMemWrite hpa data],
      (s.plat.minimal = true ∨ s.plat.cxl = false → exec i s = .next s) ∧
      (s.plat.minimal = false → s.plat.cxl = true → (hpa < s.plat.hdmbase ∨ s.plat.hdmbase + 0x18000000000 ≤ hpa) →
        exec i s = .next (s.emit (.memUnmapped hpa)))) ∧
    (s.plat.minimal = false → s.plat.cxl = true → s.plat.hdmbase ≤ hpa → hpa < s.plat.hdmbase + 0x18000000000 →
      (s.plat.wiping = true → (∀ i ∈ reads, exec i s = .next (s.emit (.memPoison pl))) ∧
        exec (.cxlMemWrite hpa data) s = .next (s.emit (.memDone pl))) ∧
      (s.plat.wiping = false → e.cur = none → e.queue = [] → s.probeOld pl = false → e.base = .uncached → e.sharers = 0 →
        (∀ i ∈ reads, ∃ u, exec i s = .next u ∧ u.out = .memData pl (s.homeRead pl) :: s.out ∧ u.mem = s.mem ∧
          u.msgs = s.msgs ∧ (u.dirEnt pl).st = (u.dirEnt pl).base ∧ (u.dirEnt pl).cur = none ∧
          (u.dirEnt pl).holders = if i = .cxlMemReadUncached hpa then [] else [4]) ∧
        ∃ u, exec (.cxlMemWrite hpa data) s = .next u ∧ u.out = .memDone pl :: s.out ∧ u.homeRead pl = data ∧
          (∀ q, q ≠ pl → u.homeRead q = s.homeRead q) ∧ (u.dirEnt pl).holders = [] ∧ u.msgs = s.msgs)) ∧
    (∀ line, let f := s.dirEnt line
      (s.plat.cxl = false → ∀ i ∈ [Instr.snpinv line, .snpdata line, .snpcur line, .cxlCacheHostResponse line data true],
        exec i s = .next s) ∧
      (s.plat.minimal = true → ∀ i ∈ [Instr.snpinv line, .snpdata line, .snpcur line], exec i s = .next s) ∧
      (s.plat.minimal = false → s.plat.cxl = true → Tab.get? s.filter line = none → ∀ i ∈ [Instr.snpinv line, .snpdata line, .snpcur line],
        exec i s = .next (s.emit (if line ∈ s.plat.lostLines then .snpError line else .snpResp line "RspIHitI" none))) ∧
      (∀ g, s.plat.minimal = false → s.plat.cxl = true → Tab.get? s.filter line = some g → f.cur = none → f.queue = [] → s.probeOld line = false →
        f.base = .uncached → f.sharers = 0 →
        (∃ u, exec (.snpinv line) s = .next u ∧ u.out = .snpResp line "RspIHitSE" none :: s.out ∧ Tab.get? u.filter line = none ∧
          u.hostMem = s.hostMem) ∧
        (∃ u, exec (.snpdata line) s = .next u ∧ u.out = .snpResp line "RspSHitSE" none :: s.out ∧
          Tab.get? u.filter line = some { g with excl := false } ∧ u.hostMem = s.hostMem) ∧
        ((∀ y ∈ s.dies, ∀ l ∈ y.2.lines, l.2.line = line → l.2.dirty = false) → (∀ m ∈ s.msgs, m.line = line → m.kind ≠ .ackD) →
          ∃ u, exec (.snpcur line) s = .next u ∧ u.out = .snpResp line "RspVHitV" none :: s.out ∧ u.filter = s.filter)) ∧
      (f.asked = false → ∀ x, exec (.cxlCacheHostResponse line data x) s = .next s) ∧
      (∀ r rest x, s.plat.cxl = true → f.asked = true → f.next = some (r, rest) → 2 ^ 44 ≤ line → line < 2 ^ 45 →
        (s.hostNeeds line r = some (.rdShared line) ∨ s.hostNeeds line r = some (.rdOwn line) ∨
          s.hostNeeds line r = some (.rdOwnNoData line)) →
        ∃ w : State, exec (.cxlCacheHostResponse line data x) s = .next (w.serve line) ∧ w.dirEnt line = { f with asked := false } ∧
          Tab.get? w.filter line = some { excl := x || s.hostNeeds line r != some (.rdShared line), order := s.uid } ∧
          w.homeRead line = (if s.hostNeeds line r = some (.rdOwnNoData line) then s.homeRead line else data) ∧
          w.msgs = s.msgs)) ∧
    (∀ off n, let p := s.plat
      let pa := p.peerBase + off
      ((p.peerEn = false ∨ p.peerSize * 2 ^ 30 ≤ off ∨ p.wiping = true) → ∀ op,
        exec (.peerRequest off n op) s = .next (s.emit (.peerError off))) ∧
      (p.peerEn = true → off < p.peerSize * 2 ^ 30 → pa < 0x18000000000 → p.wiping = false → p.booting = false → p.minimal = false →
        let old := lineGet (s.homeRead (pa / 128)) (pa % 128) n
        let put := fun x => s.homeWrite (pa / 128) (linePut 0 (pa % 128) n x) (byteMask (pa % 128) n)
        exec (.peerRequest off n .read) s = .next (s.emit (.peerData off (BitVec.ofNat 1024 old))) ∧
        (∀ x, exec (.peerRequest off n (.write x)) s = .next ((put (x.toNat % 2 ^ (8 * n))).emit (.peerDone off))) ∧
        (∀ a v, exec (.peerRequest off n (.atomic a v)) s = .next
          ((put (aop a n old (v.toNat % 2 ^ (8 * n)))).emit (.peerData off (BitVec.ofNat 1024 old)))) ∧
        ∀ c v, exec (.peerRequest off n (.cas c v)) s = .next
          ((if old = c.toNat % 2 ^ (8 * n) then put (v.toNat % 2 ^ (8 * n)) else s).emit (.peerData off (BitVec.ofNat 1024 old)))))

/-! ## The engines at work -/

/-- R226: MMA_START of a job that may start takes its operands, once all of them can be read, in queue order; one read ahead
of the others keeps the value that it had then (DEDUCED, log entry 28). R227: MMA_COMMIT gives the accumulator all 1,024 elements
of the result at once. R111 to R115: each element from its operand's elements, signs inverted by the negate options: for q8 and q4
the integer sum of products, for f32 the products rounded and summed in turn, for f16 and bf16 the exact sum rounded once, for the
8-bit formats that sum scaled; the exact sum is that of the terms' values. R229, R231, R235, R216, R218: COPY_ELEMENT writes the
next element of a copy to each place that it names: one in global or peer memory or in the team's window, one in the window of
each core of a set, none where it is clipped; R231: with RED each place takes the combination; R232: with BE the object counts
the bytes; and a copy completes after its last element, an event's record first entering its queue (R248, R249). R236: a rotation's
round forms once every member has a share, each tile going on to the next core by its sender's DIR, or breaks where formats differ; its
tiles are then written element by element. Elements in window order are log entry 75 (DESIGN CHOICE), a SPACE 2 place by the column
of the copy log entry 51 (DEDUCED), and PHASE kept under a plain write log entry 46 (DEDUCED). -/
def Obligations.EnginesAtWork : Prop :=
  (∀ (s : State) (core : Nat) (j : MmaJob), (s.core core).arrq.find? (fun k => k.uid == j.uid) = some j →
    let g := s.agentOf j.ctx j.user j.uid j.rep
    (j.ops.isSome = true → exec (.mmaStart core j.uid) s =
      .next (if s.mayStart core j = true then s.mapJob core j.uid fun k => { k with started := true } else s)) ∧
    (j.ops = none → s.mayFetch core j = false → exec (.mmaStart core j.uid) s = .next s) ∧
    (j.ops = none → s.mayFetch core j = true →
      match (mmaReads j.ra j.rb).zipIdx.foldl (Many.next fun s r => s.mmaReadAt g (colOf core) j r.1 r.2) (.ready s []) with
      | .ready s' xs => exec (.mmaStart core j.uid) s = .next ((s'.endTouches g.die j.uid).mapJob core j.uid fun k =>
          { k with started := s'.mayStart core j, rep := false, early := [], ops := some (mmaOps j.ra j.rb xs) })
      | .wait s' => exec (.mmaStart core j.uid) s = .next s'
      | .fault s' ty lv va => exec (.mmaStart core j.uid) s =
          .next (((s'.endTouches g.die j.uid).mapJob core j.uid fun k => { k with held := true }).engFault g
            (.mma core j.uid) ty lv va 2 false j.rep)) ∧
    (∀ o, j.started = true → j.ops = some o → j.be = false → ∀ t, Tab.get? s.teams j.ctx = some t →
      ∃ u, exec (.mmaCommit core j.uid) s = .next u ∧ (u.core core).arrq = ((s.core core).arrq.filter fun k => k.uid != j.uid) ∧
        (∀ r c, r < 32 → c < 32 → some ((u.team j.ctx).zelem j.zd r c) = (j.result o fun r c => t.zelem j.zd r c)[r * 32 + c]?) ∧
        (∀ z r c, z ≠ j.zd → r < 32 → c < 32 → (u.team j.ctx).zelem z r c = t.zelem z r c) ∧
        (∀ r ∈ (u.team j.ctx).pend, r.cell ≠ .commit j.zd j.uid) ∧ (u.team j.ctx).s = t.s ∧ (u.team j.ctx).v = t.v ∧
        ∀ c, c ≠ j.ctx → Tab.get? u.teams c = Tab.get? s.teams c) ∧
    (j.started = false → exec (.mmaCommit core j.uid) s = .next s) ∧
    ∀ r i, (∀ x, Tab.get? j.early i = some x → s.mmaReadAt g (colOf core) j r i = .ready s x) ∧
      (Tab.get? j.early i = none → s.mmaReadAt g (colOf core) j r i = s.mmaRead g (colOf core) j.wins r)) ∧
  (∀ (j : MmaJob) (o : MmaOps) (z : Nat → Nat → Word32) (r c : Nat), r < 32 → c < 32 →
    let fa := Shape.fmt j.ra
    let fb := Shape.fmt j.rb
    let K := if fa = 6 then 16 else if fa = 7 ∨ fa = 8 then 32 else if fa = 14 then 128 else 64
    o.a.length = 32 * K → o.b.length = 32 * K →
    let neg := fun (fmt : Nat) (on : Bool) (x : Word32) =>
      if on = false then x else if 13 ≤ fmt then -x else x ^^^ BitVec.ofNat 32 (2 ^ ((fmtOf fmt).w - 1))
    let a := fun k => neg fa j.nega (o.a[r * K + k]?.getD 0)
    let b := fun k => neg fb j.negb (o.b[k * 32 + c]?.getD 0)
    let y := (j.result o z)[r * 32 + c]?
    let put := fun t => some (BitVec.ofNat 32 (if j.acd then canon fF32 t else addF32 0 (z r c).toNat t))
    let dot := roundFV fF32 0 false false (sumFV ((List.range K).map fun k =>
      mulFV (unpack (fmtOf fa) (a k).toNat) (unpack (fmtOf fb) (b k).toNat)))
    (fa = 13 ∨ fa = 14 →
      let sum := ((List.range K).map fun k => (a k).toInt * (b k).toInt).sum
      let x := (z r c).toInt + sum
      y = some (BitVec.ofInt 32 (if j.acd then sum else if j.sat then max (-2 ^ 31) (min (2 ^ 31 - 1) x) else x))) ∧
    (fa = 6 → y = put ((List.range 15).foldl (fun s k => addF32 0 s (mulF32 (a (k + 1)).toNat (b (k + 1)).toNat))
      (mulF32 (a 0).toNat (b 0).toNat))) ∧
    (fa = 7 ∨ fa = 8 → y = put dot) ∧
    (fa = 9 ∨ fa = 10 → y = put (mulF32 dot (mulF32 (o.sa[r]?.getD 0x3F800000).toNat o.sb.toNat)))) ∧
  (∀ (l : List FV) (lo : Int) (v : FV → Int), l ≠ [] → (∀ n m e, v (.fin n m e) = scaled n m e lo) →
    (∀ x ∈ l, ∃ n m e, x = .fin n m e ∧ lo ≤ e) →
    ∃ n m e, sumFV l = .fin n m e ∧ lo ≤ e ∧ scaled n m e lo = (l.map v).sum) ∧
  (∀ (s : State) (c : Copy), s.copies.find? (fun d => d.uid == c.uid) = some c →
    (c.held = true → exec (.copyElement c.uid) s = .next s) ∧
    (c.held = false → c.fatal = 0 → (c.kind = .rrot → c.formed = true) → c.idx < c.total → s.fenced c.ctx c.ent 1 = false →
      let g := s.agentOf c.ctx c.user c.uid c.rep
      (c.ahead = [] → c.early = [] → c.did c.idx = { c with idx := c.idx + 1, rep := false }) ∧
      (∀ s', s.elemGot g c c.idx = .wait s' → exec (.copyElement c.uid) s = .next s') ∧
      ∀ s' x spots, s.elemGot g c c.idx = .ready s' x spots → spots = c.spots (s.coreOf c.ctx) c.idx ∧
        exec (.copyElement c.uid) s = .next (
          let w := s'.performSpots g c c.idx x spots
          (w.1.endTouches (s.dieOfCtx c.ctx) c.uid).putCopy (w.2.did c.idx))) ∧
    (∀ core i,
      let at' := c.at i
      let a := (Shape.addr c.dst (Shape.row c.dst at'.1) (Shape.col c.dst at'.2)).toNat
      (Shape.inRange c.dst at'.1 at'.2 = false → c.spots core i = []) ∧
      (Shape.inRange c.dst at'.1 at'.2 = true →
        (Shape.space c.dst = 0 → c.spots core i = [.glob a false]) ∧ (Shape.space c.dst = 3 → c.spots core i = [.glob a true]) ∧
        (Shape.space c.dst = 1 → c.spots core i = [.pad core (frameOf c.ctx) a]) ∧
        (Shape.space c.dst = 2 → ∀ k w, k < 8 → (Shape.cores c.dst).testBit k = true →
          c.wins.find? (fun w => w.core == c.col * 8 + k && decide (w.base ≤ a) && decide (a < w.base + w.len)) = some w →
          .pad (c.col * 8 + k) w.frame (a - w.base) ∈ c.spots core i))) ∧
    (∀ g i x sp rest u, let n := Shape.bytes (Shape.fmt c.dst)
      let elem := i * 8 + match sp with
        | .pad k _ _ => k % 8
        | .glob _ _ => 0
      s.performSpots g c i x [] = (s, c) ∧
      (s.isDup c.ctx c.tag elem = false → s.writeSpot g c.tag elem (Shape.fmt c.dst) c.red x sp = .ready u 0 →
        s.performSpots g c i x (sp :: rest) = (u.countBytes c sp n).1.performSpots g (u.countBytes c sp n).2 i x rest) ∧
      (c.be = false → s.countBytes c sp n = (s, { c with bytes := c.bytes + n })) ∧
      (c.be = true → c.skip = 0 → Shape.space c.dst ≠ 2 → s.countBytes c sp n =
        (s.sendCount ((s.block? (frameOf c.ctx)).elim 0 (·.core))
            { frame := frameOf c.ctx, off := c.bar, a := 0, n, ctx := c.ctx, copy := c.uid },
          { c with bytes := c.bytes + n, counted := c.counted + n }))) ∧
    (∀ (g : Agent) tag elem fmt red x, let n := Shape.bytes fmt
      let low := (s.team g.ctx).lowWater
      (∀ core f off b, s.block? f = some b → b.window = none → b.core = core → (s.core core).cpbuf = [] →
        let old := ofBytes ((s.core core).sp.readN (padAddr b off) n)
        s.writeSpot g tag elem fmt red x (.pad core f off) = .ready ((if red = 0 then
            s.setCore core { s.core core with cpbuf := (toBytes n x).zipIdx.map fun y => (padAddr b off + y.2, y.1) }
          else State.examBlock (s.setCore core { s.core core with
            sp := s.padPut core (padAddr b off) (toBytes n (reduceElem fmt red old x)) }) f).record
          (.pad core) g.ctx tag low elem none) 0) ∧
      (∀ va peer s1 key pl a data l, s.engLine g va true peer = .ready s1 key pl a data → ¬ (red ≠ 0 ∧ a.peer = true) →
        a.nowell = false → Tab.get? (s1.die g.die).lines key = some l → l.dirty = true → va % 128 + n ≤ 128 →
        let y := if red = 0 then x else reduceElem fmt red (lineGet data (va % 128) n) x
        ∃ u l', s.writeSpot g tag elem fmt red x (.glob va peer) = .ready u 0 ∧ Tab.get? (u.die g.die).lines key = some l' ∧
          lineGet l'.data (va % 128) n = y % 2 ^ (8 * n) ∧ l'.line = l.line ∧
          ∀ q, q < 128 → (q < va % 128 ∨ va % 128 + n ≤ q) → lineGet l'.data q 1 = lineGet l.data q 1)) ∧
    (c.total = if c.kind = .rrot then c.tiles.length * 1024 else c.n * c.m) ∧
    (∀ g i t y, c.kind = .rrot → Tab.get? c.early i = none → c.tiles[i / 1024]? = some t → t[i % 1024]? = some y →
      s.copyValue g c i = .ready s y) ∧
    (c.held = false → c.fatal = 0 → c.kind = .rrot → c.formed = false →
      ∀ r x, (s.cluster c.col).rrots.find? (fun r => r.ctx == c.ctx && r.ent == c.ent) = some r → s.gang? c.col r.gang = some x →
      (roundOf (s.cluster c.col).rrots r.gang x.members = none → exec (.copyElement c.uid) s = .next s) ∧
      ∀ rs, roundOf (s.cluster c.col).rrots r.gang x.members = some rs →
        let held := ∃ q ∈ rs, s.padSealed (frameOf q.ctx) = true ∨ s.fenced q.ctx q.ent 1 = true
        (held → exec (.copyElement c.uid) s = .next s) ∧
        (¬ held → (∃ p ∈ rs, ∃ q ∈ rs, Shape.fmt p.src ≠ Shape.fmt q.src ∨ Shape.fmt p.src ≠ Shape.fmt q.dst) →
          exec (.copyElement c.uid) s = .next (s.breakRound c.col r.gang Cause.badshape rs)) ∧
        (¬ held → ∀ fmt, (∀ q ∈ rs, Shape.fmt q.src = fmt ∧ Shape.fmt q.dst = fmt) → ∃ u, exec (.copyElement c.uid) s = .next u ∧
          (u.cluster c.col).rrots = ((s.cluster c.col).rrots.filter fun q => !rs.contains q) ∧ u.mem = s.mem ∧ u.cores = s.cores ∧
          ∀ q ∈ rs, ∀ d ∈ s.copies, d.ctx = q.ctx → d.ent = q.ent →
            let mine := (s.bySender rs).filter fun p => s.targetOf p == s.coreOf q.ctx % 8
            { d with formed := true, early := [], senders := mine.map fun p => (p.ctx, p.ent, p.src), tiles := mine.map s.shareTile }
              ∈ u.copies)) ∧
    (∀ (q : Rrot) e, e < 1024 → (∀ d, s.shareCopy q = some d → Tab.get? d.early e = none) →
      s.targetOf q = (if q.dir then s.coreOf q.ctx % 8 + 7 else s.coreOf q.ctx % 8 + 1) % 8 ∧
      (s.shareTile q)[e]? = some (if Shape.inRange q.src (e / 32) (e % 32) then
        s.padRead true (frameOf q.ctx) (Shape.addr q.src (Shape.row q.src (e / 32)) (Shape.col q.src (e % 32))).toNat (Shape.bytes (Shape.fmt q.src))
        else 0)) ∧
    (c.held = false → c.fatal = 0 → (c.kind = .rrot → c.formed = true) → c.total ≤ c.idx →
      (∀ k ∈ s.cores, ∀ e ∈ k.2.bankq, e.copy ≠ c.uid) → (∀ y ∈ s.teams, ∀ off w, y.2.sched ≠ .waiting (.bar off w)) →
      (c.evt = true → c.sent = false →
        let s1 := s.landCopy c
        (s1.fenced c.ctx c.ent 3 = true → exec (.copyElement c.uid) s = .next s1) ∧
        (s1.fenced c.ctx c.ent 3 = false → ∃ w, exec (.copyElement c.uid) s = .next w ∧
          (w.cluster (s.colOfCtx c.ctx)).evwait = (s.cluster (s.colOfCtx c.ctx)).evwait ++
            [{ w0 := s.eventW0 c.ctx 0 (if c.kind = .drain then 2 else 1)
               w1 := BitVec.ofNat 64 (place (min (max c.before c.bytes) (2 ^ 32 - 1)) 32 32 + place (b2n c.be) 19 1 +
                 if c.be then place c.bar 0 19 else 0)
               copy := c.uid }] ∧
          { c with landed := true, sent := true } ∈ w.copies ∧ w.teams = s.teams ∧ w.mem = s.mem)) ∧
      (c.evt = true → c.sent = true → c.posted = false → c.landed = true → exec (.copyElement c.uid) s = .next s) ∧
      (c.evt = false ∨ (c.sent = true ∧ c.posted = true) →
      ∃ w : State, exec (.copyElement c.uid) s = .next (w.credit c.ctx c.ent (if c.kind = .cpym then 1 else 0) 0 []) ∧
        w.copies = (s.copies.filter fun d => d.uid != c.uid) ∧ (c.kind ≠ .cpym → w.teams = s.teams) ∧ w.mem = s.mem ∧
        (c.landed = false → (w.core (s.coreOf c.ctx)).cpbuf = []))))

/-! ## Queues, launches and the host's ring -/

/-- R255 to R259: a notify write sets TAIL within its bounds, QCMD enables a queue whose descriptor is valid and disables it,
and an idle queue gives up its slot. R261, R262, R269: the next packet of an active queue is read and judged. R264, R266: a
die's draw advances its generator and places the winner's next block; R263: a SERIAL launch's block waits for the launch
before it. R42: a block whose work is done ends. A packet or an ASID's entry of which the host has the newest data is asked for
first (R206). The slots taken, the notes of a cycle's draws and an invalid descriptor's effect are the model's choices (log
entries 41, 44 and 45), and that nothing acts while the BAR is not served is log entry 80. -/
def Obligations.QueuesAndBlocks : Prop :=
  ∀ (s : State) (q : Nat),
    let x := s.queue q
    let d := s.desc q
    (∀ off (v : Word64),
      (off ≠ 0 ∨ 131072 ≤ q ∨ s.up = false ∨ s.notifyOk q v.toNat = false → exec (.notifyWrite q off v) s = .next s) ∧
      (off = 0 → q < 131072 → s.up = true → s.notifyOk q v.toNat = true → ∃ u, exec (.notifyWrite q off v) s = .next u ∧
        (u.queue q).tail = v.toNat ∧ (u.queue q).head = x.head ∧ (u.queue q).launches = x.launches ∧
        (∀ i, x.slot = none → x.enabled = true → x.nread < v.toNat → s.freeSlot (mapperOf q) = some i →
          (u.queue q).slot = some i) ∧ u.teams = s.teams ∧ u.mem = s.mem)) ∧
    (s.notifyRead q 0 = x.tail ∧ s.notifyRead q 8 = x.head ∧ ∀ off n, (n ≠ 8 ∨ off ≠ 0 ∧ off ≠ 8) → s.notifyRead q off n = 0) ∧
    (x.known = true → ∀ v, s.notifyOk q v = true ↔ x.tail ≤ v ∧ v ≤ x.head + 2 ^ x.sizelog) ∧
    (q < 131072 → s.up = true → Tab.getD s.fifos (mapperOf q) [] = [] →
      (d.v = true → d.tickets ≠ 0 → d.clean = true → sizeOk d.sizelog = true → ∃ u, exec (.qcmdEnable q) s = .next u ∧
        (u.queue q).enabled = true ∧ (u.queue q).ring = d.ring ∧ (u.queue q).asid = d.asid ∧ (u.queue q).tickets = d.tickets ∧
        (u.queue q).sizelog = d.sizelog ∧ (u.queue q).energy = 0 ∧ (u.queue q).head = x.head ∧ (u.queue q).tail = x.tail) ∧
      ((d.v = false ∨ d.tickets = 0 ∨ d.clean = false ∨ sizeOk d.sizelog = false) → ∃ u, exec (.qcmdEnable q) s = .next u ∧
        (u.queue q).enabled = false) ∧
      ∃ u, exec (.qcmdDisable q) s = .next u ∧ (u.queue q).enabled = false ∧ (u.queue q).slot = none ∧
        (u.queue q).head = x.head ∧ (u.queue q).tail = x.tail ∧ (u.queue q).launches = x.launches) ∧
    (∀ i, x.slot = some i → x.toPlace = false → x.idleAt + 10000 < s.time → ∃ u, exec (.queueIdleExpiry q) s = .next u ∧
      ∀ l, Tab.getD s.fifos (mapperOf q) [] = l → (l = [] → (u.queue q).slot = none) ∧
        ∀ h rest, l = h :: rest → h ≠ q → (u.queue q).slot = none ∧ (u.queue h).slot = some i) ∧
    (x.enabled = true → x.slot.isSome = true → x.nread < x.tail → (∀ l ∈ x.launches, l.refused ≠ 0 ∨ l.pkt.blocks ≤ l.placed) →
      let w := (bytesWords 16 (s.physRead (x.ring + x.nread % 2 ^ x.sizelog * 128) 128)).map (·.toNat)
      let l : Launch := { seq := x.nread, pkt := parsePacket w, refused := s.refusal x.asid w }
      (∀ pl op, s.packetWaits q = some (pl, op) → exec (.launchPacketRead q) s = .next (s.homeAsk pl op)) ∧
      (s.packetWaits q = none → ∃ u, exec (.launchPacketRead q) s = .next u ∧ (u.queue q).nread = x.nread + 1 ∧ (u.queue q).tail = x.tail ∧
        (u.queue q).launches = x.launches ++ [{ l with doneAt := if l.isOver = true then some s.time else none }] ∧
        (∀ p, p ≠ q → u.queue p = s.queue p) ∧ u.mem = s.mem ∧ u.blocks = s.blocks)) ∧
    (∀ d l h, s.eligible d q x = true → x.placing = some l → l.pkt.serial = true → h ∈ x.launches → h.seq + 1 = l.seq →
      h.isOver = true) ∧
    (∀ die es rest, s.drawsNow = (die, es) :: rest →
      let seed := xorshift (s.die die).seed
      let w := winnerOf es (drawOf seed % (es.map (·.2.2)).sum)
      let s1 := ({ s with draws := some rest } : State).setDie die { s.die die with seed }
      (∀ e, e ≠ die → exec (.lotteryDraw e) s = .next s) ∧
      (w = none → ∃ u, exec (.lotteryDraw die) s = .next u ∧ (u.die die).seed = seed ∧ u.draws = some rest ∧ u.blocks = s.blocks) ∧
      (∀ p n, w = some (p, n) → s1.eligible die p (s.queue p) = false → exec (.lotteryDraw die) s = .next s1) ∧
      ∀ p l f r, w = some (p, l.seq) → s1.eligible die p (s.queue p) = true → (s.queue p).placing = some l →
        l.pkt.hold = false → s.frameOk f = true → s1.spotFor die p (s.queue p) l = some (f, r) →
        ∃ u, exec (.lotteryDraw die) s = .next u ∧ (u.die die).seed = seed ∧ u.draws = some rest ∧
          let b := { protoBlock p (s.queue p) l with core := r.core, lcore := r.core, slots := r.slots, spbase := r.base }
          u.block? f = some b ∧ (∀ c ∈ ctxsOf f b, u.team c = { exec := lanesBelow b.width, pc := l.pkt.entry }) ∧
          (u.die die).lastCluster = some (colOf r.core % 24) ∧
          (u.queue p).launches = (s.queue p).launches.map fun m => if m.seq = l.seq then { m with placed := m.placed + 1 } else m) ∧
    (∀ f b, s.block? f = some b → s.blockDone f b = true → b.event = false → b.monitor = false →
      ∃ u, exec (.blockEnd f) s = .next u ∧ u.block? f = none ∧ (∀ c, frameOf c = f → Tab.get? u.teams c = none) ∧
        (∀ c, frameOf c ≠ f → Tab.get? u.teams c = Tab.get? s.teams c) ∧ (∀ g, g ≠ f → u.block? g = s.block? g) ∧
        (u.queue b.queue).launches = (s.queue b.queue).launches.map fun l =>
          if l.seq = b.seq then l.blockEnds s.time else l) ∧
    (∀ f b, s.block? f = some b → s.blockDone f b = false → exec (.blockEnd f) s = .next s)

/-- R268, R269, R271, R272: a launch that is over completes in order: its record is stored at COMPLETE under the queue's ASID,
or, where the store may not be made, given on the ring alone with NOWRITE; the ring takes its entry, whose bytes lie at EVHEAD,
and HEAD rises. Lines that the host holds are asked for first (R206). With no room in the ring the completion is held, and HOST_RING_ENTRY_WRITE writes what is held. EVTAIL gives
the ring room, and TIMEUS after the oldest unreported entry the interrupt comes. R214, R267: a cluster with nothing to run is
gated with its L1s empty, but after the draws that its die still owes in the cycle, and its wake ends. The waiting completion's TIME and place are readings of the model (log entry
47), and that EVTAIL is not written while the BAR is not served is log entry 80. Where a record goes at a misaligned COMPLETE, and the
store with translation disabled, are the model's choices (DESIGN CHOICE, log entries 105 and 76). -/
def Obligations.CompletionsAndGating : Prop :=
  ∀ (s : State),
    let r := s.launchRegs
    let slot := r.evBase + r.evHead % r.size * 64
    let written := fun (u : State) (e : RingEnt) => u.launchRegs.evHead = r.evHead + 1 ∧
      u.physRead slot e.bytes.length = e.bytes ∧ u.launchRegs.evTail = r.evTail ∧ ∃ m, u.out = m ++ s.out
    (∀ q l rest, (s.queue q).launches = l :: rest → l.posted = false →
      let body := completionWords q (l.doneAt.getD s.time) l
      (l.isOver = false → exec (.launchComplete q) s = .next s) ∧
      (l.isOver = true → r.held = [] → r.room = true →
        let va := l.pkt.complete
        let asid := (s.queue q).asid
        let completed := fun (u : State) (nowrite : Bool) => (u.queue q).head = (s.queue q).head + 1 ∧ (u.queue q).launches = rest ∧
          written u { type := 1, body, comp := some q, nowrite } ∧ u.teams = s.teams ∧ u.blocks = s.blocks
        (∀ pl op, s.completionWaits q = some (pl, op) → exec (.launchComplete q) s = .next (s.homeAsk pl op)) ∧
        (s.completionWaits q = none →
          (va = 0 → ∃ u, exec (.launchComplete q) s = .next u ∧ completed u false) ∧
          (va ≠ 0 → (canonical va = false ∨ ∃ x, (s.translate 0 asid va.toNat { write := true }).2 = .error x) →
            ∃ u, exec (.launchComplete q) s = .next u ∧ completed u true ∧
              ∀ p, p < 2 ^ 52 → slot + 64 ≤ 2 ^ 52 → (p < slot ∨ slot + 64 ≤ p) → u.physRead p 1 = s.physRead p 1) ∧
          ∀ e, va ≠ 0 → canonical va = true → (s.translate 0 asid va.toNat { write := true }).2 = .ok e → e.attr.swm = false →
            let pa := e.paOf va.toNat
            pa + 32 ≤ 2 ^ 52 → slot + 64 ≤ 2 ^ 52 → (pa + 32 ≤ slot ∨ slot + 64 ≤ pa) →
            ∃ u, exec (.launchComplete q) s = .next u ∧ completed u false ∧ u.physRead pa 32 = wordsBytes body ∧
              ∀ p, p < 2 ^ 52 → (p < pa ∨ pa + 32 ≤ p) → (p < slot ∨ slot + 64 ≤ p) → u.physRead p 1 = s.physRead p 1)) ∧
      (l.isOver = true → (r.held ≠ [] ∨ r.room = false) → ∃ u, exec (.launchComplete q) s = .next u ∧
        u.launchRegs = { r with held := r.held ++ [{ type := 1, body, comp := some q }] } ∧
        (u.queue q).head = (s.queue q).head ∧
        ∀ m, (u.queue q).launches.head? = some m → m = { l with posted := true })) ∧
    (∀ e rest, r.held = e :: rest →
      (r.room = false → exec .hostRingEntryWrite s = .next s) ∧
      (r.room = true → e.comp = none → ∀ pl op, s.ringWaits = some (pl, op) → exec .hostRingEntryWrite s = .next (s.homeAsk pl op)) ∧
      (r.room = true → e.comp = none → s.ringWaits = none → ∃ u, exec .hostRingEntryWrite s = .next u ∧ u.launchRegs.held = rest ∧ written u e ∧
        u.queues = s.queues ∧ u.teams = s.teams)) ∧
    (∀ v : Word64, exec (.evtailWrite v) s = .next (if s.up then { s with launchRegs := { r with evTail := v.toNat } } else s)) ∧
    (r.reported < r.evHead → r.oldest + r.timeus * 1000 ≤ s.time →
      exec .msiCoalesceTimeout s = .next { s with out := .msix 0 :: s.out, launchRegs := { r with reported := r.evHead } }) ∧
    ((r.evHead ≤ r.reported ∨ s.time < r.oldest + r.timeus * 1000) → exec .msiCoalesceTimeout s = .next s) ∧
    ∀ col, exec (.clusterWakeComplete col) s = .next (s.setCluster col { s.cluster col with waking := false }) ∧
      (col < 96 → s.dispatchFree col = true → (s.cluster col).gated = false → s.ramped col = false →
        (∀ e ∈ s.drawsNow, e.1 ≠ col / 24) →
        ∃ u, exec (.clusterGatingCommit col) s = .next u ∧ (u.cluster col) = { s.cluster col with gated := true } ∧
          (∀ i < 8, (u.core (col * 8 + i)).l1 = []) ∧ (u.core (768 + col)).l1 = [] ∧
          (∀ k, colOf k ≠ col → u.core k = s.core k) ∧ u.mem = s.mem ∧ u.teams = s.teams) ∧
      ((s.dispatchFree col = false ∨ (s.cluster col).gated = true ∨ s.ramped col = true ∨ 96 ≤ col ∨ ∃ e ∈ s.drawsNow, e.1 = col / 24) →
        exec (.clusterGatingCommit col) s = .next s)

/-! ## Freezing, resuming and debugging -/

/-- R286, R289, R292: the host's freeze of a running block asks its teams to stop and starts its deadline, its resume of a
block that it froze falls due, and its termination ends every team with HOSTKILL; the queue forms do the same for every block
of the queue. R281, R283, R287: a stop changes no register of its team, and a saved block's frame gives each team's PC, MODE,
registers, masks, mask stack and accumulators back, all as they stood; R292: a resumed team has what its frame holds and goes on
where it stood, a GBAR's wait without a second arrival. R288: a window's image is written once. R292: the oldest due resume takes its place. R286, R310, R319: an
expired deadline, MIGWAIT and the 1.5 ms of a shed request. R294: a migrated block resumes on its target. The frame's image,
the order of the mask stack in it, the termination of a frozen block and the place of a resume are the model's choices (log
entries 14, 40, 42, 43, 48 and 63); a target that may no longer take a block is log entry 84, and commands while the BAR is not
served log entry 80. -/
def Obligations.FreezesAndResumes : Prop :=
  ∀ (s : State) (f : Nat) (b : Block), s.block? f = some b →
    let teams := ctxsOf f b
    (s.up = false → ∀ q, ∀ i ∈ [Instr.frzcmdFreezeBlock f, .frzcmdResumeBlock f, .frzcmdTerminateBlock f, .frzcmdFreezeQueue q,
      .frzcmdResumeQueue q], exec i s = .next s) ∧
    (∀ i, (i = .frzcmdFreezeBlock f ∨ ∃ q, i = .frzcmdFreezeQueue q ∧ s.blocksOf q = [f]) → s.up = true → b.monitor = false →
      b.place = .running → (∀ c ∈ teams, (s.team c).sched ≠ .frozen) →
      ∃ u, exec i s = .next u ∧ u.teams = s.teams ∧ u.block? f = some { b with
        place := .freezing, freeze := some .host, freezeAt := s.time, deadlineLeft := b.deadline, forced := false, hit := false }) ∧
    (∀ i, (i = .frzcmdResumeBlock f ∨ ∃ q, i = .frzcmdResumeQueue q ∧ s.blocksOf q = [f]) → s.up = true →
      ((b.place ≠ .frozen ∨ b.cause ≠ Cause.hostfrz ∧ b.cause ≠ Cause.forced) → exec i s = .next s) ∧
      (b.place = .frozen → (b.cause = Cause.hostfrz ∨ b.cause = Cause.forced) →
        (s.isShed b = true → exec i s = .next (s.setBlock f { b with resumeAsked := true })) ∧
        (s.isShed b = false → f ∉ (s.die (dieOf b.core)).resumeq → exec i s = .next
          (s.setDie (dieOf b.core) { s.die (dieOf b.core) with resumeq := (s.die (dieOf b.core)).resumeq ++ [f] })))) ∧
    (b.monitor = true → exec (.frzcmdTerminateBlock f) s = .next s) ∧
    (s.up = true → b.monitor = false → ∃ u, exec (.frzcmdTerminateBlock f) s = .next u ∧
      (∀ c ∈ teams, (u.team c).sched = .exited ∧ ((s.team c).gone = false → (u.team c).endCause = Cause.hostkill)) ∧
      (∀ c, c ∉ teams → Tab.get? u.teams c = Tab.get? s.teams c) ∧ ∀ d, f ∉ (u.die d).resumeq) ∧
    (b.place = .freezing → b.freeze = some .host → b.deadlineLeft = 0 → b.forced = false →
      exec (.deadlineExpiry f) s = .next ((s.setBlock f { b with forced := true }).stopDue f)) ∧
    (b.place = .freezing → b.freeze = some .shedding → b.forced = false → b.freezeAt + 1500000 ≤ s.time →
      exec (.shedForceTimeout f) s = .next ((s.setBlock f { b with forced := true }).stopDue f)) ∧
    (b.place = .freezing → b.freeze = some .migration → b.freezeAt + s.power.migNs ≤ s.time →
      (∀ c ∈ teams, (s.team c).sched ≠ .frozen ∧ (s.team c).atBarrier = false) → ∃ u, exec (.migwaitExpiry f) s = .next u ∧
        u.block? f = some { b with place := .running, freeze := none, migTarget := none } ∧ u.teams = s.teams ∧
        (u.cluster (colOf b.core)).noTarget = true) ∧
    (∀ w, b.window = some w → b.imaged = false → s.frameOk f = true → b.monitor = false → ∃ u, exec (.windowImageWritten f) s = .next u ∧
      u.block? f = some { b with window := some [], imaged := true } ∧
      u.getFrame f windowArea b.scratch = w.readN 0 b.scratch ∧ u.teams = s.teams) ∧
    (∀ d rest, (s.die d).resumeq = f :: rest → b.place = .frozen →
      (b.imaged = false → exec (.resumePlace d) s = .next s) ∧
      (b.imaged = true → s.frameOk f = true →
        (s.resumeSpot f b = none → exec (.resumePlace d) s = .next s) ∧
        ∀ r, s.resumeSpot f b = some r →
          exec (.resumePlace d) s = .next ((s.setDie d { s.die d with resumeq := rest }).restore f b r))) ∧
    (∀ r, b.migTarget = some r → b.place = .frozen → b.cause = Cause.migrated → s.frameOk f = true →
      (s.mayLand f b r = true → exec (.migrationTransferComplete f) s = .next ((s.setCore b.core { s.core b.core with
        gaveUp := some s.time, relieved := (s.core b.core).hot }).restore f { b with migAt := some s.time } r)) ∧
      (s.mayLand f b r = false → ∃ u, exec (.migrationTransferComplete f) s = .next u ∧
        u.block? f = some { b with migTarget := none } ∧ f ∈ (u.die (dieOf b.core)).resumeq ∧
        (u.cluster (colOf b.core)).noTarget = true ∧ u.teams = s.teams)) ∧
    (∀ c saved, (s.team c).pend = [] →
      let t := s.team c
      let u := (s.capture c saved).team c
      u.sched = .frozen ∧ u.saved = saved ∧ u.pc = t.pc ∧ u.mode = t.mode ∧ u.s = t.s ∧ u.h = t.h ∧ u.k = t.k ∧ u.exec = t.exec ∧
        u.z = t.z ∧ u.stack = t.stack ∧ u.gangs = t.gangs ∧ u.handler = t.handler ∧ u.fatal = t.fatal ∧ u.nextTag = t.nextTag ∧
        u.ldcnt = t.ldcnt ∧ u.stcnt = t.stcnt ∧ u.cpcnt = t.cpcnt ∧
        ∀ n l, l < 1024 → u.vreg n l = if n < t.live ∨ 768 ≤ t.live then t.vreg n l else 0) ∧
    (s.frameOk f = true → s.framePA f 0x3FFFFF < 0x18000000000 → b.teams ≤ 32 → b.teams * b.acc ≤ 16 → b.width ≤ 1024 →
      b.teams * b.width * b.vregs * 4 ≤ 0xC0000 → s.dataBefore f b.teams ≤ 0xE0000 →
      (∀ c ∈ teams, (s.team c).inflight.length ≤ 256 ∧ (s.team c).stack.length ≤ 32) →
      ∀ ix < b.teams, ∀ t0 : Team,
        let t := s.team (f * 32 + ix)
        let w := lanesBelow b.width
        let u := (s.saveBlock f).loadTeam f b ix t0
        u.pc = t.pc ∧ u.mode = BitVec.ofNat 64 (t.mode.toNat % 64) ∧ (∀ n < 64, u.sreg n = t.sreg n) ∧ (∀ n < 32, u.hreg n = t.hreg n) ∧
          (∀ n < 16, u.kreg n = t.kreg n &&& w) ∧
          u.stack = t.stack.map (fun m => { m with saved := m.saved &&& w, cond := m.cond &&& w }) ∧
          (∀ j < b.acc, ∀ i < 32, ∀ k < 32, u.zelem j i k = t.zelem j i k) ∧
          ∀ n < b.vregs, ∀ l < b.width, u.vreg n l = if n < t.liveRegs b then t.vreg n l else 0) ∧
    (∀ r, b.place = .frozen → b.stepping = none → b.heldAt = false → b.monitor = false → s.isShed b = false →
      (∀ c ∈ teams, (s.team c).sched = .frozen → (s.team c).atBarrier = false ∧
        ((s.team c).saved = .ready ∨ ∃ g acted, (s.team c).saved = .waiting (.gbar g acted))) →
      let u := s.restore f b r
      (∃ b', u.block? f = some b' ∧ b'.core = r.core ∧ b'.spbase = r.base ∧ b'.place = .running ∧ b'.deadlineLeft = b.deadline) ∧
      ∀ ix < b.teams,
        let c := f * 32 + ix
        let t := u.team c
        ((s.team c).sched = .exited → t = s.team c) ∧
        ((s.team c).sched = .frozen →
          let l := s.loadTeam f b ix (s.team c)
          t.sched = (s.team c).saved ∧ t.pc = l.pc ∧ t.mode = l.mode ∧ t.v = l.v ∧ t.s = l.s ∧ t.exec = l.exec ∧ t.k = l.k ∧ t.h = l.h ∧
            t.z = l.z ∧ t.stack = l.stack ∧ t.gangs = l.gangs ∧ t.handler = l.handler ∧ t.pend = l.pend ∧ t.fatal = l.fatal))

/-- R296: setting EN starts the monitor in handler mode in slot 31 of core 7, and clearing it ends the monitor; while EN is
set DBGRUN stops the named team's block, steps one team of a block that the monitor stopped, and resumes it; a write of the
response count interrupts the host. A command of a cluster where debugging is off, or of a handle that names no block, does
nothing. The monitor's frame number and its wait for slot 31 are the model's choices (log entry 49), and so is the resume of a
block whose class is shed (log entry 43); that nothing acts while the BAR is not served is log entry 80. -/
def Obligations.DebugCommands : Prop :=
  ∀ (s : State) (col : Nat),
    let c := s.cluster col
    let f := monitorFrame col
    let here := col < 96 ∧ s.up = true
    (¬ here → ∀ h v, ∀ i ∈ [Instr.dbgEnable col v, .dbgrunStop col h, .dbgrunStep col h, .dbgrunResume col h, .rspseqWrite col v],
      exec i s = .next s) ∧
    (∀ v : Word64, here → v.getLsbD 63 = true → c.dbg.started = false →
      let s1 := s.setCluster col { c with dbg := { c.dbg with en := true, asid := bitsAt v.toNat 0 16 } }
      (s1.monitorFits col = false → exec (.dbgEnable col v) s = .next s1) ∧
      (s1.monitorFits col = true → ∃ u, exec (.dbgEnable col v) s = .next u ∧
        u.block? f = some (monitorBlock col (bitsAt v.toNat 0 16)) ∧ (u.team (f * 32)).handler = true ∧
        (u.team (f * 32)).pc = c.dbg.entry ∧ (u.team (f * 32)).exec = lanesBelow 16 ∧
        (u.cluster col).dbg.en = true ∧ (u.cluster col).dbg.started = true)) ∧
    (∀ v : Word64, here → v.getLsbD 63 = false → ∃ u, exec (.dbgEnable col v) s = .next u ∧ (u.cluster col).dbg.en = false ∧
      (u.cluster col).dbg.started = false ∧ ((Tab.get? s.teams (f * 32)).isSome = true → (u.team (f * 32)).sched = .exited)) ∧
    (∀ h, s.dbgTarget col h = none →
      ∀ i ∈ [Instr.dbgrunStop col h, .dbgrunStep col h, .dbgrunResume col h], exec i s = .next s) ∧
    (∀ h g b ix, here → s.dbgTarget col h = some (g, b, ix) → c.dbg.en = true ∧
      exec (.dbgrunStop col h) s = .next (s.requestFreeze g .debug) ∧
      (s.dbgStopped g b = true → exec (.dbgrunResume col h) s = .next (s.due g)) ∧
      (s.dbgStopped g b = true → b.heldAt = false → (s.team (g * 32 + ix)).sched = .frozen →
        (s.team (g * 32 + ix)).gone = false →
        exec (.dbgrunStep col h) s = .next ((s.setBlock g { b with stepping := some ix, stepped := false }).due g)) ∧
      (s.dbgStopped g b = false → exec (.dbgrunResume col h) s = .next s ∧ exec (.dbgrunStep col h) s = .next s)) ∧
    ∀ v : Word64, here → exec (.rspseqWrite col v) s =
      .next { s.setCluster col { c with dbg := { c.dbg with rspseq := v } } with out := .msix 2 :: s.out }

/-! ## Power -/

/-- R299 to R321: what ends a window of a core, moves a column's level, ramps a die's pump, judges the sensors and the
thermal level, reads a frame of the shelf, and moves the clamp and the classes. Estimates, ramp rounding, the shelf's corner
cases, the thermal level's, and the ramps' threshold, sum and arrays are the model's choices (log entries 3, 53, 55, 56, 67
and 86), and so are that the expiry of the hold acts on the clamp and the classes at once (DESIGN CHOICE, log entry 103), that CLAMPED
and THERMAL are both set at a tie, and that the first valid frame counts no SEQSKIP (DESIGN CHOICE, log entries 114 and 115). -/
def Obligations.PowerManagement : Prop :=
  ∀ (s : State),
    let p := s.power
    (∀ k, let c := s.core k
      let now := s.cyclesOf (colOf k)
      (now < c.windowAt + 4096 → exec (.ntWindow k) s = .next s) ∧
      (c.windowAt + 4096 ≤ now → ∃ u, exec (.ntWindow k) s = .next u ∧ (u.core k).windowAt = now ∧ (u.core k).stalled = 0 ∧
        (u.core k).busy = 0 ∧ (∀ j, j ≠ k → u.core j = s.core j) ∧ u = { s with cores := u.cores } ∧
        (u.core k).stallHigh = (if 7 * (now - c.windowAt) < 10 * c.stalled then true
          else if 10 * c.stalled < 4 * (now - c.windowAt) then false else c.stallHigh) ∧
        ∀ g < 4, (u.core k).nt.getLsbD g = if 2 ∈ s.ntModes k then false
          else if 1 ∈ s.ntModes k ∨ (u.core k).stallHigh = true then true else !c.busy.getLsbD g)) ∧
    (∀ col, let c := s.cluster col
      let goal := max c.thermal p.clamp
      (c.level = goal → exec (.columnLevelStep col) s = .next s) ∧
      (c.level ≠ goal → ∃ u, exec (.columnLevelStep col) s = .next u ∧ u.teams = s.teams ∧
        (u.cluster col).level = (if c.level < goal then c.level + 1 else c.level - 1) ∧
        (∀ k, k ≠ col → u.cluster k = s.cluster k) ∧
        (0 < c.level → (1 < c.level ∨ c.level < goal) → u.blocks = s.blocks) ∧
        (c.level = 0 → ∀ f b, s.blocks = [(f, b)] → colOf b.core = col → b.bellAddr ≠ 0 → b.bellLast ≠ Cause.bellon →
          u.block? f = some { b with bellPend := some (Cause.bellon, 1) }))) ∧
    (∀ col, let c := s.cluster col
      let cores := (List.range 8).map fun i => s.core (col * 8 + i)
      let rises := ∃ x ∈ cores, x.hot = true ∧ (c.noTarget = true ∨ x.relieved = true)
      let cool := ∀ x ∈ cores, x.temp.toInt ≤ p.thot.toInt - 80
      (s.time < c.thermalAt + 1000000 → exec (.thermalLevelTick col) s = .next s) ∧
      (c.thermalAt + 1000000 ≤ s.time → ∃ u, exec (.thermalLevelTick col) s = .next u ∧ u = { s with clusters := u.clusters } ∧
        (u.cluster col).thermalAt = s.time ∧ (u.cluster col).level = c.level ∧
        (rises → (u.cluster col).thermal = min 12 (c.thermal + 1)) ∧
        (¬ rises → cool → (u.cluster col).thermal = c.thermal - 1) ∧
        (¬ rises → ¬ cool → (u.cluster col).thermal = c.thermal))) ∧
    (∀ d, let x := s.die d
      (x.pump = 0 → exec (.pumpRampStep d) s = .next s) ∧
      (x.pump ≠ 0 → p.pumpen = false → exec (.pumpRampStep d) s = .next (s.endRamp d)) ∧
      (x.pump ≠ 0 → p.pumpen = true → s.time < x.pumpAt + 1000 → exec (.pumpRampStep d) s = .next s) ∧
      (x.pump ≠ 0 → p.pumpen = true → x.pumpAt + 1000 ≤ s.time → ∃ u, exec (.pumpRampStep d) s = .next u ∧
        let slope := min 200 (max 5 p.slope)
        let energy := x.pumpEnergy + 900 * (x.pump * x.pump - (x.pump - slope) * (x.pump - slope)) / slope
        (u.die d).pump = x.pump - slope ∧ (∀ e, e ≠ d → u.die e = s.die e) ∧ u.teams = s.teams ∧
        (slope < x.pump → (u.die d).pumpEnergy = energy ∧ (u.die d).pumpAt = s.time ∧ u.queues = s.queues) ∧
        (x.pump ≤ slope → ∀ q n, x.pumpQueues = [(q, n)] → 0 < n →
          (u.queue q).energy = (s.queue q).energy + energy / 1000))) ∧
    (∀ d shares, let x := s.die d
      let fall := ((shares.filter fun q => x.ended.contains q.1).map (·.2)).sum
      let u := s.startRamp d shares
      (u.die d).ended = [] ∧ (∀ e, e ≠ d → u.die e = s.die e) ∧ u.teams = s.teams ∧ u.mem = s.mem ∧
        (u.die d).pump = if p.pumpen = true ∧ (x.pump ≠ 0 ∨ min 200 (max 5 p.slope) < fall) then
          min (x.pump + fall) (Config.fillerAmps * (s.idleArrays d).length) else x.pump) ∧
    (∀ d c, c ∈ s.idleArrays d ↔ c / 192 = d ∧ (s.cluster (colOf c)).gated = false ∧ (s.core c).arrq = []) ∧
    (∀ rs, let xs := rs.filter fun r => isSensor r.1
      (s.time % 10000 ≠ 0 ∨ s.plat.off = true → exec (.tempSample rs) s = .next s) ∧
      (s.time % 10000 = 0 → s.plat.off = false →
        (∀ n t, tripped xs p.ttrip = some (n, t) → exec (.tempSample rs) s = .next (s.trip n t) ∧
          (s.launchRegs.room = false → exec (.tempSample rs) s = .next (s.fatal 8))) ∧
        (tripped xs p.ttrip = none → ∃ u, exec (.tempSample rs) s = .next u ∧
          (∀ n t, 1032 ≤ n → xs.reverse.find? (fun r => r.1 == n) = some (n, t) → Tab.get? u.power.sramTemp n = some t) ∧
          ((∀ d < 4, ∀ k < 2, let n := sramSensor d k
              (reading xs n (Tab.getD p.sramTemp n 0)).toInt ≤ (s.die d).wretire.toInt) →
            let listed := fun c => xs.any fun r => r.1 == c
            let fresh := fun c => c < 768 ∧ listed c = true ∧ (s.core c).hot = false ∧ p.thot.toInt < (reading xs c 0).toInt
            (s.blocks = [] ∨ ∀ c, ¬ fresh c) →
            u = { s with cores := u.cores, clusters := u.clusters, power := { p with sramTemp := u.power.sramTemp, coolFrom := u.power.coolFrom } } ∧
            (∀ c, 768 ≤ c ∨ listed c = false → u.core c = s.core c) ∧
            (∀ c < 768, listed c = true → (u.core c).temp = reading xs c 0 ∧
              ((u.core c).hot = true ↔ p.thot.toInt < (reading xs c 0).toInt)) ∧
            (∀ col, { u.cluster col with noTarget := (s.cluster col).noTarget } = s.cluster col) ∧
            ∀ c, fresh c → (u.cluster (colOf c)).noTarget = true)))) ∧
    (∀ w : Word64,
      (p.stpEn = false → exec (.stpFrame w) s = .next s) ∧
      (p.stpEn = true → s.plat.off = false →
        (frameValid w.toNat = false → exec (.stpFrame w) s = .next { s with power := { p with crcerr := min (p.crcerr + 1) 65535 } }) ∧
        (frameValid w.toNat = true → bitAt w.toNat 8 = true → ∃ u, exec (.stpFrame w) s = .next u ∧ u.power.cap = p.cap ∧
          u.power.valid = (p.valid + 1) % 65536 ∧ u.power.stplast = w ∧ u = { s with power := u.power }) ∧
        (frameValid w.toNat = true → bitAt w.toNat 8 = false →
          let q := p.measureFrame (bitsAt w.toNat 27 17) (bitsAt w.toNat 11 16) (bitAt w.toNat 10)
          q.fits q.estimate = true → ∃ u, exec (.stpFrame w) s = .next u ∧ u.power.cap = q.cap ∧ u.power.frameFrac = q.fraction ∧ u.power.freq = q.freq ∧
            u.power.lastAt = s.time ∧ u.power.lost = false ∧ u.power.shed = p.shed ∧
            u.power.clampTarget = (if 2250 < q.drawAt p.clampTarget then max p.clampTarget q.clampGoal else p.clampTarget) ∧
            u = { s with power := u.power }))) ∧
    exec .stpLossTimeout s = .next (if p.stpEn = true ∧ p.lost = false ∧ p.lastAt + 500000 ≤ s.time then
      { s with power := { p with lost := true, lostAt := s.time } } else s) ∧
    (p.stpEn = true → p.lost = true → p.lostAt + p.lossms * 1000000 ≤ s.time →
      exec .stpLossHoldExpiry s = .next ({ s with power := { p with cap := min p.frameFrac p.lossfrac } } : State).react ∧
      (s.blocks = [] → ∃ u, exec .stpLossHoldExpiry s = .next u ∧ u.power.cap = min p.frameFrac p.lossfrac)) ∧
    (p.clamp = p.clampTarget ∨ s.time < p.clampAt + 1000 → exec .clampStep s = .next s) ∧
    (p.clamp ≠ p.clampTarget → p.clampAt + 1000 ≤ s.time → exec .clampStep s = .next { s with power := { p with
      clamp := if p.clamp < p.clampTarget then p.clamp + 1 else p.clamp - 1, clampAt := s.time } }) ∧
    exec .clampLower s = .next (if 0 < p.clamp ∧ p.clamp = p.clampTarget ∧ p.lowerAt + 100000 ≤ s.time ∧ p.levelFits (p.clamp - 1) = true
      then { s with power := { p with clampTarget := p.clamp - 1, lowerAt := s.time } } else s) ∧
    (∀ cls t, cls < 8 → p.shed.getLsbD cls = true → (∀ c < cls, p.shed.getLsbD c = false) → Tab.get? p.holdFrom cls = some t →
      t + 100000000 ≤ s.time → p.rampAt = none → p.restoreAt + 10000000 ≤ s.time →
      105 * 1024 * (p.estimate + Tab.getD p.shedDraw cls 0) ≤ 100 * p.cap * p.pbudget → s.blocks = [] →
      ∃ u, exec (.classRestore cls) s = .next u ∧ u.power.restoreAt = s.time ∧
        ∀ c < 8, u.power.shed.getLsbD c = (p.shed.getLsbD c && c != cls)) ∧
    (∀ cls, (p.shed.getLsbD cls = false ∨ ∃ c < cls, p.shed.getLsbD c = true) → exec (.classRestore cls) s = .next s)

/-! ## Resets, the start and the sideband -/

/-- R212, R213, R334 to R336, R339: a warm reset by whatever way halts the teams and asks for the host's copies of device
memory and the dirty lines of the host, and once none is left leaves the device wiped with its registers at their reset
values, host and peer memory as they are, and what firmware, fuses and flash hold; a fatal reset loses those lines. A start
goes on step by step, each stopping for its own reasons; a step that stops is recorded, and after three failures in a row the
device is in minimal mode, else it retries with a wipe of its own. What survives a reset is partly a reading of the model (log
entry 58), and so are the life cycle's change at the wipe (log entry 81), the halt and the wait before a wipe (log entry 82) and
which lines a fatal reset loses (log entry 74). The values that the spec does not give for reset are log entry 6 (DESIGN CHOICE), the
check of an image log entry 2, and that step 2's reason 3 is an argument of the step log entry 107 (DESIGN CHOICE). -/
def Obligations.ResetsAndStart : Prop :=
  ∀ (s : State),
    let p := s.plat
    let w := State.reset
    let bare := fun (u : State) => u.queues = [] ∧ u.teams = [] ∧ u.blocks = [] ∧ u.msgs = [] ∧ u.mem = [] ∧ u.dir = [] ∧
      u.filter = [] ∧ u.cores = [] ∧ u.copies = [] ∧ u.launchRegs = w.launchRegs ∧ u.trans = w.trans ∧ u.pool = w.pool ∧
      u.power = w.power ∧ u.clusters = [] ∧ u.time = 0 ∧
      (∀ d < 4, (u.die d).chain = [] ∧ (u.die d).tiles = [] ∧ (u.die d).lines = [] ∧ (u.die d).frecs = [] ∧
        (u.die d).retired = (s.die d).repair ∧ (u.die d).repair = (s.die d).repair ∧ (u.die d).seed = BitVec.ofNat 64 (d + 1)) ∧
      u.plat.lc = p.lc ∧ u.plat.sigIndex = p.sigIndex ∧ u.plat.wiping = true ∧ u.plat.booting = true ∧ u.plat.hdmbase = 0 ∧
      u.plat.minimal = false ∧ u.plat.peertab = [] ∧ u.plat.peerEn = false ∧ u.plat.warming = false ∧ u.plat.incoming = none ∧
      u.plat.flash = (if p.incoming.isSome then none else p.flash) ∧ u.plat.boot = u.plat.flash ∧ u.hostMem = s.hostMem ∧
      u.peerMem = s.peerMem
    (∀ i, (i = .resetctlWarmReset ∧ p.minimal = false ∨ i = .cxlReset ∨ i = .secondaryBusReset ∨ i = .wipe ∧ p.sbBusy = false) →
      let s0 := if i = .wipe then s.emit (.sideband [0]) else s
      (p.off = true → exec i s = .next s) ∧
      (p.off = false → s0.halted.mayWipe = true → ∃ u, exec i s = .next u ∧ bare u ∧ u.plat.lostLines = [] ∧
        u.plat.reason = p.reason ∧ u.plat.fails = p.fails ∧ u.plat.lcNext = p.lcNext ∧ u.out = s0.out) ∧
      (p.off = false → s0.halted.mayWipe = false → ∃ u, exec i s = .next u ∧ u = { s0.halted with dir := u.dir } ∧
        u.teams = [] ∧ u.blocks = [] ∧ u.queues = [] ∧ u.plat.warming = true ∧ u.plat.wiping = p.wiping ∧
        (∀ l ∈ s0.halted.hostHeld, ∃ r, (r ∈ (u.dirEnt l).queue ∨ (u.dirEnt l).cur = some r) ∧ r.op = .recall) ∧
        ∀ l ∈ s0.halted.dirtyHost, ∃ r, (r ∈ (u.dirEnt l).queue ∨ (u.dirEnt l).cur = some r) ∧ r.op = .reclaim)) ∧
    (p.minimal = true → exec .resetctlWarmReset s = .next s) ∧
    (p.off = true → exec .fatalReset s = .next s) ∧
    (p.off = false → ∃ u, exec .fatalReset s = .next u ∧ bare u ∧ u.plat.lostLines = s.lostHost ∧ u.plat.reason = p.reason ∧
      u.out = s.out) ∧
    (∃ u, exec .coldReset s = .next u ∧ bare u ∧ u.plat.reason = 0 ∧ u.plat.fails = 0 ∧ u.plat.off = false ∧
      u.plat.lcNext = none) ∧
    (∃ u, exec .powerLoss s = .next u ∧ bare u ∧ u.plat.off = true) ∧
    exec .wipeComplete s = .next (if p.off = true ∨ p.wiping = false then s
      else { s with mem := [], dir := [], plat := { p with wiping := false, lc := p.lcNext.getD p.lc, lcNext := none } }) ∧
    let late := p.trainFrom + 1000000000 ≤ s.time
    (p.booting = true → p.off = false → ∀ step reason faulty, step = p.step + 1 →
      (step = 2 → p.imageValid = false → exec (.startUp 2 reason faulty) s = .next (s.startFails 2 2)) ∧
      (step = 5 → late → exec (.startUp 5 reason faulty) s = .next (s.startFails 5 7)) ∧
      (step = 3 → reason ≠ 4 → faulty = [] → (∃ d < 4, (s.die d).liveBanks < 896) →
        exec (.startUp 3 reason faulty) s = .next (s.startFails 3 5)) ∧
      ((step = 1 ∧ (reason = 1 ∨ reason = 9) ∨ step = 2 ∧ p.imageValid = true ∧ reason = 3 ∨ step = 3 ∧ reason = 4 ∧ faulty = [] ∨
          step = 4 ∧ p.wiping = true ∧ reason = 6) → exec (.startUp step reason faulty) s = .next (s.startFails step reason)) ∧
      (reason ≠ 0 → (step = 1 ∧ reason ≠ 1 ∧ reason ≠ 9 ∨ step = 2 ∧ p.imageValid = true ∧ reason ≠ 3 ∨
          step = 4 ∧ (p.wiping = false ∨ reason ≠ 6) ∨ step = 5 ∧ ¬ late) → exec (.startUp step reason faulty) s = .next s) ∧
      (reason = 0 → step ∈ [1, 2] → (step = 2 → p.imageValid = true) →
        exec (.startUp step reason faulty) s = .next { s with plat := { p with step } }) ∧
      (reason = 0 → step = 4 → p.wiping = true → exec (.startUp step reason faulty) s = .next s) ∧
      (reason = 0 → step = 4 → p.wiping = false →
        exec (.startUp step reason faulty) s = .next { s with plat := { p with step := 4, trainFrom := s.time } }) ∧
      (reason = 0 → step = 5 → ¬ late → exec (.startUp step reason faulty) s = .next { s with plat := { p with
        step := 5, stopped := 5, booting := false, fails := 0, starts := p.starts + 1 } }) ∧
      (reason = 0 → step = 3 → faulty = [] → (∀ d < 4, 896 ≤ (s.die d).liveBanks) →
        exec (.startUp step reason faulty) s = .next { s with plat := { p with step := 3 } }) ∧
      ∀ d bank, reason = 0 → step = 3 → faulty = [(d, bank)] → d < 4 → bank < 1024 → bank ∉ (s.die d).repair →
        bank ∉ (s.die d).retired → (s.die d).retired.length < 127 → (∀ e < 4, 896 ≤ (s.die e).liveBanks) →
        ∃ u, exec (.startUp step reason faulty) s = .next u ∧ (u.die d).retired = (s.die d).retired ++ [bank] ∧ u.plat.step = 3) ∧
    (p.imageValid = true ↔ ∃ image, p.boot = some image ∧ Config.imageVerifies image = true) ∧
    exec .cxlTrainTimeout s = .next (if p.booting = true ∧ p.step = 4 ∧ p.trainFrom + 1000000000 ≤ s.time then s.startFails 5 7
      else s) ∧
    (∀ step reason, let u := s.startFails step reason
      u.plat.fails = min (p.fails + 1) 255 ∧ u.plat.reason = reason ∧
      u.plat.stopped = step ∧ u.plat.wiping = true ∧ (u.plat.minimal = true ↔ 2 ≤ p.fails) ∧ (u.plat.booting = true ↔ p.fails < 2) ∧
      u = { s with plat := u.plat })

/-- R332 to R338: a request on the sideband of a package with supply: a busy service answers 1; Status, Reason and the
sensors are read; a whole image that verifies is on its way to flash; an attestation takes the next signature index, and none past 65,535;
a transition needs its token and a step that the life cycle allows, and takes effect with a wipe. R328: an aligned word of
8 bytes writes a register of the BAR or carries out its command, and none does while the BAR is not served (log entry 80). The
wait of a transition for the host's and the device's dirty lines is log entry 82. Sensor
numbers, the layouts of answers, verification and the order of a
transition's answers are the model's choices (log entries 2, 3, 4, 54 and 59). -/
def Obligations.SidebandAndRegisters : Prop :=
  ∀ (s : State) (msg : List Byte) (n target : Nat) (nonce : BitVec 256) (off : Nat) (val : Word64),
    let p := s.plat
    let requests := [Instr.status, .reason, .wipe, .mctpControl msg, .pldmSensorRead n, .firmwareUpdate msg, .attest nonce,
      .transition target msg]
    (p.off = true → ∀ i ∈ requests, exec i s = .next s) ∧
    (p.off = false → p.sbBusy = true → ∀ i ∈ requests, exec i s = .next (s.emit (.sideband [1]))) ∧
    (p.off = false → p.sbBusy = false →
      exec .status s = .next (s.emit (.sideband (0 :: toBytes 8 p.statusWord ++ toBytes 8 p.starts))) ∧
      exec .reason s = .next (s.emit (.sideband (0 :: toBytes 1 p.reason ++ toBytes 1 p.fails ++
        toBytes 1 (if p.booting = true ∧ 0 < p.step then p.step else p.stopped)))) ∧
      exec (.mctpControl msg) s = .next (s.emit (.mctp (Config.mctpAnswer msg))) ∧
      (∃ u v, exec (.pldmSensorRead n) s = .next u ∧ u = { s with out := .sensor n v :: s.out, free := s.free + 1 } ∧
        (n < 768 → v = (s.core n).temp.toNat) ∧ (768 ≤ n → n < 864 → v = s.supply (n - 768)) ∧ (n = 865 → v = s.power.freq) ∧
        (n = 866 → v = s.power.vbus)) ∧
      (Config.imageVerifies msg = true →
        exec (.firmwareUpdate msg) s = .next { s with plat := { p with incoming := some msg } }) ∧
      (Config.imageVerifies msg = false → exec (.firmwareUpdate msg) s = .next s) ∧
      (65536 ≤ p.sigIndex → exec (.attest nonce) s = .next (s.emit (.sideband [4]))) ∧
      (p.sigIndex < 65536 → ∃ u bytes, exec (.attest nonce) s = .next u ∧ bytes.length = 2829 ∧
        u = { s with out := .sideband bytes :: s.out, plat := { p with sigIndex := p.sigIndex + 1 } } ∧
        bytes.take 33 = 0 :: toBytes 32 nonce.toNat ∧ (bytes.drop 129).take 8 = toBytes 4 p.lc ++ toBytes 4 p.sigIndex) ∧
      (Config.tokenVerifies p.image p.lc target msg = false → exec (.transition target msg) s = .next (s.emit (.sideband [5]))) ∧
      (Config.tokenVerifies p.image p.lc target msg = true → lifeCycleAllows p.lc target = false →
        exec (.transition target msg) s = .next (s.emit (.sideband [2]))) ∧
      (Config.tokenVerifies p.image p.lc target msg = true → lifeCycleAllows p.lc target = true →
        let s0 : State := { s.emit (.sideband [0]) with plat := { p with lcNext := some target } }
        ∃ u, exec (.transition target msg) s = .next u ∧ u.plat.lcNext = some target ∧ u.plat.lc = p.lc ∧ u.teams = [] ∧
          u.out = .sideband [0] :: s.out ∧ (s0.halted.mayWipe = true → u.plat.wiping = true ∧ u.mem = []) ∧
          (s0.halted.mayWipe = false → u.plat.warming = true)) ∧
      (lifeCycleAllows p.lc target = true ↔ (p.lc, target) ∈ [(0, 1), (1, 2), (1, 3), (2, 3), (3, 1)])) ∧
    ((s.up = false ∨ off % 8 ≠ 0) → exec (.registerWrite off val) s = .next s) ∧ (n ≠ 8 → s.regWrite off n val = s) ∧
    (s.up = true → bitsAt val.toNat 60 4 = 1 →
      exec (.registerWrite 0x18 val) s = exec .resetctlWarmReset s ∧
      exec (.registerWrite 0x100008 val) s = exec (.qcmdEnable (bitsAt val.toNat 0 17)) s ∧
      exec (.registerWrite 0x200010 val) s = exec (.invcmdPage (bitsAt val.toNat 32 16) s.trans.invva (bitsAt val.toNat 48 2)) s ∧
      (∀ d < 4, exec (.registerWrite (0x300000 + 0x10000 * d) val) s = exec (.fcmdReplayRecord d (bitsAt val.toNat 0 12)) s) ∧
      exec (.registerWrite 0x500020 val) s = exec (.frzcmdFreezeBlock (bitsAt val.toNat 0 17)) s ∧
      ∀ col < 96, exec (.registerWrite (0x600010 + 0x1000 * col) val) s = exec (.dbgrunStop col (bitsAt val.toNat 0 8)) s) ∧
    (s.up = true → exec (.registerWrite 0x100040 val) s = exec (.evtailWrite val) s) ∧
    (s.up = true →
      (∃ u, exec (.registerWrite 0x10 val) s = .next u ∧ u.regRead 0x10 = bitsAt val.toNat 30 34 * 2 ^ 30) ∧
      (∃ u, exec (.registerWrite 0x100000 val) s = .next u ∧ u.regRead 0x100000 = bitsAt val.toNat 12 40 * 4096) ∧
      (∃ u, exec (.registerWrite 0x200000 val) s = .next u ∧ u.regRead 0x200000 = bitsAt val.toNat 12 40 * 4096 + bitsAt val.toNat 0 1) ∧
      (s.framesUsed = 0 → ∃ u, exec (.registerWrite 0x500010 val) s = .next u ∧ u.pool.saveva = bitsAt val.toNat 22 42 * 2 ^ 22) ∧
      (s.framesUsed ≠ 0 → exec (.registerWrite 0x500010 val) s = .next s) ∧
      (∀ d < 4, val ≠ 0 → ∃ u, exec (.registerWrite (0x100010 + 8 * d) val) s = .next u ∧ (u.die d).seed = val) ∧
      (∀ d < 4, ∃ u, exec (.registerWrite (0x4000A0 + 0x10000 * d) val) s = .next u ∧
        (u.die d).wretire = BitVec.ofNat 16 val.toNat ∧ (u.die d).wrestore = BitVec.ofNat 16 (bitsAt val.toNat 16 16)) ∧
      (∀ col < 96, ∃ u, exec (.registerWrite (0x600008 + 0x1000 * col) val) s = .next u ∧ (u.cluster col).dbg.entry = val) ∧
      (∃ u, exec (.registerWrite 0x700028 val) s = .next u ∧ u.power.pumpen = val.getLsbD 63 ∧ u.power.slope = val.toNat % 256) ∧
      (val.getLsbD 63 = false → ∃ u, exec (.registerWrite 0x700000 val) s = .next u ∧ u.power.cap = 1024 ∧ u.power.stpEn = false) ∧
      ∀ i < 1024, ∃ u, exec (.registerWrite (0xA00400 + 8 * i) val) s = .next u ∧
        Tab.get? u.plat.peertab i = some (val.getLsbD 63, val.toNat % 1024))
end

