-- ==== Sys2Proof/Laws/Tables.lean ====
section
/-! SUPPORT. Sparse tables and memories: what a read gives after a write, and the canonical form of memory. -/

namespace Sys2Proof.Machine

theorem Tab.get?_put {α : Type} (t : Tab α) (x : Nat) (a : α) (y : Nat) :
    Tab.get? (Tab.put t x a) y = if x = y then some a else Tab.get? t y := by
  induction t with
  | nil => simp [Tab.put, Tab.get?]
  | cons e t ih =>
    obtain ⟨k, b⟩ := e
    unfold Tab.put
    by_cases h1 : x < k
    · simp only [h1, if_true, Tab.get?]
    · by_cases h2 : x = k
      · subst h2; simp only [h1, if_false, if_true, Tab.get?]; split_ifs <;> rfl
      · simp only [h1, h2, if_false, Tab.get?, ih]; split_ifs <;> simp_all

@[simp] theorem Tab.get?_put_same {α : Type} (t : Tab α) (x : Nat) (a : α) : Tab.get? (Tab.put t x a) x = some a := by
  simp [Tab.get?_put]

theorem Tab.get?_put_other {α : Type} (t : Tab α) (x : Nat) (a : α) {y : Nat} (h : y ≠ x) :
    Tab.get? (Tab.put t x a) y = Tab.get? t y := by
  simp [Tab.get?_put, Ne.symm h]

@[simp] theorem Tab.getD_put_same {α : Type} (t : Tab α) (x : Nat) (a d : α) : Tab.getD (Tab.put t x a) x d = a := by
  simp [Tab.getD]

theorem Tab.getD_put_other {α : Type} (t : Tab α) (x : Nat) (a d : α) {y : Nat} (h : y ≠ x) :
    Tab.getD (Tab.put t x a) y d = Tab.getD t y d := by
  simp [Tab.getD, Tab.get?_put_other t x a h]

theorem Tab.get?_del {α : Type} (t : Tab α) (x y : Nat) :
    Tab.get? (Tab.del t x) y = if x = y then none else Tab.get? t y := by
  induction t with
  | nil => simp [Tab.del, Tab.get?]
  | cons e t ih =>
    obtain ⟨k, b⟩ := e
    unfold Tab.del at ih ⊢
    by_cases h : k = x
    · subst h; simp only [List.filter, bne_self_eq_false, Tab.get?]; rw [ih]; split_ifs <;> rfl
    · have : (k != x) = true := by simpa using h
      simp only [List.filter, this, Tab.get?, ih]
      split_ifs <;> simp_all

theorem Tab.get?_mapVal {α : Type} (t : Tab α) (f : Nat → α → α) (y : Nat) :
    Tab.get? (Tab.mapVal t f) y = (Tab.get? t y).map (f y) := by
  induction t with
  | nil => rfl
  | cons e t ih =>
    obtain ⟨k, b⟩ := e
    unfold Tab.mapVal at ih ⊢
    simp only [List.map_cons, Tab.get?, ih]
    split_ifs with h
    · subst h; rfl
    · rfl

/-! ## Memory -/

/-- A read after a write. -/
theorem Memory.read_write (m : Memory) (a : Nat) (b : Byte) (x : Nat) :
    (m.write a b).read x = if a = x then b else m.read x := by
  unfold Memory.write Memory.read
  split_ifs with h h1 h1
  · simp [Tab.get?_del, h1, h]
  · simp [Tab.get?_del, h1]
  · simp [h1]
  · simp [Tab.get?_put, h1]

theorem Memory.wfFrom_mono {m : Memory} {lo lo' : Nat} (h : lo' ≤ lo) (hm : Memory.wfFrom lo m = true) :
    Memory.wfFrom lo' m = true := by
  cases m with
  | nil => rfl
  | cons e t =>
    obtain ⟨a, b⟩ := e
    simp only [Memory.wfFrom, Bool.and_eq_true, decide_eq_true_eq] at hm ⊢
    exact ⟨⟨by omega, hm.1.2⟩, hm.2⟩

theorem Memory.wfFrom_put {m : Memory} {lo a : Nat} {b : Byte} (hb : b ≠ 0) (ha : lo ≤ a)
    (hm : Memory.wfFrom lo m = true) : Memory.wfFrom lo (Tab.put m a b) = true := by
  induction m generalizing lo with
  | nil => simpa [Tab.put, Memory.wfFrom, ha] using hb
  | cons e t ih =>
    obtain ⟨k, c⟩ := e
    simp only [Memory.wfFrom, Bool.and_eq_true, decide_eq_true_eq] at hm
    unfold Tab.put
    split_ifs with h1 h2
    · simp only [Memory.wfFrom, Bool.and_eq_true, decide_eq_true_eq]
      exact ⟨⟨ha, hb⟩, ⟨by omega, hm.1.2⟩, hm.2⟩
    · subst h2
      simp only [Memory.wfFrom, Bool.and_eq_true, decide_eq_true_eq]
      exact ⟨⟨ha, hb⟩, hm.2⟩
    · simp only [Memory.wfFrom, Bool.and_eq_true, decide_eq_true_eq]
      exact ⟨hm.1, ih (by omega) hm.2⟩

theorem Memory.wfFrom_del {m : Memory} {lo : Nat} (a : Nat) (hm : Memory.wfFrom lo m = true) :
    Memory.wfFrom lo (Tab.del m a) = true := by
  induction m generalizing lo with
  | nil => rfl
  | cons e t ih =>
    obtain ⟨k, c⟩ := e
    simp only [Memory.wfFrom, Bool.and_eq_true, decide_eq_true_eq] at hm
    have ht := ih hm.2
    unfold Tab.del at ht ⊢
    simp only [List.filter]
    split
    · simp only [Memory.wfFrom, Bool.and_eq_true, decide_eq_true_eq]; exact ⟨hm.1, ht⟩
    · exact Memory.wfFrom_mono (by omega) ht

/-- A write keeps the canonical form. -/
theorem Memory.wf_write {m : Memory} (a : Nat) (b : Byte) (hm : m.wf = true) : (m.write a b).wf = true := by
  unfold Memory.write Memory.wf at *
  split_ifs with h
  · exact Memory.wfFrom_del a hm
  · exact Memory.wfFrom_put h (Nat.zero_le a) hm

theorem Memory.wf_writeN {m : Memory} (a : Nat) (bs : List Byte) (hm : m.wf = true) : (m.writeN a bs).wf = true := by
  induction bs generalizing m a with
  | nil => exact hm
  | cons b bs ih => exact ih (a + 1) (Memory.wf_write a b hm)

theorem Memory.wf_writeMasked {m : Memory} (a : Nat) (d : LineData) (mask : BitVec 128) (hm : m.wf = true) :
    (writeMasked m a d mask).wf = true := by
  unfold writeMasked
  generalize List.range 128 = is
  induction is generalizing m with
  | nil => exact hm
  | cons i is ih =>
    simp only [List.foldl_cons]
    split
    · exact ih (Memory.wf_write _ _ hm)
    · exact ih hm

/-- Memory's one write of a line keeps the canonical form. -/
theorem State.MemoryOk.homeWrite {s : State} (h : s.MemoryOk) (pl : Nat) (d : LineData) (mask : BitVec 128) :
    (s.homeWrite pl d mask).MemoryOk := by
  obtain ⟨h1, h2, h3⟩ := h
  unfold State.homeWrite State.MemoryOk
  split_ifs
  · have := Memory.wf_writeMasked (pl * 128) d mask h1
    with_reducible exact ⟨this, h2, h3⟩
  · have := Memory.wf_writeMasked ((pl - 2 ^ 44) * 128) d mask h2
    with_reducible exact ⟨h1, this, h3⟩
  · have := Memory.wf_writeMasked (s.peerSpot pl) d mask h3
    with_reducible exact ⟨h1, h2, this⟩

end Sys2Proof.Machine
end

