-- ==== Sys2Proof/Laws/State.lean ====
section
/-! SUPPORT. What each update of the state leaves in each field, and in what the accessors read. -/

namespace Sys2Proof.Machine

/-! ## setTeam -/

@[simp] theorem State.setTeam_agenda (s : State) (c : Nat) (x : Team) : (s.setTeam c x).agenda = s.agenda := rfl
@[simp] theorem State.setTeam_cur (s : State) (c : Nat) (x : Team) : (s.setTeam c x).cur = s.cur := rfl
@[simp] theorem State.setTeam_pairSecond (s : State) (c : Nat) (x : Team) : (s.setTeam c x).pairSecond = s.pairSecond := rfl
@[simp] theorem State.setTeam_pairMark (s : State) (c : Nat) (x : Team) : (s.setTeam c x).pairMark = s.pairMark := rfl
@[simp] theorem State.setTeam_uid (s : State) (c : Nat) (x : Team) : (s.setTeam c x).uid = s.uid := rfl
@[simp] theorem State.setTeam_free (s : State) (c : Nat) (x : Team) : (s.setTeam c x).free = s.free := rfl
@[simp] theorem State.setTeam_time (s : State) (c : Nat) (x : Team) : (s.setTeam c x).time = s.time := rfl
@[simp] theorem State.setTeam_cycles (s : State) (c : Nat) (x : Team) : (s.setTeam c x).cycles = s.cycles := rfl
@[simp] theorem State.setTeam_mem (s : State) (c : Nat) (x : Team) : (s.setTeam c x).mem = s.mem := rfl
@[simp] theorem State.setTeam_hostMem (s : State) (c : Nat) (x : Team) : (s.setTeam c x).hostMem = s.hostMem := rfl
@[simp] theorem State.setTeam_peerMem (s : State) (c : Nat) (x : Team) : (s.setTeam c x).peerMem = s.peerMem := rfl
@[simp] theorem State.setTeam_dir (s : State) (c : Nat) (x : Team) : (s.setTeam c x).dir = s.dir := rfl
@[simp] theorem State.setTeam_filter (s : State) (c : Nat) (x : Team) : (s.setTeam c x).filter = s.filter := rfl
@[simp] theorem State.setTeam_msgs (s : State) (c : Nat) (x : Team) : (s.setTeam c x).msgs = s.msgs := rfl
@[simp] theorem State.setTeam_draws (s : State) (c : Nat) (x : Team) : (s.setTeam c x).draws = s.draws := rfl
@[simp] theorem State.setTeam_dies (s : State) (c : Nat) (x : Team) : (s.setTeam c x).dies = s.dies := rfl
@[simp] theorem State.setTeam_cores (s : State) (c : Nat) (x : Team) : (s.setTeam c x).cores = s.cores := rfl
@[simp] theorem State.setTeam_clusters (s : State) (c : Nat) (x : Team) : (s.setTeam c x).clusters = s.clusters := rfl
@[simp] theorem State.setTeam_copies (s : State) (c : Nat) (x : Team) : (s.setTeam c x).copies = s.copies := rfl
@[simp] theorem State.setTeam_blocks (s : State) (c : Nat) (x : Team) : (s.setTeam c x).blocks = s.blocks := rfl
@[simp] theorem State.setTeam_queues (s : State) (c : Nat) (x : Team) : (s.setTeam c x).queues = s.queues := rfl
@[simp] theorem State.setTeam_fifos (s : State) (c : Nat) (x : Team) : (s.setTeam c x).fifos = s.fifos := rfl
@[simp] theorem State.setTeam_launchRegs (s : State) (c : Nat) (x : Team) : (s.setTeam c x).launchRegs = s.launchRegs := rfl
@[simp] theorem State.setTeam_trans (s : State) (c : Nat) (x : Team) : (s.setTeam c x).trans = s.trans := rfl
@[simp] theorem State.setTeam_pool (s : State) (c : Nat) (x : Team) : (s.setTeam c x).pool = s.pool := rfl
@[simp] theorem State.setTeam_power (s : State) (c : Nat) (x : Team) : (s.setTeam c x).power = s.power := rfl
@[simp] theorem State.setTeam_plat (s : State) (c : Nat) (x : Team) : (s.setTeam c x).plat = s.plat := rfl
@[simp] theorem State.setTeam_out (s : State) (c : Nat) (x : Team) : (s.setTeam c x).out = s.out := rfl
@[simp] theorem State.setTeam_die (s : State) (c : Nat) (x : Team) (i : Nat) : (s.setTeam c x).die i = s.die i := rfl
@[simp] theorem State.setTeam_core (s : State) (c : Nat) (x : Team) (i : Nat) : (s.setTeam c x).core i = s.core i := rfl
@[simp] theorem State.setTeam_cluster (s : State) (c : Nat) (x : Team) (i : Nat) : (s.setTeam c x).cluster i = s.cluster i := rfl
@[simp] theorem State.setTeam_queue (s : State) (c : Nat) (x : Team) (i : Nat) : (s.setTeam c x).queue i = s.queue i := rfl
@[simp] theorem State.setTeam_blockQ (s : State) (c : Nat) (x : Team) (i : Nat) : (s.setTeam c x).block? i = s.block? i := rfl
@[simp] theorem State.setTeam_dirEnt (s : State) (c : Nat) (x : Team) (i : Nat) : (s.setTeam c x).dirEnt i = s.dirEnt i := rfl
@[simp] theorem State.setTeam_blockOfQ (s : State) (c : Nat) (x : Team) (i : Nat) : (s.setTeam c x).blockOf? i = s.blockOf? i := rfl
@[simp] theorem State.setTeam_coreOf (s : State) (c : Nat) (x : Team) (i : Nat) : (s.setTeam c x).coreOf i = s.coreOf i := rfl
@[simp] theorem State.setTeam_asidOf (s : State) (c : Nat) (x : Team) (i : Nat) : (s.setTeam c x).asidOf i = s.asidOf i := rfl
@[simp] theorem State.setTeam_widthOf (s : State) (c : Nat) (x : Team) (i : Nat) : (s.setTeam c x).widthOf i = s.widthOf i := rfl
@[simp] theorem State.setTeam_isControl (s : State) (c : Nat) (x : Team) (i : Nat) : (s.setTeam c x).isControl i = s.isControl i := rfl
@[simp] theorem State.setTeam_dieOfCtx (s : State) (c : Nat) (x : Team) (i : Nat) : (s.setTeam c x).dieOfCtx i = s.dieOfCtx i := rfl
@[simp] theorem State.setTeam_colOfCtx (s : State) (c : Nat) (x : Team) (i : Nat) : (s.setTeam c x).colOfCtx i = s.colOfCtx i := rfl
@[simp] theorem State.setTeam_slotOf (s : State) (c : Nat) (x : Team) (i : Nat) : (s.setTeam c x).slotOf i = s.slotOf i := rfl

/-! ## setDie -/

@[simp] theorem State.setDie_agenda (s : State) (d : Nat) (x : Die) : (s.setDie d x).agenda = s.agenda := rfl
@[simp] theorem State.setDie_cur (s : State) (d : Nat) (x : Die) : (s.setDie d x).cur = s.cur := rfl
@[simp] theorem State.setDie_pairSecond (s : State) (d : Nat) (x : Die) : (s.setDie d x).pairSecond = s.pairSecond := rfl
@[simp] theorem State.setDie_pairMark (s : State) (d : Nat) (x : Die) : (s.setDie d x).pairMark = s.pairMark := rfl
@[simp] theorem State.setDie_uid (s : State) (d : Nat) (x : Die) : (s.setDie d x).uid = s.uid := rfl
@[simp] theorem State.setDie_free (s : State) (d : Nat) (x : Die) : (s.setDie d x).free = s.free := rfl
@[simp] theorem State.setDie_time (s : State) (d : Nat) (x : Die) : (s.setDie d x).time = s.time := rfl
@[simp] theorem State.setDie_cycles (s : State) (d : Nat) (x : Die) : (s.setDie d x).cycles = s.cycles := rfl
@[simp] theorem State.setDie_mem (s : State) (d : Nat) (x : Die) : (s.setDie d x).mem = s.mem := rfl
@[simp] theorem State.setDie_hostMem (s : State) (d : Nat) (x : Die) : (s.setDie d x).hostMem = s.hostMem := rfl
@[simp] theorem State.setDie_peerMem (s : State) (d : Nat) (x : Die) : (s.setDie d x).peerMem = s.peerMem := rfl
@[simp] theorem State.setDie_dir (s : State) (d : Nat) (x : Die) : (s.setDie d x).dir = s.dir := rfl
@[simp] theorem State.setDie_filter (s : State) (d : Nat) (x : Die) : (s.setDie d x).filter = s.filter := rfl
@[simp] theorem State.setDie_msgs (s : State) (d : Nat) (x : Die) : (s.setDie d x).msgs = s.msgs := rfl
@[simp] theorem State.setDie_draws (s : State) (d : Nat) (x : Die) : (s.setDie d x).draws = s.draws := rfl
@[simp] theorem State.setDie_cores (s : State) (d : Nat) (x : Die) : (s.setDie d x).cores = s.cores := rfl
@[simp] theorem State.setDie_clusters (s : State) (d : Nat) (x : Die) : (s.setDie d x).clusters = s.clusters := rfl
@[simp] theorem State.setDie_copies (s : State) (d : Nat) (x : Die) : (s.setDie d x).copies = s.copies := rfl
@[simp] theorem State.setDie_teams (s : State) (d : Nat) (x : Die) : (s.setDie d x).teams = s.teams := rfl
@[simp] theorem State.setDie_blocks (s : State) (d : Nat) (x : Die) : (s.setDie d x).blocks = s.blocks := rfl
@[simp] theorem State.setDie_queues (s : State) (d : Nat) (x : Die) : (s.setDie d x).queues = s.queues := rfl
@[simp] theorem State.setDie_fifos (s : State) (d : Nat) (x : Die) : (s.setDie d x).fifos = s.fifos := rfl
@[simp] theorem State.setDie_launchRegs (s : State) (d : Nat) (x : Die) : (s.setDie d x).launchRegs = s.launchRegs := rfl
@[simp] theorem State.setDie_trans (s : State) (d : Nat) (x : Die) : (s.setDie d x).trans = s.trans := rfl
@[simp] theorem State.setDie_pool (s : State) (d : Nat) (x : Die) : (s.setDie d x).pool = s.pool := rfl
@[simp] theorem State.setDie_power (s : State) (d : Nat) (x : Die) : (s.setDie d x).power = s.power := rfl
@[simp] theorem State.setDie_plat (s : State) (d : Nat) (x : Die) : (s.setDie d x).plat = s.plat := rfl
@[simp] theorem State.setDie_out (s : State) (d : Nat) (x : Die) : (s.setDie d x).out = s.out := rfl
@[simp] theorem State.setDie_team (s : State) (d : Nat) (x : Die) (i : Nat) : (s.setDie d x).team i = s.team i := rfl
@[simp] theorem State.setDie_core (s : State) (d : Nat) (x : Die) (i : Nat) : (s.setDie d x).core i = s.core i := rfl
@[simp] theorem State.setDie_cluster (s : State) (d : Nat) (x : Die) (i : Nat) : (s.setDie d x).cluster i = s.cluster i := rfl
@[simp] theorem State.setDie_queue (s : State) (d : Nat) (x : Die) (i : Nat) : (s.setDie d x).queue i = s.queue i := rfl
@[simp] theorem State.setDie_blockQ (s : State) (d : Nat) (x : Die) (i : Nat) : (s.setDie d x).block? i = s.block? i := rfl
@[simp] theorem State.setDie_dirEnt (s : State) (d : Nat) (x : Die) (i : Nat) : (s.setDie d x).dirEnt i = s.dirEnt i := rfl
@[simp] theorem State.setDie_blockOfQ (s : State) (d : Nat) (x : Die) (i : Nat) : (s.setDie d x).blockOf? i = s.blockOf? i := rfl
@[simp] theorem State.setDie_coreOf (s : State) (d : Nat) (x : Die) (i : Nat) : (s.setDie d x).coreOf i = s.coreOf i := rfl
@[simp] theorem State.setDie_asidOf (s : State) (d : Nat) (x : Die) (i : Nat) : (s.setDie d x).asidOf i = s.asidOf i := rfl
@[simp] theorem State.setDie_widthOf (s : State) (d : Nat) (x : Die) (i : Nat) : (s.setDie d x).widthOf i = s.widthOf i := rfl
@[simp] theorem State.setDie_isControl (s : State) (d : Nat) (x : Die) (i : Nat) : (s.setDie d x).isControl i = s.isControl i := rfl
@[simp] theorem State.setDie_dieOfCtx (s : State) (d : Nat) (x : Die) (i : Nat) : (s.setDie d x).dieOfCtx i = s.dieOfCtx i := rfl
@[simp] theorem State.setDie_colOfCtx (s : State) (d : Nat) (x : Die) (i : Nat) : (s.setDie d x).colOfCtx i = s.colOfCtx i := rfl
@[simp] theorem State.setDie_slotOf (s : State) (d : Nat) (x : Die) (i : Nat) : (s.setDie d x).slotOf i = s.slotOf i := rfl

/-! ## setCore -/

@[simp] theorem State.setCore_agenda (s : State) (c : Nat) (x : Core) : (s.setCore c x).agenda = s.agenda := rfl
@[simp] theorem State.setCore_cur (s : State) (c : Nat) (x : Core) : (s.setCore c x).cur = s.cur := rfl
@[simp] theorem State.setCore_pairSecond (s : State) (c : Nat) (x : Core) : (s.setCore c x).pairSecond = s.pairSecond := rfl
@[simp] theorem State.setCore_pairMark (s : State) (c : Nat) (x : Core) : (s.setCore c x).pairMark = s.pairMark := rfl
@[simp] theorem State.setCore_uid (s : State) (c : Nat) (x : Core) : (s.setCore c x).uid = s.uid := rfl
@[simp] theorem State.setCore_free (s : State) (c : Nat) (x : Core) : (s.setCore c x).free = s.free := rfl
@[simp] theorem State.setCore_time (s : State) (c : Nat) (x : Core) : (s.setCore c x).time = s.time := rfl
@[simp] theorem State.setCore_cycles (s : State) (c : Nat) (x : Core) : (s.setCore c x).cycles = s.cycles := rfl
@[simp] theorem State.setCore_mem (s : State) (c : Nat) (x : Core) : (s.setCore c x).mem = s.mem := rfl
@[simp] theorem State.setCore_hostMem (s : State) (c : Nat) (x : Core) : (s.setCore c x).hostMem = s.hostMem := rfl
@[simp] theorem State.setCore_peerMem (s : State) (c : Nat) (x : Core) : (s.setCore c x).peerMem = s.peerMem := rfl
@[simp] theorem State.setCore_dir (s : State) (c : Nat) (x : Core) : (s.setCore c x).dir = s.dir := rfl
@[simp] theorem State.setCore_filter (s : State) (c : Nat) (x : Core) : (s.setCore c x).filter = s.filter := rfl
@[simp] theorem State.setCore_msgs (s : State) (c : Nat) (x : Core) : (s.setCore c x).msgs = s.msgs := rfl
@[simp] theorem State.setCore_draws (s : State) (c : Nat) (x : Core) : (s.setCore c x).draws = s.draws := rfl
@[simp] theorem State.setCore_dies (s : State) (c : Nat) (x : Core) : (s.setCore c x).dies = s.dies := rfl
@[simp] theorem State.setCore_clusters (s : State) (c : Nat) (x : Core) : (s.setCore c x).clusters = s.clusters := rfl
@[simp] theorem State.setCore_copies (s : State) (c : Nat) (x : Core) : (s.setCore c x).copies = s.copies := rfl
@[simp] theorem State.setCore_teams (s : State) (c : Nat) (x : Core) : (s.setCore c x).teams = s.teams := rfl
@[simp] theorem State.setCore_blocks (s : State) (c : Nat) (x : Core) : (s.setCore c x).blocks = s.blocks := rfl
@[simp] theorem State.setCore_queues (s : State) (c : Nat) (x : Core) : (s.setCore c x).queues = s.queues := rfl
@[simp] theorem State.setCore_fifos (s : State) (c : Nat) (x : Core) : (s.setCore c x).fifos = s.fifos := rfl
@[simp] theorem State.setCore_launchRegs (s : State) (c : Nat) (x : Core) : (s.setCore c x).launchRegs = s.launchRegs := rfl
@[simp] theorem State.setCore_trans (s : State) (c : Nat) (x : Core) : (s.setCore c x).trans = s.trans := rfl
@[simp] theorem State.setCore_pool (s : State) (c : Nat) (x : Core) : (s.setCore c x).pool = s.pool := rfl
@[simp] theorem State.setCore_power (s : State) (c : Nat) (x : Core) : (s.setCore c x).power = s.power := rfl
@[simp] theorem State.setCore_plat (s : State) (c : Nat) (x : Core) : (s.setCore c x).plat = s.plat := rfl
@[simp] theorem State.setCore_out (s : State) (c : Nat) (x : Core) : (s.setCore c x).out = s.out := rfl
@[simp] theorem State.setCore_team (s : State) (c : Nat) (x : Core) (i : Nat) : (s.setCore c x).team i = s.team i := rfl
@[simp] theorem State.setCore_die (s : State) (c : Nat) (x : Core) (i : Nat) : (s.setCore c x).die i = s.die i := rfl
@[simp] theorem State.setCore_cluster (s : State) (c : Nat) (x : Core) (i : Nat) : (s.setCore c x).cluster i = s.cluster i := rfl
@[simp] theorem State.setCore_queue (s : State) (c : Nat) (x : Core) (i : Nat) : (s.setCore c x).queue i = s.queue i := rfl
@[simp] theorem State.setCore_blockQ (s : State) (c : Nat) (x : Core) (i : Nat) : (s.setCore c x).block? i = s.block? i := rfl
@[simp] theorem State.setCore_dirEnt (s : State) (c : Nat) (x : Core) (i : Nat) : (s.setCore c x).dirEnt i = s.dirEnt i := rfl
@[simp] theorem State.setCore_blockOfQ (s : State) (c : Nat) (x : Core) (i : Nat) : (s.setCore c x).blockOf? i = s.blockOf? i := rfl
@[simp] theorem State.setCore_coreOf (s : State) (c : Nat) (x : Core) (i : Nat) : (s.setCore c x).coreOf i = s.coreOf i := rfl
@[simp] theorem State.setCore_asidOf (s : State) (c : Nat) (x : Core) (i : Nat) : (s.setCore c x).asidOf i = s.asidOf i := rfl
@[simp] theorem State.setCore_widthOf (s : State) (c : Nat) (x : Core) (i : Nat) : (s.setCore c x).widthOf i = s.widthOf i := rfl
@[simp] theorem State.setCore_isControl (s : State) (c : Nat) (x : Core) (i : Nat) : (s.setCore c x).isControl i = s.isControl i := rfl
@[simp] theorem State.setCore_dieOfCtx (s : State) (c : Nat) (x : Core) (i : Nat) : (s.setCore c x).dieOfCtx i = s.dieOfCtx i := rfl
@[simp] theorem State.setCore_colOfCtx (s : State) (c : Nat) (x : Core) (i : Nat) : (s.setCore c x).colOfCtx i = s.colOfCtx i := rfl
@[simp] theorem State.setCore_slotOf (s : State) (c : Nat) (x : Core) (i : Nat) : (s.setCore c x).slotOf i = s.slotOf i := rfl

/-! ## setCluster -/

@[simp] theorem State.setCluster_agenda (s : State) (c : Nat) (x : Cluster) : (s.setCluster c x).agenda = s.agenda := rfl
@[simp] theorem State.setCluster_cur (s : State) (c : Nat) (x : Cluster) : (s.setCluster c x).cur = s.cur := rfl
@[simp] theorem State.setCluster_pairSecond (s : State) (c : Nat) (x : Cluster) : (s.setCluster c x).pairSecond = s.pairSecond := rfl
@[simp] theorem State.setCluster_pairMark (s : State) (c : Nat) (x : Cluster) : (s.setCluster c x).pairMark = s.pairMark := rfl
@[simp] theorem State.setCluster_uid (s : State) (c : Nat) (x : Cluster) : (s.setCluster c x).uid = s.uid := rfl
@[simp] theorem State.setCluster_free (s : State) (c : Nat) (x : Cluster) : (s.setCluster c x).free = s.free := rfl
@[simp] theorem State.setCluster_time (s : State) (c : Nat) (x : Cluster) : (s.setCluster c x).time = s.time := rfl
@[simp] theorem State.setCluster_cycles (s : State) (c : Nat) (x : Cluster) : (s.setCluster c x).cycles = s.cycles := rfl
@[simp] theorem State.setCluster_mem (s : State) (c : Nat) (x : Cluster) : (s.setCluster c x).mem = s.mem := rfl
@[simp] theorem State.setCluster_hostMem (s : State) (c : Nat) (x : Cluster) : (s.setCluster c x).hostMem = s.hostMem := rfl
@[simp] theorem State.setCluster_peerMem (s : State) (c : Nat) (x : Cluster) : (s.setCluster c x).peerMem = s.peerMem := rfl
@[simp] theorem State.setCluster_dir (s : State) (c : Nat) (x : Cluster) : (s.setCluster c x).dir = s.dir := rfl
@[simp] theorem State.setCluster_filter (s : State) (c : Nat) (x : Cluster) : (s.setCluster c x).filter = s.filter := rfl
@[simp] theorem State.setCluster_msgs (s : State) (c : Nat) (x : Cluster) : (s.setCluster c x).msgs = s.msgs := rfl
@[simp] theorem State.setCluster_draws (s : State) (c : Nat) (x : Cluster) : (s.setCluster c x).draws = s.draws := rfl
@[simp] theorem State.setCluster_dies (s : State) (c : Nat) (x : Cluster) : (s.setCluster c x).dies = s.dies := rfl
@[simp] theorem State.setCluster_cores (s : State) (c : Nat) (x : Cluster) : (s.setCluster c x).cores = s.cores := rfl
@[simp] theorem State.setCluster_copies (s : State) (c : Nat) (x : Cluster) : (s.setCluster c x).copies = s.copies := rfl
@[simp] theorem State.setCluster_teams (s : State) (c : Nat) (x : Cluster) : (s.setCluster c x).teams = s.teams := rfl
@[simp] theorem State.setCluster_blocks (s : State) (c : Nat) (x : Cluster) : (s.setCluster c x).blocks = s.blocks := rfl
@[simp] theorem State.setCluster_queues (s : State) (c : Nat) (x : Cluster) : (s.setCluster c x).queues = s.queues := rfl
@[simp] theorem State.setCluster_fifos (s : State) (c : Nat) (x : Cluster) : (s.setCluster c x).fifos = s.fifos := rfl
@[simp] theorem State.setCluster_launchRegs (s : State) (c : Nat) (x : Cluster) : (s.setCluster c x).launchRegs = s.launchRegs := rfl
@[simp] theorem State.setCluster_trans (s : State) (c : Nat) (x : Cluster) : (s.setCluster c x).trans = s.trans := rfl
@[simp] theorem State.setCluster_pool (s : State) (c : Nat) (x : Cluster) : (s.setCluster c x).pool = s.pool := rfl
@[simp] theorem State.setCluster_power (s : State) (c : Nat) (x : Cluster) : (s.setCluster c x).power = s.power := rfl
@[simp] theorem State.setCluster_plat (s : State) (c : Nat) (x : Cluster) : (s.setCluster c x).plat = s.plat := rfl
@[simp] theorem State.setCluster_out (s : State) (c : Nat) (x : Cluster) : (s.setCluster c x).out = s.out := rfl
@[simp] theorem State.setCluster_team (s : State) (c : Nat) (x : Cluster) (i : Nat) : (s.setCluster c x).team i = s.team i := rfl
@[simp] theorem State.setCluster_die (s : State) (c : Nat) (x : Cluster) (i : Nat) : (s.setCluster c x).die i = s.die i := rfl
@[simp] theorem State.setCluster_core (s : State) (c : Nat) (x : Cluster) (i : Nat) : (s.setCluster c x).core i = s.core i := rfl
@[simp] theorem State.setCluster_queue (s : State) (c : Nat) (x : Cluster) (i : Nat) : (s.setCluster c x).queue i = s.queue i := rfl
@[simp] theorem State.setCluster_blockQ (s : State) (c : Nat) (x : Cluster) (i : Nat) : (s.setCluster c x).block? i = s.block? i := rfl
@[simp] theorem State.setCluster_dirEnt (s : State) (c : Nat) (x : Cluster) (i : Nat) : (s.setCluster c x).dirEnt i = s.dirEnt i := rfl
@[simp] theorem State.setCluster_blockOfQ (s : State) (c : Nat) (x : Cluster) (i : Nat) : (s.setCluster c x).blockOf? i = s.blockOf? i := rfl
@[simp] theorem State.setCluster_coreOf (s : State) (c : Nat) (x : Cluster) (i : Nat) : (s.setCluster c x).coreOf i = s.coreOf i := rfl
@[simp] theorem State.setCluster_asidOf (s : State) (c : Nat) (x : Cluster) (i : Nat) : (s.setCluster c x).asidOf i = s.asidOf i := rfl
@[simp] theorem State.setCluster_widthOf (s : State) (c : Nat) (x : Cluster) (i : Nat) : (s.setCluster c x).widthOf i = s.widthOf i := rfl
@[simp] theorem State.setCluster_isControl (s : State) (c : Nat) (x : Cluster) (i : Nat) : (s.setCluster c x).isControl i = s.isControl i := rfl
@[simp] theorem State.setCluster_dieOfCtx (s : State) (c : Nat) (x : Cluster) (i : Nat) : (s.setCluster c x).dieOfCtx i = s.dieOfCtx i := rfl
@[simp] theorem State.setCluster_colOfCtx (s : State) (c : Nat) (x : Cluster) (i : Nat) : (s.setCluster c x).colOfCtx i = s.colOfCtx i := rfl
@[simp] theorem State.setCluster_slotOf (s : State) (c : Nat) (x : Cluster) (i : Nat) : (s.setCluster c x).slotOf i = s.slotOf i := rfl

/-! ## setQueue -/

@[simp] theorem State.setQueue_agenda (s : State) (q : Nat) (x : Queue) : (s.setQueue q x).agenda = s.agenda := rfl
@[simp] theorem State.setQueue_cur (s : State) (q : Nat) (x : Queue) : (s.setQueue q x).cur = s.cur := rfl
@[simp] theorem State.setQueue_pairSecond (s : State) (q : Nat) (x : Queue) : (s.setQueue q x).pairSecond = s.pairSecond := rfl
@[simp] theorem State.setQueue_pairMark (s : State) (q : Nat) (x : Queue) : (s.setQueue q x).pairMark = s.pairMark := rfl
@[simp] theorem State.setQueue_uid (s : State) (q : Nat) (x : Queue) : (s.setQueue q x).uid = s.uid := rfl
@[simp] theorem State.setQueue_free (s : State) (q : Nat) (x : Queue) : (s.setQueue q x).free = s.free := rfl
@[simp] theorem State.setQueue_time (s : State) (q : Nat) (x : Queue) : (s.setQueue q x).time = s.time := rfl
@[simp] theorem State.setQueue_cycles (s : State) (q : Nat) (x : Queue) : (s.setQueue q x).cycles = s.cycles := rfl
@[simp] theorem State.setQueue_mem (s : State) (q : Nat) (x : Queue) : (s.setQueue q x).mem = s.mem := rfl
@[simp] theorem State.setQueue_hostMem (s : State) (q : Nat) (x : Queue) : (s.setQueue q x).hostMem = s.hostMem := rfl
@[simp] theorem State.setQueue_peerMem (s : State) (q : Nat) (x : Queue) : (s.setQueue q x).peerMem = s.peerMem := rfl
@[simp] theorem State.setQueue_dir (s : State) (q : Nat) (x : Queue) : (s.setQueue q x).dir = s.dir := rfl
@[simp] theorem State.setQueue_filter (s : State) (q : Nat) (x : Queue) : (s.setQueue q x).filter = s.filter := rfl
@[simp] theorem State.setQueue_msgs (s : State) (q : Nat) (x : Queue) : (s.setQueue q x).msgs = s.msgs := rfl
@[simp] theorem State.setQueue_draws (s : State) (q : Nat) (x : Queue) : (s.setQueue q x).draws = s.draws := rfl
@[simp] theorem State.setQueue_dies (s : State) (q : Nat) (x : Queue) : (s.setQueue q x).dies = s.dies := rfl
@[simp] theorem State.setQueue_cores (s : State) (q : Nat) (x : Queue) : (s.setQueue q x).cores = s.cores := rfl
@[simp] theorem State.setQueue_clusters (s : State) (q : Nat) (x : Queue) : (s.setQueue q x).clusters = s.clusters := rfl
@[simp] theorem State.setQueue_copies (s : State) (q : Nat) (x : Queue) : (s.setQueue q x).copies = s.copies := rfl
@[simp] theorem State.setQueue_teams (s : State) (q : Nat) (x : Queue) : (s.setQueue q x).teams = s.teams := rfl
@[simp] theorem State.setQueue_blocks (s : State) (q : Nat) (x : Queue) : (s.setQueue q x).blocks = s.blocks := rfl
@[simp] theorem State.setQueue_fifos (s : State) (q : Nat) (x : Queue) : (s.setQueue q x).fifos = s.fifos := rfl
@[simp] theorem State.setQueue_launchRegs (s : State) (q : Nat) (x : Queue) : (s.setQueue q x).launchRegs = s.launchRegs := rfl
@[simp] theorem State.setQueue_trans (s : State) (q : Nat) (x : Queue) : (s.setQueue q x).trans = s.trans := rfl
@[simp] theorem State.setQueue_pool (s : State) (q : Nat) (x : Queue) : (s.setQueue q x).pool = s.pool := rfl
@[simp] theorem State.setQueue_power (s : State) (q : Nat) (x : Queue) : (s.setQueue q x).power = s.power := rfl
@[simp] theorem State.setQueue_plat (s : State) (q : Nat) (x : Queue) : (s.setQueue q x).plat = s.plat := rfl
@[simp] theorem State.setQueue_out (s : State) (q : Nat) (x : Queue) : (s.setQueue q x).out = s.out := rfl
@[simp] theorem State.setQueue_team (s : State) (q : Nat) (x : Queue) (i : Nat) : (s.setQueue q x).team i = s.team i := rfl
@[simp] theorem State.setQueue_die (s : State) (q : Nat) (x : Queue) (i : Nat) : (s.setQueue q x).die i = s.die i := rfl
@[simp] theorem State.setQueue_core (s : State) (q : Nat) (x : Queue) (i : Nat) : (s.setQueue q x).core i = s.core i := rfl
@[simp] theorem State.setQueue_cluster (s : State) (q : Nat) (x : Queue) (i : Nat) : (s.setQueue q x).cluster i = s.cluster i := rfl
@[simp] theorem State.setQueue_blockQ (s : State) (q : Nat) (x : Queue) (i : Nat) : (s.setQueue q x).block? i = s.block? i := rfl
@[simp] theorem State.setQueue_dirEnt (s : State) (q : Nat) (x : Queue) (i : Nat) : (s.setQueue q x).dirEnt i = s.dirEnt i := rfl
@[simp] theorem State.setQueue_blockOfQ (s : State) (q : Nat) (x : Queue) (i : Nat) : (s.setQueue q x).blockOf? i = s.blockOf? i := rfl
@[simp] theorem State.setQueue_coreOf (s : State) (q : Nat) (x : Queue) (i : Nat) : (s.setQueue q x).coreOf i = s.coreOf i := rfl
@[simp] theorem State.setQueue_asidOf (s : State) (q : Nat) (x : Queue) (i : Nat) : (s.setQueue q x).asidOf i = s.asidOf i := rfl
@[simp] theorem State.setQueue_widthOf (s : State) (q : Nat) (x : Queue) (i : Nat) : (s.setQueue q x).widthOf i = s.widthOf i := rfl
@[simp] theorem State.setQueue_isControl (s : State) (q : Nat) (x : Queue) (i : Nat) : (s.setQueue q x).isControl i = s.isControl i := rfl
@[simp] theorem State.setQueue_dieOfCtx (s : State) (q : Nat) (x : Queue) (i : Nat) : (s.setQueue q x).dieOfCtx i = s.dieOfCtx i := rfl
@[simp] theorem State.setQueue_colOfCtx (s : State) (q : Nat) (x : Queue) (i : Nat) : (s.setQueue q x).colOfCtx i = s.colOfCtx i := rfl
@[simp] theorem State.setQueue_slotOf (s : State) (q : Nat) (x : Queue) (i : Nat) : (s.setQueue q x).slotOf i = s.slotOf i := rfl

/-! ## setBlock -/

@[simp] theorem State.setBlock_agenda (s : State) (f : Nat) (x : Block) : (s.setBlock f x).agenda = s.agenda := rfl
@[simp] theorem State.setBlock_cur (s : State) (f : Nat) (x : Block) : (s.setBlock f x).cur = s.cur := rfl
@[simp] theorem State.setBlock_pairSecond (s : State) (f : Nat) (x : Block) : (s.setBlock f x).pairSecond = s.pairSecond := rfl
@[simp] theorem State.setBlock_pairMark (s : State) (f : Nat) (x : Block) : (s.setBlock f x).pairMark = s.pairMark := rfl
@[simp] theorem State.setBlock_uid (s : State) (f : Nat) (x : Block) : (s.setBlock f x).uid = s.uid := rfl
@[simp] theorem State.setBlock_free (s : State) (f : Nat) (x : Block) : (s.setBlock f x).free = s.free := rfl
@[simp] theorem State.setBlock_time (s : State) (f : Nat) (x : Block) : (s.setBlock f x).time = s.time := rfl
@[simp] theorem State.setBlock_cycles (s : State) (f : Nat) (x : Block) : (s.setBlock f x).cycles = s.cycles := rfl
@[simp] theorem State.setBlock_mem (s : State) (f : Nat) (x : Block) : (s.setBlock f x).mem = s.mem := rfl
@[simp] theorem State.setBlock_hostMem (s : State) (f : Nat) (x : Block) : (s.setBlock f x).hostMem = s.hostMem := rfl
@[simp] theorem State.setBlock_peerMem (s : State) (f : Nat) (x : Block) : (s.setBlock f x).peerMem = s.peerMem := rfl
@[simp] theorem State.setBlock_dir (s : State) (f : Nat) (x : Block) : (s.setBlock f x).dir = s.dir := rfl
@[simp] theorem State.setBlock_filter (s : State) (f : Nat) (x : Block) : (s.setBlock f x).filter = s.filter := rfl
@[simp] theorem State.setBlock_msgs (s : State) (f : Nat) (x : Block) : (s.setBlock f x).msgs = s.msgs := rfl
@[simp] theorem State.setBlock_draws (s : State) (f : Nat) (x : Block) : (s.setBlock f x).draws = s.draws := rfl
@[simp] theorem State.setBlock_dies (s : State) (f : Nat) (x : Block) : (s.setBlock f x).dies = s.dies := rfl
@[simp] theorem State.setBlock_cores (s : State) (f : Nat) (x : Block) : (s.setBlock f x).cores = s.cores := rfl
@[simp] theorem State.setBlock_clusters (s : State) (f : Nat) (x : Block) : (s.setBlock f x).clusters = s.clusters := rfl
@[simp] theorem State.setBlock_copies (s : State) (f : Nat) (x : Block) : (s.setBlock f x).copies = s.copies := rfl
@[simp] theorem State.setBlock_teams (s : State) (f : Nat) (x : Block) : (s.setBlock f x).teams = s.teams := rfl
@[simp] theorem State.setBlock_queues (s : State) (f : Nat) (x : Block) : (s.setBlock f x).queues = s.queues := rfl
@[simp] theorem State.setBlock_fifos (s : State) (f : Nat) (x : Block) : (s.setBlock f x).fifos = s.fifos := rfl
@[simp] theorem State.setBlock_launchRegs (s : State) (f : Nat) (x : Block) : (s.setBlock f x).launchRegs = s.launchRegs := rfl
@[simp] theorem State.setBlock_trans (s : State) (f : Nat) (x : Block) : (s.setBlock f x).trans = s.trans := rfl
@[simp] theorem State.setBlock_pool (s : State) (f : Nat) (x : Block) : (s.setBlock f x).pool = s.pool := rfl
@[simp] theorem State.setBlock_power (s : State) (f : Nat) (x : Block) : (s.setBlock f x).power = s.power := rfl
@[simp] theorem State.setBlock_plat (s : State) (f : Nat) (x : Block) : (s.setBlock f x).plat = s.plat := rfl
@[simp] theorem State.setBlock_out (s : State) (f : Nat) (x : Block) : (s.setBlock f x).out = s.out := rfl
@[simp] theorem State.setBlock_team (s : State) (f : Nat) (x : Block) (i : Nat) : (s.setBlock f x).team i = s.team i := rfl
@[simp] theorem State.setBlock_die (s : State) (f : Nat) (x : Block) (i : Nat) : (s.setBlock f x).die i = s.die i := rfl
@[simp] theorem State.setBlock_core (s : State) (f : Nat) (x : Block) (i : Nat) : (s.setBlock f x).core i = s.core i := rfl
@[simp] theorem State.setBlock_cluster (s : State) (f : Nat) (x : Block) (i : Nat) : (s.setBlock f x).cluster i = s.cluster i := rfl
@[simp] theorem State.setBlock_queue (s : State) (f : Nat) (x : Block) (i : Nat) : (s.setBlock f x).queue i = s.queue i := rfl
@[simp] theorem State.setBlock_dirEnt (s : State) (f : Nat) (x : Block) (i : Nat) : (s.setBlock f x).dirEnt i = s.dirEnt i := rfl

/-! ## setDir -/

@[simp] theorem State.setDir_agenda (s : State) (l : Nat) (x : DirEnt) : (s.setDir l x).agenda = s.agenda := rfl
@[simp] theorem State.setDir_cur (s : State) (l : Nat) (x : DirEnt) : (s.setDir l x).cur = s.cur := rfl
@[simp] theorem State.setDir_pairSecond (s : State) (l : Nat) (x : DirEnt) : (s.setDir l x).pairSecond = s.pairSecond := rfl
@[simp] theorem State.setDir_pairMark (s : State) (l : Nat) (x : DirEnt) : (s.setDir l x).pairMark = s.pairMark := rfl
@[simp] theorem State.setDir_uid (s : State) (l : Nat) (x : DirEnt) : (s.setDir l x).uid = s.uid := rfl
@[simp] theorem State.setDir_free (s : State) (l : Nat) (x : DirEnt) : (s.setDir l x).free = s.free := rfl
@[simp] theorem State.setDir_time (s : State) (l : Nat) (x : DirEnt) : (s.setDir l x).time = s.time := rfl
@[simp] theorem State.setDir_cycles (s : State) (l : Nat) (x : DirEnt) : (s.setDir l x).cycles = s.cycles := rfl
@[simp] theorem State.setDir_mem (s : State) (l : Nat) (x : DirEnt) : (s.setDir l x).mem = s.mem := rfl
@[simp] theorem State.setDir_hostMem (s : State) (l : Nat) (x : DirEnt) : (s.setDir l x).hostMem = s.hostMem := rfl
@[simp] theorem State.setDir_peerMem (s : State) (l : Nat) (x : DirEnt) : (s.setDir l x).peerMem = s.peerMem := rfl
@[simp] theorem State.setDir_filter (s : State) (l : Nat) (x : DirEnt) : (s.setDir l x).filter = s.filter := rfl
@[simp] theorem State.setDir_msgs (s : State) (l : Nat) (x : DirEnt) : (s.setDir l x).msgs = s.msgs := rfl
@[simp] theorem State.setDir_draws (s : State) (l : Nat) (x : DirEnt) : (s.setDir l x).draws = s.draws := rfl
@[simp] theorem State.setDir_dies (s : State) (l : Nat) (x : DirEnt) : (s.setDir l x).dies = s.dies := rfl
@[simp] theorem State.setDir_cores (s : State) (l : Nat) (x : DirEnt) : (s.setDir l x).cores = s.cores := rfl
@[simp] theorem State.setDir_clusters (s : State) (l : Nat) (x : DirEnt) : (s.setDir l x).clusters = s.clusters := rfl
@[simp] theorem State.setDir_copies (s : State) (l : Nat) (x : DirEnt) : (s.setDir l x).copies = s.copies := rfl
@[simp] theorem State.setDir_teams (s : State) (l : Nat) (x : DirEnt) : (s.setDir l x).teams = s.teams := rfl
@[simp] theorem State.setDir_blocks (s : State) (l : Nat) (x : DirEnt) : (s.setDir l x).blocks = s.blocks := rfl
@[simp] theorem State.setDir_queues (s : State) (l : Nat) (x : DirEnt) : (s.setDir l x).queues = s.queues := rfl
@[simp] theorem State.setDir_fifos (s : State) (l : Nat) (x : DirEnt) : (s.setDir l x).fifos = s.fifos := rfl
@[simp] theorem State.setDir_launchRegs (s : State) (l : Nat) (x : DirEnt) : (s.setDir l x).launchRegs = s.launchRegs := rfl
@[simp] theorem State.setDir_trans (s : State) (l : Nat) (x : DirEnt) : (s.setDir l x).trans = s.trans := rfl
@[simp] theorem State.setDir_pool (s : State) (l : Nat) (x : DirEnt) : (s.setDir l x).pool = s.pool := rfl
@[simp] theorem State.setDir_power (s : State) (l : Nat) (x : DirEnt) : (s.setDir l x).power = s.power := rfl
@[simp] theorem State.setDir_plat (s : State) (l : Nat) (x : DirEnt) : (s.setDir l x).plat = s.plat := rfl
@[simp] theorem State.setDir_out (s : State) (l : Nat) (x : DirEnt) : (s.setDir l x).out = s.out := rfl
@[simp] theorem State.setDir_team (s : State) (l : Nat) (x : DirEnt) (i : Nat) : (s.setDir l x).team i = s.team i := rfl
@[simp] theorem State.setDir_die (s : State) (l : Nat) (x : DirEnt) (i : Nat) : (s.setDir l x).die i = s.die i := rfl
@[simp] theorem State.setDir_core (s : State) (l : Nat) (x : DirEnt) (i : Nat) : (s.setDir l x).core i = s.core i := rfl
@[simp] theorem State.setDir_cluster (s : State) (l : Nat) (x : DirEnt) (i : Nat) : (s.setDir l x).cluster i = s.cluster i := rfl
@[simp] theorem State.setDir_queue (s : State) (l : Nat) (x : DirEnt) (i : Nat) : (s.setDir l x).queue i = s.queue i := rfl
@[simp] theorem State.setDir_blockQ (s : State) (l : Nat) (x : DirEnt) (i : Nat) : (s.setDir l x).block? i = s.block? i := rfl
@[simp] theorem State.setDir_blockOfQ (s : State) (l : Nat) (x : DirEnt) (i : Nat) : (s.setDir l x).blockOf? i = s.blockOf? i := rfl
@[simp] theorem State.setDir_coreOf (s : State) (l : Nat) (x : DirEnt) (i : Nat) : (s.setDir l x).coreOf i = s.coreOf i := rfl
@[simp] theorem State.setDir_asidOf (s : State) (l : Nat) (x : DirEnt) (i : Nat) : (s.setDir l x).asidOf i = s.asidOf i := rfl
@[simp] theorem State.setDir_widthOf (s : State) (l : Nat) (x : DirEnt) (i : Nat) : (s.setDir l x).widthOf i = s.widthOf i := rfl
@[simp] theorem State.setDir_isControl (s : State) (l : Nat) (x : DirEnt) (i : Nat) : (s.setDir l x).isControl i = s.isControl i := rfl
@[simp] theorem State.setDir_dieOfCtx (s : State) (l : Nat) (x : DirEnt) (i : Nat) : (s.setDir l x).dieOfCtx i = s.dieOfCtx i := rfl
@[simp] theorem State.setDir_colOfCtx (s : State) (l : Nat) (x : DirEnt) (i : Nat) : (s.setDir l x).colOfCtx i = s.colOfCtx i := rfl
@[simp] theorem State.setDir_slotOf (s : State) (l : Nat) (x : DirEnt) (i : Nat) : (s.setDir l x).slotOf i = s.slotOf i := rfl

/-! ## send -/

@[simp] theorem State.send_agenda (s : State) (m : Msg) : (s.send m).agenda = s.agenda := rfl
@[simp] theorem State.send_cur (s : State) (m : Msg) : (s.send m).cur = s.cur := rfl
@[simp] theorem State.send_pairSecond (s : State) (m : Msg) : (s.send m).pairSecond = s.pairSecond := rfl
@[simp] theorem State.send_pairMark (s : State) (m : Msg) : (s.send m).pairMark = s.pairMark := rfl
@[simp] theorem State.send_uid (s : State) (m : Msg) : (s.send m).uid = s.uid := rfl
@[simp] theorem State.send_free (s : State) (m : Msg) : (s.send m).free = s.free := rfl
@[simp] theorem State.send_time (s : State) (m : Msg) : (s.send m).time = s.time := rfl
@[simp] theorem State.send_cycles (s : State) (m : Msg) : (s.send m).cycles = s.cycles := rfl
@[simp] theorem State.send_mem (s : State) (m : Msg) : (s.send m).mem = s.mem := rfl
@[simp] theorem State.send_hostMem (s : State) (m : Msg) : (s.send m).hostMem = s.hostMem := rfl
@[simp] theorem State.send_peerMem (s : State) (m : Msg) : (s.send m).peerMem = s.peerMem := rfl
@[simp] theorem State.send_dir (s : State) (m : Msg) : (s.send m).dir = s.dir := rfl
@[simp] theorem State.send_filter (s : State) (m : Msg) : (s.send m).filter = s.filter := rfl
@[simp] theorem State.send_draws (s : State) (m : Msg) : (s.send m).draws = s.draws := rfl
@[simp] theorem State.send_dies (s : State) (m : Msg) : (s.send m).dies = s.dies := rfl
@[simp] theorem State.send_cores (s : State) (m : Msg) : (s.send m).cores = s.cores := rfl
@[simp] theorem State.send_clusters (s : State) (m : Msg) : (s.send m).clusters = s.clusters := rfl
@[simp] theorem State.send_copies (s : State) (m : Msg) : (s.send m).copies = s.copies := rfl
@[simp] theorem State.send_teams (s : State) (m : Msg) : (s.send m).teams = s.teams := rfl
@[simp] theorem State.send_blocks (s : State) (m : Msg) : (s.send m).blocks = s.blocks := rfl
@[simp] theorem State.send_queues (s : State) (m : Msg) : (s.send m).queues = s.queues := rfl
@[simp] theorem State.send_fifos (s : State) (m : Msg) : (s.send m).fifos = s.fifos := rfl
@[simp] theorem State.send_launchRegs (s : State) (m : Msg) : (s.send m).launchRegs = s.launchRegs := rfl
@[simp] theorem State.send_trans (s : State) (m : Msg) : (s.send m).trans = s.trans := rfl
@[simp] theorem State.send_pool (s : State) (m : Msg) : (s.send m).pool = s.pool := rfl
@[simp] theorem State.send_power (s : State) (m : Msg) : (s.send m).power = s.power := rfl
@[simp] theorem State.send_plat (s : State) (m : Msg) : (s.send m).plat = s.plat := rfl
@[simp] theorem State.send_out (s : State) (m : Msg) : (s.send m).out = s.out := rfl
@[simp] theorem State.send_team (s : State) (m : Msg) (i : Nat) : (s.send m).team i = s.team i := rfl
@[simp] theorem State.send_die (s : State) (m : Msg) (i : Nat) : (s.send m).die i = s.die i := rfl
@[simp] theorem State.send_core (s : State) (m : Msg) (i : Nat) : (s.send m).core i = s.core i := rfl
@[simp] theorem State.send_cluster (s : State) (m : Msg) (i : Nat) : (s.send m).cluster i = s.cluster i := rfl
@[simp] theorem State.send_queue (s : State) (m : Msg) (i : Nat) : (s.send m).queue i = s.queue i := rfl
@[simp] theorem State.send_blockQ (s : State) (m : Msg) (i : Nat) : (s.send m).block? i = s.block? i := rfl
@[simp] theorem State.send_dirEnt (s : State) (m : Msg) (i : Nat) : (s.send m).dirEnt i = s.dirEnt i := rfl
@[simp] theorem State.send_blockOfQ (s : State) (m : Msg) (i : Nat) : (s.send m).blockOf? i = s.blockOf? i := rfl
@[simp] theorem State.send_coreOf (s : State) (m : Msg) (i : Nat) : (s.send m).coreOf i = s.coreOf i := rfl
@[simp] theorem State.send_asidOf (s : State) (m : Msg) (i : Nat) : (s.send m).asidOf i = s.asidOf i := rfl
@[simp] theorem State.send_widthOf (s : State) (m : Msg) (i : Nat) : (s.send m).widthOf i = s.widthOf i := rfl
@[simp] theorem State.send_isControl (s : State) (m : Msg) (i : Nat) : (s.send m).isControl i = s.isControl i := rfl
@[simp] theorem State.send_dieOfCtx (s : State) (m : Msg) (i : Nat) : (s.send m).dieOfCtx i = s.dieOfCtx i := rfl
@[simp] theorem State.send_colOfCtx (s : State) (m : Msg) (i : Nat) : (s.send m).colOfCtx i = s.colOfCtx i := rfl
@[simp] theorem State.send_slotOf (s : State) (m : Msg) (i : Nat) : (s.send m).slotOf i = s.slotOf i := rfl

/-! ## emit -/

@[simp] theorem State.emit_agenda (s : State) (o : OutMsg) : (s.emit o).agenda = s.agenda := rfl
@[simp] theorem State.emit_cur (s : State) (o : OutMsg) : (s.emit o).cur = s.cur := rfl
@[simp] theorem State.emit_pairSecond (s : State) (o : OutMsg) : (s.emit o).pairSecond = s.pairSecond := rfl
@[simp] theorem State.emit_pairMark (s : State) (o : OutMsg) : (s.emit o).pairMark = s.pairMark := rfl
@[simp] theorem State.emit_uid (s : State) (o : OutMsg) : (s.emit o).uid = s.uid := rfl
@[simp] theorem State.emit_free (s : State) (o : OutMsg) : (s.emit o).free = s.free := rfl
@[simp] theorem State.emit_time (s : State) (o : OutMsg) : (s.emit o).time = s.time := rfl
@[simp] theorem State.emit_cycles (s : State) (o : OutMsg) : (s.emit o).cycles = s.cycles := rfl
@[simp] theorem State.emit_mem (s : State) (o : OutMsg) : (s.emit o).mem = s.mem := rfl
@[simp] theorem State.emit_hostMem (s : State) (o : OutMsg) : (s.emit o).hostMem = s.hostMem := rfl
@[simp] theorem State.emit_peerMem (s : State) (o : OutMsg) : (s.emit o).peerMem = s.peerMem := rfl
@[simp] theorem State.emit_dir (s : State) (o : OutMsg) : (s.emit o).dir = s.dir := rfl
@[simp] theorem State.emit_filter (s : State) (o : OutMsg) : (s.emit o).filter = s.filter := rfl
@[simp] theorem State.emit_msgs (s : State) (o : OutMsg) : (s.emit o).msgs = s.msgs := rfl
@[simp] theorem State.emit_draws (s : State) (o : OutMsg) : (s.emit o).draws = s.draws := rfl
@[simp] theorem State.emit_dies (s : State) (o : OutMsg) : (s.emit o).dies = s.dies := rfl
@[simp] theorem State.emit_cores (s : State) (o : OutMsg) : (s.emit o).cores = s.cores := rfl
@[simp] theorem State.emit_clusters (s : State) (o : OutMsg) : (s.emit o).clusters = s.clusters := rfl
@[simp] theorem State.emit_copies (s : State) (o : OutMsg) : (s.emit o).copies = s.copies := rfl
@[simp] theorem State.emit_teams (s : State) (o : OutMsg) : (s.emit o).teams = s.teams := rfl
@[simp] theorem State.emit_blocks (s : State) (o : OutMsg) : (s.emit o).blocks = s.blocks := rfl
@[simp] theorem State.emit_queues (s : State) (o : OutMsg) : (s.emit o).queues = s.queues := rfl
@[simp] theorem State.emit_fifos (s : State) (o : OutMsg) : (s.emit o).fifos = s.fifos := rfl
@[simp] theorem State.emit_launchRegs (s : State) (o : OutMsg) : (s.emit o).launchRegs = s.launchRegs := rfl
@[simp] theorem State.emit_trans (s : State) (o : OutMsg) : (s.emit o).trans = s.trans := rfl
@[simp] theorem State.emit_pool (s : State) (o : OutMsg) : (s.emit o).pool = s.pool := rfl
@[simp] theorem State.emit_power (s : State) (o : OutMsg) : (s.emit o).power = s.power := rfl
@[simp] theorem State.emit_plat (s : State) (o : OutMsg) : (s.emit o).plat = s.plat := rfl
@[simp] theorem State.emit_team (s : State) (o : OutMsg) (i : Nat) : (s.emit o).team i = s.team i := rfl
@[simp] theorem State.emit_die (s : State) (o : OutMsg) (i : Nat) : (s.emit o).die i = s.die i := rfl
@[simp] theorem State.emit_core (s : State) (o : OutMsg) (i : Nat) : (s.emit o).core i = s.core i := rfl
@[simp] theorem State.emit_cluster (s : State) (o : OutMsg) (i : Nat) : (s.emit o).cluster i = s.cluster i := rfl
@[simp] theorem State.emit_queue (s : State) (o : OutMsg) (i : Nat) : (s.emit o).queue i = s.queue i := rfl
@[simp] theorem State.emit_blockQ (s : State) (o : OutMsg) (i : Nat) : (s.emit o).block? i = s.block? i := rfl
@[simp] theorem State.emit_dirEnt (s : State) (o : OutMsg) (i : Nat) : (s.emit o).dirEnt i = s.dirEnt i := rfl
@[simp] theorem State.emit_blockOfQ (s : State) (o : OutMsg) (i : Nat) : (s.emit o).blockOf? i = s.blockOf? i := rfl
@[simp] theorem State.emit_coreOf (s : State) (o : OutMsg) (i : Nat) : (s.emit o).coreOf i = s.coreOf i := rfl
@[simp] theorem State.emit_asidOf (s : State) (o : OutMsg) (i : Nat) : (s.emit o).asidOf i = s.asidOf i := rfl
@[simp] theorem State.emit_widthOf (s : State) (o : OutMsg) (i : Nat) : (s.emit o).widthOf i = s.widthOf i := rfl
@[simp] theorem State.emit_isControl (s : State) (o : OutMsg) (i : Nat) : (s.emit o).isControl i = s.isControl i := rfl
@[simp] theorem State.emit_dieOfCtx (s : State) (o : OutMsg) (i : Nat) : (s.emit o).dieOfCtx i = s.dieOfCtx i := rfl
@[simp] theorem State.emit_colOfCtx (s : State) (o : OutMsg) (i : Nat) : (s.emit o).colOfCtx i = s.colOfCtx i := rfl
@[simp] theorem State.emit_slotOf (s : State) (o : OutMsg) (i : Nat) : (s.emit o).slotOf i = s.slotOf i := rfl

/-! ## bumpUid -/

@[simp] theorem State.bumpUid_agenda (s : State) : (s.bumpUid).agenda = s.agenda := rfl
@[simp] theorem State.bumpUid_cur (s : State) : (s.bumpUid).cur = s.cur := rfl
@[simp] theorem State.bumpUid_pairSecond (s : State) : (s.bumpUid).pairSecond = s.pairSecond := rfl
@[simp] theorem State.bumpUid_pairMark (s : State) : (s.bumpUid).pairMark = s.pairMark := rfl
@[simp] theorem State.bumpUid_free (s : State) : (s.bumpUid).free = s.free := rfl
@[simp] theorem State.bumpUid_time (s : State) : (s.bumpUid).time = s.time := rfl
@[simp] theorem State.bumpUid_cycles (s : State) : (s.bumpUid).cycles = s.cycles := rfl
@[simp] theorem State.bumpUid_mem (s : State) : (s.bumpUid).mem = s.mem := rfl
@[simp] theorem State.bumpUid_hostMem (s : State) : (s.bumpUid).hostMem = s.hostMem := rfl
@[simp] theorem State.bumpUid_peerMem (s : State) : (s.bumpUid).peerMem = s.peerMem := rfl
@[simp] theorem State.bumpUid_dir (s : State) : (s.bumpUid).dir = s.dir := rfl
@[simp] theorem State.bumpUid_filter (s : State) : (s.bumpUid).filter = s.filter := rfl
@[simp] theorem State.bumpUid_msgs (s : State) : (s.bumpUid).msgs = s.msgs := rfl
@[simp] theorem State.bumpUid_draws (s : State) : (s.bumpUid).draws = s.draws := rfl
@[simp] theorem State.bumpUid_dies (s : State) : (s.bumpUid).dies = s.dies := rfl
@[simp] theorem State.bumpUid_cores (s : State) : (s.bumpUid).cores = s.cores := rfl
@[simp] theorem State.bumpUid_clusters (s : State) : (s.bumpUid).clusters = s.clusters := rfl
@[simp] theorem State.bumpUid_copies (s : State) : (s.bumpUid).copies = s.copies := rfl
@[simp] theorem State.bumpUid_teams (s : State) : (s.bumpUid).teams = s.teams := rfl
@[simp] theorem State.bumpUid_blocks (s : State) : (s.bumpUid).blocks = s.blocks := rfl
@[simp] theorem State.bumpUid_queues (s : State) : (s.bumpUid).queues = s.queues := rfl
@[simp] theorem State.bumpUid_fifos (s : State) : (s.bumpUid).fifos = s.fifos := rfl
@[simp] theorem State.bumpUid_launchRegs (s : State) : (s.bumpUid).launchRegs = s.launchRegs := rfl
@[simp] theorem State.bumpUid_trans (s : State) : (s.bumpUid).trans = s.trans := rfl
@[simp] theorem State.bumpUid_pool (s : State) : (s.bumpUid).pool = s.pool := rfl
@[simp] theorem State.bumpUid_power (s : State) : (s.bumpUid).power = s.power := rfl
@[simp] theorem State.bumpUid_plat (s : State) : (s.bumpUid).plat = s.plat := rfl
@[simp] theorem State.bumpUid_out (s : State) : (s.bumpUid).out = s.out := rfl
@[simp] theorem State.bumpUid_team (s : State) (i : Nat) : (s.bumpUid ).team i = s.team i := rfl
@[simp] theorem State.bumpUid_die (s : State) (i : Nat) : (s.bumpUid ).die i = s.die i := rfl
@[simp] theorem State.bumpUid_core (s : State) (i : Nat) : (s.bumpUid ).core i = s.core i := rfl
@[simp] theorem State.bumpUid_cluster (s : State) (i : Nat) : (s.bumpUid ).cluster i = s.cluster i := rfl
@[simp] theorem State.bumpUid_queue (s : State) (i : Nat) : (s.bumpUid ).queue i = s.queue i := rfl
@[simp] theorem State.bumpUid_blockQ (s : State) (i : Nat) : (s.bumpUid ).block? i = s.block? i := rfl
@[simp] theorem State.bumpUid_dirEnt (s : State) (i : Nat) : (s.bumpUid ).dirEnt i = s.dirEnt i := rfl
@[simp] theorem State.bumpUid_blockOfQ (s : State) (i : Nat) : (s.bumpUid ).blockOf? i = s.blockOf? i := rfl
@[simp] theorem State.bumpUid_coreOf (s : State) (i : Nat) : (s.bumpUid ).coreOf i = s.coreOf i := rfl
@[simp] theorem State.bumpUid_asidOf (s : State) (i : Nat) : (s.bumpUid ).asidOf i = s.asidOf i := rfl
@[simp] theorem State.bumpUid_widthOf (s : State) (i : Nat) : (s.bumpUid ).widthOf i = s.widthOf i := rfl
@[simp] theorem State.bumpUid_isControl (s : State) (i : Nat) : (s.bumpUid ).isControl i = s.isControl i := rfl
@[simp] theorem State.bumpUid_dieOfCtx (s : State) (i : Nat) : (s.bumpUid ).dieOfCtx i = s.dieOfCtx i := rfl
@[simp] theorem State.bumpUid_colOfCtx (s : State) (i : Nat) : (s.bumpUid ).colOfCtx i = s.colOfCtx i := rfl
@[simp] theorem State.bumpUid_slotOf (s : State) (i : Nat) : (s.bumpUid ).slotOf i = s.slotOf i := rfl

/-! ## What a written table reads as -/

@[simp] theorem State.team_setTeam (s : State) (c : Nat) (x : Team) : (s.setTeam c x).team c = x := by
  simp [State.team, State.setTeam]
theorem State.team_setTeam_other (s : State) {c k : Nat} (x : Team) (h : k ≠ c) : (s.setTeam c x).team k = s.team k := by
  simp [State.team, State.setTeam, Tab.getD_put_other _ _ _ _ h]
@[simp] theorem State.core_setCore (s : State) (c : Nat) (x : Core) : (s.setCore c x).core c = x := by
  simp [State.core, State.setCore]
theorem State.core_setCore_other (s : State) {c k : Nat} (x : Core) (h : k ≠ c) : (s.setCore c x).core k = s.core k := by
  simp [State.core, State.setCore, Tab.getD_put_other _ _ _ _ h]
@[simp] theorem State.die_setDie (s : State) (d : Nat) (x : Die) : (s.setDie d x).die d = x := by
  simp [State.die, State.setDie]
theorem State.die_setDie_other (s : State) {d k : Nat} (x : Die) (h : k ≠ d) : (s.setDie d x).die k = s.die k := by
  simp [State.die, State.setDie, Tab.getD_put_other _ _ _ _ h]
@[simp] theorem State.cluster_setCluster (s : State) (c : Nat) (x : Cluster) : (s.setCluster c x).cluster c = x := by
  simp [State.cluster, State.setCluster]
theorem State.cluster_setCluster_other (s : State) {c k : Nat} (x : Cluster) (h : k ≠ c) :
    (s.setCluster c x).cluster k = s.cluster k := by
  simp [State.cluster, State.setCluster, Tab.getD_put_other _ _ _ _ h]
@[simp] theorem State.queue_setQueue (s : State) (q : Nat) (x : Queue) : (s.setQueue q x).queue q = x := by
  simp [State.queue, State.setQueue]
theorem State.queue_setQueue_other (s : State) {q k : Nat} (x : Queue) (h : k ≠ q) : (s.setQueue q x).queue k = s.queue k := by
  simp [State.queue, State.setQueue, Tab.getD_put_other _ _ _ _ h]
@[simp] theorem State.block_setBlock (s : State) (f : Nat) (x : Block) : (s.setBlock f x).block? f = some x := by
  simp [State.block?, State.setBlock]
theorem State.block_setBlock_other (s : State) {f k : Nat} (x : Block) (h : k ≠ f) :
    (s.setBlock f x).block? k = s.block? k := by
  simp [State.block?, State.setBlock, Tab.get?_put_other _ _ _ h]
@[simp] theorem State.dirEnt_setDir (s : State) (l : Nat) (x : DirEnt) : (s.setDir l x).dirEnt l = x := by
  simp [State.dirEnt, State.setDir]
theorem State.dirEnt_setDir_other (s : State) {l k : Nat} (x : DirEnt) (h : k ≠ l) : (s.setDir l x).dirEnt k = s.dirEnt k := by
  simp [State.dirEnt, State.setDir, Tab.getD_put_other _ _ _ _ h]

end Sys2Proof.Machine
end

