-- ==== Sys2Proof/Laws/Coherent.lean ====
section
/-! SUPPORT. What a write of coherent memory can change, said once: memory and the copies of its lines, and nothing else;
it keeps the canonical form.  The writes of save frames are such writes. -/

namespace Sys2Proof.Machine

/-- Nothing differs but the memories and the data of the copies of lines, and memory keeps its canonical form. -/
structure OnlyCopies (s t : State) : Prop where
  rest : t = { s with
    mem := t.mem, hostMem := t.hostMem, peerMem := t.peerMem, dies := t.dies, cores := t.cores, msgs := t.msgs, dir := t.dir }
  dies : ∀ d, t.die d = { s.die d with lines := (t.die d).lines, fills := (t.die d).fills, wbuf := (t.die d).wbuf }
  cores : ∀ k, t.core k = { s.core k with l1 := (t.core k).l1 }
  dir : ∀ l, t.dirEnt l = { s.dirEnt l with dirty := (t.dirEnt l).dirty }
  form : s.MemoryOk → t.MemoryOk

theorem OnlyCopies.refl (s : State) : OnlyCopies s s := ⟨rfl, fun _ => rfl, fun _ => rfl, fun _ => rfl, id⟩

theorem OnlyCopies.trans {s t u : State} (h : OnlyCopies s t) (g : OnlyCopies t u) : OnlyCopies s u := by
  refine ⟨?_, fun d => ?_, fun k => ?_, fun l => ?_, fun o => g.form (h.form o)⟩
  · have a := h.rest
    have b := g.rest
    rw [a] at b
    exact b
  · have a := h.dies d
    have b := g.dies d
    rw [a] at b
    exact b
  · have a := h.cores k
    have b := g.cores k
    rw [a] at b
    exact b
  · have a := h.dir l
    have b := g.dir l
    rw [a] at b
    exact b

theorem OnlyCopies.team {s t : State} (h : OnlyCopies s t) (c : Nat) : t.team c = s.team c := by
  unfold State.team; rw [h.rest]

theorem OnlyCopies.teams {s t : State} (h : OnlyCopies s t) : t.teams = s.teams := by rw [h.rest]

theorem OnlyCopies.blocks {s t : State} (h : OnlyCopies s t) : t.blocks = s.blocks := by rw [h.rest]

theorem OnlyCopies.blockQ {s t : State} (h : OnlyCopies s t) (f : Nat) : t.block? f = s.block? f := by
  unfold State.block?; rw [h.rest]

theorem OnlyCopies.blockOf {s t : State} (h : OnlyCopies s t) (c : Nat) : t.blockOf? c = s.blockOf? c := h.blockQ _

theorem OnlyCopies.widthOf {s t : State} (h : OnlyCopies s t) (c : Nat) : t.widthOf c = s.widthOf c := by
  unfold State.widthOf; rw [h.blockOf]

theorem OnlyCopies.framePA {s t : State} (h : OnlyCopies s t) (f o : Nat) : t.framePA f o = s.framePA f o := by
  unfold State.framePA; rw [h.rest]

theorem OnlyCopies.frameOk {s t : State} (h : OnlyCopies s t) (f : Nat) : t.frameOk f = s.frameOk f := by
  unfold State.frameOk; rw [h.framePA, h.framePA]

theorem OnlyCopies.queue {s t : State} (h : OnlyCopies s t) (q : Nat) : t.queue q = s.queue q := by
  unfold State.queue; rw [h.rest]

theorem OnlyCopies.cluster {s t : State} (h : OnlyCopies s t) (c : Nat) : t.cluster c = s.cluster c := by
  unfold State.cluster; rw [h.rest]

/-- A fold of operations that each change only copies. -/
theorem OnlyCopies.foldl {α : Type} (f : State → α → State) (hf : ∀ s a, OnlyCopies s (f s a)) (l : List α) (s : State) :
    OnlyCopies s (l.foldl f s) := by
  induction l generalizing s with
  | nil => exact .refl s
  | cons a l ih => exact (hf s a).trans (ih _)

theorem OnlyCopies.homeWrite (s : State) (pl : Nat) (d : LineData) (m : BitVec 128) : OnlyCopies s (s.homeWrite pl d m) := by
  refine ⟨?_, ?_, ?_, ?_, fun h => h.homeWrite pl d m⟩ <;> unfold State.homeWrite <;> split_ifs <;> first | rfl | exact fun _ => rfl

theorem OnlyCopies.mapCopies (s : State) (pl : Nat) (f : LineData → LineData) : OnlyCopies s (s.mapCopies pl f) := by
  refine (OnlyCopies.homeWrite s pl (f (s.homeRead pl)) fullMask).trans ?_
  unfold State.mapCopies
  generalize s.homeWrite pl (f (s.homeRead pl)) fullMask = s
  refine ⟨rfl, fun d => ?_, fun k => ?_, fun l => ?_, fun h => h⟩
  · simp only [State.die, Tab.getD, Tab.get?_mapVal]
    cases Tab.get? s.dies d <;> rfl
  · simp only [State.core, Tab.getD, Tab.get?_mapVal]
    cases Tab.get? s.cores k <;> rfl
  · simp only [State.dirEnt, Tab.getD, Tab.get?_mapVal]
    cases Tab.get? s.dir l with
    | none => rfl
    | some e => simp only [Option.map_some, Option.getD_some]; split <;> rfl

theorem OnlyCopies.cohWrite (s : State) (fuel pa : Nat) (bs : List Byte) : OnlyCopies s (s.cohWrite fuel pa bs) := by
  induction fuel generalizing s pa bs with
  | zero => exact .refl s
  | succ n ih =>
    unfold State.cohWrite
    split
    · exact .refl s
    · exact (OnlyCopies.mapCopies s _ _).trans (ih _ _ _)

theorem OnlyCopies.physWrite (s : State) (pa : Nat) (bs : List Byte) : OnlyCopies s (s.physWrite pa bs) := .cohWrite s _ pa bs

theorem OnlyCopies.putFrame (s : State) (f : Nat) (l : List (Nat × List Byte)) : OnlyCopies s (s.putFrame f l) :=
  .foldl (fun s (w : Nat × List Byte) => s.physWrite (s.framePA f w.1) w.2) (fun s w => .physWrite s _ w.2) l s

theorem OnlyCopies.saveHeader (s : State) (f : Nat) : OnlyCopies s (s.saveHeader f) := by
  unfold State.saveHeader
  split
  · exact .refl s
  · split
    · exact .refl s
    · exact .putFrame s f _

theorem OnlyCopies.saveState (s : State) (f state : Nat) : OnlyCopies s (s.saveState f state) := by
  unfold State.saveState
  split
  · exact .refl s
  · split
    · exact .refl s
    · exact .putFrame s f _

theorem OnlyCopies.saveBlock (s : State) (f : Nat) : OnlyCopies s (s.saveBlock f) := by
  unfold State.saveBlock
  split
  · exact .refl s
  · exact .putFrame s f _

theorem OnlyCopies.saveStatus (s : State) (ctx : Nat) : OnlyCopies s (s.saveStatus ctx) := by
  unfold State.saveStatus
  split
  · exact .refl s
  · split
    · exact .putFrame s _ _
    · exact .refl s

theorem OnlyCopies.savePc (s : State) (ctx : Nat) : OnlyCopies s (s.savePc ctx) := by
  unfold State.savePc
  split
  · exact .refl s
  · dsimp only
    split
    · exact .putFrame s _ _
    · exact .refl s

theorem OnlyCopies.saveWindow (s : State) (f : Nat) (b : Block) (w : Memory) : OnlyCopies s (s.saveWindow f b w) :=
  .putFrame s f _

/-! ## What follows for a team -/

/-- An access credited: its team's record, its saved status, and nothing else. -/
theorem State.credit_eq (s : State) (ctx ent id lane : Nat) (got : List (Nat × Byte)) :
    s.credit ctx ent id lane got = s ∨
      ∃ t, Tab.get? s.teams ctx = some t ∧ OnlyCopies (s.setTeam ctx (t.credit ent id lane got)) (s.credit ctx ent id lane got) := by
  unfold State.credit
  split
  · exact .inl rfl
  · split
    · exact .inl rfl
    · next t h => exact .inr ⟨t, h, .saveStatus _ ctx⟩

/-- A credit changes nothing of a team but its record and the values of its outstanding results. -/
theorem Team.credit_eq (t : Team) (ent id lane : Nat) (got : List (Nat × Byte)) :
    t.credit ent id lane got = { t with
      inflight := (t.credit ent id lane got).inflight, pend := (t.credit ent id lane got).pend } := by
  have answers : ∀ (l : List (Cell × Nat)) (u : Team) (uid : Nat),
      l.foldl (fun t c => t.answer uid c.1 c.2) u =
        { u with pend := (l.foldl (fun t c => t.answer uid c.1 c.2) u).pend } := by
    intro l
    induction l with
    | nil => intro u uid; rfl
    | cons c l ih => intro u uid; rw [List.foldl_cons, ih]; rfl
  unfold Team.credit
  split
  · rfl
  · split
    · rfl
    · dsimp only
      split
      · rfl
      · rw [answers]

/-- Taking a trap with a handler: the trap area is written, and the team enters its handler (R276). -/
theorem State.deliver_handler {s : State} {ctx : Nat} {i : TrapInfo} {h : Word64} (hn : (s.team ctx).handler = false)
    (hh : s.handlerFor ctx i = some h) (hf : s.frameOk (frameOf ctx) = true) :
    ∃ w, OnlyCopies s w ∧
      w = s.physWrite (s.framePA (frameOf ctx) (trapArea (teamIx ctx)))
        (trapRecord ((s.team ctx).keepWait i) s.time ++ toBytes 128 (i.lanes.getD 0).toNat ++ toBytes 128 (s.team ctx).exec.toNat) ∧
      s.deliver ctx i = w.setTeam ctx
        { s.team ctx with
          faultpc := i.pc, handler := true, exec := lanesBelow (s.widthOf ctx), pc := h, sched := .ready, trap := none
          fresh := true, entryTgt := true, fetchRep := false, waitWord := 0, rewait := false, fatalRun := decide (i.deliv = 1) } := by
  refine ⟨_, .physWrite s _ _, rfl, ?_⟩
  unfold State.deliver
  have hc := OnlyCopies.physWrite s (s.framePA (frameOf ctx) (trapArea (teamIx ctx)))
    (trapRecord ((s.team ctx).keepWait i) s.time ++ toBytes 128 (i.lanes.getD 0).toNat ++ toBytes 128 (s.team ctx).exec.toNat)
  simp only [hn, hh, hf, Bool.not_true, if_false, Bool.false_eq_true]
  rw [hc.team, hc.widthOf]

end Sys2Proof.Machine
end

