-- ==== Sys2Proof/Laws/Issue.lean ====
section
/-! SUPPORT. What an issue does, said once for every instruction: the answer of `exec` when the checks pass, the team
that goes on, and what is left as it was. -/

namespace Sys2Proof.Machine

/-! ## Outstanding results -/

@[simp] theorem Team.post_pend (t : Team) (u : Nat) (c : Cell) (v : Option (BitVec 1024)) :
    (t.post u c v).pend = (t.pend.filter fun r => r.cell != c) ++ [{ uid := u, cell := c, val := v }] := rfl

theorem Team.due_post_same (t : Team) (u : Nat) (c : Cell) (v : Option (BitVec 1024)) : (t.post u c v).due c = v := by
  unfold Team.due
  rw [Team.post_pend, List.find?_append]
  have : (t.pend.filter fun r => r.cell != c).find? (fun r => r.cell == c) = none := by
    simp [List.find?_eq_none]
  simp [this]

theorem Team.due_post_other (t : Team) (u : Nat) {c d : Cell} (v : Option (BitVec 1024)) (h : d ≠ c) :
    (t.post u c v).due d = t.due d := by
  unfold Team.due
  rw [Team.post_pend, List.find?_append]
  have h1 : (t.pend.filter fun r => r.cell != c).find? (fun r => r.cell == d) = t.pend.find? (fun r => r.cell == d) := by
    rw [List.find?_filter]
    congr 1
    funext r
    by_cases hr : r.cell = d
    · subst hr; simp [h]
    · simp [hr]
  rw [h1]
  have h2 : ¬ (c = d) := fun e => h e.symm
  cases hf : t.pend.find? (fun r => r.cell == d) <;> simp [h2]

/-- A cell that no result names keeps what was due for it. -/
theorem Team.due_postAll_other (t : Team) (u : Nat) (rs : List (Cell × Option (BitVec 1024))) {d : Cell}
    (h : ∀ r ∈ rs, r.1 ≠ d) : (t.postAll u rs).due d = t.due d := by
  induction rs generalizing t with
  | nil => rfl
  | cons r rs ih =>
    have := ih (t.post u r.1 r.2) fun x hx => h x (List.mem_cons_of_mem _ hx)
    unfold Team.postAll at this ⊢
    rw [List.foldl_cons, this, Team.due_post_other]
    exact Ne.symm (h r List.mem_cons_self)

/-- A named cell is due what the last result for it says; here every result for the cell says the same. -/
theorem Team.due_postAll (t : Team) (u : Nat) (rs : List (Cell × Option (BitVec 1024))) {d : Cell}
    {v : Option (BitVec 1024)} (hm : (d, v) ∈ rs) (h : ∀ w, (d, w) ∈ rs → w = v) : (t.postAll u rs).due d = v := by
  induction rs generalizing t with
  | nil => cases hm
  | cons r rs ih =>
    by_cases hr : (d, v) ∈ rs
    · have := ih (t.post u r.1 r.2) hr fun w hw => h w (List.mem_cons_of_mem _ hw)
      unfold Team.postAll at this ⊢
      rwa [List.foldl_cons]
    · have he : r = (d, v) := by
        rcases List.mem_cons.1 hm with e | e
        · exact e.symm
        · exact absurd e hr
      subst he
      have hno : ∀ x ∈ rs, x.1 ≠ d := by
        intro x hx e
        have : x.2 = v := h x.2 (by rw [← e]; exact List.mem_cons_of_mem _ hx)
        exact hr (by rw [← e, ← this]; exact hx)
      have h1 := Team.due_postAll_other (t.post u d v) u rs hno
      unfold Team.postAll at h1 ⊢
      rw [List.foldl_cons, h1, Team.due_post_same]

/-- Making results outstanding changes nothing else of the team. -/
theorem Team.postAll_eq (t : Team) (u : Nat) (rs : List (Cell × Option (BitVec 1024))) :
    t.postAll u rs = { t with pend := (t.postAll u rs).pend } := by
  induction rs generalizing t with
  | nil => rfl
  | cons r rs ih =>
    have := ih (t.post u r.1 r.2)
    unfold Team.postAll at this ⊢
    rw [List.foldl_cons, this]
    rfl

/-! ## The marker -/

theorem Team.mark_eq (t : Team) (m : Bool) : t.mark m = { t with sched := (t.mark m).sched } := by
  unfold Team.mark Team.settle
  split_ifs <;> rfl

@[simp] theorem Team.mark_pend (t : Team) (m : Bool) : (t.mark m).pend = t.pend := by rw [Team.mark_eq]

@[simp] theorem Team.passed_pend (t : Team) (pc : Word64) (m : Bool) : (t.passed pc m).pend = t.pend := by
  simp [Team.passed]

@[simp] theorem Team.passed_due (t : Team) (pc : Word64) (m : Bool) (c : Cell) : (t.passed pc m).due c = t.due c := by
  simp [Team.due]

@[simp] theorem Team.passed_pc (t : Team) (pc : Word64) (m : Bool) : (t.passed pc m).pc = pc := by
  unfold Team.passed; rw [Team.mark_eq]

theorem Team.passed_eq (t : Team) (pc : Word64) (m : Bool) :
    t.passed pc m = { t with pc := pc, fresh := false, entryTgt := false, fetchRep := false, sched := (t.passed pc m).sched } := by
  unfold Team.passed; rw [Team.mark_eq]

theorem SameRegs.passed {u v : Team} (h : SameRegs u v) (pc : Word64) (m : Bool) : SameRegs u (v.passed pc m) := by
  unfold SameRegs at *
  rw [Team.passed_eq]
  rw [h]

/-! ## Nothing but the team -/

theorem OnlyTeam.refl (s : State) (ctx : Nat) : OnlyTeam s s ctx := ⟨fun _ _ => rfl, fun _ => rfl, rfl⟩

theorem OnlyTeam.trans {s t u : State} {ctx : Nat} (h : OnlyTeam s t ctx) (g : OnlyTeam t u ctx) : OnlyTeam s u ctx := by
  refine ⟨fun c hc => (g.others c hc).trans (h.others c hc), fun k => ?_, ?_⟩
  · have h1 := h.cores k
    have h2 := g.cores k
    generalize u.core k = x at *
    rw [h1] at h2
    exact h2
  · have h1 := h.rest
    have h2 := g.rest
    rw [h1] at h2
    exact h2

theorem OnlyTeam.setTeam (s : State) (ctx : Nat) (t : Team) : OnlyTeam s (s.setTeam ctx t) ctx :=
  ⟨fun _ hc => Tab.get?_put_other _ _ _ hc, fun _ => rfl, rfl⟩

theorem OnlyTeam.bumpUid (s : State) (ctx : Nat) : OnlyTeam s s.bumpUid ctx := ⟨fun _ _ => rfl, fun _ => rfl, rfl⟩

theorem OnlyTeam.pair (s : State) (ctx : Nat) (p : Option Instr) (m : Bool) :
    OnlyTeam s { s with pairSecond := p, pairMark := m } ctx := ⟨fun _ _ => rfl, fun _ => rfl, rfl⟩

theorem OnlyTeam.noteLast (s : State) (ctx c n : Nat) : OnlyTeam s (s.setCore c { s.core c with last := n }) ctx := by
  refine ⟨fun _ _ => rfl, fun k => ?_, rfl⟩
  by_cases h : k = c
  · subst h; simp
  · simp [State.core_setCore_other _ _ h]

theorem OnlyTeam.noteGroups (s : State) (ctx x : Nat) (g : BitVec 4) : OnlyTeam s (s.noteGroups x g) ctx := by
  refine ⟨fun _ _ => rfl, fun k => ?_, rfl⟩
  unfold State.noteGroups
  by_cases h : k = s.coreOf x
  · subst h; simp
  · simp [State.core_setCore_other _ _ h]

/-- The team's block is as it was. -/
theorem OnlyTeam.blockOf {s t : State} {ctx : Nat} (h : OnlyTeam s t ctx) (c : Nat) : t.blockOf? c = s.blockOf? c := by
  rw [h.rest]; rfl

/-! ## After an issue -/

/-- In a running block with no single step, an issue is followed by no stop. -/
theorem State.afterIssue_running {s : State} {ctx : Nat} {b : Block} (hb : s.blockOf? ctx = some b)
    (hr : b.place = .running) (hs : b.stepping = none) :
    s.afterIssue ctx = s.setCore (s.coreOf ctx) { s.core (s.coreOf ctx) with last := s.slotOf ctx } := by
  have hb' : s.block? (frameOf ctx) = some b := hb
  unfold State.afterIssue
  simp [State.boundary, State.endStep, State.finishFreeze, hb, hb', hr, hs]

/-- An issue that is complete goes on at the program counter; nothing else changes. -/
theorem State.complete_running {s : State} {ctx : Nat} {i : Instr} {pc : Word64} {b : Block}
    (hb : s.blockOf? ctx = some b) (hr : b.place = .running) (hs : b.stepping = none) :
    OnlyTeam s (s.complete ctx i pc) ctx ∧ (s.complete ctx i pc).team ctx = (s.team ctx).passed pc (s.marks i) := by
  unfold State.complete
  by_cases hp : s.pairSecond.isSome
  · simp only [hp, if_true]
    refine ⟨(OnlyTeam.setTeam s ctx _).trans (OnlyTeam.pair _ ctx _ _), ?_⟩
    have : s.marks i = false := by
      unfold State.marks; cases h : s.pairSecond <;> simp_all
    rw [this]
    have h1 : ∀ t : Team, t.mark false = t := fun t => by simp [Team.mark]
    rw [Team.passed, h1]
    exact State.team_setTeam _ _ _
  · have hn : s.marks i = (swOf i || s.pairMark) := by
      unfold State.marks; cases h : s.pairSecond <;> simp_all
    simp only [hp, Bool.false_eq_true, if_false]
    rw [State.afterIssue_running (b := b) (by rw [State.setTeam_blockOfQ]; exact hb) hr hs]
    refine ⟨((OnlyTeam.pair s ctx _ _).trans (OnlyTeam.setTeam _ ctx _)).trans (OnlyTeam.noteLast _ ctx _ _), ?_⟩
    rw [hn]
    simp [Team.passed]

/-- `exec` answers a next state when the checks before the instruction's own entry pass. -/
theorem State.atIssue_next {s : State} {ctx : Nat} {i : Instr} (body : Nat → Issued) (hr : s.Runs ctx)
    (hp : s.Passes ctx i) : s.atIssue i body = .next (s.conclude ctx i (body ctx)) := by
  obtain ⟨hc, hi, _⟩ := hr
  unfold State.Passes at hp
  simp [State.atIssue, hc, hi, hp]

/-- The next state of an instruction whose own part is done and touched the team alone. -/
theorem State.conclude_done {s s' : State} {ctx : Nat} {i : Instr} (hr : s.Runs ctx) (ho : OnlyTeam s s' ctx)
    (hm : s'.marks i = s.marks i) :
    OnlyTeam s (s.conclude ctx i (.done s')) ctx ∧
      (s.conclude ctx i (.done s')).team ctx = (s'.team ctx).passed (nextPc (s.team ctx).pc) (s.marks i) := by
  obtain ⟨_, _, b, hb, hr, hs⟩ := hr
  have h1 := OnlyTeam.noteGroups s' ctx ctx (s.groupsAt ctx i)
  have hb' : (s'.noteGroups ctx (s.groupsAt ctx i)).blockOf? ctx = some b := by
    rw [h1.blockOf, ho.blockOf]; exact hb
  have h2 := State.complete_running (i := i) (pc := nextPc (s.team ctx).pc) hb' hr hs
  refine ⟨(ho.trans h1).trans h2.1, ?_⟩
  have h3 : (s'.noteGroups ctx (s.groupsAt ctx i)).marks i = s'.marks i := rfl
  have h4 : (s'.noteGroups ctx (s.groupsAt ctx i)).team ctx = s'.team ctx := rfl
  show ((s'.noteGroups ctx (s.groupsAt ctx i)).complete ctx i (nextPc (s.team ctx).pc)).team ctx = _
  rw [h2.2, h3, h4, hm]

/-- The next state of a transfer. -/
theorem State.conclude_jump {s s' : State} {ctx : Nat} {i : Instr} {pc : Word64} (hr : s.Runs ctx)
    (ho : OnlyTeam s s' ctx) (hm : s'.marks i = s.marks i) :
    OnlyTeam s (s.conclude ctx i (.jump s' pc)) ctx ∧
      (s.conclude ctx i (.jump s' pc)).team ctx = (s'.team ctx).passed pc (s.marks i) := by
  obtain ⟨_, _, b, hb, hr, hs⟩ := hr
  have hb' : s'.blockOf? ctx = some b := by rw [ho.blockOf]; exact hb
  have h2 := State.complete_running (i := i) (pc := pc) hb' hr hs
  refine ⟨ho.trans h2.1, ?_⟩
  show (s'.complete ctx i pc).team ctx = _
  rw [h2.2, hm]

/-- An instruction that makes results outstanding: its next state, whole. -/
theorem State.results_next {s : State} {ctx : Nat} {i : Instr} {body : Nat → Issued}
    {rs : List (Cell × Option (BitVec 1024))} (hr : s.Runs ctx) (hp : s.Passes ctx i)
    (hb : body ctx = s.results ctx rs) :
    ∃ t, s.atIssue i body = .next t ∧ OnlyTeam s t ctx ∧
      t.team ctx = ((s.team ctx).postAll s.uid rs).passed (nextPc (s.team ctx).pc) (s.marks i) := by
  refine ⟨_, State.atIssue_next body hr hp, ?_⟩
  rw [hb]
  have h := State.conclude_done (s' := ((s.setTeam ctx ((s.team ctx).postAll s.uid rs)).bumpUid)) (i := i) hr
    ((OnlyTeam.setTeam s ctx _).trans (OnlyTeam.bumpUid _ ctx)) rfl
  refine ⟨h.1, ?_⟩
  have h2 := h.2
  have h3 : ((s.setTeam ctx ((s.team ctx).postAll s.uid rs)).bumpUid).team ctx = (s.team ctx).postAll s.uid rs := by simp
  rw [h3] at h2
  exact h2

end Sys2Proof.Machine
end

