-- ==== Sys2Proof/Laws/Events.lean ====
section
/-! SUPPORT. What the shared operations of fetching, of events and of a team's end can change, said once for each. -/

namespace Sys2Proof.Machine

/-! ## Fetching: translations and fetch lines only -/

theorem SameTiles.refl (x : Tab Tile) : SameTiles x x := fun k => by
  cases h : Tab.get? x k with
  | none => exact ⟨none, rfl⟩
  | some t => exact ⟨t.attr, rfl⟩

theorem SameTiles.trans {x y z : Tab Tile} (h : SameTiles x y) (g : SameTiles y z) : SameTiles x z := fun k => by
  obtain ⟨a, ha⟩ := h k
  obtain ⟨b, hb⟩ := g k
  refine ⟨b, ?_⟩
  rw [hb, ha]
  cases Tab.get? x k <;> rfl

theorem OnlyFetch.refl (s : State) : OnlyFetch s s := ⟨fun _ => rfl, fun _ => .refl _, fun _ => rfl, rfl⟩

theorem OnlyFetch.trans {s t u : State} (h : OnlyFetch s t) (g : OnlyFetch t u) : OnlyFetch s u := by
  refine ⟨fun d => ?_, fun d => SameTiles.trans (h.tiles d) (g.tiles d), fun k => ?_, ?_⟩
  · have a := h.dies d
    have b := g.dies d
    rw [a] at b
    exact b
  · have a := h.cores k
    have b := g.cores k
    rw [a] at b
    exact b
  · have a := h.rest
    have b := g.rest
    rw [a] at b
    exact b

theorem OnlyFetch.team {s t : State} (h : OnlyFetch s t) (c : Nat) : t.team c = s.team c := by
  unfold State.team; rw [h.rest]

theorem OnlyFetch.blockOf {s t : State} (h : OnlyFetch s t) (c : Nat) : t.blockOf? c = s.blockOf? c := by
  unfold State.blockOf? State.block?; rw [h.rest]

/-- A die's list of translations replaced. -/
theorem OnlyFetch.setTlb (s : State) (d : Nat) (tlb walked : List TlbEnt) : OnlyFetch s (s.setDie d { s.die d with tlb, walked }) := by
  refine ⟨fun e => ?_, fun e => ?_, fun _ => rfl, rfl⟩
  · by_cases h : e = d
    · subst h; simp [State.die, State.setDie]
    · simp [State.die, State.setDie, Tab.getD_put_other _ _ _ _ h]
  · by_cases h : e = d
    · subst h; rw [State.die_setDie]; exact .refl _
    · rw [State.die_setDie_other _ _ h]; exact .refl _

/-- A die's fetches on their way to peers replaced. -/
theorem OnlyFetch.setAway (s : State) (d : Nat) (away : List (Nat × Nat × Nat)) :
    OnlyFetch s (s.setDie d { s.die d with away }) := by
  refine ⟨fun e => ?_, fun e => ?_, fun _ => rfl, rfl⟩
  · by_cases h : e = d
    · subst h; simp [State.die, State.setDie]
    · simp [State.die, State.setDie, Tab.getD_put_other _ _ _ _ h]
  · by_cases h : e = d
    · subst h; rw [State.die_setDie]; exact .refl _
    · rw [State.die_setDie_other _ _ h]; exact .refl _

/-- The attributes kept with one tile of a die replaced. -/
theorem State.keepLeaf_only (s : State) (d tile : Nat) (a : Attr) : OnlyFetch s (s.keepLeaf d tile a) := by
  refine ⟨fun e => ?_, fun e => ?_, fun _ => rfl, rfl⟩ <;> unfold State.keepLeaf <;> by_cases h : e = d
  · subst h; rw [State.die_setDie]
  · rw [State.die_setDie_other _ _ h]
  · subst h
    rw [State.die_setDie]
    intro k
    rw [Tab.get?_mapVal]
    by_cases hk : k = tile
    · exact ⟨some a, by simp [hk]⟩
    · obtain ⟨b, hb⟩ := SameTiles.refl (s.die e).tiles k
      exact ⟨b, by rw [← hb]; simp [hk]⟩
  · rw [State.die_setDie_other _ _ h]; exact .refl _

/-- A core's fetch buffer replaced. -/
theorem OnlyFetch.setFbuf (s : State) (c : Nat) (fbuf : Tab (BitVec 512 × Attr)) :
    OnlyFetch s (s.setCore c { s.core c with fbuf }) := by
  refine ⟨fun _ => rfl, fun _ => .refl _, fun k => ?_, rfl⟩
  by_cases h : k = c
  · subst h; simp [State.core, State.setCore]
  · simp [State.core, State.setCore, Tab.getD_put_other _ _ _ _ h]

/-! ## Homes asked -/

theorem OnlyAsk.of {s t : State} (h : OnlyFetch s t) : OnlyAsk s t :=
  ⟨h.dies, h.tiles, h.cores, fun l => ⟨[], by unfold State.dirEnt; rw [h.rest]; simp⟩, by
    have a := h.rest
    rw [a]⟩

theorem OnlyFetch.ask {s t u : State} (h : OnlyFetch s t) (g : OnlyAsk t u) : OnlyAsk s u := by
  refine ⟨fun d => ?_, fun d => SameTiles.trans (h.tiles d) (g.tiles d), fun k => ?_, fun l => ?_, ?_⟩
  · have a := h.dies d
    have b := g.dies d
    rw [a] at b
    exact b
  · have a := h.cores k
    have b := g.cores k
    rw [a] at b
    exact b
  · have a : t.dirEnt l = s.dirEnt l := by unfold State.dirEnt; rw [h.rest]
    have b := g.asks l
    rwa [a] at b
  · have a := h.rest
    have b := g.rest
    rw [a] at b
    exact b

/-- A request of a home itself joins one line's queue, or stands there already. -/
theorem State.homeAsk_only (s : State) (pl : Nat) (op : HomeOp) : OnlyAsk s (s.homeAsk pl op) := by
  unfold State.homeAsk
  dsimp only
  split
  · exact .of (.refl s)
  · refine ⟨fun _ => rfl, fun _ => .refl _, fun _ => rfl, fun l => ?_, rfl⟩
    by_cases h : l = pl
    · subst h; exact ⟨_, by rw [State.dirEnt_setDir]⟩
    · exact ⟨[], by rw [State.dirEnt_setDir_other _ _ h]; simp⟩

theorem State.dropTlb_only (s : State) (d asid va : Nat) : OnlyFetch s (s.dropTlb d asid va) := .setTlb s d _ _

/-- A translation changes nothing but its die's list. -/
theorem State.translate_only (s : State) (d asid va : Nat) (n : Need) : OnlyFetch s (s.translate d asid va n).1 := by
  unfold State.translate
  dsimp only
  split
  · exact .refl s
  · split
    · exact .setTlb s d _ _
    · split <;> exact .setTlb s d _ _

/-- What a line fetched changes. -/
def Line.Only (s : State) : Line → Prop
  | .ok s' _ => OnlyFetch s s'
  | .fault s' _ _ => OnlyFetch s s'
  | .later s' => OnlyAsk s s'

theorem Line.Only.after {s t : State} (h : OnlyFetch s t) : {l : Line} → l.Only t → l.Only s
  | .ok _ _, g => h.trans g
  | .fault _ _ _, g => h.trans g
  | .later _, g => h.ask g

theorem State.takeFetch_only (s : State) (ctx va : Nat) (data : LineData) (a : Attr) :
    (s.takeFetch ctx va data a).Only s := .setFbuf s _ _

/-- A fetch that goes to a peer changes only what is on its way there. -/
theorem State.fetchAway_only (s : State) (ctx va pl : Nat) : OnlyFetch s (s.fetchAway ctx va pl) := by
  unfold State.fetchAway
  dsimp only
  split
  · exact .refl s
  · exact .setAway s _ _

theorem State.fetchBack_only (s : State) (ctx va pl : Nat) : OnlyFetch s (s.fetchBack ctx va pl) := by
  unfold State.fetchBack
  dsimp only
  split
  · exact .setAway s _ _
  · exact .refl s

theorem State.refetch_only (s : State) (ctx : Nat) (pc : Word64) (recheck : Bool) : (s.refetch ctx pc recheck).Only s := by
  unfold State.refetch
  dsimp only
  split
  · exact s.takeFetch_only ctx _ _ _
  · generalize hs : (if (s.keptRefuses _ _ || recheck || (s.team ctx).fetchRep) = true then _ else s) = t
    have h : OnlyFetch s t := by
      rw [← hs]; split
      · exact s.dropTlb_only _ _ _
      · exact .refl s
    refine Line.Only.after h ?_
    split
    · exact t.homeAsk_only _ _
    · generalize hr : t.translate _ _ _ _ = r
      have g : OnlyFetch t r.1 := by rw [← hr]; exact t.translate_only _ _ _ _
      refine Line.Only.after g ?_
      obtain ⟨u, x⟩ := r
      cases x with
      | error e => exact OnlyFetch.refl u
      | ok e =>
        dsimp only
        generalize hk : (if s.keptRefuses _ _ = true then _ else u) = v
        have k : OnlyFetch u v := by
          rw [← hk]; split
          · exact u.keepLeaf_only _ _ _
          · exact .refl u
        refine Line.Only.after k ?_
        split
        · exact v.homeAsk_only _ _
        · split
          · exact .of (v.fetchAway_only _ _ _)
          · exact Line.Only.after (v.fetchBack_only _ _ _) (State.takeFetch_only _ ctx _ _ _)

theorem State.fetchLine_only (s : State) (ctx : Nat) (pc : Word64) : (s.fetchLine ctx pc).Only s := by
  unfold State.fetchLine
  split
  · exact .of (.refl s)
  · cases Tab.get? (s.core (s.coreOf ctx)).fbuf (fetchKey (s.asidOf ctx) (pcLine pc).toNat) with
    | none => exact s.refetch_only ctx pc _
    | some e =>
      dsimp only
      by_cases h : (e.2.x && (e.2.u || s.isHandler ctx)) = true
      · rw [if_pos h]; exact OnlyFetch.refl s
      · rw [if_neg h]; exact s.refetch_only ctx pc _

theorem State.goodLine_only (s : State) (ctx : Nat) (pc : Word64) (bad : BitVec 512 → Bool) :
    (s.goodLine ctx pc bad).Only s := by
  unfold State.goodLine
  have h := s.fetchLine_only ctx pc
  cases hl : s.fetchLine ctx pc with
  | fault s' ty lv => rw [hl] at h; exact h
  | later s' => rw [hl] at h; exact h
  | ok s' l =>
    rw [hl] at h
    dsimp only
    split
    · exact Line.Only.after (OnlyFetch.trans h (.setFbuf s' _ _)) (State.refetch_only _ ctx pc _)
    · exact h

/-- A target's check changes nothing but translations and fetch lines, and what homes are asked. -/
theorem State.checkTarget_only (s : State) (ctx : Nat) (pc : Word64) :
    match s.checkTarget ctx pc with
    | .ok s' => OnlyFetch s s'
    | .fault s' _ _ => OnlyFetch s s'
    | .later s' => OnlyAsk s s'
    | .bad _ => True := by
  unfold State.checkTarget
  split_ifs with h1 h2
  · trivial
  · trivial
  · have h := s.goodLine_only ctx pc fun l => lparBad (lineWord l)
    cases hl : s.goodLine ctx pc (fun l => lparBad (lineWord l)) with
    | fault s' ty lv => rw [hl] at h; exact h
    | later s' => rw [hl] at h; exact h
    | ok s' l =>
      rw [hl] at h
      dsimp only
      split_ifs
      · trivial
      · trivial
      · exact h

/-- The fetch at a program counter changes nothing but translations and fetch lines, and what homes are asked. -/
theorem State.fetch_only (s : State) (ctx : Nat) :
    match s.fetch ctx with
    | .words s' _ _ => OnlyFetch s s'
    | .trap s' _ _ => OnlyFetch s s'
    | .hold s' _ _ => OnlyFetch s s'
    | .later s' => OnlyAsk s s' := by
  unfold State.fetch
  dsimp only
  by_cases h1 : badSlot (s.team ctx).pc = true
  · rw [if_pos h1]; exact .refl s
  by_cases h2 : (!canonical (pcLine (s.team ctx).pc)) = true
  · rw [if_neg h1, if_pos h2]; exact .refl s
  · rw [if_neg h1, if_neg h2]
    have h := s.goodLine_only ctx (s.team ctx).pc fun l =>
      lparBad (lineWord l) || (issuing (lineWord l) (pcSlot (s.team ctx).pc)).any (parBad l)
    cases hl : s.goodLine ctx (s.team ctx).pc (fun l =>
      lparBad (lineWord l) || (issuing (lineWord l) (pcSlot (s.team ctx).pc)).any (parBad l)) with
    | fault s' ty lv => rw [hl] at h; exact h
    | later s' => rw [hl] at h; exact h
    | ok s' l =>
      rw [hl] at h
      dsimp only
      split_ifs <;> exact h

/-! ## Events of a team in a block that runs -/

/-- Nothing follows an event of a team whose block runs with no freeze asked of it and no single step. -/
theorem State.afterEvent_running {s : State} {ctx : Nat} {b : Block} (hb : s.blockOf? ctx = some b)
    (hp : b.place = .running) (hs : b.stepping = none) : s.afterEvent ctx = s := by
  have hb' : s.block? (frameOf ctx) = some b := hb
  have h1 : s.boundary ctx false = s := by simp [State.boundary, hb', hp]
  have h2 : s.endStep ctx false = s := by simp [State.endStep, hb, hs]
  unfold State.afterEvent
  rw [h1, h2]
  simp [State.finishFreeze, hb', hp]

/-- The end of a wait that is no barrier's, in such a block, with no fatal fault to take first (R43). -/
theorem State.endWait_running {s : State} {ctx : Nat} {b : Block} (hb : s.blockOf? ctx = some b) (hp : b.place = .running)
    (hf : (s.team ctx).fatal = []) :
    s.endWait ctx false = s.setTeam ctx
      ({ s.team ctx with sched := .ready, pc := nextPc (s.team ctx).pc, waitWord := 0 }.mark ((s.team ctx).waitWord.getLsbD 87)) := by
  have hb' : s.block? (frameOf ctx) = some b := hb
  unfold State.endWait
  simp [hf, State.boundary, State.setTeam, State.block?]
  unfold State.block? at hb'
  simp [hb', hp]

/-! ## The end of a team (R53, R268, R269) -/

/-- Announcements change the queues at the Drums and nothing else. -/
theorem State.leaveGangs_eq (s : State) (ctx : Nat) :
    s.leaveGangs ctx = { s with dies := (s.leaveGangs ctx).dies } ∧
      ∀ d, (s.leaveGangs ctx).die d = { s.die d with anns := ((s.leaveGangs ctx).die d).anns } := by
  unfold State.leaveGangs
  generalize s.team ctx = t
  generalize gangList t.gangs = l
  induction l generalizing s with
  | nil => exact ⟨rfl, fun _ => rfl⟩
  | cons g l ih =>
    rw [List.foldl_cons]
    obtain ⟨h1, h2⟩ := ih (s.announce (s.dieOfCtx ctx) (.gleave ctx g))
    refine ⟨?_, fun d => ?_⟩
    · rw [h1]; rfl
    · have h := h2 d
      have a : (s.announce (s.dieOfCtx ctx) (.gleave ctx g)).die d =
          { s.die d with anns := ((s.announce (s.dieOfCtx ctx) (.gleave ctx g)).die d).anns } := by
        unfold State.announce
        by_cases e : d = s.dieOfCtx ctx
        · subst e; simp [State.die, State.setDie]
        · simp [State.die, State.setDie, Tab.getD_put_other _ _ _ _ e]
      rw [a] at h
      exact h

/-- The end of work is noted at a die, and nothing else changes. -/
theorem State.noteEndOf_eq (s : State) (ctx : Nat) :
    s.noteEndOf ctx = { s with dies := (s.noteEndOf ctx).dies } ∧
      ∀ d, (s.noteEndOf ctx).die d = { s.die d with ended := ((s.noteEndOf ctx).die d).ended } := by
  unfold State.noteEndOf
  split
  · exact ⟨rfl, fun _ => rfl⟩
  · unfold State.noteEnd
    dsimp only
    split
    · exact ⟨rfl, fun _ => rfl⟩
    · refine ⟨rfl, fun d => ?_⟩
      next b _ _ =>
        by_cases e : d = dieOf b.core
        · subst e; simp [State.die, State.setDie]
        · simp [State.die, State.setDie, Tab.getD_put_other _ _ _ _ e]

/-- A team's departure changes the dies' Drums and their notes of ended work, and nothing else (R53, R302). -/
theorem State.departs_eq (s : State) (ctx : Nat) :
    (s.leaveGangs ctx).noteEndOf ctx = { s with dies := ((s.leaveGangs ctx).noteEndOf ctx).dies } ∧
      ∀ d, ((s.leaveGangs ctx).noteEndOf ctx).die d = { s.die d with
        anns := (((s.leaveGangs ctx).noteEndOf ctx).die d).anns, ended := (((s.leaveGangs ctx).noteEndOf ctx).die d).ended } := by
  obtain ⟨h1, h2⟩ := s.leaveGangs_eq ctx
  obtain ⟨g1, g2⟩ := (s.leaveGangs ctx).noteEndOf_eq ctx
  refine ⟨?_, fun d => ?_⟩
  · rw [g1, h1]
  · have a := g2 d
    rw [h2 d] at a
    generalize ((s.leaveGangs ctx).noteEndOf ctx).die d = x at a ⊢
    rw [a]

/-- The team that an end leaves. -/
theorem State.endTeam_team (s : State) (ctx : Nat) (c : Cause) (addr : Word64) :
    (s.endTeam ctx c addr).team ctx =
      { s.team ctx with
        sched := .exited, pend := [], trap := none, fatal := flagging ((s.team ctx).trap.toList ++ (s.team ctx).fatal)
        endCause := c, handler := false, fatalRun := false } := by
  have h : ((s.leaveGangs ctx).noteEndOf ctx).team ctx = s.team ctx := by
    unfold State.team; rw [(s.departs_eq ctx).1]
  unfold State.endTeam
  dsimp only
  rw [h]
  split_ifs
  · simp [State.team, State.setTeam]
  · unfold State.countFault
    split
    · simp [State.team, State.setTeam]
    · unfold State.onLaunch
      dsimp only
      split_ifs <;> simp [State.team, State.setTeam, State.setQueue]

/-- No other team, no block and no memory changes at a team's end. -/
theorem State.endTeam_rest (s : State) (ctx : Nat) (c : Cause) (addr : Word64) :
    s.endTeam ctx c addr = { s with
      dies := ((s.leaveGangs ctx).noteEndOf ctx).dies, teams := (s.endTeam ctx c addr).teams
      queues := (s.endTeam ctx c addr).queues } ∧
    ∀ x, x ≠ ctx → Tab.get? (s.endTeam ctx c addr).teams x = Tab.get? s.teams x := by
  have h := (s.departs_eq ctx).1
  have ht : ((s.leaveGangs ctx).noteEndOf ctx).teams = s.teams := by rw [h]
  unfold State.endTeam
  dsimp only
  split_ifs
  · refine ⟨?_, fun x hx => ?_⟩
    · simp only [State.setTeam]; rw [h]
    · simp only [State.setTeam]; rw [Tab.get?_put_other _ _ _ hx, ht]
  · unfold State.countFault
    split
    · refine ⟨?_, fun x hx => ?_⟩
      · simp only [State.setTeam]; rw [h]
      · simp only [State.setTeam]; rw [Tab.get?_put_other _ _ _ hx, ht]
    · unfold State.onLaunch
      dsimp only
      split_ifs
      · refine ⟨?_, fun x hx => ?_⟩
        · simp only [State.setTeam]; rw [h]
        · simp only [State.setTeam]; rw [Tab.get?_put_other _ _ _ hx, ht]
      · refine ⟨?_, fun x hx => ?_⟩
        · simp only [State.setTeam, State.setQueue]; rw [h]
        · simp only [State.setTeam, State.setQueue]; rw [Tab.get?_put_other _ _ _ hx, ht]

/-! ## Requests that wait at a die -/

/-- With nothing waiting at a die, and its line not on its way out, a line's pump does nothing. -/
theorem State.pumpLine_idle {s : State} {d : Nat} (h : (s.die d).waits = []) {k : Nat}
    (hl : ∀ l, Tab.get? (s.die d).lines k = some l → l.leaving = false) (g : Bool) : s.pumpLine d k g = s := by
  have h1 : s.pump d k g 2 = s := by simp [State.pump, h]
  have h2 : s.leaveLine d k = s := by
    unfold State.leaveLine
    split
    · rfl
    · next l hk => simp [hl l hk]
  cases g <;> simp [State.pumpLine, h, h1, h2]

/-- With nothing waiting at a die and no line on its way out, its pump does nothing. -/
theorem State.pumpDie_idle {s : State} {d : Nat} (h : (s.die d).waits = [])
    (hl : (s.die d).lines.filter (·.2.leaving) = []) : s.pumpDie d = s := by
  simp [State.pumpDie, h, hl, distinct]

/-! ## Lines that leave -/

theorem OnlyFabric.refl (s : State) : OnlyFabric s s := rfl

theorem OnlyFabric.trans {s t u : State} (h : OnlyFabric s t) (g : OnlyFabric t u) : OnlyFabric s u := by
  unfold OnlyFabric at *
  rw [h] at g
  exact g

theorem OnlyFabric.foldl {α : Type} {f : State → α → State} (h : ∀ s x, OnlyFabric s (f s x)) (l : List α) (s : State) :
    OnlyFabric s (l.foldl f s) := by
  induction l generalizing s with
  | nil => exact .refl s
  | cons x l ih => exact (h s x).trans (ih _)

/-- A line that leaves changes dies, L1s and messages only. -/
theorem State.dropLine_fabric (s : State) (d k : Nat) (ws : List (Nat × Nat)) : OnlyFabric s (s.dropLine d k ws).1 := by
  have wb : ∀ (s : State) l b ws, OnlyFabric s (s.sendWb d k l b ws) := fun _ _ _ _ => rfl
  have gone : ∀ s : State, OnlyFabric s (s.delLine d k) := fun _ => rfl
  have put : ∀ (s : State) l, OnlyFabric s (s.setLine d k l) := fun _ _ => rfl
  have off : ∀ s : State, OnlyFabric s (s.l1Drop d k) := fun _ => rfl
  unfold State.dropLine
  split
  · exact .refl s
  · split_ifs
    · exact ((wb s _ _ _).trans (gone _)).trans (off _)
    · exact (put s _).trans (off _)
    · exact put s _
    · exact gone s

theorem State.settleL1_fabric (s : State) (core : Nat) : OnlyFabric s (s.settleL1 core) := by
  unfold State.settleL1
  refine (show OnlyFabric s (s.setCore core _) from rfl).trans (.foldl (fun s e => ?_) _ _)
  split
  · split_ifs <;> rfl
  · exact .refl s

theorem State.writeManaged_fabric (s : State) : OnlyFabric s s.writeManaged := by
  unfold State.writeManaged
  exact .foldl (fun s _ => .foldl (fun s _ => s.dropLine_fabric _ _ _) _ s) _ s

/-- What a warm reset leaves of a launch before its wipe: nothing, with memory as it was (R212). -/
theorem State.halted_frame (s : State) : s.halted.teams = [] ∧ s.halted.blocks = [] ∧ s.halted.queues = [] ∧
    s.halted.plat = { s.plat with warming := true } ∧ s.halted.out = s.out ∧ s.halted.mem = s.mem ∧
    s.halted.hostMem = s.hostMem ∧ s.halted.peerMem = s.peerMem ∧ s.halted.dir = s.dir ∧ s.halted.filter = s.filter := by
  have h := OnlyFabric.foldl (f := fun (s : State) (c : Nat × Core) => s.settleL1 c.1) (fun s c => s.settleL1_fabric c.1) s.cores s
  unfold State.halted
  dsimp only
  rw [State.writeManaged_fabric, h]
  simp

end Sys2Proof.Machine
end

