-- ==== Sys2Proof/Laws/Words.lean ====
section
/-! SUPPORT. The fields of a word that was put together from them: the encoder and the decoder agree on every format. -/

namespace Sys2Proof

theorem bits_hi {a b : Nat} (x : BitVec a) (y : BitVec b) (s n : Nat) (h : b ≤ s) :
    (x ++ y).extractLsb' s n = x.extractLsb' (s - b) n := by
  apply BitVec.eq_of_getLsbD_eq
  intro i hi
  simp only [BitVec.getLsbD_extractLsb', hi, decide_true, Bool.true_and, BitVec.getLsbD_append]
  have : ¬ s + i < b := by omega
  simp only [this, if_false]
  congr 1
  omega

theorem bits_lo {a b : Nat} (x : BitVec a) (y : BitVec b) : (x ++ y).extractLsb' 0 b = y := by
  apply BitVec.eq_of_getLsbD_eq
  intro i hi
  simp [BitVec.getLsbD_append, hi]

theorem bit_hi {a b : Nat} (x : BitVec a) (y : BitVec b) (s : Nat) (h : b ≤ s) :
    (x ++ y).getLsbD s = x.getLsbD (s - b) := by
  have : ¬ s < b := by omega
  simp [BitVec.getLsbD_append, this]

theorem bit_lo {a : Nat} (x : BitVec a) (v : Bool) : (x ++ bit1 v).getLsbD 0 = v := by
  rw [BitVec.getLsbD_append]; cases v <;> rfl

theorem getV_putV (op : BitVec 8) (f : VF) : getV (putV op f) = f := by
  unfold getV putV
  simp only [bits_hi, bits_lo, bit_hi, bit_lo, Nat.reduceLeDiff, Nat.reduceSub]

theorem op_putV (op : BitVec 8) (f : VF) : (putV op f).extractLsb' 88 8 = op := by
  unfold putV
  simp only [bits_hi, Nat.reduceLeDiff, Nat.reduceSub]
  exact BitVec.extractLsb'_eq_self

theorem getS_putS (op : BitVec 8) (f : SF) : getS (putS op f) = f := by
  unfold getS putS
  simp only [bits_hi, bits_lo, bit_hi, bit_lo, Nat.reduceLeDiff, Nat.reduceSub]

theorem op_putS (op : BitVec 8) (f : SF) : (putS op f).extractLsb' 88 8 = op := by
  unfold putS
  simp only [bits_hi, Nat.reduceLeDiff, Nat.reduceSub]
  exact BitVec.extractLsb'_eq_self

theorem getM_putM (op : BitVec 8) (f : MF) : getM (putM op f) = f := by
  unfold getM putM
  simp only [bits_hi, bits_lo, bit_hi, bit_lo, Nat.reduceLeDiff, Nat.reduceSub]

theorem op_putM (op : BitVec 8) (f : MF) : (putM op f).extractLsb' 88 8 = op := by
  unfold putM
  simp only [bits_hi, Nat.reduceLeDiff, Nat.reduceSub]
  exact BitVec.extractLsb'_eq_self

theorem getX_putX (op : BitVec 8) (f : XF) : getX (putX op f) = f := by
  unfold getX putX
  simp only [bits_hi, bits_lo, bit_hi, bit_lo, Nat.reduceLeDiff, Nat.reduceSub]

theorem op_putX (op : BitVec 8) (f : XF) : (putX op f).extractLsb' 88 8 = op := by
  unfold putX
  simp only [bits_hi, Nat.reduceLeDiff, Nat.reduceSub]
  exact BitVec.extractLsb'_eq_self

theorem getC_putC (op : BitVec 8) (f : CF) : getC (putC op f) = f := by
  unfold getC putC
  simp only [bits_hi, bits_lo, bit_hi, bit_lo, Nat.reduceLeDiff, Nat.reduceSub]

theorem op_putC (op : BitVec 8) (f : CF) : (putC op f).extractLsb' 88 8 = op := by
  unfold putC
  simp only [bits_hi, Nat.reduceLeDiff, Nat.reduceSub]
  exact BitVec.extractLsb'_eq_self

theorem getY_putY (op : BitVec 8) (f : YF) : getY (putY op f) = f := by
  unfold getY putY
  simp only [bits_hi, bits_lo, bit_hi, bit_lo, Nat.reduceLeDiff, Nat.reduceSub]

theorem op_putY (op : BitVec 8) (f : YF) : (putY op f).extractLsb' 88 8 = op := by
  unfold putY
  simp only [bits_hi, Nat.reduceLeDiff, Nat.reduceSub]
  exact BitVec.extractLsb'_eq_self

/-! ## The other direction -/

theorem bits_join {n : Nat} (x : BitVec n) (r s a b : Nat) (h : r = s + b) :
    x.extractLsb' r a ++ x.extractLsb' s b = x.extractLsb' s (a + b) := by
  subst h
  apply BitVec.eq_of_getLsbD_eq
  intro i hi
  have h2 : i < a + b := hi
  simp only [BitVec.getLsbD_append, BitVec.getLsbD_extractLsb', h2, decide_true, Bool.true_and]
  by_cases h : i < b
  · simp [h]
  · have h1 : i - b < a := by omega
    simp only [h, h1, if_false, decide_true, Bool.true_and]
    congr 1
    omega

theorem bit1_get {n : Nat} (x : BitVec n) (s : Nat) : bit1 (x.getLsbD s) = x.extractLsb' s 1 := by
  apply BitVec.eq_of_getLsbD_eq
  intro i hi
  have h : i = 0 := by omega
  subst h
  unfold bit1
  cases h : x.getLsbD s <;> simp [h]

theorem putV_getV (w : Word96) : putV (w.extractLsb' 88 8) (getV w) = w := by
  unfold putV getV
  simp only [bit1_get]
  iterate 20 (try rw [bits_join _ _ _ _ _ (by norm_num)])
  exact BitVec.extractLsb'_eq_self

theorem putS_getS (w : Word96) : putS (w.extractLsb' 88 8) (getS w) = w := by
  unfold putS getS
  simp only [bit1_get]
  iterate 20 (try rw [bits_join _ _ _ _ _ (by norm_num)])
  exact BitVec.extractLsb'_eq_self

theorem putM_getM (w : Word96) : putM (w.extractLsb' 88 8) (getM w) = w := by
  unfold putM getM
  simp only [bit1_get]
  iterate 20 (try rw [bits_join _ _ _ _ _ (by norm_num)])
  exact BitVec.extractLsb'_eq_self

theorem putX_getX (w : Word96) : putX (w.extractLsb' 88 8) (getX w) = w := by
  unfold putX getX
  simp only [bit1_get]
  iterate 20 (try rw [bits_join _ _ _ _ _ (by norm_num)])
  exact BitVec.extractLsb'_eq_self

theorem putC_getC (w : Word96) : putC (w.extractLsb' 88 8) (getC w) = w := by
  unfold putC getC
  simp only [bit1_get]
  iterate 20 (try rw [bits_join _ _ _ _ _ (by norm_num)])
  exact BitVec.extractLsb'_eq_self

theorem putY_getY (w : Word96) : putY (w.extractLsb' 88 8) (getY w) = w := by
  unfold putY getY
  simp only [bit1_get]
  iterate 20 (try rw [bits_join _ _ _ _ _ (by norm_num)])
  exact BitVec.extractLsb'_eq_self

end Sys2Proof
end

