-- ==== Sys2Proof/Laws/PerInstr.lean ====
section
/-! SUPPORT. Statements made for every instruction, one lemma a constructor: the decoder gives back an encoded one. -/

namespace Sys2Proof.Laws

/-- A well-formed instruction's word decodes to it. -/
def RoundTrip.Statement (i : Instr) : Prop := i.wellFormed = true → ∀ w, encode i = some w → decode w = i

theorem RoundTrip.vadd (f : VF) : RoundTrip.Statement (.vadd f) := by
  intro _ w hw
  cases hw
  unfold decode
  rw [op_putV, getV_putV]
  rfl

theorem RoundTrip.vsub (f : VF) : RoundTrip.Statement (.vsub f) := by
  intro _ w hw
  cases hw
  unfold decode
  rw [op_putV, getV_putV]
  rfl

theorem RoundTrip.vmul (f : VF) : RoundTrip.Statement (.vmul f) := by
  intro _ w hw
  cases hw
  unfold decode
  rw [op_putV, getV_putV]
  rfl

theorem RoundTrip.vmulh (f : VF) : RoundTrip.Statement (.vmulh f) := by
  intro _ w hw
  cases hw
  unfold decode
  rw [op_putV, getV_putV]
  rfl

theorem RoundTrip.vmad (f : VF) : RoundTrip.Statement (.vmad f) := by
  intro _ w hw
  cases hw
  unfold decode
  rw [op_putV, getV_putV]
  rfl

theorem RoundTrip.vmin (f : VF) : RoundTrip.Statement (.vmin f) := by
  intro _ w hw
  cases hw
  unfold decode
  rw [op_putV, getV_putV]
  rfl

theorem RoundTrip.vmax (f : VF) : RoundTrip.Statement (.vmax f) := by
  intro _ w hw
  cases hw
  unfold decode
  rw [op_putV, getV_putV]
  rfl

theorem RoundTrip.vand (f : VF) : RoundTrip.Statement (.vand f) := by
  intro _ w hw
  cases hw
  unfold decode
  rw [op_putV, getV_putV]
  rfl

theorem RoundTrip.vor (f : VF) : RoundTrip.Statement (.vor f) := by
  intro _ w hw
  cases hw
  unfold decode
  rw [op_putV, getV_putV]
  rfl

theorem RoundTrip.vxor (f : VF) : RoundTrip.Statement (.vxor f) := by
  intro _ w hw
  cases hw
  unfold decode
  rw [op_putV, getV_putV]
  rfl

theorem RoundTrip.vshl (f : VF) : RoundTrip.Statement (.vshl f) := by
  intro _ w hw
  cases hw
  unfold decode
  rw [op_putV, getV_putV]
  rfl

theorem RoundTrip.vshr (f : VF) : RoundTrip.Statement (.vshr f) := by
  intro _ w hw
  cases hw
  unfold decode
  rw [op_putV, getV_putV]
  rfl

theorem RoundTrip.vsra (f : VF) : RoundTrip.Statement (.vsra f) := by
  intro _ w hw
  cases hw
  unfold decode
  rw [op_putV, getV_putV]
  rfl

theorem RoundTrip.vcmp (f : VF) : RoundTrip.Statement (.vcmp f) := by
  intro _ w hw
  cases hw
  unfold decode
  rw [op_putV, getV_putV]
  rfl

theorem RoundTrip.vsel (f : VF) : RoundTrip.Statement (.vsel f) := by
  intro _ w hw
  cases hw
  unfold decode
  rw [op_putV, getV_putV]
  rfl

theorem RoundTrip.vmov (f : VF) : RoundTrip.Statement (.vmov f) := by
  intro _ w hw
  cases hw
  unfold decode
  rw [op_putV, getV_putV]
  rfl

theorem RoundTrip.vcvt (f : VF) : RoundTrip.Statement (.vcvt f) := by
  intro _ w hw
  cases hw
  unfold decode
  rw [op_putV, getV_putV]
  rfl

theorem RoundTrip.vpopc (f : VF) : RoundTrip.Statement (.vpopc f) := by
  intro _ w hw
  cases hw
  unfold decode
  rw [op_putV, getV_putV]
  rfl

theorem RoundTrip.vclz (f : VF) : RoundTrip.Statement (.vclz f) := by
  intro _ w hw
  cases hw
  unfold decode
  rw [op_putV, getV_putV]
  rfl

theorem RoundTrip.vextr (f : VF) : RoundTrip.Statement (.vextr f) := by
  intro _ w hw
  cases hw
  unfold decode
  rw [op_putV, getV_putV]
  rfl

theorem RoundTrip.vins (f : VF) : RoundTrip.Statement (.vins f) := by
  intro _ w hw
  cases hw
  unfold decode
  rw [op_putV, getV_putV]
  rfl

theorem RoundTrip.vfadd (f : VF) : RoundTrip.Statement (.vfadd f) := by
  intro _ w hw
  cases hw
  unfold decode
  rw [op_putV, getV_putV]
  rfl

theorem RoundTrip.vfsub (f : VF) : RoundTrip.Statement (.vfsub f) := by
  intro _ w hw
  cases hw
  unfold decode
  rw [op_putV, getV_putV]
  rfl

theorem RoundTrip.vfmul (f : VF) : RoundTrip.Statement (.vfmul f) := by
  intro _ w hw
  cases hw
  unfold decode
  rw [op_putV, getV_putV]
  rfl

theorem RoundTrip.vfma (f : VF) : RoundTrip.Statement (.vfma f) := by
  intro _ w hw
  cases hw
  unfold decode
  rw [op_putV, getV_putV]
  rfl

theorem RoundTrip.vfmin (f : VF) : RoundTrip.Statement (.vfmin f) := by
  intro _ w hw
  cases hw
  unfold decode
  rw [op_putV, getV_putV]
  rfl

theorem RoundTrip.vfmax (f : VF) : RoundTrip.Statement (.vfmax f) := by
  intro _ w hw
  cases hw
  unfold decode
  rw [op_putV, getV_putV]
  rfl

theorem RoundTrip.vfcmp (f : VF) : RoundTrip.Statement (.vfcmp f) := by
  intro _ w hw
  cases hw
  unfold decode
  rw [op_putV, getV_putV]
  rfl

theorem RoundTrip.vfclass (f : VF) : RoundTrip.Statement (.vfclass f) := by
  intro _ w hw
  cases hw
  unfold decode
  rw [op_putV, getV_putV]
  rfl

theorem RoundTrip.vfrnd (f : VF) : RoundTrip.Statement (.vfrnd f) := by
  intro _ w hw
  cases hw
  unfold decode
  rw [op_putV, getV_putV]
  rfl

theorem RoundTrip.vrcp (f : VF) : RoundTrip.Statement (.vrcp f) := by
  intro _ w hw
  cases hw
  unfold decode
  rw [op_putV, getV_putV]
  rfl

theorem RoundTrip.vrsq (f : VF) : RoundTrip.Statement (.vrsq f) := by
  intro _ w hw
  cases hw
  unfold decode
  rw [op_putV, getV_putV]
  rfl

theorem RoundTrip.vexp2 (f : VF) : RoundTrip.Statement (.vexp2 f) := by
  intro _ w hw
  cases hw
  unfold decode
  rw [op_putV, getV_putV]
  rfl

theorem RoundTrip.vlog2 (f : VF) : RoundTrip.Statement (.vlog2 f) := by
  intro _ w hw
  cases hw
  unfold decode
  rw [op_putV, getV_putV]
  rfl

theorem RoundTrip.vtanh (f : VF) : RoundTrip.Statement (.vtanh f) := by
  intro _ w hw
  cases hw
  unfold decode
  rw [op_putV, getV_putV]
  rfl

theorem RoundTrip.vshfl (f : VF) : RoundTrip.Statement (.vshfl f) := by
  intro _ w hw
  cases hw
  unfold decode
  rw [op_putV, getV_putV]
  rfl

theorem RoundTrip.vrot (f : VF) : RoundTrip.Statement (.vrot f) := by
  intro _ w hw
  cases hw
  unfold decode
  rw [op_putV, getV_putV]
  rfl

theorem RoundTrip.vmatch (f : VF) : RoundTrip.Statement (.vmatch f) := by
  intro _ w hw
  cases hw
  unfold decode
  rw [op_putV, getV_putV]
  rfl

theorem RoundTrip.vscan (f : VF) : RoundTrip.Statement (.vscan f) := by
  intro _ w hw
  cases hw
  unfold decode
  rw [op_putV, getV_putV]
  rfl

theorem RoundTrip.kand (f : VF) : RoundTrip.Statement (.kand f) := by
  intro _ w hw
  cases hw
  unfold decode
  rw [op_putV, getV_putV]
  rfl

theorem RoundTrip.kor (f : VF) : RoundTrip.Statement (.kor f) := by
  intro _ w hw
  cases hw
  unfold decode
  rw [op_putV, getV_putV]
  rfl

theorem RoundTrip.kxor (f : VF) : RoundTrip.Statement (.kxor f) := by
  intro _ w hw
  cases hw
  unfold decode
  rw [op_putV, getV_putV]
  rfl

theorem RoundTrip.kandn (f : VF) : RoundTrip.Statement (.kandn f) := by
  intro _ w hw
  cases hw
  unfold decode
  rw [op_putV, getV_putV]
  rfl

theorem RoundTrip.kset (f : VF) : RoundTrip.Statement (.kset f) := by
  intro _ w hw
  cases hw
  unfold decode
  rw [op_putV, getV_putV]
  rfl

theorem RoundTrip.kpopc (f : VF) : RoundTrip.Statement (.kpopc f) := by
  intro _ w hw
  cases hw
  unfold decode
  rw [op_putV, getV_putV]
  rfl

theorem RoundTrip.kfirst (f : VF) : RoundTrip.Statement (.kfirst f) := by
  intro _ w hw
  cases hw
  unfold decode
  rw [op_putV, getV_putV]
  rfl

theorem RoundTrip.kget (f : VF) : RoundTrip.Statement (.kget f) := by
  intro _ w hw
  cases hw
  unfold decode
  rw [op_putV, getV_putV]
  rfl

theorem RoundTrip.kput (f : VF) : RoundTrip.Statement (.kput f) := by
  intro _ w hw
  cases hw
  unfold decode
  rw [op_putV, getV_putV]
  rfl

theorem RoundTrip.sadd (f : SF) : RoundTrip.Statement (.sadd f) := by
  intro _ w hw
  cases hw
  unfold decode
  rw [op_putS, getS_putS]
  rfl

theorem RoundTrip.saddi (f : SF) : RoundTrip.Statement (.saddi f) := by
  intro _ w hw
  cases hw
  unfold decode
  rw [op_putS, getS_putS]
  rfl

theorem RoundTrip.ssub (f : SF) : RoundTrip.Statement (.ssub f) := by
  intro _ w hw
  cases hw
  unfold decode
  rw [op_putS, getS_putS]
  rfl

theorem RoundTrip.smul (f : SF) : RoundTrip.Statement (.smul f) := by
  intro _ w hw
  cases hw
  unfold decode
  rw [op_putS, getS_putS]
  rfl

theorem RoundTrip.smulh (f : SF) : RoundTrip.Statement (.smulh f) := by
  intro _ w hw
  cases hw
  unfold decode
  rw [op_putS, getS_putS]
  rfl

theorem RoundTrip.sdiv (f : SF) : RoundTrip.Statement (.sdiv f) := by
  intro _ w hw
  cases hw
  unfold decode
  rw [op_putS, getS_putS]
  rfl

theorem RoundTrip.srem (f : SF) : RoundTrip.Statement (.srem f) := by
  intro _ w hw
  cases hw
  unfold decode
  rw [op_putS, getS_putS]
  rfl

theorem RoundTrip.sand (f : SF) : RoundTrip.Statement (.sand f) := by
  intro _ w hw
  cases hw
  unfold decode
  rw [op_putS, getS_putS]
  rfl

theorem RoundTrip.sor (f : SF) : RoundTrip.Statement (.sor f) := by
  intro _ w hw
  cases hw
  unfold decode
  rw [op_putS, getS_putS]
  rfl

theorem RoundTrip.sxor (f : SF) : RoundTrip.Statement (.sxor f) := by
  intro _ w hw
  cases hw
  unfold decode
  rw [op_putS, getS_putS]
  rfl

theorem RoundTrip.sshl (f : SF) : RoundTrip.Statement (.sshl f) := by
  intro _ w hw
  cases hw
  unfold decode
  rw [op_putS, getS_putS]
  rfl

theorem RoundTrip.sshr (f : SF) : RoundTrip.Statement (.sshr f) := by
  intro _ w hw
  cases hw
  unfold decode
  rw [op_putS, getS_putS]
  rfl

theorem RoundTrip.ssra (f : SF) : RoundTrip.Statement (.ssra f) := by
  intro _ w hw
  cases hw
  unfold decode
  rw [op_putS, getS_putS]
  rfl

theorem RoundTrip.smin (f : SF) : RoundTrip.Statement (.smin f) := by
  intro _ w hw
  cases hw
  unfold decode
  rw [op_putS, getS_putS]
  rfl

theorem RoundTrip.smax (f : SF) : RoundTrip.Statement (.smax f) := by
  intro _ w hw
  cases hw
  unfold decode
  rw [op_putS, getS_putS]
  rfl

theorem RoundTrip.scmp (f : SF) : RoundTrip.Statement (.scmp f) := by
  intro _ w hw
  cases hw
  unfold decode
  rw [op_putS, getS_putS]
  rfl

theorem RoundTrip.ssel (f : SF) : RoundTrip.Statement (.ssel f) := by
  intro _ w hw
  cases hw
  unfold decode
  rw [op_putS, getS_putS]
  rfl

theorem RoundTrip.smov (f : SF) : RoundTrip.Statement (.smov f) := by
  intro _ w hw
  cases hw
  unfold decode
  rw [op_putS, getS_putS]
  rfl

theorem RoundTrip.smovi (f : SF) : RoundTrip.Statement (.smovi f) := by
  intro _ w hw
  cases hw
  unfold decode
  rw [op_putS, getS_putS]
  rfl

theorem RoundTrip.sread (f : SF) : RoundTrip.Statement (.sread f) := by
  intro h w hw
  cases hw
  unfold decode
  rw [op_putS, getS_putS]
  simp only [Instr.wellFormed] at h
  simp_all

theorem RoundTrip.sreadV (f : SF) : RoundTrip.Statement (.sreadV f) := by
  intro h w hw
  cases hw
  unfold decode
  rw [op_putS, getS_putS]
  simp only [Instr.wellFormed] at h
  simp_all

theorem RoundTrip.swrite (f : SF) : RoundTrip.Statement (.swrite f) := by
  intro _ w hw
  cases hw
  unfold decode
  rw [op_putS, getS_putS]
  rfl

theorem RoundTrip.shset (f : SF) : RoundTrip.Statement (.shset f) := by
  intro _ w hw
  cases hw
  unfold decode
  rw [op_putS, getS_putS]
  rfl

theorem RoundTrip.vld (f : MF) : RoundTrip.Statement (.vld f) := by
  intro _ w hw
  cases hw
  unfold decode
  rw [op_putM, getM_putM]
  rfl

theorem RoundTrip.vst (f : MF) : RoundTrip.Statement (.vst f) := by
  intro _ w hw
  cases hw
  unfold decode
  rw [op_putM, getM_putM]
  rfl

theorem RoundTrip.vldx (f : MF) : RoundTrip.Statement (.vldx f) := by
  intro _ w hw
  cases hw
  unfold decode
  rw [op_putM, getM_putM]
  rfl

theorem RoundTrip.vstx (f : MF) : RoundTrip.Statement (.vstx f) := by
  intro _ w hw
  cases hw
  unfold decode
  rw [op_putM, getM_putM]
  rfl

theorem RoundTrip.sld (f : MF) : RoundTrip.Statement (.sld f) := by
  intro _ w hw
  cases hw
  unfold decode
  rw [op_putM, getM_putM]
  rfl

theorem RoundTrip.sst (f : MF) : RoundTrip.Statement (.sst f) := by
  intro _ w hw
  cases hw
  unfold decode
  rw [op_putM, getM_putM]
  rfl

theorem RoundTrip.vlds (f : MF) : RoundTrip.Statement (.vlds f) := by
  intro _ w hw
  cases hw
  unfold decode
  rw [op_putM, getM_putM]
  rfl

theorem RoundTrip.vsts (f : MF) : RoundTrip.Statement (.vsts f) := by
  intro _ w hw
  cases hw
  unfold decode
  rw [op_putM, getM_putM]
  rfl

theorem RoundTrip.vatom (f : MF) : RoundTrip.Statement (.vatom f) := by
  intro _ w hw
  cases hw
  unfold decode
  rw [op_putM, getM_putM]
  rfl

theorem RoundTrip.vcas (f : MF) : RoundTrip.Statement (.vcas f) := by
  intro _ w hw
  cases hw
  unfold decode
  rw [op_putM, getM_putM]
  rfl

theorem RoundTrip.vatoms (f : MF) : RoundTrip.Statement (.vatoms f) := by
  intro _ w hw
  cases hw
  unfold decode
  rw [op_putM, getM_putM]
  rfl

theorem RoundTrip.pref (f : MF) : RoundTrip.Statement (.pref f) := by
  intro _ w hw
  cases hw
  unfold decode
  rw [op_putM, getM_putM]
  rfl

theorem RoundTrip.shld (f : MF) : RoundTrip.Statement (.shld f) := by
  intro _ w hw
  cases hw
  unfold decode
  rw [op_putM, getM_putM]
  rfl

theorem RoundTrip.shst (f : MF) : RoundTrip.Statement (.shst f) := by
  intro _ w hw
  cases hw
  unfold decode
  rw [op_putM, getM_putM]
  rfl

theorem RoundTrip.wdepth (f : MF) : RoundTrip.Statement (.wdepth f) := by
  intro _ w hw
  cases hw
  unfold decode
  rw [op_putM, getM_putM]
  rfl

theorem RoundTrip.wpin (f : MF) : RoundTrip.Statement (.wpin f) := by
  intro _ w hw
  cases hw
  unfold decode
  rw [op_putM, getM_putM]
  rfl

theorem RoundTrip.wunpin (f : MF) : RoundTrip.Statement (.wunpin f) := by
  intro _ w hw
  cases hw
  unfold decode
  rw [op_putM, getM_putM]
  rfl

theorem RoundTrip.wevict (f : MF) : RoundTrip.Statement (.wevict f) := by
  intro _ w hw
  cases hw
  unfold decode
  rw [op_putM, getM_putM]
  rfl

theorem RoundTrip.wclean (f : MF) : RoundTrip.Statement (.wclean f) := by
  intro _ w hw
  cases hw
  unfold decode
  rw [op_putM, getM_putM]
  rfl

theorem RoundTrip.cflush (f : MF) : RoundTrip.Statement (.cflush f) := by
  intro _ w hw
  cases hw
  unfold decode
  rw [op_putM, getM_putM]
  rfl

theorem RoundTrip.cinv (f : MF) : RoundTrip.Statement (.cinv f) := by
  intro _ w hw
  cases hw
  unfold decode
  rw [op_putM, getM_putM]
  rfl

theorem RoundTrip.waitcnt (f : MF) : RoundTrip.Statement (.waitcnt f) := by
  intro _ w hw
  cases hw
  unfold decode
  rw [op_putM, getM_putM]
  rfl

theorem RoundTrip.xfence (f : MF) : RoundTrip.Statement (.xfence f) := by
  intro _ w hw
  cases hw
  unfold decode
  rw [op_putM, getM_putM]
  rfl

theorem RoundTrip.mma (f : XF) : RoundTrip.Statement (.mma f) := by
  intro _ w hw
  cases hw
  unfold decode
  rw [op_putX, getX_putX]
  rfl

theorem RoundTrip.zclr (f : XF) : RoundTrip.Statement (.zclr f) := by
  intro _ w hw
  cases hw
  unfold decode
  rw [op_putX, getX_putX]
  rfl

theorem RoundTrip.zrd (f : XF) : RoundTrip.Statement (.zrd f) := by
  intro _ w hw
  cases hw
  unfold decode
  rw [op_putX, getX_putX]
  rfl

theorem RoundTrip.zwr (f : XF) : RoundTrip.Statement (.zwr f) := by
  intro _ w hw
  cases hw
  unfold decode
  rw [op_putX, getX_putX]
  rfl

theorem RoundTrip.zdrain (f : XF) : RoundTrip.Statement (.zdrain f) := by
  intro _ w hw
  cases hw
  unfold decode
  rw [op_putX, getX_putX]
  rfl

theorem RoundTrip.cpy (f : XF) : RoundTrip.Statement (.cpy f) := by
  intro _ w hw
  cases hw
  unfold decode
  rw [op_putX, getX_putX]
  rfl

theorem RoundTrip.cpym (f : XF) : RoundTrip.Statement (.cpym f) := by
  intro _ w hw
  cases hw
  unfold decode
  rw [op_putX, getX_putX]
  rfl

theorem RoundTrip.rrot (f : XF) : RoundTrip.Statement (.rrot f) := by
  intro _ w hw
  cases hw
  unfold decode
  rw [op_putX, getX_putX]
  rfl

theorem RoundTrip.barinit (f : XF) : RoundTrip.Statement (.barinit f) := by
  intro _ w hw
  cases hw
  unfold decode
  rw [op_putX, getX_putX]
  rfl

theorem RoundTrip.bararv (f : XF) : RoundTrip.Statement (.bararv f) := by
  intro _ w hw
  cases hw
  unfold decode
  rw [op_putX, getX_putX]
  rfl

theorem RoundTrip.barwait (f : XF) : RoundTrip.Statement (.barwait f) := by
  intro _ w hw
  cases hw
  unfold decode
  rw [op_putX, getX_putX]
  rfl

theorem RoundTrip.gjoin (f : XF) : RoundTrip.Statement (.gjoin f) := by
  intro h w hw
  cases hw
  unfold decode
  rw [op_putX, getX_putX]
  simp only [Instr.wellFormed] at h
  simp_all

theorem RoundTrip.gjoinAny (f : XF) : RoundTrip.Statement (.gjoinAny f) := by
  intro h w hw
  cases hw
  unfold decode
  rw [op_putX, getX_putX]
  simp only [Instr.wellFormed] at h
  simp_all

theorem RoundTrip.gleave (f : XF) : RoundTrip.Statement (.gleave f) := by
  intro _ w hw
  cases hw
  unfold decode
  rw [op_putX, getX_putX]
  rfl

theorem RoundTrip.gbar (f : XF) : RoundTrip.Statement (.gbar f) := by
  intro _ w hw
  cases hw
  unfold decode
  rw [op_putX, getX_putX]
  rfl

theorem RoundTrip.br (f : CF) : RoundTrip.Statement (.br f) := by
  intro _ w hw
  cases hw
  unfold decode
  rw [op_putC, getC_putC]
  rfl

theorem RoundTrip.bcond (f : CF) : RoundTrip.Statement (.bcond f) := by
  intro _ w hw
  cases hw
  unfold decode
  rw [op_putC, getC_putC]
  rfl

theorem RoundTrip.bany (f : CF) : RoundTrip.Statement (.bany f) := by
  intro _ w hw
  cases hw
  unfold decode
  rw [op_putC, getC_putC]
  rfl

theorem RoundTrip.bnone (f : CF) : RoundTrip.Statement (.bnone f) := by
  intro _ w hw
  cases hw
  unfold decode
  rw [op_putC, getC_putC]
  rfl

theorem RoundTrip.call (f : CF) : RoundTrip.Statement (.call f) := by
  intro _ w hw
  cases hw
  unfold decode
  rw [op_putC, getC_putC]
  rfl

theorem RoundTrip.jmp (f : CF) : RoundTrip.Statement (.jmp f) := by
  intro _ w hw
  cases hw
  unfold decode
  rw [op_putC, getC_putC]
  rfl

theorem RoundTrip.ret (f : CF) : RoundTrip.Statement (.ret f) := by
  intro _ w hw
  cases hw
  unfold decode
  rw [op_putC, getC_putC]
  rfl

theorem RoundTrip.divg (f : CF) : RoundTrip.Statement (.divg f) := by
  intro _ w hw
  cases hw
  unfold decode
  rw [op_putC, getC_putC]
  rfl

theorem RoundTrip.delse (f : CF) : RoundTrip.Statement (.delse f) := by
  intro _ w hw
  cases hw
  unfold decode
  rw [op_putC, getC_putC]
  rfl

theorem RoundTrip.djoin (f : CF) : RoundTrip.Statement (.djoin f) := by
  intro _ w hw
  cases hw
  unfold decode
  rw [op_putC, getC_putC]
  rfl

theorem RoundTrip.dloop (f : CF) : RoundTrip.Statement (.dloop f) := by
  intro _ w hw
  cases hw
  unfold decode
  rw [op_putC, getC_putC]
  rfl

theorem RoundTrip.dbrk (f : CF) : RoundTrip.Statement (.dbrk f) := by
  intro _ w hw
  cases hw
  unfold decode
  rw [op_putC, getC_putC]
  rfl

theorem RoundTrip.exit (f : CF) : RoundTrip.Statement (.exit f) := by
  intro _ w hw
  cases hw
  unfold decode
  rw [op_putC, getC_putC]
  rfl

theorem RoundTrip.yield (f : CF) : RoundTrip.Statement (.yield f) := by
  intro _ w hw
  cases hw
  unfold decode
  rw [op_putC, getC_putC]
  rfl

theorem RoundTrip.nop (f : CF) : RoundTrip.Statement (.nop f) := by
  intro _ w hw
  cases hw
  unfold decode
  rw [op_putC, getC_putC]
  rfl

theorem RoundTrip.trap (f : YF) : RoundTrip.Statement (.trap f) := by
  intro _ w hw
  cases hw
  unfold decode
  rw [op_putY, getY_putY]
  rfl

theorem RoundTrip.tret (f : YF) : RoundTrip.Statement (.tret f) := by
  intro _ w hw
  cases hw
  unfold decode
  rw [op_putY, getY_putY]
  rfl

theorem RoundTrip.bellarm (f : YF) : RoundTrip.Statement (.bellarm f) := by
  intro _ w hw
  cases hw
  unfold decode
  rw [op_putY, getY_putY]
  rfl

theorem RoundTrip.modewr (f : YF) : RoundTrip.Statement (.modewr f) := by
  intro _ w hw
  cases hw
  unfold decode
  rw [op_putY, getY_putY]
  rfl

theorem RoundTrip.ctxrd (f : YF) : RoundTrip.Statement (.ctxrd f) := by
  intro _ w hw
  cases hw
  unfold decode
  rw [op_putY, getY_putY]
  rfl

theorem RoundTrip.ctxwr (f : YF) : RoundTrip.Statement (.ctxwr f) := by
  intro _ w hw
  cases hw
  unfold decode
  rw [op_putY, getY_putY]
  rfl

theorem RoundTrip.evpop (f : YF) : RoundTrip.Statement (.evpop f) := by
  intro _ w hw
  cases hw
  unfold decode
  rw [op_putY, getY_putY]
  rfl

theorem RoundTrip.evpush (f : YF) : RoundTrip.Statement (.evpush f) := by
  intro _ w hw
  cases hw
  unfold decode
  rw [op_putY, getY_putY]
  rfl

theorem RoundTrip.evwait (f : YF) : RoundTrip.Statement (.evwait f) := by
  intro _ w hw
  cases hw
  unfold decode
  rw [op_putY, getY_putY]
  rfl

theorem RoundTrip.trel (f : YF) : RoundTrip.Statement (.trel f) := by
  intro _ w hw
  cases hw
  unfold decode
  rw [op_putY, getY_putY]
  rfl

theorem RoundTrip.trelRelease (col : Nat) : RoundTrip.Statement (.trelRelease col) := by
  intro _ _ h
  cases h

theorem RoundTrip.registerResultReturn (ctx uid : Nat) (lanes : Mask) : RoundTrip.Statement (.registerResultReturn ctx uid lanes) := by
  intro _ _ h
  cases h

theorem RoundTrip.accessComplete (ctx ent : Nat) : RoundTrip.Statement (.accessComplete ctx ent) := by
  intro _ _ h
  cases h

theorem RoundTrip.trapDelivery (ctx : Nat) : RoundTrip.Statement (.trapDelivery ctx) := by
  intro _ _ h
  cases h

theorem RoundTrip.fatalFaultDelivery (ctx : Nat) : RoundTrip.Statement (.fatalFaultDelivery ctx) := by
  intro _ _ h
  cases h

theorem RoundTrip.bellDelivery (frame : Nat) : RoundTrip.Statement (.bellDelivery frame) := by
  intro _ _ h
  cases h

theorem RoundTrip.drumAnnouncementAct (die : Nat) : RoundTrip.Statement (.drumAnnouncementAct die) := by
  intro _ _ h
  cases h

theorem RoundTrip.wellBeatAdmit (die : Nat) : RoundTrip.Statement (.wellBeatAdmit die) := by
  intro _ _ h
  cases h

theorem RoundTrip.transitArrival (die tile : Nat) : RoundTrip.Statement (.transitArrival die tile) := by
  intro _ _ h
  cases h

theorem RoundTrip.l1Fill (core line : Nat) : RoundTrip.Statement (.l1Fill core line) := by
  intro _ _ h
  cases h

theorem RoundTrip.l1HoldExpiry (core line : Nat) : RoundTrip.Statement (.l1HoldExpiry core line) := by
  intro _ _ h
  cases h

theorem RoundTrip.wellUe (die line : Nat) : RoundTrip.Statement (.wellUe die line) := by
  intro _ _ h
  cases h

theorem RoundTrip.memue (die line : Nat) : RoundTrip.Statement (.memue die line) := by
  intro _ _ h
  cases h

theorem RoundTrip.wrestitchRetire (die bank : Nat) : RoundTrip.Statement (.wrestitchRetire die bank) := by
  intro _ _ h
  cases h

theorem RoundTrip.wrestitchRestore (die bank : Nat) : RoundTrip.Statement (.wrestitchRestore die bank) := by
  intro _ _ h
  cases h

theorem RoundTrip.restitchComplete (die : Nat) : RoundTrip.Statement (.restitchComplete die) := by
  intro _ _ h
  cases h

theorem RoundTrip.wellThermalRestore (die bank : Nat) : RoundTrip.Statement (.wellThermalRestore die bank) := by
  intro _ _ h
  cases h

theorem RoundTrip.pageWalkComplete (die walk : Nat) : RoundTrip.Statement (.pageWalkComplete die walk) := by
  intro _ _ h
  cases h

theorem RoundTrip.fcmdReplayRecord (die id : Nat) : RoundTrip.Statement (.fcmdReplayRecord die id) := by
  intro _ _ h
  cases h

theorem RoundTrip.fcmdCancelRecord (die id : Nat) : RoundTrip.Statement (.fcmdCancelRecord die id) := by
  intro _ _ h
  cases h

theorem RoundTrip.fcmdReplayAsid (die asid : Nat) : RoundTrip.Statement (.fcmdReplayAsid die asid) := by
  intro _ _ h
  cases h

theorem RoundTrip.fcmdCancelAsid (die asid : Nat) : RoundTrip.Statement (.fcmdCancelAsid die asid) := by
  intro _ _ h
  cases h

theorem RoundTrip.sideLogPerform (core idx : Nat) : RoundTrip.Statement (.sideLogPerform core idx) := by
  intro _ _ h
  cases h

theorem RoundTrip.invcmdPage (asid va size : Nat) : RoundTrip.Statement (.invcmdPage asid va size) := by
  intro _ _ h
  cases h

theorem RoundTrip.invcmdAsid (asid : Nat) : RoundTrip.Statement (.invcmdAsid asid) := by
  intro _ _ h
  cases h

theorem RoundTrip.rds (agent line : Nat) : RoundTrip.Statement (.rds agent line) := by
  intro _ _ h
  cases h

theorem RoundTrip.rdx (agent line : Nat) : RoundTrip.Statement (.rdx agent line) := by
  intro _ _ h
  cases h

theorem RoundTrip.own (agent line : Nat) : RoundTrip.Statement (.own agent line) := by
  intro _ _ h
  cases h

theorem RoundTrip.upg (agent line : Nat) : RoundTrip.Statement (.upg agent line) := by
  intro _ _ h
  cases h

theorem RoundTrip.wb (agent line : Nat) : RoundTrip.Statement (.wb agent line) := by
  intro _ _ h
  cases h

theorem RoundTrip.wbk (agent line : Nat) : RoundTrip.Statement (.wbk agent line) := by
  intro _ _ h
  cases h

theorem RoundTrip.cmp (agent line : Nat) : RoundTrip.Statement (.cmp agent line) := by
  intro _ _ h
  cases h

theorem RoundTrip.homeQueueServe (line : Nat) : RoundTrip.Statement (.homeQueueServe line) := by
  intro _ _ h
  cases h

theorem RoundTrip.gntS (agent line : Nat) : RoundTrip.Statement (.gntS agent line) := by
  intro _ _ h
  cases h

theorem RoundTrip.gntE (agent line : Nat) : RoundTrip.Statement (.gntE agent line) := by
  intro _ _ h
  cases h

theorem RoundTrip.gntX (agent line : Nat) : RoundTrip.Statement (.gntX agent line) := by
  intro _ _ h
  cases h

theorem RoundTrip.wba (agent line : Nat) : RoundTrip.Statement (.wba agent line) := by
  intro _ _ h
  cases h

theorem RoundTrip.prShr (agent line : Nat) : RoundTrip.Statement (.prShr agent line) := by
  intro _ _ h
  cases h

theorem RoundTrip.prInv (agent line : Nat) : RoundTrip.Statement (.prInv agent line) := by
  intro _ _ h
  cases h

theorem RoundTrip.ackI (agent line : Nat) : RoundTrip.Statement (.ackI agent line) := by
  intro _ _ h
  cases h

theorem RoundTrip.ackD (agent line : Nat) : RoundTrip.Statement (.ackD agent line) := by
  intro _ _ h
  cases h

theorem RoundTrip.ackWb (agent line : Nat) : RoundTrip.Statement (.ackWb agent line) := by
  intro _ _ h
  cases h

theorem RoundTrip.ackSt (agent line : Nat) : RoundTrip.Statement (.ackSt agent line) := by
  intro _ _ h
  cases h

theorem RoundTrip.cxlMemReadShared (hpa : Nat) : RoundTrip.Statement (.cxlMemReadShared hpa) := by
  intro _ _ h
  cases h

theorem RoundTrip.cxlMemReadExclusive (hpa : Nat) : RoundTrip.Statement (.cxlMemReadExclusive hpa) := by
  intro _ _ h
  cases h

theorem RoundTrip.cxlMemReadUncached (hpa : Nat) : RoundTrip.Statement (.cxlMemReadUncached hpa) := by
  intro _ _ h
  cases h

theorem RoundTrip.cxlMemWrite (hpa : Nat) (data : LineData) : RoundTrip.Statement (.cxlMemWrite hpa data) := by
  intro _ _ h
  cases h

theorem RoundTrip.birsp (line : Nat) (data : Option LineData) : RoundTrip.Statement (.birsp line data) := by
  intro _ _ h
  cases h

theorem RoundTrip.snpinv (line : Nat) : RoundTrip.Statement (.snpinv line) := by
  intro _ _ h
  cases h

theorem RoundTrip.snpdata (line : Nat) : RoundTrip.Statement (.snpdata line) := by
  intro _ _ h
  cases h

theorem RoundTrip.snpcur (line : Nat) : RoundTrip.Statement (.snpcur line) := by
  intro _ _ h
  cases h

theorem RoundTrip.peerRequest (off n : Nat) (op : PeerOp) : RoundTrip.Statement (.peerRequest off n op) := by
  intro _ _ h
  cases h

theorem RoundTrip.peererr (die line : Nat) : RoundTrip.Statement (.peererr die line) := by
  intro _ _ h
  cases h

theorem RoundTrip.peerLinkTimeout (dest : Nat) : RoundTrip.Statement (.peerLinkTimeout dest) := by
  intro _ _ h
  cases h

theorem RoundTrip.mmaStart (core job : Nat) : RoundTrip.Statement (.mmaStart core job) := by
  intro _ _ h
  cases h

theorem RoundTrip.mmaCommit (core job : Nat) : RoundTrip.Statement (.mmaCommit core job) := by
  intro _ _ h
  cases h

theorem RoundTrip.copyElement (copy : Nat) : RoundTrip.Statement (.copyElement copy) := by
  intro _ _ h
  cases h

theorem RoundTrip.countingEvent (core : Nat) : RoundTrip.Statement (.countingEvent core) := by
  intro _ _ h
  cases h

theorem RoundTrip.eventRecordEnter (col : Nat) : RoundTrip.Statement (.eventRecordEnter col) := by
  intro _ _ h
  cases h

theorem RoundTrip.notifyWrite (queue off : Nat) (val : Word64) : RoundTrip.Statement (.notifyWrite queue off val) := by
  intro _ _ h
  cases h

theorem RoundTrip.qcmdEnable (queue : Nat) : RoundTrip.Statement (.qcmdEnable queue) := by
  intro _ _ h
  cases h

theorem RoundTrip.qcmdDisable (queue : Nat) : RoundTrip.Statement (.qcmdDisable queue) := by
  intro _ _ h
  cases h

theorem RoundTrip.queueIdleExpiry (queue : Nat) : RoundTrip.Statement (.queueIdleExpiry queue) := by
  intro _ _ h
  cases h

theorem RoundTrip.launchPacketRead (queue : Nat) : RoundTrip.Statement (.launchPacketRead queue) := by
  intro _ _ h
  cases h

theorem RoundTrip.lotteryDraw (die : Nat) : RoundTrip.Statement (.lotteryDraw die) := by
  intro _ _ h
  cases h

theorem RoundTrip.clusterGatingCommit (col : Nat) : RoundTrip.Statement (.clusterGatingCommit col) := by
  intro _ _ h
  cases h

theorem RoundTrip.clusterWakeComplete (col : Nat) : RoundTrip.Statement (.clusterWakeComplete col) := by
  intro _ _ h
  cases h

theorem RoundTrip.blockEnd (frame : Nat) : RoundTrip.Statement (.blockEnd frame) := by
  intro _ _ h
  cases h

theorem RoundTrip.launchComplete (queue : Nat) : RoundTrip.Statement (.launchComplete queue) := by
  intro _ _ h
  cases h

theorem RoundTrip.evtailWrite (val : Word64) : RoundTrip.Statement (.evtailWrite val) := by
  intro _ _ h
  cases h

theorem RoundTrip.frzcmdFreezeBlock (frame : Nat) : RoundTrip.Statement (.frzcmdFreezeBlock frame) := by
  intro _ _ h
  cases h

theorem RoundTrip.frzcmdResumeBlock (frame : Nat) : RoundTrip.Statement (.frzcmdResumeBlock frame) := by
  intro _ _ h
  cases h

theorem RoundTrip.frzcmdTerminateBlock (frame : Nat) : RoundTrip.Statement (.frzcmdTerminateBlock frame) := by
  intro _ _ h
  cases h

theorem RoundTrip.frzcmdFreezeQueue (queue : Nat) : RoundTrip.Statement (.frzcmdFreezeQueue queue) := by
  intro _ _ h
  cases h

theorem RoundTrip.frzcmdResumeQueue (queue : Nat) : RoundTrip.Statement (.frzcmdResumeQueue queue) := by
  intro _ _ h
  cases h

theorem RoundTrip.deadlineExpiry (frame : Nat) : RoundTrip.Statement (.deadlineExpiry frame) := by
  intro _ _ h
  cases h

theorem RoundTrip.windowImageWritten (frame : Nat) : RoundTrip.Statement (.windowImageWritten frame) := by
  intro _ _ h
  cases h

theorem RoundTrip.resumePlace (die : Nat) : RoundTrip.Statement (.resumePlace die) := by
  intro _ _ h
  cases h

theorem RoundTrip.migrationTransferComplete (frame : Nat) : RoundTrip.Statement (.migrationTransferComplete frame) := by
  intro _ _ h
  cases h

theorem RoundTrip.dbgEnable (col : Nat) (val : Word64) : RoundTrip.Statement (.dbgEnable col val) := by
  intro _ _ h
  cases h

theorem RoundTrip.dbgrunStop (col handle : Nat) : RoundTrip.Statement (.dbgrunStop col handle) := by
  intro _ _ h
  cases h

theorem RoundTrip.dbgrunStep (col handle : Nat) : RoundTrip.Statement (.dbgrunStep col handle) := by
  intro _ _ h
  cases h

theorem RoundTrip.dbgrunResume (col handle : Nat) : RoundTrip.Statement (.dbgrunResume col handle) := by
  intro _ _ h
  cases h

theorem RoundTrip.rspseqWrite (col : Nat) (val : Word64) : RoundTrip.Statement (.rspseqWrite col val) := by
  intro _ _ h
  cases h

theorem RoundTrip.ntWindow (core : Nat) : RoundTrip.Statement (.ntWindow core) := by
  intro _ _ h
  cases h

theorem RoundTrip.columnLevelStep (col : Nat) : RoundTrip.Statement (.columnLevelStep col) := by
  intro _ _ h
  cases h

theorem RoundTrip.pumpRampStep (die : Nat) : RoundTrip.Statement (.pumpRampStep die) := by
  intro _ _ h
  cases h

theorem RoundTrip.tempSample (readings : List (Nat × BitVec 16)) : RoundTrip.Statement (.tempSample readings) := by
  intro _ _ h
  cases h

theorem RoundTrip.migwaitExpiry (frame : Nat) : RoundTrip.Statement (.migwaitExpiry frame) := by
  intro _ _ h
  cases h

theorem RoundTrip.thermalLevelTick (col : Nat) : RoundTrip.Statement (.thermalLevelTick col) := by
  intro _ _ h
  cases h

theorem RoundTrip.stpFrame (bits : Word64) : RoundTrip.Statement (.stpFrame bits) := by
  intro _ _ h
  cases h

theorem RoundTrip.shedForceTimeout (frame : Nat) : RoundTrip.Statement (.shedForceTimeout frame) := by
  intro _ _ h
  cases h

theorem RoundTrip.classRestore (cls : Nat) : RoundTrip.Statement (.classRestore cls) := by
  intro _ _ h
  cases h

theorem RoundTrip.startUp (step reason : Nat) (faulty : List (Nat × Nat)) : RoundTrip.Statement (.startUp step reason faulty) := by
  intro _ _ h
  cases h

theorem RoundTrip.mctpControl (msg : List Byte) : RoundTrip.Statement (.mctpControl msg) := by
  intro _ _ h
  cases h

theorem RoundTrip.pldmSensorRead (sensor : Nat) : RoundTrip.Statement (.pldmSensorRead sensor) := by
  intro _ _ h
  cases h

theorem RoundTrip.firmwareUpdate (image : List Byte) : RoundTrip.Statement (.firmwareUpdate image) := by
  intro _ _ h
  cases h

theorem RoundTrip.attest (nonce : BitVec 256) : RoundTrip.Statement (.attest nonce) := by
  intro _ _ h
  cases h

theorem RoundTrip.transition (target : Nat) (token : List Byte) : RoundTrip.Statement (.transition target token) := by
  intro _ _ h
  cases h

theorem RoundTrip.registerWrite (off : Nat) (val : Word64) : RoundTrip.Statement (.registerWrite off val) := by
  intro _ _ h
  cases h

theorem RoundTrip.reservedOpcode (w : Word96) : RoundTrip.Statement (.reservedOpcode w) := by
  intro h v hv
  cases hv
  simp only [Instr.wellFormed, reservedOp, Bool.or_eq_true, Bool.and_eq_true, beq_iff_eq, decide_eq_true_eq] at h
  unfold decode
  split <;> first | rfl | omega

theorem RoundTrip.cxlCacheHostResponse (line : Nat) (data : LineData) (excl : Bool) : RoundTrip.Statement (.cxlCacheHostResponse line data excl) := by
  intro _ _ h
  cases h

theorem RoundTrip.portLinkFailure (dest : Nat) : RoundTrip.Statement (.portLinkFailure dest) := by
  intro _ _ h
  cases h

theorem RoundTrip.invcmdAll : RoundTrip.Statement (.invcmdAll) := by
  intro _ _ h
  cases h

theorem RoundTrip.invalidationComplete : RoundTrip.Statement (.invalidationComplete) := by
  intro _ _ h
  cases h

theorem RoundTrip.hostRingEntryWrite : RoundTrip.Statement (.hostRingEntryWrite) := by
  intro _ _ h
  cases h

theorem RoundTrip.msiCoalesceTimeout : RoundTrip.Statement (.msiCoalesceTimeout) := by
  intro _ _ h
  cases h

theorem RoundTrip.stpLossTimeout : RoundTrip.Statement (.stpLossTimeout) := by
  intro _ _ h
  cases h

theorem RoundTrip.stpLossHoldExpiry : RoundTrip.Statement (.stpLossHoldExpiry) := by
  intro _ _ h
  cases h

theorem RoundTrip.clampStep : RoundTrip.Statement (.clampStep) := by
  intro _ _ h
  cases h

theorem RoundTrip.clampLower : RoundTrip.Statement (.clampLower) := by
  intro _ _ h
  cases h

theorem RoundTrip.resetctlWarmReset : RoundTrip.Statement (.resetctlWarmReset) := by
  intro _ _ h
  cases h

theorem RoundTrip.cxlReset : RoundTrip.Statement (.cxlReset) := by
  intro _ _ h
  cases h

theorem RoundTrip.secondaryBusReset : RoundTrip.Statement (.secondaryBusReset) := by
  intro _ _ h
  cases h

theorem RoundTrip.coldReset : RoundTrip.Statement (.coldReset) := by
  intro _ _ h
  cases h

theorem RoundTrip.fatalReset : RoundTrip.Statement (.fatalReset) := by
  intro _ _ h
  cases h

theorem RoundTrip.cxlTrainTimeout : RoundTrip.Statement (.cxlTrainTimeout) := by
  intro _ _ h
  cases h

theorem RoundTrip.wipeComplete : RoundTrip.Statement (.wipeComplete) := by
  intro _ _ h
  cases h

theorem RoundTrip.status : RoundTrip.Statement (.status) := by
  intro _ _ h
  cases h

theorem RoundTrip.reason : RoundTrip.Statement (.reason) := by
  intro _ _ h
  cases h

theorem RoundTrip.wipe : RoundTrip.Statement (.wipe) := by
  intro _ _ h
  cases h

theorem RoundTrip.lineChecks : RoundTrip.Statement (.lineChecks) := by
  intro _ _ h
  cases h

theorem RoundTrip.powerLoss : RoundTrip.Statement (.powerLoss) := by
  intro _ _ h
  cases h

end Sys2Proof.Laws
end

