-- ==== Sys2Proof/Laws/Results.lean ====
section
/-! SUPPORT. Instructions whose effect is to make register results outstanding: what each shape of the V and S formats
leaves due, cell by cell. -/

namespace Sys2Proof.Machine

/-- A list of results in which a cell's results agree gives what a function of cells says. -/
theorem State.gives_of_results {s : State} {ctx : Nat} {i : Instr} {body : Nat → Issued}
    {rs : List (Cell × Option (BitVec 1024))} {w : Cell → Option (BitVec 1024)} (he : exec i s = s.atIssue i body)
    (hr : s.Runs ctx) (hp : s.Passes ctx i) (hb : body ctx = s.results ctx rs)
    (h1 : ∀ c v, (c, v) ∈ rs → w c = v ∧ v.isSome = true) (h2 : ∀ c v, w c = some v → (c, some v) ∈ rs) :
    s.Gives ctx i w := by
  obtain ⟨t, ht, ho, hs⟩ := State.results_next (rs := rs) hr hp hb
  refine ⟨t, he.trans ht, ho, ?_, ?_, fun c => ?_⟩
  · rw [hs]
    apply SameRegs.passed
    unfold SameRegs
    rw [Team.postAll_eq]
  · rw [hs, Team.passed_pc]
  · rw [hs, Team.passed_due]
    cases hw : w c with
    | none =>
      rw [Team.due_postAll_other]
      · rfl
      · intro r hr e
        have := h1 r.1 r.2 hr
        rw [e, hw] at this
        rw [← this.1] at this
        exact absurd this.2 (by simp)
    | some v =>
      rw [Team.due_postAll _ _ _ (h2 c v hw)]
      · rfl
      · intro v' hv'
        rw [← hw]
        exact ((h1 c v' hv').1).symm

theorem State.mem_active {s : State} {ctx l : Nat} {pm : BitVec 4} {pn : Bool} :
    l ∈ (s.team ctx).active (s.widthOf ctx) pm pn ↔ s.activeLane ctx pm pn l = true := by
  simp [Team.active, State.activeLane, Team.pred, and_assoc]

/-- Results of lanes as a list, and as a function of cells. -/
theorem laneWrites_mem {s : State} {ctx : Nat} {f : VF} {x : Nat → Nat} :
    (∀ c v, (c, v) ∈ (((s.team ctx).active (s.widthOf ctx) f.pm f.pn).map fun l =>
        laneResult f.ty.toNat f.vd.toNat l (x l)).flatten → s.laneWrites ctx f x c = v ∧ v.isSome = true) ∧
    ∀ c v, s.laneWrites ctx f x c = some v → (c, some v) ∈ (((s.team ctx).active (s.widthOf ctx) f.pm f.pn).map fun l =>
        laneResult f.ty.toNat f.vd.toNat l (x l)).flatten := by
  constructor
  · intro c v h
    simp only [List.mem_flatten, List.mem_map] at h
    obtain ⟨_, ⟨l, hl, rfl⟩, hc⟩ := h
    rw [State.mem_active] at hl
    unfold laneResult at hc
    split at hc
    · rename_i h64
      simp only [List.mem_cons, Prod.mk.injEq, List.not_mem_nil, or_false] at hc
      rcases hc with ⟨rfl, rfl⟩ | ⟨rfl, rfl⟩
      · simp [State.laneWrites, hl]
      · simp [State.laneWrites, hl, h64]
    · simp only [List.mem_cons, Prod.mk.injEq, List.not_mem_nil, or_false] at hc
      obtain ⟨rfl, rfl⟩ := hc
      simp [State.laneWrites, hl]
  · intro c v h
    cases c <;> simp only [State.laneWrites, reduceCtorEq] at h
    rename_i r l
    split at h
    · rename_i hl
      simp only [List.mem_flatten, List.mem_map]
      refine ⟨_, ⟨l, State.mem_active.2 hl, rfl⟩, ?_⟩
      unfold laneResult
      split at h
      · rename_i hr; subst hr
        simp only [Option.some.injEq] at h; subst h
        split <;> simp
      · split at h
        · rename_i h64
          simp only [Option.some.injEq] at h; subst h
          simp [h64.1, h64.2]
        · cases h
    · cases h

/-- A V-format instruction of the mould. -/
theorem State.gives_lanes {s : State} {ctx : Nat} {i : Instr} {body : Nat → Issued} {f : VF} {x : Nat → Nat}
    (he : exec i s = s.atIssue i body) (hr : s.Runs ctx) (hp : s.Passes ctx i)
    (hb : body ctx = s.results ctx (((s.team ctx).active (s.widthOf ctx) f.pm f.pn).map fun l =>
      laneResult f.ty.toNat f.vd.toNat l (x l)).flatten) : s.Gives ctx i (s.laneWrites ctx f x) :=
  State.gives_of_results he hr hp hb laneWrites_mem.1 laneWrites_mem.2

/-- A result of bits of a k-register. -/
theorem State.gives_mask {s : State} {ctx : Nat} {i : Instr} {body : Nat → Issued} {k : Nat} {ls : List Nat}
    {on x : Nat → Bool} (he : exec i s = s.atIssue i body) (hr : s.Runs ctx) (hp : s.Passes ctx i)
    (hl : ∀ l, l ∈ ls ↔ on l = true)
    (hb : body ctx = s.results ctx (ls.map fun l => (.k k l, some (if x l then 1 else 0)))) :
    s.Gives ctx i (maskWrites k on x) := by
  apply State.gives_of_results he hr hp hb
  · intro c v h
    simp only [List.mem_map, Prod.mk.injEq] at h
    obtain ⟨l, hm, rfl, rfl⟩ := h
    exact ⟨if_pos ⟨rfl, (hl l).1 hm⟩, rfl⟩
  · intro c v h
    cases c <;> simp only [maskWrites, reduceCtorEq] at h
    rename_i n l
    split at h
    · rename_i hc
      simp only [Option.some.injEq] at h
      subst h
      simp only [List.mem_map, Prod.mk.injEq]
      exact ⟨l, (hl l).2 hc.2, by rw [hc.1], rfl⟩
    · cases h

/-- A result of one s-register. -/
theorem State.gives_scalar {s : State} {ctx : Nat} {i : Instr} {body : Nat → Issued} {n : Nat} {x : Word64}
    (he : exec i s = s.atIssue i body) (hr : s.Runs ctx) (hp : s.Passes ctx i)
    (hb : body ctx = s.results ctx [(.s n, some (x.setWidth 1024))]) : s.Gives ctx i (scalarWrite n x) := by
  apply State.gives_of_results he hr hp hb
  · intro c v h
    simp only [List.mem_cons, Prod.mk.injEq, List.not_mem_nil, or_false] at h
    obtain ⟨rfl, rfl⟩ := h
    simp [scalarWrite]
  · intro c v h
    cases c <;> simp only [scalarWrite, reduceCtorEq] at h
    split at h
    · rename_i hc; subst hc; simp only [Option.some.injEq] at h; subst h; simp
    · cases h

/-! ## Elements -/

theorem bitsAt_lt (x o n : Nat) : bitsAt x o n < 2 ^ n := by
  unfold bitsAt; exact Nat.mod_lt _ (Nat.two_pow_pos n)

theorem ty_shape (ty : Nat) : tyCount ty = 1 ∨ (tyCount ty = 2 ∧ tyBits ty = 16) ∨ (tyCount ty = 4 ∧ tyBits ty = 8) := by
  unfold tyCount tyBits
  split
  all_goals first
    | exact Or.inr (Or.inl ⟨rfl, rfl⟩)
    | exact Or.inr (Or.inr ⟨rfl, rfl⟩)
    | exact Or.inl rfl

theorem buildElems_one {ty : Nat} (g : Nat → Nat) (h : tyCount ty = 1) : buildElems ty g = g 0 % 2 ^ tyBits ty := by
  unfold buildElems
  rw [h, show List.range 1 = [0] from rfl]
  simp only [List.foldl_cons, List.foldl_nil, Nat.zero_add, Nat.zero_mul, Nat.pow_zero, Nat.mul_one]

theorem buildElems_two {ty : Nat} (g : Nat → Nat) (h : tyCount ty = 2) (hb : tyBits ty = 16) :
    buildElems ty g = g 0 % 65536 + g 1 % 65536 * 65536 := by
  unfold buildElems
  rw [h, hb, show List.range 2 = [0, 1] from rfl]
  simp only [List.foldl_cons, List.foldl_nil, Nat.zero_add, Nat.zero_mul, Nat.pow_zero, Nat.mul_one, Nat.one_mul,
    Nat.reducePow]

theorem buildElems_four {ty : Nat} (g : Nat → Nat) (h : tyCount ty = 4) (hb : tyBits ty = 8) :
    buildElems ty g = g 0 % 256 + g 1 % 256 * 256 + g 2 % 256 * 65536 + g 3 % 256 * 16777216 := by
  have e : buildElems ty g = 0 + g 0 % 2 ^ tyBits ty * 2 ^ (0 * tyBits ty) + g 1 % 2 ^ tyBits ty * 2 ^ (1 * tyBits ty) +
      g 2 % 2 ^ tyBits ty * 2 ^ (2 * tyBits ty) + g 3 % 2 ^ tyBits ty * 2 ^ (3 * tyBits ty) := by
    unfold buildElems; rw [h]; exact rfl
  rw [e, hb]
  have p0 : (2 : Nat) ^ (0 * 8) = 1 := by norm_num
  have p1 : (2 : Nat) ^ (1 * 8) = 256 := by norm_num
  have p2 : (2 : Nat) ^ (2 * 8) = 65536 := by norm_num
  have p3 : (2 : Nat) ^ (3 * 8) = 16777216 := by norm_num
  rw [p0, p1, p2, p3, Nat.zero_add, Nat.mul_one]

theorem bytes_apart {a b c d : Nat} (ha : a < 256) (hb : b < 256) (hc : c < 256) (hd : d < 256) :
    (a + b * 256 + c * 65536 + d * 16777216) % 256 = a ∧ (a + b * 256 + c * 65536 + d * 16777216) / 256 % 256 = b ∧
      (a + b * 256 + c * 65536 + d * 16777216) / 65536 % 256 = c ∧
      (a + b * 256 + c * 65536 + d * 16777216) / 16777216 % 256 = d := by
  refine ⟨?_, ?_, ?_, ?_⟩ <;> omega

/-- The elements of a value put together from them. -/
theorem elemAt_buildElems {ty : Nat} (g : Nat → Nat) {e : Nat} (h : e < tyCount ty) :
    elemAt ty (buildElems ty g) e = g e % 2 ^ tyBits ty := by
  rcases ty_shape ty with h1 | ⟨h1, h2⟩ | ⟨h1, h2⟩
  · rw [h1] at h
    obtain rfl : e = 0 := by omega
    rw [buildElems_one g h1]
    unfold elemAt bitsAt
    rw [Nat.zero_mul, Nat.pow_zero, Nat.div_one, Nat.mod_mod]
  · rw [h1] at h
    rw [buildElems_two g h1 h2]
    unfold elemAt bitsAt
    rw [h2]
    have h3 : e = 0 ∨ e = 1 := by omega
    rcases h3 with rfl | rfl
    · simp only [Nat.zero_mul, Nat.pow_zero, Nat.div_one, Nat.reducePow]; omega
    · simp only [Nat.one_mul, Nat.reducePow]; omega
  · rw [h1] at h
    rw [buildElems_four g h1 h2]
    have m : ∀ x, x % 256 < 256 := fun x => Nat.mod_lt _ (by norm_num)
    have k := bytes_apart (m (g 0)) (m (g 1)) (m (g 2)) (m (g 3))
    unfold elemAt bitsAt
    rw [h2]
    have p0 : (2 : Nat) ^ (0 * 8) = 1 := by norm_num
    have p1 : (2 : Nat) ^ (1 * 8) = 256 := by norm_num
    have p2 : (2 : Nat) ^ (2 * 8) = 65536 := by norm_num
    have p3 : (2 : Nat) ^ (3 * 8) = 16777216 := by norm_num
    have p4 : (2 : Nat) ^ 8 = 256 := by norm_num
    have h3 : e = 0 ∨ e = 1 ∨ e = 2 ∨ e = 3 := by omega
    rcases h3 with rfl | rfl | rfl | rfl
    · rw [p0, p4, Nat.div_one]; exact k.1
    · rw [p1]; exact k.2.1
    · rw [p2, p4]; exact k.2.2.1
    · rw [p3, p4]; exact k.2.2.2

/-- An instruction of the mould that acts element by element. -/
theorem State.gives_elems {s : State} {ctx : Nat} {i : Instr} {body : Nat → Issued} {f : VF}
    {g : Nat → Nat → Nat → Nat} (h : Nat → Nat → Nat → Nat)
    (he : exec i s = s.atIssue i body) (hr : s.Runs ctx) (hp : s.Passes ctx i) (hb : body ctx = s.vecOp ctx f h)
    (hg : ∀ a b c e, e < tyCount f.ty.toNat →
      elemAt f.ty.toNat (h a b c) e = g (elemAt f.ty.toNat a e) (elemAt f.ty.toNat b e) (elemAt f.ty.toNat c e)) :
    s.GivesElems ctx i f g :=
  ⟨_, State.gives_lanes he hr hp hb, fun _ _ _ hl => hg _ _ _ _ hl⟩

/-! ## Ranges -/

theorem wrapN_lt (n : Nat) (x : Int) : wrapN n x < 2 ^ n := by
  unfold wrapN
  have := Int.emod_lt_of_pos x (b := ((2 ^ n : Nat) : Int)) (by positivity)
  have h2 := Int.emod_nonneg x (b := ((2 ^ n : Nat) : Int)) (by positivity)
  omega

theorem popcount_le (n a : Nat) : popcount n a ≤ n := by
  induction n generalizing a with
  | zero => simp [popcount]
  | succ n ih => unfold popcount; have := ih (a / 2); omega

theorem Team.operand_lt (t : Team) (ty fld l : Nat) : t.operand ty fld 0 l < 2 ^ 64 := by
  unfold Team.operand
  have h1 := (t.vreg fld l).isLt
  have h2 := (t.vreg (fld + 1) l).isLt
  have h3 := (t.sreg (fld - 768)).isLt
  split_ifs
  · omega
  · omega
  · omega
  · omega
  · unfold wrapN signed; norm_num
  · norm_num

/-- A value below 2^64 as a result. -/
theorem ofNat_widen {x : Nat} (h : x < 2 ^ 64) : BitVec.ofNat 1024 x = (BitVec.ofNat 64 x).setWidth 1024 := by
  apply BitVec.eq_of_toNat_eq
  rw [BitVec.toNat_setWidth, BitVec.toNat_ofNat, BitVec.toNat_ofNat, Nat.mod_eq_of_lt h]

theorem ofNat_mod_widen (x : Nat) : BitVec.ofNat 1024 (x % 2 ^ 64) = (BitVec.ofNat 64 x).setWidth 1024 := by
  rw [ofNat_widen (Nat.mod_lt _ (by norm_num))]
  congr 1
  apply BitVec.eq_of_toNat_eq
  simp only [BitVec.toNat_ofNat, Nat.mod_mod]

theorem State.active_lt {s : State} {ctx l : Nat} {pm : BitVec 4} {pn : Bool}
    (h : l ∈ (s.team ctx).active (s.widthOf ctx) pm pn) : l < 1024 := by
  rw [State.mem_active] at h
  simp only [State.activeLane, Bool.and_eq_true] at h
  exact BitVec.lt_of_getLsbD h.1.2

theorem lanes_length {ls : List Nat} (hs : ls.Nodup) (h : ∀ l ∈ ls, l < 1024) : ls.length ≤ 1024 := by
  have h2 := List.Subperm.length_le (l₁ := ls) (l₂ := List.range 1024) (hs.subperm fun l hl => List.mem_range.2 (h l hl))
  simpa using h2

/-- An instruction that gives no result. -/
theorem State.gives_nothing {s : State} {ctx : Nat} {i : Instr} {body : Nat → Issued} (he : exec i s = s.atIssue i body)
    (hr : s.Runs ctx) (hp : s.Passes ctx i) (hb : body ctx = s.results ctx []) : s.Gives ctx i (fun _ => none) :=
  State.gives_of_results he hr hp hb (by simp) (by simp)

/-- A result that a mask instruction gives only when a lane is active. -/
theorem State.gives_maskResult {s : State} {ctx : Nat} {i : Instr} {body : Nat → Issued} {f : VF} {val : List Nat → Nat}
    (he : exec i s = s.atIssue i body) (hr : s.Runs ctx) (hp : s.Passes ctx i) (hb : body ctx = s.maskResult ctx f val)
    (hv : val ((s.team ctx).active (s.widthOf ctx) f.pm f.pn) < 2 ^ 64) :
    s.Gives ctx i fun c =>
      if (s.team ctx).active (s.widthOf ctx) f.pm f.pn = [] then none
      else scalarWrite (f.vd.toNat - 768) (BitVec.ofNat 64 (val ((s.team ctx).active (s.widthOf ctx) f.pm f.pn))) c := by
  unfold State.maskResult at hb
  by_cases ha : (s.team ctx).active (s.widthOf ctx) f.pm f.pn = []
  · simp only [ha, if_true]
    exact State.gives_nothing he hr hp (by rw [hb]; simp [ha])
  · simp only [ha, if_false]
    refine State.gives_scalar he hr hp ?_
    rw [hb, ← ofNat_widen hv]
    simp [ha]

end Sys2Proof.Machine
end

