-- ==== Sys2Proof/Tests/Slice0.lean ====
section
/-! SUPPORT. The model's own tests: words of the spec decoded, terms that are not well formed, and for each statement that has
hypotheses a state that meets them.  Words and expected values come from the spec's own examples and tables, or from hand
calculation by its rules. -/

namespace Sys2Proof.Tests

open Sys2Proof Sys2Proof.Machine

set_option Elab.async false

/-! ## Decoding: words of the spec's entries, read field by field -/

/-- R409, R414, R410, R412, R416, R427 and the worked words of spec/04_encoding.md. -/
theorem test_words_v :
    decode 0x18000C0300B0018800000000#96 = .vfadd { vd := 12, va := 12, vb := 11, ty := 6, rnd := 1 } ∧
    decode 0x018004013FF0000000000040#96 = .vadd { sw := true, vd := 4, va := 4, vb := 1023, imm := 0x40 } ∧
    decode 0x020001008030000400000000#96 = .vsub { vd := 1, va := 2, vb := 3, sat := true } ∧
    decode 0x0B800300BFF000000000000C#96 = .vshl { sw := true, vd := 3, va := 2, vb := 1023, imm := 12 } ∧
    decode 0x0F0005018070080000000000#96 = .vsel { vd := 5, va := 6, vb := 7, vc := 2 } ∧
    decode 0x1B0004014060118800000000#96 = .vfma { vd := 4, va := 5, vb := 6, vc := 4, ty := 6, rnd := 1 } ∧
    decode 0x0E8001013030080000000000#96 = .vcmp { sw := true, vd := 1, va := 4, vb := 771, vc := 2 } ∧
    decode 0x1E0002004030098000000000#96 = .vfcmp { vd := 2, va := 1, vb := 3, vc := 2, ty := 6 } ∧
    decode 0x1100090080009A4C00000000#96 = .vcvt { vd := 9, va := 2, vc := 0x26, ty := 9, rnd := 1, sat := true } ∧
    decode 0x14830A03BFF0000000000020#96 = .vextr { sw := true, vd := 778, va := 14, vb := 1023, imm := 0x20 } ∧
    decode 0x210001008000018000000000#96 = .vrcp { vd := 1, va := 2, ty := 6 } ∧
    decode 0x280009023FF00C0000000001#96 = .vshfl { vd := 9, va := 8, vb := 1023, vc := 3, imm := 1 } ∧
    decode 0x29000100BFF0000000000003#96 = .vrot { vd := 1, va := 2, vb := 1023, imm := 3 } ∧
    decode 0x2B0003008000018800000000#96 = .vscan { vd := 3, va := 2, ty := 6, rnd := 1 } ∧
    decode 0x2A800EC000C0018000000000#96 = .vmatch { sw := true, vd := 14, va := 768, vb := 12, ty := 6 } ∧
    decode 0x300003004020000000000000#96 = .kand { vd := 3, va := 1, vb := 2 } ∧
    decode 0x340002003FF0000000000001#96 = .kset { vd := 2, vb := 1023, imm := 1 } ∧
    decode 0x370306013FF0000000000001#96 = .kget { vd := 774, va := 4, vb := 1023, imm := 1 } := by decide +kernel

/-- R395 to R399, R391. -/
theorem test_words_s :
    decode 0x410041000000000000000100#96 = .saddi { sd := 4, sa := 4, imm := 0x100 } ∧
    decode 0x410051400000000000000100#96 = .saddi { sd := 5, sa := 5, imm := 0x100 } ∧
    decode 0x450051870000000000000001#96 = .sdiv { sd := 5, sa := 6, sb := 7, imm := 1 } ∧
    decode 0x4A00B04C0000000000000000#96 = .sshl { sd := 11, sa := 1, sb := 12 } ∧
    decode 0x4F0031050000000000000006#96 = .scmp { sd := 3, sa := 4, sb := 5, imm := 6 } ∧
    decode 0x530140000000000000000008#96 = .sread { sd := 20, imm := 8 } ∧
    decode 0x538000000000000000005000#96 = .sreadV { sw := true, imm := 0x5000 } ∧
    decode 0x540001000000000000000012#96 = .swrite { sa := 4, imm := 18 } ∧
    decode 0x550020040000000000000020#96 = .shset { sd := 2, sb := 4, imm := 32 } := by decide +kernel

/-- R393, R419, R421, R432 to R435 and the others of the M format. -/
theorem test_words_m :
    decode 0x6080081BFF40000000000000#96 = .vld { sw := true, data := 8, base := 6, idx := 1023, sz := 2 } ∧
    decode 0x620008100340008000000000#96 = .vldx { data := 8, base := 4, idx := 3, sz := 2, shift := 2 } ∧
    decode 0x61000B17FF40000000000000#96 = .vst { data := 11, base := 5, idx := 1023, sz := 2 } ∧
    decode 0x6300040C0547008000000000#96 = .vstx { data := 4, base := 3, idx := 5, sz := 2, scope := 3, ord := 2, shift := 2 } ∧
    decode 0x6400030BFF60000000000020#96 = .sld { data := 3, base := 2, idx := 1023, sz := 3, disp := 0x20 } ∧
    decode 0x6500000FFF47000000000000#96 = .sst { base := 3, idx := 1023, sz := 2, scope := 3, ord := 2 } ∧
    decode 0x6680091FFF40000000000000#96 = .vlds { sw := true, data := 9, base := 7, idx := 1023, sz := 2 } ∧
    decode 0x68000713FF46900000000000#96 =
      .vatom { data := 7, base := 4, idx := 1023, sz := 2, scope := 3, ord := 1, aop := 8 } ∧
    decode 0x6C80060FFF00000000000140#96 = .shld { sw := true, data := 6, base := 3, idx := 1023, disp := 0x140 } ∧
    decode 0x6B0000140300000000000000#96 = .pref { base := 5, idx := 3 } ∧
    decode 0x7100040FFF00000000000000#96 = .wpin { data := 4, base := 3, idx := 1023 } ∧
    decode 0x75000013FF00000000000080#96 = .cflush { base := 4, idx := 1023, disp := 0x80 } ∧
    decode 0x78000003FF00000005000000#96 = .waitcnt { idx := 1023, disp := 0x05000000 } ∧
    decode 0x79000003FF00000000000012#96 = .xfence { idx := 1023, disp := 0x12 } := by decide +kernel

/-- R384, R388, R441, R345, R378 and the others of the X format. -/
theorem test_words_x :
    decode 0x800085019000000000000001#96 = .mma { ha := 4, hb := 5, zd := 3, acd := true, sub := 1 } ∧
    decode 0x810000008000000000000000#96 = .zclr { zd := 1 } ∧
    decode 0x820000008000020600000000#96 = .zrd { zd := 1, sub := 0x020600000000 } ∧
    decode 0x830000000005010100000000#96 = .zwr { s1 := 5, sub := 0x010100000000 } ∧
    decode 0x8400C0008000000000000000#96 = .zdrain { ha := 6, zd := 1 } ∧
    decode 0x8800220003C9008000000000#96 = .cpy { ha := 1, hb := 2, bar := 15, s1 := 9, sub := 0x008000000000 } ∧
    decode 0x890043380449188000000000#96 = .cpym { ha := 2, hb := 3, hc := 7, bar := 17, s1 := 9, sub := 0x188000000000 } ∧
    decode 0x900000000244140000000000#96 = .barinit { bar := 9, s1 := 4, sub := 0x140000000000 } ∧
    decode 0x910000000240000000000000#96 = .bararv { bar := 9 } ∧
    decode 0x92000000044D000000000000#96 = .barwait { bar := 17, s1 := 13 } ∧
    decode 0x940000000016000000000000#96 = .gjoin { s1 := 22 } ∧
    decode 0x940000000004000000000001#96 = .gjoinAny { s1 := 4, sub := 1 } ∧
    decode 0x960000000016000000000000#96 = .gbar { s1 := 22 } := by decide +kernel

/-- R342, R349 to R352, R370, R377 (C); R305, R363, R374, R385, R403, R404 (Y). -/
theorem test_words_cy :
    decode 0xA000000C00000000FFFFFFFF#96 = .br { slot := 3, disp := 0xFFFFFFFF } ∧
    decode 0xA100806C00000000FFFFFFFD#96 = .bcond { sa := 8, cc := 3, slot := 3, disp := 0xFFFFFFFD } ∧
    decode 0xA403F0080000000000000004#96 = .call { sa := 63, slot := 2, disp := 4 } ∧
    decode 0xA50070000000000000000000#96 = .jmp { sa := 7 } ∧
    decode 0xA603F0000000000000000000#96 = .ret { sa := 63 } ∧
    decode 0xA80001000000000000000000#96 = .divg { ksel := 1 } ∧
    decode 0xAC0002000000000000000000#96 = .dbrk { ksel := 2 } ∧
    decode 0xB10000000000000000000010#96 = .yield { disp := 16 } ∧
    decode 0xC00000078000000000000000#96 = .trap { code := 15 } ∧
    decode 0xC20140000000000000000000#96 = .bellarm { sa := 20 } ∧
    decode 0xC40041400100000000000000#96 = .ctxrd { sa := 4, sb := 5, sub := 0x100000000000000 } ∧
    decode 0xC80041400000000000000000#96 = .evpop { sa := 4, sb := 5 } ∧
    decode 0xC90060028000000000000000#96 = .evpush { sa := 6, code := 5 } ∧
    decode 0xCB0050000000000000000000#96 = .trel { sa := 5 } := by decide +kernel

/-- Opcodes of further rows (R89), their operands read by the same formats. -/
theorem test_words_opcodes :
    decode 0x108004008000000000000000#96 = .vmov (getV 0x108004008000000000000000#96) ∧
    decode 0x6700081FFF40000000000000#96 = .vsts (getM 0x6700081FFF40000000000000#96) ∧
    decode 0x520090000000002000000020#96 = .smovi (getS 0x520090000000002000000020#96) ∧
    decode 0x6988060FFF46800000000000#96 = .vcas (getM 0x6988060FFF46800000000000#96) ∧
    decode 0x70000A0FFF00000000000000#96 = .wdepth (getM 0x70000A0FFF00000000000000#96) ∧
    decode 0x7200000FFF00000000000000#96 = .wunpin (getM 0x7200000FFF00000000000000#96) ∧
    decode 0x73000013FF00000000000000#96 = .wevict (getM 0x73000013FF00000000000000#96) ∧
    decode 0x74000013FF00000000001000#96 = .wclean (getM 0x74000013FF00000000001000#96) ∧
    decode 0x76000013FF00000000000000#96 = .cinv (getM 0x76000013FF00000000000000#96) ∧
    decode 0x950000000016000000000000#96 = .gleave (getX 0x950000000016000000000000#96) ∧
    decode 0xA90000000000000000000000#96 = .delse {} ∧ decode 0xAA0000000000000000000000#96 = .djoin {} ∧
    decode 0xAB0000000000000000000000#96 = .dloop {} ∧ decode 0xB00000000000000000000000#96 = .exit {} ∧
    decode 0xC10000000000000000000000#96 = .tret {} ∧ decode 0xCA0000000000000000000000#96 = .evwait {} ∧
    decode 0xC50041400100000000000000#96 = .ctxwr (getY 0xC50041400100000000000000#96) := by decide +kernel

/-- R93: the words of the table of errors: reserved opcodes. -/
theorem test_words_reserved :
    decode 0#96 = .reservedOpcode 0 ∧
    decode 0x170000000000000000000000#96 = .reservedOpcode 0x170000000000000000000000#96 ∧
    decode 0xFFFFFFFFFFFFFFFFFFFFFFFF#96 = .reservedOpcode 0xFFFFFFFFFFFFFFFFFFFFFFFF#96 := by decide +kernel

/-! ## Terms that are not well formed, one for each check -/

theorem test_ill_formed :
    ([.sread { imm := 0x1000 }, .sreadV { imm := 0 }, .gjoin { sub := 1 }, .gjoinAny { sub := 0 },
      .reservedOpcode 0x010000000000000000000000, .drumAnnouncementAct 4, .wellBeatAdmit 4, .transitArrival 4 0, .wellUe 4 0,
      .wrestitchRetire 4 0, .wrestitchRetire 0 1024, .wrestitchRestore 4 0, .wrestitchRestore 0 1024, .restitchComplete 4,
      .wellThermalRestore 4 0, .wellThermalRestore 0 1024, .pageWalkComplete 4 0, .lotteryDraw 4, .l1Fill 864 0,
      .l1HoldExpiry 864 0, .mmaStart 768 0, .mmaCommit 768 0, .countingEvent 864, .ntWindow 864, .clusterGatingCommit 96,
      .clusterWakeComplete 96, .columnLevelStep 96, .thermalLevelTick 96, .trelRelease 96, .eventRecordEnter 96,
      .dbgEnable 96 0, .notifyWrite 131072 0 0, .qcmdEnable 131072, .qcmdDisable 131072, .launchPacketRead 131072,
      .classRestore 8] : List Instr).all (fun i => !i.wellFormed) = true := by decide +kernel

theorem test_well_formed :
    ([.sread { imm := 8 }, .sreadV { imm := 0x5000 }, .gjoin { s1 := 22 }, .gjoinAny { sub := 1 }, .reservedOpcode 0,
      .wellUe 3 0, .wrestitchRetire 3 1023, .l1Fill 863 0, .mmaStart 767 0, .lotteryDraw 3, .trelRelease 95,
      .notifyWrite 131071 0 0, .classRestore 7, .vadd {}] : List Instr).all Instr.wellFormed = true := by decide +kernel

/-! ## States to try the machine on -/

/-- One team of sixteen lanes, ready at 0x1000, that issues now. -/
def ready : State := { State.reset.withTeam with cur := some 0 }

/-- `ready` with its team changed. -/
def team (f : Team → Team) : State := ready.setTeam 0 (f (ready.team 0))

/-- `ready` with its block changed. -/
def block (f : Block → Block) : State := ready.setBlock 0 (f handBlock)

/-- `ready` with one s-register set. -/
def scalar (n : Nat) (x : Word64) : State := team fun t => { t with s := Tab.put t.s n x }

/-- The parts of `Runs` as a test. -/
def runsB (s : State) : Bool :=
  s.cur == some 0 && s.canIssue 0 && (s.blockOf? 0).any fun b => b.place == .running && b.stepping.isNone

theorem runs_of {s : State} (h : runsB s = true) : s.Runs 0 := by
  simp only [runsB, Bool.and_eq_true, beq_iff_eq, Option.any_eq_true, Option.isNone_iff_eq_none] at h
  obtain ⟨⟨h1, h2⟩, b, h3, h4, h5⟩ := h
  exact ⟨h1, h2, b, h3, h4, h5⟩

/-- Whether instructions pass the checks before their own entries. -/
def pass (s : State) (is : List Instr) : Bool := is.all fun i => s.issueTrap 0 i == none

/-- Whether a step answers a next state of which a test holds. -/
def next (o : Host.Outcome State Fault Refusal) (p : State → Bool) : Bool :=
  match o with
  | .next u => p u
  | _ => false

/-- Whether an instruction answers a next state in which a team is due these values. -/
def due (s : State) (i : Instr) (cs : List (Cell × Nat)) : Bool :=
  next (exec i s) fun u => cs.all fun c => (u.team 0).due c.1 == some (BitVec.ofNat 1024 c.2)

/-- Whether an instruction traps precisely with a cause, in a team without a handler: the team ends with it. -/
def ends (s : State) (i : Instr) (c : Cause) : Bool :=
  next (exec i s) fun u => (u.team 0).sched == .exited && (u.team 0).endCause == c

/-! ## Hypotheses that are met: vectors, masks and scalars -/

theorem test_hyps_integer_vectors : ready.Runs 0 ∧
    pass ready (([.vadd, .vsub, .vmul, .vmin, .vmax, .vmulh] : List (VF → Instr)).map fun c =>
      c { vd := 1, va := 2, vb := 3 }) = true ∧
    pass ready [.vmad { vd := 1, va := 2, vb := 3, vc := 4 },
      .vadd { vd := 1, va := 2, vb := 3, sat := true, pm := 15, ty := 3 }] = true := by
  exact ⟨runs_of (by decide +kernel), by decide +kernel⟩

theorem test_hyps_vector_bits :
    pass ready (([.vshl, .vshr, .vsra, .vand, .vor, .vxor, .vsel] : List (VF → Instr)).map fun c =>
      c { vd := 1, va := 2, vb := 3 }) = true ∧
    pass ready [.vpopc { vd := 1, va := 2 }, .vclz { vd := 1, va := 2 }, .vmov { vd := 1, va := 2 }, .vmov { vd := 1, vb := 1023 }] = true := by decide +kernel

theorem test_hyps_vector_compares :
    pass ready [.vcmp { vd := 1, va := 2, vb := 3 }, .vfcmp { vd := 1, va := 2, vb := 3, ty := 6 }] = true := by
  decide +kernel

theorem test_hyps_float_vectors :
    pass ready (([.vfadd, .vfsub, .vfmul, .vfmin, .vfmax] : List (VF → Instr)).map fun c =>
      c { vd := 1, va := 2, vb := 3, ty := 6 }) = true ∧
    pass ready [.vfma { vd := 1, va := 2, vb := 3, vc := 4, ty := 6, rnd := 1 }, .vfclass { vd := 1, va := 2, ty := 6 },
      .vfrnd { vd := 1, va := 2, ty := 6 }] = true := by decide +kernel

theorem test_hyps_conversions :
    pass ready [.vcvt { vd := 9, va := 2, vc := 0x26, ty := 9, rnd := 1, sat := true }] = true ∧
    pass ready (([.vrcp, .vrsq, .vexp2, .vlog2, .vtanh] : List (VF → Instr)).map fun c => c { vd := 1, va := 2, ty := 6 }) =
      true ∧ (unpack fF32 0x7F7FFFFF).isNan = false := by decide +kernel

theorem test_hyps_lanes :
    pass ready [.vshfl { vd := 9, va := 8, vb := 1023, vc := 3, imm := 15 }, .vrot { vd := 9, va := 8, vb := 1023, imm := 15 },
      .vshfl { vd := 9, va := 8, vb := 1023, vc := 3, imm := 16 }, .vrot { vd := 9, va := 8, vb := 1023, imm := 16 },
      .vshfl { vd := 9, va := 8, vb := 7, vc := 3 }, .vmatch { vd := 1, va := 2, vb := 3 }, .vscan { vd := 1, va := 2 },
      .vextr { vd := 778, va := 14, vb := 1023, imm := 15 }, .vins { vd := 14, va := 778, vb := 1023, imm := 15 }] = true ∧
    ready.spanOf 0 = 16 := by decide +kernel

theorem test_hyps_masks :
    pass ready (([.kand, .kor, .kxor, .kandn] : List (VF → Instr)).map fun c => c { vd := 3, va := 1, vb := 2 }) = true ∧
    pass ready [.kset { vd := 2, vb := 1023, imm := 1 }, .kput { vd := 2, va := 774, vb := 1023 },
      .kpopc { vd := 774, va := 4 }, .kfirst { vd := 774, va := 4 }, .kget { vd := 774, va := 4, vb := 1023, imm := 1 }] =
      true := by decide +kernel

theorem test_hyps_scalars :
    pass ready (([.sadd, .ssub, .smul, .smulh, .sand, .sor, .sxor, .sshl, .sshr, .ssra, .smin, .smax, .ssel, .sdiv, .srem,
      .scmp] : List (SF → Instr)).map fun c => c { sd := 1, sa := 2, sb := 3 }) = true ∧
    pass ready [.saddi { sd := 1, sa := 2, imm := 5 }, .smov { sd := 1, sa := 2 }, .smovi { sd := 0, imm := 5 }] = true ∧
    pass (scalar 3 7) [.sdiv { sd := 1, sa := 2, sb := 3 }, .srem { sd := 1, sa := 2, sb := 3 }] = true ∧
    (ready.team 0).sreg 3 = 0 ∧ ((scalar 3 7).team 0).sreg 3 ≠ 0 := by decide +kernel

theorem test_hyps_special_registers :
    pass ready [.sread { sd := 1, imm := 26 }, .sread { sd := 1, imm := 27 }, .sread { sd := 1 },
      .sreadV { imm := 0x301A }, .sreadV { imm := 0x301B }, .shset { sd := 2, sb := 4, imm := 32 }] = true ∧
    srNumber { imm := 26 } = 26 ∧ srNumber { imm := 27 } = 27 ∧ srNumber {} = 0 ∧ srNumber { imm := 0x301A } = 26 ∧
    srNumber { imm := 0x301B } = 27 := by decide +kernel

/-! ## Words, steps and memory -/

theorem test_hyps_encoding : Instr.wellFormed (.vadd { vd := 1023, imm := 0xFFFFFFFF }) = true ∧
    (encode (.vadd { vd := 1023, imm := 0xFFFFFFFF })).isSome = true ∧
    Instr.wellFormed (.reservedOpcode 0xFF0000000000000000000001) = true ∧
    encode (.reservedOpcode 0xFF0000000000000000000001) = some 0xFF0000000000000000000001 := by decide +kernel

/-- A line with words in its first slots, PAIR bits, TGT on slot 0, and good parity. -/
def lineWith (pairs : Nat) (ws : List Word96) : BitVec 512 :=
  let par := (ws.zipIdx.map fun w => b2n (odd 96 w.1.toNat) * 2 ^ (9 + w.2)).sum
  let lw := 1 + pairs * 32 + par
  let lpar := b2n (odd 9 (lw % 512)) * 2 ^ 14
  BitVec.ofNat 512 ((ws.zipIdx.map fun w => w.1.toNat * 2 ^ (96 * w.2)).sum + (lw + lpar) * 2 ^ 480)

/-- A state with a line at 0x1000 in the fetch buffer of core 0. -/
def withLine (s : State) (l : BitVec 512) : State :=
  s.setCore 0 { s.core 0 with fbuf := Tab.put (s.core 0).fbuf (fetchKey 1 0x1000) (l, {}) }

/-- A page of 2 MiB at virtual and physical 0 of address space 1, as each agent of a die holds it. -/
def pages : List TlbEnt := (List.range 4).map fun agent => { asid := 1, va := 0, size := 21, pa := 0, attr := {}, agent }

/-- The device in minimal mode, which serves no command. -/
def minimal : State := { ready with plat := { ready.plat with minimal := true } }

/-- The host owns line 0 of device memory, which holds an entry of the ASID table. -/
def hostOwns : State := ready.setDir 0 { st := .exclusive, base := .exclusive, owner := 4, sharers := 16 }

/-- A state whose address space 1 has a page of 2 MiB at virtual and physical 0. -/
def mapped (s : State) : State := s.setDie 0 { s.die 0 with tlb := pages }

/-- The line that a fetch gives, if it gives one. -/
def lineOf? (s : State) (pc : Word64) : Option (BitVec 512) :=
  match s.fetchLine 0 pc with
  | .ok _ l => some l
  | _ => none

/-- The checks of a line that is to issue (StepRunsDecoded). -/
def goodLine (s : State) (pair : Bool) : Bool :=
  let pc := (s.team 0).pc
  !badSlot pc && canonical (pcLine pc) && (lineOf? s pc).any fun l =>
    let lw := lineWord l
    !lparBad lw && !(issuing lw (pcSlot pc)).any (parBad l) && tgtBit lw (pcSlot pc) && bitsAt lw 15 17 == 0 && !malformed lw &&
      pcSlot pc == 0 && pairBit lw 0 == pair

/-- VADD beside VMIN, a pair. -/
def pairLine : BitVec 512 := lineWith 1 [wordOf (.vadd { vd := 1, va := 2, vb := 3 }), wordOf (.vmin { vd := 5, va := 6, vb := 7 })]

theorem test_hyps_step_runs_decoded :
    (State.reset.withFetchWord 96 0xB20000000000000000000000).agenda = [.issue 0] ∧
    (State.reset.withFetchWord 96 0xB20000000000000000000000).canIssue 0 = true ∧
    (State.reset.withFetchWord 96 0xB20000000000000000000000).mayIssue 0 = true ∧ (withLine ready pairLine).mayIssue 0 = true ∧
    goodLine (State.reset.withFetchWord 96 0xB20000000000000000000000) false = true ∧
    (withLine ready pairLine).canIssue 0 = true ∧ goodLine (withLine ready pairLine) true = true ∧
    (let first := { withLine ready pairLine with pairSecond := some (.vmin { vd := 5, va := 6, vb := 7 }) }
     next (exec (.vadd { vd := 1, va := 2, vb := 3 }) first) (fun _ => true) = true ∧
      first.issueTrap 0 (.vadd { vd := 1, va := 2, vb := 3 }) = none) := by decide +kernel

theorem test_hyps_fetch : Tab.get? (ready.core (ready.coreOf 0)).fbuf (fetchKey (ready.asidOf 0) 0x1000) = none ∧
    (ready.translate 0 1 0x1000 { fetch := true }).2.isOk = false ∧
    ((mapped ready).translate 0 1 0x1000 { fetch := true }).2.isOk = true ∧
    ready.walkWaits 0 1 0x1000 { fetch := true } = none ∧ hostOwns.walkWaits 0 1 0x1000 { fetch := true } = some 0 ∧
    ready.cinvOut 0 (lineKey 1 0x1000) = false ∧ ready.wellFetch 0 (lineKey 1 0x1000) false = none ∧
    (let s := ready.setDie 0 { ready.die 0 with tiles := [(tileKey 1 0x1000, { attr := some {} })], lines := [(lineKey 1 0x1000, { line := 32, st := .s, data := 0 })] }
     (s.wellFetch 0 (lineKey 1 0x1000) false).isSome = true) ∧
    ready.homeFirst (lineKey 1 0x1000) 32 false = none ∧ hostOwns.homeFirst (lineKey 1 0) 0 false = some .pull ∧
    (ready.setDir 32 { sharers := 1, key := 9 }).homeFirst (lineKey 1 0x1000) 32 false = some .reclaim ∧
    ready.fetchFirst 0 0x1000 32 = false ∧ ready.fetchFirst 0 0x1000 (2 ^ 45) = true ∧
    (ready.homeFirst (lineKey 1 0x1000) (2 ^ 44) false).isSome = true ∧
    (let s := { ready with plat := { ready.plat with peertab := [(0, 0)] } }
     ((s.fetchAway 0 0x1000 (2 ^ 45)).die 0).away = [(0, 0x1000, 2 ^ 45)] ∧
       (((s.fetchAway 0 0x1000 (2 ^ 45)).fetchBack 0 0x1000 (2 ^ 45)).die 0).away = []) := by decide +kernel

/-- A word of each kind of trap that R92 finds first, and lines that fail, hold or pass. -/
theorem test_hyps_checks_before_issue :
    encode (.vadd { vb := 1023, sat := true, ty := 13 }) ≠ none ∧ ready.cur = some 0 ∧ ready.canIssue 0 = true ∧
    ready.issueTrap 0 (.vadd { ty := 13 }) = some (Cause.badtype, false) ∧
    ({ ready with pairSecond := some (.vadd { ty := 13 }) } : State).issueTrap 0 (.vadd { vd := 1 }) =
      some (Cause.badtype, true) ∧
    badSlot 0x1005 = true ∧ badSlot 0x1004 = false ∧ canonical (pcLine 0x0100000000000000) = false ∧
    canonical (pcLine 0x00FFFFFFFFFFFFC0) = true ∧
    (match (withLine ready pairLine).fetch 0 with | .words _ _ w => w.isSome | _ => false) = true ∧
    (match ready.fetch 0 with | .hold _ _ _ => true | _ => false) = true ∧
    (match (withLine (mapped ready) (lineWith 3 [])).fetch 0 with | .trap _ c _ => c == Cause.badpair | _ => false) = true := by
  decide +kernel

theorem test_hyps_memory_form : State.reset.MemoryOk ∧ next (step State.reset) (fun _ => true) = true :=
  ⟨⟨by decide +kernel, by decide +kernel, by decide +kernel⟩, by decide +kernel⟩

/-- A result of each kind, all of one identity. -/
def owing : State := team fun t => { t with
  sched := .parked
  pend := [⟨5, .s 1, some 7, false⟩, ⟨5, .s 0, some 9, false⟩, ⟨5, .h 2, some 3, false⟩, ⟨5, .k 1 15, some 1, false⟩, ⟨5, .v 3 15, some 0x1FFFFFFFF, false⟩, ⟨5, .zrow 0 31, some 6, false⟩] }

theorem test_hyps_results : (Tab.get? owing.teams 0).isSome = true ∧
    (owing.blockOf? 0).any (fun b => b.place == .running && b.stepping.isNone) = true ∧ (owing.team 0).fatal = [] := by
  decide +kernel

/-- R45, R78: the values arrive, a write of s0 is discarded, and the parked team is ready. -/
theorem test_results_return : next (exec (.registerResultReturn 0 5 (lanesBelow 16)) owing) (fun u =>
    let t := u.team 0
    t.sreg 1 == 7 && t.sreg 0 == 0 && t.hreg 2 == 3 && (t.kreg 1).getLsbD 15 && t.vreg 3 15 == 0xFFFFFFFF &&
      t.zelem 0 31 0 == 6 && t.pend.isEmpty && t.sched == .ready) = true := by decide +kernel

/-! ## Control -/

theorem test_hyps_targets :
    badSlot 0x1005 = true ∧ canonical (pcLine 0x0100000000000000) = false ∧ badSlot 0x0100000000000000 = false ∧
    (lineOf? (withLine ready pairLine) 0x1000).any (fun l => !lparBad (lineWord l)) = true ∧
    (lineOf? (withLine ready (BitVec.ofNat 512 (2 ^ 494))) 0x1000).any (fun l => lparBad (lineWord l)) = true ∧
    (match (mapped ready).refetch 0 0x1000 false with | .ok _ _ => true | _ => false) = true := by decide +kernel

/-- A state whose k-register 1 has lanes 0 and 15 set, and whose s1 is negative. -/
def mixed : State := team fun t => { t with k := Tab.put t.k 1 0x8001, s := Tab.put t.s 1 (-1) }

theorem test_hyps_branches : mixed.Runs 0 ∧
    pass mixed [.br { disp := 1 }, .bcond { sa := 1, cc := 2, disp := 1 }, .bcond { sa := 1, cc := 3, disp := 1 },
      .bany { ksel := 1, disp := 1 }, .bnone { ksel := 1, disp := 1 }, .bany { ksel := 2, disp := 1 }, .bnone { ksel := 2, disp := 1 },
      .call { sa := 63, disp := 1 }, .jmp { sa := 1 }, .ret { sa := 63 }] = true ∧
    ((mixed.team 0).sreg 1).toInt < 0 ∧ ((mixed.team 0).kreg 1).getLsbD 15 = true ∧ (mixed.team 0).kreg 2 = 0 :=
  ⟨runs_of (by decide +kernel), by decide +kernel, by decide +kernel, by decide +kernel, by decide +kernel⟩

/-- A mask stack of a given depth, its innermost frame of a given kind. -/
def stacked (n : Nat) (loop : Bool) : State := team fun t =>
  { t with k := Tab.put t.k 1 0x8001, stack := List.replicate n { loop, saved := 0xFFFF, cond := 0x8001 } }

theorem test_hyps_divergence :
    ([0, 1, 31, 32].all fun n => [false, true].all fun l => runsB (stacked n l) &&
      pass (stacked n l) [.divg { ksel := 1 }, .delse {}, .djoin {}, .dloop {}, .dbrk { ksel := 1 }]) = true := by decide +kernel

/-- R370: the 32nd frame fits, the 33rd traps DIVOVF; DELSE runs the other lanes; DBRK takes lanes out of its loop. -/
theorem test_divergence :
    next (exec (.divg { ksel := 1 }) (stacked 31 false)) (fun u => (u.team 0).exec == 0x8001 && (u.team 0).stack.length == 32) = true ∧
    ends (stacked 32 false) (.divg { ksel := 1 }) Cause.divovf = true ∧ ends (stacked 32 true) (.dloop {}) Cause.divovf = true ∧
    next (exec (.delse {}) (stacked 1 false)) (fun u => (u.team 0).exec == 0x7FFE) = true ∧
    ends (stacked 1 true) (.delse {}) Cause.divunf = true ∧ ends (stacked 0 true) (.djoin {}) Cause.divunf = true ∧
    next (exec (.dbrk { ksel := 1 }) (stacked 1 true)) (fun u => (u.team 0).exec == 0x7FFE) = true ∧
    ends (stacked 1 false) (.dbrk { ksel := 1 }) Cause.divunf = true := by decide +kernel

theorem test_hyps_nop : ready.Runs 0 ∧ pass ready [.nop {}, .nop { sw := true }] = true ∧ ready.pairSecond = none ∧
    ready.pairMark = false ∧ runsB (team fun t => { t with pend := [⟨5, .s 1, none, false⟩] }) = true ∧
    pass (team fun t => { t with pend := [⟨5, .s 1, none, false⟩] }) [.nop { sw := true }] = true ∧
    (owing.team 0).sched = .parked ∧ (owing.team 0).pend ≠ [] ∧
    ((owing.team 0).pend.all fun r => r.uid == 5 && r.val.isSome && r.cell.lane.elim true (lanesBelow 16).getLsbD) = true :=
  ⟨runs_of (by decide +kernel), by decide +kernel⟩

theorem test_hyps_exit : pass ready [.exit {}, .yield { disp := 16 }] = true ∧ ready.blockOf? 0 = some handBlock ∧
    ready.power.shed.getLsbD handBlock.cls = false ∧ runsB (team fun t => { t with gangs := 9, pend := [⟨5, .s 1, none, false⟩] }) = true ∧
    pass (team fun t => { t with gangs := 9, pend := [⟨5, .s 1, none, false⟩] }) [.exit {}] = true := by decide +kernel

/-! ## Traps -/

/-- A team whose block has a handler, in or out of it. -/
def handled (inside : Bool) : State :=
  let s := block fun b => { b with handler := 0x2000 }
  s.setTeam 0 { s.team 0 with handler := inside }

theorem test_hyps_traps : (handled false).Runs 0 ∧ pass (handled false) [.trap { code := 15 }] = true ∧
    ((handled false).team 0).pend = [] ∧ ((handled false).team 0).handler = false ∧
    (handled false).blockOf? 0 = some { handBlock with handler := 0x2000 } ∧ (handled false).frameOk 0 = true ∧
    ((handled true).team 0).handler = true ∧ ready.handlerFor 0 { cause := 1, pc := 0, resume := 0 } = none :=
  ⟨runs_of (by decide +kernel), by decide +kernel⟩

/-- R276, R403: TRAP #15 goes to the handler, with the record in the trap area. -/
theorem test_trap : next (exec (.trap { code := 15 }) (handled false)) (fun u =>
    let t := u.team 0
    t.handler && t.pc == 0x2000 && t.faultpc == 0x1000 && t.exec == 0xFFFF && u.physWord (trapArea 0) % 128 == 0x7F &&
      u.physWord (trapArea 0 + 8) == 0x1000 && u.physWord (trapArea 0 + 16) == 0x1001) = true := by decide +kernel

/-- A handler whose trap area names a RESUME and an execution mask, with REWAIT or without. -/
def returning (rewait : Bool) (wait : Option Nat) : State :=
  let s := (handled true).setTeam 0 { (handled true).team 0 with suspWait := wait }
  ((s.physWrite (trapArea 0) (toBytes 8 (b2n rewait * 2 ^ 25))).physWrite (trapArea 0 + 16) (toBytes 8 0x3001)).physWrite
    (trapArea 0 + 192) (toBytes 8 0x30001)

/-- A handler with a store to its trap area still outstanding. -/
def storing : State := (handled true).setTeam 0 { (handled true).team 0 with inflight := [
  { uid := 1, tag := 1, kind := 2, clsT := true, st := true, pc := 0, word := 0, left := 1, works := [
    { uid := 1, ent := 1, work := .glob { uid := 1, ent := 1, ctx := 0, core := 0, asid := 1, op := .store, va := trapArea 0
                                          pieces := [{ lane := 0, va := trapArea 0, n := 4 }] } }] }] }

theorem test_hyps_trap_return :
    ([ready, handled true, returning false none, returning true none, returning true (some 3), storing].all fun s =>
      runsB s && pass s [.tret {}] && s.frameOk 0) = true ∧ storing.trapStores 0 = true ∧ (returning true none).trapStores 0 = false ∧
    bitAt ((returning true none).physWord (trapArea 0)) 25 = true ∧ bitAt ((returning false none).physWord (trapArea 0)) 25 = false ∧
    (handled true).blockOf? 0 = some { handBlock with handler := 0x2000 } := by decide +kernel

/-- R278: TRET goes on at RESUME with the saved mask, lanes above the width clear. -/
theorem test_trap_return : next (exec (.tret {}) (returning false none)) (fun u =>
    let t := u.team 0
    !t.handler && t.pc == 0x3001 && t.exec == 1) = true ∧ ends ready (.tret {}) Cause.badtret = true := by decide +kernel

/-! ## Special registers and waits -/

theorem test_hyps_register_writes : pass (scalar 5 0x21) [.modewr { sa := 5 }, .bellarm { sa := 20 }] = true ∧
    (0x21 : Nat) / 64 = 0 ∧ 0x21 / 16 % 4 ≠ 3 ∧ pass (scalar 5 0x40) [.modewr { sa := 5 }] = true ∧
    pass (scalar 5 7) [.swrite { sa := 5, imm := 17 }, .swrite { sa := 5, imm := 18 }, .swrite { sa := 5, imm := 19 }] = true ∧
    pass (scalar 5 8) [.swrite { sa := 5, imm := 18 }] = true ∧ srNumber { imm := 18 } = 18 ∧ handBlock.cls ≤ 7 := by decide +kernel

/-- A team of a control core. -/
def control : State := block fun b => { b with core := 768, lcore := 0, ctrl := true }

theorem test_hyps_control_team : control.Runs 0 ∧ pass control [.trel { sa := 5 }, .evpop { sa := 4, sb := 5 }, .evwait {}] = true ∧
    control.fenced 0 control.uid 3 = false ∧ control.isControl 0 = true ∧ (control.cluster 0).evq = [] ∧
    runsB (control.setCluster 0 { control.cluster 0 with evq := [(1, 2)] }) = true :=
  ⟨runs_of (by decide +kernel), by decide +kernel⟩

theorem test_hyps_events : pass ready [.evpush { sa := 6, code := 5 }] = true ∧ ready.isControl 0 = false ∧
    ready.room 0 16 0 = true ∧ pass control [.evpush { sa := 6, code := 5 }] = true := by decide +kernel

/-- R374: EVPOP gives both words of the oldest record, and zeros from an empty queue. -/
theorem test_evpop : due (control.setCluster 0 { control.cluster 0 with evq := [(1, 2), (3, 4)] }) (.evpop { sa := 4, sb := 5 })
      [(.s 4, 1), (.s 5, 2)] = true ∧ due control (.evpop { sa := 4, sb := 5 }) [(.s 4, 0), (.s 5, 0)] = true := by decide +kernel

theorem test_hyps_waits : pass ready [.waitcnt { idx := 1023 }, .xfence { idx := 1023, disp := 0x12 }] = true ∧
    pass (team fun t => { t with ldcnt := 1 }) [.waitcnt { idx := 1023 }] = true ∧
    runsB (team fun t => { t with ldcnt := 1 }) = true ∧ ((team fun t => { t with ldcnt := 1 }).team 0).ldcnt = 1 := by decide +kernel

/-- A handler's team, with its operands, beside a frozen block of its address space in frame 1. -/
def debugging (element : Word64) : State :=
  let s := (handled true).setTeam 0 { (handled true).team 0 with s := [(4, 0x8000000000010000), (5, element)] }
  (s.setBlock 1 { handBlock with place := .frozen, cause := Cause.dbgstop, slots := [1] }).setTeam 32 { sched := .frozen }

theorem test_hyps_context :
    ([0, 767, 768, 868].all fun e => runsB (debugging e) && pass (debugging e) [.ctxrd { sa := 4, sb := 5 }, .ctxwr { sa := 4, sb := 5 }] &&
      ((debugging e).ctxCheck 0 { sa := 4, sb := 5 } false).isOk) = true ∧
    ((debugging 0).ctxCheck 0 { sa := 4, sb := 5 } true).isOk = true ∧
    ((debugging 868).ctxCheck 0 { sa := 4, sb := 5 } true).isOk = false ∧
    ((debugging 869).ctxCheck 0 { sa := 4, sb := 5 } false).isOk = false ∧ pass (debugging 869) [.ctxrd { sa := 4, sb := 5 }] = true := by
  decide +kernel
/-! ## Memory instructions -/

/-- A team with addresses in s1 and s2, the second not canonical, and an index in v3. -/
def based : State := team fun t => { t with s := [(1, 0x2000), (2, 0x0100000000000000), (3, 0x2FFF)], v := [(3 * 1024, 0xFFFFFFFF)] }

/-- R83: 0x2000 − (1 << 2) + 8 + 4. -/
theorem test_effective_address : (based.team 0).ea { base := 1, idx := 3, shift := 2, disp := 8 } 4 0 = 0x2008 := by decide +kernel

theorem test_hyps_access_checks :
    let load : MemOp := { op := .load, n := 4, kind := 1 }
    let atom : MemOp := { op := .atomic 0, n := 8, kind := 3 }
    let win : MemOp := { op := .load, win := true, n := 4, kind := 1 }
    let at' := fun a : Word64 => ({ lane := 0, addr := a } : Access)
    load.check 0 [at' 0x00FFFFFFFFFFFFFF] = some Cause.misalign ∧ load.check 0 [at' 0x0100000000000000] = some Cause.noncanon ∧
    load.check 0 [at' 0xFF00000000000000] = none ∧ load.check 0 [at' 0xFFC] = none ∧ load.check 0 [at' 0xFFD] = some Cause.misalign ∧
    load.check 0 [at' 0x801] = none ∧ atom.check 0 [at' 4] = some Cause.misalign ∧ atom.check 0 [at' 8] = none ∧
    win.check 1024 [at' 1020] = none ∧ win.check 1024 [at' 1021] = some Cause.spbound := by decide +kernel

theorem test_hyps_vector_accesses : based.Runs 0 ∧
    pass based [.vld { data := 8, base := 1, idx := 1023, sz := 2 }, .vldx { data := 8, base := 1, idx := 3, sz := 2, shift := 2 },
      .vlds { data := 8, base := 1, idx := 1023, sz := 2 }, .vst { data := 8, base := 1, idx := 1023, sz := 2 },
      .vstx { data := 8, base := 1, idx := 3, sz := 2, shift := 2 }, .vsts { data := 8, base := 1, idx := 1023, sz := 2 },
      .vatom { data := 8, base := 1, idx := 1023, sz := 2, aop := 11 }, .vatoms { data := 8, base := 1, idx := 1023, sz := 2 },
      .vcas { data := 8, base := 1, idx := 1023, sz := 3 }, .pref { base := 1, idx := 3 }, .pref { base := 1, idx := 1023 }] = true :=
  ⟨runs_of (by decide +kernel), by decide +kernel⟩

theorem test_hyps_uniform_accesses :
    pass based [.sld { data := 8, base := 1, idx := 1023, sz := 2 }, .sst { data := 8, base := 1, idx := 1023, sz := 3 },
      .shld { data := 6, base := 1, idx := 1023 }, .shst { data := 6, base := 1, idx := 1023 },
      .sld { data := 8, base := 2, idx := 1023, sz := 2 }, .vst { data := 8, base := 2, idx := 1023, sz := 2 }] = true := by decide +kernel

/-- R419, R432: sixteen lanes ask for 64 bytes of the line at 0x2000 and owe v8; a store carries them. -/
theorem test_load : next (exec (.vld { data := 8, base := 1, idx := 1023, sz := 2 }) based) (fun u =>
    let t := u.team 0
    t.ldcnt == 1 && t.inflight.length == 1 && t.pend.length == 16 && t.pc == 0x1001 && (t.lsq.map (·.pieces.length)).sum == 16) = true := by
  decide +kernel

theorem test_noncanonical : ends based (.vst { data := 8, base := 2, idx := 1023, sz := 2 }) Cause.noncanon = true ∧
    ends based (.wpin { data := 4, base := 2, idx := 1023 }) Cause.noncanon = true := by decide +kernel

theorem test_hyps_well_requests :
    (pass based (([1, 2].map fun b => (([.wunpin, .wevict, .wclean, .cflush, .cinv] : List (MF → Instr)).map fun c =>
      c { base := b, idx := 1023 }) ++ [.wdepth { data := 10, base := b, idx := 1023 }, .wpin { data := 4, base := b, idx := 1023 }]).flatten)) =
      true ∧ canonical ((based.team 0).ea { base := 1, idx := 1023 } 0 0) = true ∧
    canonical ((based.team 0).ea { base := 2, idx := 1023 } 0 0) = false ∧ based.room 0 0 0 = true := by decide +kernel

/-! ## Records, barriers and gangs -/

/-- A shape record of 32 × 32 elements. -/
def shapeRec (base fmt space cores rowStride : Nat) : Record :=
  BitVec.ofNat 512 (base + fmt * 2 ^ 64 + space * 2 ^ 68 + cores * 2 ^ 70 + 32 * 2 ^ 80 + 32 * 2 ^ 100 + rowStride * 2 ^ 128 + 2 ^ 168)

/-- A block with a window of 64 KiB whose team holds records: h1 and h2 in the window, h3 in memory, h4 in its own format, h5
reserved, h6 past the window; s1 the size of a copy, s2 a gang, s3 an object, s4 and s5 bad objects. -/
def shaped : State :=
  let s := block fun b => { b with scratch := 65536 }
  s.setTeam 0 { s.team 0 with
    h := [(1, shapeRec 0 6 1 0 32), (2, shapeRec 0x2000 6 1 0 32), (3, shapeRec 0x4000 6 0 0 32), (4, shapeRec 0x2000 7 1 0 32), (5, shapeRec 0 15 1 0 32),
      (6, shapeRec 0xFFFC 6 1 0 32)]
    s := [(1, 32 + 32 * 2 ^ 32), (2, 3), (3, 0x1000), (4, 0x1010), (5, 0x10000)], pc := 0x1000, gangs := 8 }

theorem test_hyps_accumulators : pass shaped [.zclr { zd := 1 }, .zrd { zd := 1, sub := 0x020600000000 },
    .zwr { s1 := 5, sub := 0x010100000000 }] = true := by decide +kernel

theorem test_hyps_mma : shaped.Runs 0 ∧
    pass shaped [.mma { ha := 1, hb := 2 }, .mma { ha := 1, hb := 4 }, .mma { ha := 1, hb := 2, sub := 1 },
      .mma { ha := 1, hb := 6 }] = true ∧
    ends shaped (.mma { ha := 1, hb := 4 }) Cause.badshape = true ∧ ends shaped (.mma { ha := 1, hb := 2, sub := 1 }) Cause.rsvfld = true ∧
    ends shaped (.mma { ha := 1, hb := 6 }) Cause.spbound = true ∧
    next (exec (.mma { ha := 1, hb := 2 }) shaped) (fun u => (u.core 0).arrq.length == 1 && (u.team 0).pend.length == 1) = true :=
  ⟨runs_of (by decide +kernel), by decide +kernel⟩

theorem test_hyps_copies :
    pass shaped [.cpy { ha := 3, hb := 1, s1 := 1 }, .cpy { ha := 5, hb := 1, s1 := 1 }, .cpy { ha := 3, hb := 6, s1 := 1 },
      .zdrain { ha := 2, zd := 1 }, .zdrain { ha := 5, zd := 1 }, .zdrain { ha := 6, zd := 1 }] = true ∧
    ends shaped (.cpy { ha := 5, hb := 1, s1 := 1 }) Cause.badshape = true ∧
    ends shaped (.zdrain { ha := 6, zd := 1 }) Cause.spbound = true ∧
    next (exec (.cpy { ha := 3, hb := 1, s1 := 1 }) shaped) (fun u => u.copies.length == 1 && (u.team 0).cpcnt == 1) = true ∧
    next (exec (.zdrain { ha := 2, zd := 1 }) shaped) (fun u => u.copies.length == 1 && (u.team 0).cpcnt == 1) = true := by
  decide +kernel

/-- `shaped` in gang 3 with a team of each other core of its cluster. -/
def ringed : State :=
  let s := (List.range 7).foldl (fun s i => (s.setBlock (i + 1) { handBlock with core := i + 1, lcore := i + 1 }).setTeam (32 * i + 32) {}) shaped
  s.setCluster 0 { s.cluster 0 with gangs := [(3, { asid := 1, members := (List.range 8).map (32 * ·) })] }

theorem test_hyps_cpym_rrot :
    pass shaped [.cpym { ha := 1, hb := 2, hc := 3, s1 := 1, sub := 0x080000000000 }, .cpym { ha := 1, hb := 2, hc := 5, s1 := 1, sub := 0x080000000000 },
      .rrot { ha := 1, hb := 2, s1 := 2 }] = true ∧
    ends shaped (.cpym { ha := 1, hb := 2, hc := 5, s1 := 1, sub := 0x080000000000 }) Cause.badshape = true ∧
    next (exec (.cpym { ha := 1, hb := 2, hc := 3, s1 := 1, sub := 0x080000000000 }) shaped) (fun u =>
      u.copies.length == 1 && (u.core 0).arrq.length == 1 && (u.team 0).cpcnt == 1) = true ∧
    ends shaped (.rrot { ha := 1, hb := 2, s1 := 2 }) Cause.gangnot = true ∧ runsB ringed = true ∧
    pass ringed [.rrot { ha := 1, hb := 2, s1 := 2 }, .rrot { ha := 1, hb := 4, s1 := 2 }] = true ∧
    ((ringed.gang? 0 3).any fun x => x.members.contains 0 && ringed.ringGang x) = true ∧
    ends ringed (.rrot { ha := 1, hb := 4, s1 := 2 }) Cause.badshape = true ∧
    next (exec (.rrot { ha := 1, hb := 2, s1 := 2 }) ringed) (fun u => (u.cluster 0).rrots.length == 1) = true := by decide +kernel

/-- A window whose object at 0x1000 has been flagged, or not, with its phase. -/
def flagged (f : Bool) (phase : Bool) : State :=
  let bytes := toBytes 32 (b2n phase * 2 ^ 192 + b2n f * (2 ^ 207 + 0x48 * 2 ^ 200))
  shaped.setCore 0 { shaped.core 0 with sp := (shaped.core 0).sp.writeN 0x1000 bytes }

theorem test_hyps_barriers :
    (([3, 4, 5].all fun b => pass shaped (([.barinit, .bararv, .barwait] : List (XF → Instr)).map fun c => c { bar := b }))) = true ∧
    (0x1000 : Nat) + 32 ≤ 65536 ∧ (0x1010 : Nat) % 32 ≠ 0 ∧ 65536 < (0x10000 : Nat) + 32 ∧
    shaped.room 0 16 0 = true ∧ shaped.mayGo 0 { uid := 9, ent := 0, work := .barexam 0x1000 false } = true := by decide +kernel

/-- R241 to R243: an object out of the window, one that is not aligned, one in each phase, and one with its fault flag. -/
theorem test_barwait : ends shaped (.barwait { bar := 5 }) Cause.spbound = true ∧
    ends shaped (.barwait { bar := 4 }) Cause.misalign = true ∧
    next (exec (.barwait { bar := 3 }) (flagged false true)) (fun u => (u.team 0).pc == 0x1001) = true ∧
    next (exec (.barwait { bar := 3 }) (flagged false false)) (fun u => (u.team 0).sched == .waiting (.bar 0x1000 false)) = true ∧
    ends (flagged true true) (.barwait { bar := 3 }) Cause.barovf = true := by decide +kernel

theorem test_hyps_gangs : pass shaped [.gjoin { s1 := 2 }, .gjoinAny { s1 := 2, sub := 1 }, .gleave { s1 := 2 }, .gbar { s1 := 2 },
      .gbar { s1 := 3 }] = true ∧ (shaped.team 0).gangs.getLsbD 3 = true ∧ (shaped.team 0).gangs.getLsbD 0 = false ∧
    pass control [.gjoin { s1 := 2 }, .gjoinAny { s1 := 2, sub := 1 }, .gleave { s1 := 2 }, .gbar { s1 := 2 }] = true ∧
    ends control (.gjoin { s1 := 2 }) Cause.badctl = true ∧ ends shaped (.gbar { s1 := 3 }) Cause.gangnot = true := by decide +kernel

/-! ## What comes back to teams -/

/-- `ready` with die 0, core 0 or cluster 0 changed. -/
def die (f : Die → Die) : State := ready.setDie 0 (f (ready.die 0))
def core (f : Core → Core) : State := ready.setCore 0 (f (ready.core 0))
def cluster (f : Cluster → Cluster) : State := ready.setCluster 0 (f (ready.cluster 0))

/-- An in-flight entry of identity 5. -/
def entry (left : Nat) (ld st cp : Bool) : Entry :=
  { uid := 5, tag := 1, kind := if cp then 9 else 1, clsT := st, ld, st, cp, pc := 0x1000, word := wordOf (.nop {}), left, resUid := 5
    perf := if cp then [1] else [] }

/-- A team with one entry, its counters at 1, in a given scheduling state. -/
def counting (e : Entry) (w : Sched) : State := team fun t => { t with inflight := [e], ldcnt := 1, stcnt := 1, cpcnt := 1, sched := w }

/-- A team that waits, with a fatal fault to take and a handler to take it. -/
def faulted : State := (handled false).setTeam 0 { (handled false).team 0 with
  sched := .waiting (.counters (some 0) none none), fatal := [{ cause := Cause.memue, pc := 0x1000, resume := 0, addr := 0x2000 }] }

/-- A block with a bell due, whose handler's line is at hand. -/
def belled : State :=
  let s := withLine ready (lineFor (wordOf (.nop {})))
  s.setBlock 0 { handBlock with bellAddr := 0x1000, bellPend := some (Cause.bellon, 1) }

theorem test_hyps_completions :
    (counting (entry 0 true false false) .ready).blockOf? 0 = some handBlock ∧
    ((counting (entry 0 true false false) .ready).team 0).inflight.find? (fun x => x.uid == 5) = some (entry 0 true false false) ∧
    next (exec (.accessComplete 0 5) (counting (entry 0 true false false) .ready)) (fun u =>
      (u.team 0).ldcnt == 0 && (u.team 0).inflight.isEmpty) = true ∧
    next (exec (.accessComplete 0 5) (counting (entry 0 false true false) (.waiting (.counters none (some 0) none)))) (fun u =>
      (u.team 0).stcnt == 0 && (u.team 0).sched == .ready && (u.team 0).pc == 0x1001) = true ∧
    next (exec (.accessComplete 0 5) (counting (entry 1 false false true) .ready)) (fun u =>
      (u.team 0).cpcnt == 0 && (u.team 0).inflight.length == 1) = true := by decide +kernel

theorem test_hyps_fatal_and_bell : (faulted.team 0).takesFatal = true ∧ faulted.frameOk 0 = true ∧
    faulted.blockOf? 0 = some { handBlock with handler := 0x2000 } ∧
    next (exec (.fatalFaultDelivery 0) faulted) (fun u =>
      (u.team 0).handler && (u.team 0).pc == 0x2000 && u.physWord (trapArea 0 + 16) == 0x1000 && u.physWord (trapArea 0) == 0x12C) = true ∧
    (ctxsOf 0 handBlock).find? belled.bellTakes = some 0 ∧
    (match belled.checkTarget 0 0x1000 with | .bad _ => false | _ => true) = true ∧
    next (exec (.bellDelivery 0) belled) (fun u => (u.team 0).bell == 0x150 && (u.team 0).handler &&
      (u.block? 0).any fun b => b.bellPend.isNone && b.bellLast == Cause.bellon) = true ∧
    next (exec (.bellDelivery 0) (hostOwns.setBlock 0 { handBlock with bellAddr := 0x1000, bellPend := some (Cause.bellon, 1) }))
      (fun u => !(u.team 0).handler && (u.dirEnt 0).queue.length == 1 && (u.block? 0).any fun b => b.bellPend.isSome) = true := by
  decide +kernel

/-- A bank's oldest event on the object at 0x40 of a block, whose TARGET is 1 and EXPECT 0. -/
def counted (b : Block) : State :=
  let c := ready.core 0
  (ready.setBlock 0 b).setCore 0 { c with
    bankq := [{ frame := 0, off := 0x40, a := 1, n := 0 }], sp := c.sp.writeN 0x40 (toBytes 32 1) }

theorem test_hyps_counting :
    (∃ o, Bar.fault o = true) ∧
    (let o := Bar.apply 0 0 0; Bar.fault o = false) ∧
    Bar.target ((counted handBlock).object 0 handBlock 0x40) = 1 ∧
    next (exec (.countingEvent 0) (counted handBlock)) (fun u =>
      Bar.phase (u.object 0 handBlock 0x40) && Bar.arrived (u.object 0 handBlock 0x40) == 0 && (u.core 0).bankq.isEmpty) = true ∧
    next (exec (.countingEvent 0) (counted { handBlock with window := some [] })) (fun u => (u.core 0).bankq.length == 1) = true := by
  refine ⟨⟨2 ^ 207, by decide +kernel⟩, by decide +kernel⟩

/-- R240: one arrival of one ends the phase; one more than EXPECT sets the fault flag. -/
theorem test_count :
    Bar.phase (Bar.apply 1 1 0) = true ∧ Bar.arrived (Bar.apply 2 1 0) = 1 ∧ Bar.phase (Bar.apply 2 1 0) = false ∧
    Bar.fault (Bar.apply 1 0 1) = true ∧ Bar.cause (Bar.apply 1 2 0) = Cause.barovf := by decide +kernel

/-- A control team that waits for events, with one on its way. -/
def evented : State :=
  let s := control.setTeam 0 { control.team 0 with sched := .waiting .events }
  s.setCluster 0 { s.cluster 0 with evwait := [{ w0 := 1, w1 := 2 }] }

/-- A held block of address space 1 in slot 0 of core 0, and a release of handle 0. -/
def heldState : State :=
  (ready.setBlock 0 { handBlock with place := .held }).setCluster 0 { ready.cluster 0 with relq := [(0, 1)] }

theorem test_hyps_events_and_releases :
    evented.controlTeam? 0 = some 0 ∧ (evented.cluster 0).evq.length < 256 ∧
    next (exec (.eventRecordEnter 0) evented) (fun u => (u.cluster 0).evq == [(1, 2)] && (u.team 0).pc == 0x1001) = true ∧
    (cluster fun c => { c with evwait := [{ w0 := 1, w1 := 2 }] }).controlTeam? 0 = none ∧
    next (exec (.eventRecordEnter 0) (cluster fun c => { c with evwait := [{ w0 := 1, w1 := 2 }] })) (fun u => (u.cluster 0).evq.length == 1) = true ∧
    next (exec (.eventRecordEnter 0) (cluster fun c => { c with evq := List.replicate 256 (0, 0), evwait := [{ w0 := 1, w1 := 2 }] }))
      (fun u => (u.cluster 0).evq.length == 256) = true ∧
    (heldState.heldBlock 0 0 1).isSome = true ∧ (heldState.heldBlock 0 1 1).isNone = true ∧
    next (exec (.trelRelease 0) heldState) (fun u => (u.block? 0).any fun b => b.place == .running) = true := by decide +kernel

/-! ## The Drum, the mouth, the L1s and the banks -/

/-- A request for the line at 0x2000 of address space 1. -/
def request (op : ReqOp) (core : Nat) : Req :=
  { uid := 5, ent := 5, ctx := 0, core, asid := 1, op, va := 0x2000, pieces := [{ lane := 0, va := 0x2000, n := 4, data := 7 }] }

/-- A line of the Well. -/
def line (st : DSt) : DLine := { line := 64, st, data := 0x1234 }

/-- Core 1 holds the line that a store of core 0 announces. -/
def announced (a : Ann) : State :=
  (die fun d => { d with anns := [a] }).setCore 1 { ready.core 1 with l1 := [(lineKey 1 0x2000, { st := .s, data := 0, attr := {} })] }

theorem test_hyps_drum :
    ([Ann.req (request .store 0), .gjoin 0 3 false 4, .gleave 0 3, .gbar 0 3].all fun a => next (exec (.drumAnnouncementAct 0) (announced a)) fun u =>
      (u.die 0).anns.isEmpty) = true ∧
    next (exec (.drumAnnouncementAct 0) (announced (.req (request .store 0)))) (fun u =>
      (u.core 1).l1.isEmpty && (u.die 0).mouthq.length == 1) = true ∧
    next (exec (.wellBeatAdmit 0) (die fun d => { d with mouthq := [request .load 0] })) (fun u =>
      (u.die 0).mouthq.isEmpty && (u.die 0).chain.head? == some (some (tileKey 1 0x2000))) = true ∧
    next (exec (.transitArrival 0 7) (die fun d => { d with tiles := [(7, { transit := true })], chain := [some 7] })) (fun u =>
      Tab.get? (u.die 0).tiles 7 == some {}) = true ∧
    next (exec (.transitArrival 0 7) (die fun d => { d with tiles := [(7, { transit := true })] })) (fun u =>
      (Tab.get? (u.die 0).tiles 7).isNone) = true ∧
    hostOwns.carried 0 (request .wpin 0) = false ∧
    next (exec (.wellBeatAdmit 0) (hostOwns.setDie 0 { hostOwns.die 0 with mouthq := [request .wpin 0] })) (fun u =>
      (u.die 0).walks.length == 1 && (Tab.get? (u.die 0).tiles (tileKey 1 0x2000)).any (·.pinned)) = true ∧
    (request .wpin 0).placeOnly = true ∧ (request .load 0).placeOnly = false ∧
    next (exec (.l1Fill 0 9) ((die fun d => { d with fills := [{ core := 0, key := 9, uid := 5, data := some 3, attr := { u := true } }] }).setCore 0
      { ready.core 0 with l1 := [(9, { st := .s, data := 4, attr := { u := false } })] })) (fun u =>
      (Tab.get? (u.core 0).l1 9).any fun l => l.attr.u && l.data == 4) = true ∧
    (die fun d => { d with mouthq := [request .load 0] }).carried 0 (request .load 0) = false ∧
    (die fun d => { d with restitch := some { bank := 5, retire := true } }).carried 0 (request .load 0) = true ∧
    next (exec (.l1Fill 0 9) (die fun d => { d with fills := [{ core := 0, key := 9, uid := 5, data := some 3 }] })) (fun u =>
      (u.core 0).l1.length == 1 && (u.die 0).fills.isEmpty) = true ∧
    next (exec (.l1HoldExpiry 0 9) (core fun c => { c with l1 := [(9, { st := .m, data := 0, attr := {}, held := true, queued := [false] })] }))
      (fun u => (Tab.get? (u.core 0).l1 9).any fun l => l.st == .s && !l.held) = true := by decide +kernel

theorem test_hyps_touch : (ready.die 0).chain.length < (ready.die 0).slots ∧ Tab.get? (ready.die 0).tiles 7 = none ∧
    ({ chain := [none, some 7], tiles := [(7, {})] } : Die).depth? 7 = some 1 := by decide +kernel

theorem test_hyps_banks :
    next (exec (.wellUe 0 65) (die fun d => { d with lines := [(65, line .m)] })) (fun u =>
      (u.die 0).lines.isEmpty && (u.die 0).ue == 1 && u.launchRegs.held.length == 1) = true ∧
    (line .m).dirty = true ∧ (line .s).dirty = false ∧
    (ready.die 0).restitch = none ∧ (ready.die 0).judge { bank := 5, retire := true } = none ∧ (ready.die 0).bankTiles 5 = [] ∧
    next (exec (.wrestitchRetire 0 5) ready) (fun u => (u.die 0).restitch == some { bank := 5, retire := true }) = true ∧
    next (exec (.wrestitchRestore 0 5) ready) (fun u => (u.die 0).rstatus == 2) = true ∧
    next (exec (.restitchComplete 0) (die fun d => { d with restitch := some { bank := 5, retire := true } })) (fun u =>
      (u.die 0).retired == [5] && (u.die 0).restitch.isNone) = true ∧
    next (exec (.wrestitchRetire 0 5) (die fun d => { d with restitch := some { bank := 6, retire := true } })) (fun u =>
      (u.die 0).restitchq.length == 1) = true := by decide +kernel

/-- Die 0's bank 5 retired by heat, its sensor below RESTORE since time 0. -/
def cooled : State :=
  let s := die fun d => { d with heat := [5], retired := [5] }
  { s with time := 100000000, power := { s.power with coolFrom := Tab.put [] (sramSensor 0 (Config.bankSram 5)) 0 } }

theorem test_hyps_thermal_restore : 5 ∈ (cooled.die 0).heat ∧ (cooled.die 0).restitchq = [] ∧ (cooled.die 0).restitch = none := by
  decide +kernel

theorem test_hyps_cool_from : Tab.get? cooled.power.coolFrom (sramSensor 0 (Config.bankSram 5)) = some 0 := by
  simp [cooled, Tab.put, Tab.get?]

/-! ## Faults, homes, probes and the host -/

/-- A load's walk at die 0, in an address space whose page is mapped or not. -/
def walking (m : Bool) : State :=
  let r := request .load 0
  let s := die fun d => { d with walks := [{ key := lineKey 1 0x2000, req := r }], waits := [{ key := lineKey 1 0x2000, req := r }] }
  let s := s.setTeam 0 { s.team 0 with inflight := [entry 1 true false false] }
  if m then s.setDie 0 { s.die 0 with tlb := pages } else s

/-- A record with one request of a team attached. -/
def recorded (op : ReqOp) : State :=
  let s := die fun d => { d with frecs := [(0,
    { va := 0x2000, asid := 1, type := 0, level := 0, rep := false, write := false, path := 0, pcore := 0, time := 0, att := [.req (request op 0)] })] }
  s.setTeam 0 { s.team 0 with inflight := [entry 1 true false false] }

/-- A side log whose only entry is to be sent, or has been sent and performed. -/
def logged (sent : Bool) : State := core fun c => { c with slog := [{ req := request .load 0, replay := true, sent }] }

theorem test_hyps_faults :
    next (exec (.pageWalkComplete 0 0) (walking true)) (fun u => (u.die 0).walks.isEmpty) = true ∧
    ((walking true).translate 0 1 0x2000 { user := true }).2.isOk = true ∧
    (walking true).walkWaits 0 1 0x2000 { user := true } = none ∧ hostOwns.walkWaits 0 1 0x2000 { user := true } = some 0 ∧
    next (exec (.pageWalkComplete 0 0) (walking false)) (fun u => (u.die 0).frecs.length == 1 && (u.die 0).waits.isEmpty) = true ∧
    next (exec (.sideLogPerform 0 0) (logged false)) (fun u => (u.die 0).anns.length == 1) = true ∧
    (logged true).reqOwes (request .load 0) = false ∧
    next (exec (.sideLogPerform 0 0) (logged true)) (fun u => (u.core 0).slog.isEmpty) = true ∧
    ((recorded .load).die 0).recordsOf 1 = [0] ∧
    next (exec (.fcmdReplayRecord 0 0) (recorded .load)) (fun u => (u.die 0).frecs.isEmpty && (u.die 0).anns.length == 1) = true ∧
    next (exec (.fcmdReplayAsid 0 1) (recorded .load)) (fun u => (u.die 0).frecs.isEmpty) = true ∧
    next (exec (.fcmdCancelRecord 0 0) (recorded .load)) (fun u => (u.team 0).fatal.length == 1) = true ∧
    next (exec (.fcmdCancelAsid 0 1) (recorded .load)) (fun u => (u.team 0).fatal.length == 1) = true ∧
    minimal.up = false ∧ (recorded .load).up = true := by decide +kernel

/-- A load that waits for physical line `pl`, with a grant of it under way. -/
def granting (pl : Nat) (k : MsgKind) : State :=
  let r := request .load 0
  let s := die fun d => { d with
    waits := [{ key := lineKey 1 0x2000, req := r, tr := some (pl, {}) }], outst := [(lineKey 1 0x2000, pl)] }
  let s := s.setTeam 0 { s.team 0 with inflight := [entry 1 true false false] }
  { s with msgs := [{ kind := k, agent := 0, line := pl, key := lineKey 1 0x2000 }] }

theorem test_hyps_errors :
    (granting 64 .gntS).lineOf 0 { key := lineKey 1 0x2000, req := request .load 0, tr := some (64, {}) } = 64 ∧
    ((granting 64 .gntS).msg? .gntS 0 64).isSome = true ∧
    next (exec (.memue 0 64) (granting 64 .gntS)) (fun u => (u.die 0).waits.isEmpty && (u.team 0).fatal.length == 1) = true ∧
    next (exec (.peererr 0 (2 ^ 45)) (granting (2 ^ 45) .rds)) (fun u => (u.die 0).outst.isEmpty && (u.team 0).fatal.length == 1) = true := by
  decide +kernel

/-- An invalidation in progress, with a line under a tag of its address space or with none. -/
def sweeping (ls : Tab DLine) : State :=
  let s := die fun d => { d with lines := ls }
  { s with trans := { s.trans with inval := [(2, some 1, none)] } }

theorem test_hyps_invalidation :
    next (exec .invcmdAll (mapped ready)) (fun u => (u.die 0).tlb.isEmpty && u.trans.inval.length == 1) = true ∧
    next (exec (.invcmdAsid 2) (mapped ready)) (fun u => (u.die 0).tlb.length == 4) = true ∧
    next (exec (.invcmdPage 1 0 0) (mapped ready)) (fun u => (u.die 0).tlb.isEmpty) = true ∧
    next (exec .invalidationComplete (sweeping [])) (fun u => u.trans.inval.isEmpty) = true ∧
    (let s := { mapped ready with trans := { ready.trans with inval := [(2, some 1, none)], old := [(0, { asid := 1, va := 0, size := 12, pa := 0, attr := {} })] } }
     next (exec .invalidationComplete s) (fun u => u.trans.inval.length == 1 && (u.die 0).tlb.isEmpty) = true ∧
     (match (sweeping []).act (.oldTlb 0), s.act (.oldTlb 0) with
      | .next a, .next b => (a.die 0).tlb.isEmpty && (b.die 0).tlb.length == (s.die 0).tlb.length
      | _, _ => false) = true) ∧
    invLine (2, some 1, none) (lineKey 1 0x2000) = true ∧
    next (exec .invalidationComplete (sweeping [(lineKey 1 0x2000, line .s)])) (fun u => u.trans.inval.length == 1) = true ∧
    next (exec .invalidationComplete ((sweeping []).setDir (2 ^ 44) { queue := [{ agent := 0, op := .merge 0 1, key := lineKey 1 0x2000 }] }))
      (fun u => u.trans.inval.length == 1) = true := by
  decide +kernel

/-- A request of a peer's line whose link has failed at time 0. -/
def linkDown (t : Nat) : State :=
  { ready with
    time := t, msgs := [{ kind := .rds, agent := 0, line := 2 ^ 45 }]
    plat := { ready.plat with peertab := [(0, (true, 7))], deadPeers := [7], failAt := [(7, 0)] } }

theorem test_hyps_links : (linkDown 1000000).peerDown (2 ^ 45) = true ∧ (linkDown 1000000).peerTraffic = [(0, 2 ^ 45)] ∧
    (linkDown 0).destOf (2 ^ 45) = some 7 ∧
    (Tab.get? (linkDown 0).plat.peertab 0).any (fun e => e.2 == 7) = true ∧
    next (exec (.peerLinkTimeout 7) (linkDown 1000000)) (fun u => u.msgs.isEmpty) = true ∧
    next (exec (.peerLinkTimeout 7) (linkDown 999999)) (fun u => u.msgs.length == 1) = true ∧
    next (exec (.portLinkFailure 9) ready) (fun u => u.plat.deadPeers == [9]) = true := by decide +kernel

/-- A message of die 0 about line 64, at a home whose entry is `e`. -/
def asking (k : MsgKind) (e : DirEnt) : State :=
  { (ready.setDir 64 e) with msgs := [{ kind := k, agent := 0, line := 64, key := 5, stamp := 1 }] }

theorem test_hyps_homes :
    ([(Instr.rds 0 64, MsgKind.rds, MsgKind.gntE), (.rdx 0 64, .rdx, .gntE), (.own 0 64, .own, .gntX), (.upg 0 64, .upg, .gntE)].all fun r =>
      next (exec r.1 (asking r.2.1 {})) fun u => u.msgs.all (fun m => m.kind == r.2.2) && u.msgs.length == 1 && (u.dirEnt 64).st == .granting) = true ∧
    next (exec (.rdx 0 64) (asking .rdx { st := .shared, base := .shared, sharers := 2, key := 5 })) (fun u =>
      u.msgs.all fun m => m.kind == .prInv && m.agent == 1) = true ∧
    next (exec (.upg 0 64) (asking .upg { st := .shared, base := .shared, sharers := 1, key := 5 })) (fun u =>
      u.msgs.all fun m => m.kind == .gntX) = true ∧
    next (exec (.rds 0 64) (asking .rds { st := .granting, cur := some { agent := 1, op := .rds } })) (fun u =>
      (u.dirEnt 64).queue.length == 1 && u.msgs.isEmpty) = true ∧
    (probesFor { st := .granting, cur := some { agent := 1, op := .rds } } { agent := 1, op := .rds }).2 = false ∧
    next (exec (.homeQueueServe 64) (ready.setDir 64 { queue := [{ agent := 0, op := .rds }] })) (fun u => u.msgs.length == 1) = true ∧
    ([(Instr.gntS 0 64, MsgKind.gntS), (.gntE 0 64, .gntE)].all fun r =>
      next (exec r.1 (asking r.2 {})) fun u => u.msgs.all (fun m => m.kind == .cmp) && (u.die 0).lines.length == 1) = true ∧
    (let s := asking .gntX {}
     next (exec (.gntX 0 64) (s.setDie 0 { s.die 0 with lines := [(5, line .s)] })) fun u =>
      u.msgs.all (fun m => m.kind == .cmp) && (u.die 0).lines.all fun l => l.2.st == .e && l.2.data == 0x1234) = true ∧
    (asking .rds {}).probeOld 64 = false ∧
    next (exec (.cmp 0 64) (asking .cmp { st := .granting, cur := some { agent := 0, op := .rds }, base := .exclusive })) (fun u =>
      (u.dirEnt 64).st == .exclusive && u.msgs.isEmpty) = true ∧
    ([(Instr.wb 0 64, MsgKind.wb), (.wbk 0 64, .wbk)].all fun r =>
      next (exec r.1 (asking r.2 { st := .exclusive, base := .exclusive, sharers := 1 })) fun u => u.msgs.all fun m => m.kind == .wba) = true ∧
    next (exec (.wba 0 64) ((asking .wba {}).setDie 0 { (ready.die 0) with wbuf := [{ line := 64, data := 0, stamp := 1, key := 5 }] })) (fun u =>
      (u.die 0).wbuf.isEmpty) = true := by decide +kernel

/-- A probe admitted at die 0, which holds line 64 in a given state, granted under a given stamp. -/
def probed (inv : Bool) (st : DSt) (stamp : Nat) : State :=
  die fun d => { d with
    lines := [(5, { line st with stamp })]
    mouthq := [{ uid := 0, ent := 0, ctx := 0, core := 0, asid := 0, op := .probe inv false 64 1, va := vaOfLine 5 }] }

/-- A home that serves RDX of die 1 and waits for the answer of die 0 under stamp 1. -/
def waitingHome : DirEnt := { st := .probing, cur := some { agent := 1, op := .rdx, key := 5 }, waitAck := [(0, 1)], base := .shared }

theorem test_hyps_probes : staleProbe 0 1 = false ∧ staleProbe 2 1 = true ∧ staleProbe 0 32768 = false ∧ staleProbe 1 0 = true ∧
    next (exec (.prShr 0 64) (asking .prShr {})) (fun u => u.msgs.isEmpty && (u.die 0).anns.length == 1) = true ∧
    next (exec (.prInv 0 64) (asking .prInv {})) (fun u => u.msgs.isEmpty && (u.die 0).anns.length == 1) = true ∧
    (((probed false .m 0).die 0).mouthq.all fun r => !(probed false .m 0).carried 0 r) = true ∧
    next (exec (.wellBeatAdmit 0) (probed false .m 0)) (fun u => u.msgs.map (·.kind) == [.ackD] && (u.die 0).lines.all fun l => l.2.st == .o) = true ∧
    next (exec (.wellBeatAdmit 0) (probed false .e 0)) (fun u => u.msgs.map (·.kind) == [.ackI] && (u.die 0).lines.all fun l => l.2.st == .s) = true ∧
    next (exec (.wellBeatAdmit 0) (probed true .e 0)) (fun u => u.msgs.map (·.kind) == [.ackI] && (u.die 0).lines.isEmpty) = true ∧
    next (exec (.wellBeatAdmit 0) (probed true .m 2)) (fun u => u.msgs.map (·.kind) == [.ackSt] && (u.die 0).lines.length == 1) = true := by
  decide +kernel

theorem test_hyps_answers :
    ([(Instr.ackI 0 64, MsgKind.ackI), (.ackSt 0 64, .ackSt), (.ackD 0 64, .ackD)].all fun r =>
      next (exec r.1 (asking r.2 waitingHome)) (fun u => u.msgs.all fun m => m.kind == .gntE && m.agent == 1) &&
      next (exec r.1 (asking r.2 {})) fun u => u.msgs.isEmpty) = true ∧
    (asking .ackI waitingHome).msg? .wbk 0 64 = none ∧
    next (exec (.ackWb 0 64) (asking .ackWb {})) (fun u => u.msgs.isEmpty) = true ∧
    next (exec (.ackWb 0 64) { asking .ackWb waitingHome with
      msgs := (asking .ackWb waitingHome).msgs ++ [{ kind := .wb, agent := 0, line := 64, key := 5 }] }) (fun u => (u.dirEnt 64).waitWb == [0]) = true ∧
    next (exec (.birsp 64 (some 3)) (ready.setDir 64 { waitingHome with waitAck := [(4, 1)] })) (fun u =>
      u.msgs.length == 1 && u.homeRead 64 == 3) = true := by decide +kernel

/-- The host has asked for a line: HDMBASE at 2^34. -/
def hosted (p : Platform → Platform) : State := { ready with plat := p { ready.plat with hdmbase := 2 ^ 34 } }

theorem test_hyps_host_requests :
    ([Instr.cxlMemReadShared (2 ^ 34), .cxlMemReadExclusive (2 ^ 34), .cxlMemReadUncached (2 ^ 34 + 0x17FFFFFFF80), .cxlMemWrite (2 ^ 34) 3].all fun i =>
      next (exec i (hosted id)) (fun u => u.out.length == 1 && u.out.all fun m => m != .memPoison 0 && m != .memUnmapped (2 ^ 34)) &&
      next (exec i (hosted fun p => { p with wiping := true })) (fun u => u.out.length == 1)) = true ∧
    next (exec (.cxlMemReadShared (2 ^ 34 - 128)) (hosted id)) (fun u => u.out == [.memUnmapped (2 ^ 34 - 128)]) = true ∧
    next (exec (.cxlMemWrite (2 ^ 34 + 0x18000000000) 3) (hosted id)) (fun u => u.out == [.memUnmapped (2 ^ 34 + 0x18000000000)]) = true ∧
    next (exec (.cxlMemWrite (2 ^ 34) 3) (hosted fun p => { p with minimal := true })) (fun u => u.out.isEmpty) = true ∧
    next (exec (.cxlMemWrite (2 ^ 34) 3) (hosted fun p => { p with cxl := false })) (fun u => u.out.isEmpty) = true ∧
    next (exec (.peerRequest (2 ^ 29) 8 .read) (hosted fun p => { p with peerEn := true, peerSize := 1 })) (fun u => u.out == [.peerData (2 ^ 29) 0]) = true ∧
    next (exec (.peerRequest (2 ^ 29) 8 (.write 3)) (hosted fun p => { p with peerEn := true, peerSize := 1 })) (fun u => u.homeRead (2 ^ 22) == 3) = true ∧
    next (exec (.peerRequest (2 ^ 30) 8 .read) (hosted fun p => { p with peerEn := true, peerSize := 1 })) (fun u => u.out == [.peerError (2 ^ 30)]) = true := by
  decide +kernel

/-- A host line that the filter holds. -/
def filtered : State := { ready with filter := [(2 ^ 44, { excl := true, order := 1 })] }

/-- A home that has asked the host for a line, for a request of die 0. -/
def askedHost (op : HomeOp) : State := ready.setDir (2 ^ 44) { asked := true, queue := [{ agent := 0, op, key := 5 }] }

theorem test_hyps_host_lines :
    ([Instr.snpinv (2 ^ 44), .snpdata (2 ^ 44), .snpcur (2 ^ 44)].all fun i =>
      next (exec i ready) (fun u => u.out == [.snpResp (2 ^ 44) "RspIHitI" none]) && next (exec i filtered) fun u => u.out.length == 1) = true ∧
    (filtered.dirEnt (2 ^ 44)).base = .uncached ∧
    ([(HomeOp.rds, OutMsg.rdShared (2 ^ 44)), (.rdx, .rdOwn (2 ^ 44)), (.own, .rdOwnNoData (2 ^ 44))].all fun r =>
      (askedHost r.1).hostNeeds (2 ^ 44) { agent := 0, op := r.1, key := 5 } == some r.2 &&
      ((askedHost r.1).dirEnt (2 ^ 44)).next.isSome &&
      next (exec (.cxlCacheHostResponse (2 ^ 44) 3 false) (askedHost r.1)) fun u => u.filter.length == 1) = true ∧
    next (exec (.cxlCacheHostResponse (2 ^ 44) 3 false) ready) (fun u => u.filter.isEmpty) = true := by decide +kernel

/-- An MMA of two records in the window, and a copy of 2 × 1 elements into it, as the engines hold them. -/
def job : MmaJob := { uid := 5, ent := 5, ctx := 0, zd := 0, ra := shapeRec 0 6 1 0 32, rb := shapeRec 0x2000 6 1 0 32, nega := false, negb := false, acd := false, sat := false
                      wins := [{ core := 0, base := 0, len := 65536, frame := 0 }] }
def copy (idx : Nat) : Copy :=
  { uid := 5, ent := 5, ctx := 0, col := 0, kind := .cpy, src := shapeRec 0 6 1 0 32, dst := shapeRec 0x2000 6 1 0 32, n := 2, m := 1, idx
    wins := [{ core := 0, base := 0, len := 65536, frame := 0 }] }
def working (js : List MmaJob) (cs : List Copy) : State :=
  { (shaped.setCore 0 { shaped.core 0 with arrq := js }) with copies := cs }

theorem test_hyps_engines :
    (working [job] []).mayStart 0 job = true ∧ (working [job] []).mayFetch 0 job = true ∧
    (working [{ job with held := true }] []).mayFetch 0 { job with held := true } = false ∧ (working [{ job with held := true }] []).mayStart 0 { job with held := true } = false ∧
    next (exec (.mmaStart 0 5) (working [job] [])) (fun u => (u.core 0).arrq.all fun j => j.started && j.ops.isSome) = true ∧
    (match (working [] [copy 0]).copyValue ((working [] [copy 0]).agentOf 0 true 5 false) (copy 0) 0 with | .ready _ _ => true | _ => false) = true ∧
    Shape.inRange (copy 0).dst ((copy 0).at 0).1 ((copy 0).at 0).2 = true ∧
    Shape.inRange (BitVec.setWidth 512 (0 : BitVec 8)) 0 0 = false ∧
    next (exec (.copyElement 5) (working [] [copy 0])) (fun u => (u.core 0).cpbuf.length == 4 && u.copies.all fun c => c.idx == 1) = true ∧
    next (exec (.copyElement 5) (working [] [{ copy 0 with dst := shapeRec 0x2000 6 1 0 32 ||| ((2 ^ 32 - 1) <<< 192) }])) (fun u =>
      (u.core 0).cpbuf.isEmpty && u.copies.all fun c => c.idx == 1) = true ∧
    next (exec (.copyElement 5) (working [] [copy 2])) (fun u => u.copies.isEmpty) = true ∧
    next (exec (.copyElement 5) (working [] [{ copy 0 with held := true }])) (fun u => u.copies.length == 1) = true := by decide +kernel

/-- Every member of the gang of `ringed` has its share of a round, with one format or, in the last, another. -/
def rounded (fmt : Nat) : State :=
  let rc := fun i => shapeRec 0 (if i = 7 then fmt else 6) 1 0 32
  let s := ringed.setCluster 0 { ringed.cluster 0 with
    rrots := (List.range 8).map fun i => { ctx := 32 * i, gang := 3, ent := 5 + i, src := rc i, dst := rc i, dir := false, be := false, bar := 0 } }
  { s with copies := (List.range 8).map fun i =>
      { uid := 5 + i, ent := 5 + i, ctx := 32 * i, col := 0, kind := .rrot, src := rc i, dst := rc i, n := 32, m := 32, gang := 3 } }

theorem test_hyps_round :
    ((ringed.gang? 0 3).any fun x => (roundOf ((rounded 6).cluster 0).rrots 3 x.members).any (·.length == 8)) = true ∧
    next (exec (.copyElement 5) (rounded 6)) (fun u => (u.cluster 0).rrots.isEmpty && u.copies.all fun c => c.formed && c.senders.length == 1) = true ∧
    next (exec (.copyElement 5) (rounded 7)) (fun u => (u.cluster 0).rrots.isEmpty && u.copies.all fun c => !c.formed) = true ∧
    next (exec (.copyElement 5) { rounded 6 with copies := (rounded 6).copies.map fun c => { c with formed := true, tiles := [[3]] } })
      (fun u => (u.copies.any fun c => c.uid == 5 && c.idx == 1) && (u.core 0).cpbuf.length == 4) = true := by decide +kernel

theorem test_hyps_copy_event :
    next (exec (.copyElement 5) (working [] [{ copy 2 with evt := true }])) (fun u =>
      (u.cluster 0).evwait.length == 1 && u.copies.all fun c => c.landed && c.sent) = true ∧
    next (exec (.copyElement 5) (working [] [{ copy 2 with evt := true, sent := true, landed := true }])) (fun u => u.copies.length == 1) = true ∧
    next (exec (.copyElement 5) (working [] [{ copy 2 with evt := true, sent := true, posted := true }])) (fun u => u.copies.isEmpty) = true := by
  decide +kernel

/-- An MMA that has started with operands in hand. -/
theorem test_hyps_commit :
    let o : MmaOps := { a := [], b := [], sa := [], sb := 0 }
    next (exec (.mmaCommit 0 5) (working [{ job with started := true, ops := some o }] [])) (fun u => (u.core 0).arrq.isEmpty) = true ∧
    next (exec (.mmaCommit 0 5) (working [job] [])) (fun u => (u.core 0).arrq.length == 1) = true := by decide +kernel

/-! ## Queues, launches and the ring -/

/-- A queue table at 2^29 whose queue 0 has a ring of 2 at 2^28, one ticket and address space 1, or is invalid. -/
def tabled (tickets : Nat) : State :=
  ({ ready with launchRegs := { ready.launchRegs with qtab := 2 ^ 29 } } : State).physWrite (2 ^ 29)
    (toBytes 8 (2 ^ 63 + 2 ^ 28) ++ toBytes 8 (2 ^ 32 + tickets * 2 ^ 16 + 1))

/-- Queue 0 enabled in its slot, with packets read so far and a launch. -/
def queued (x : Queue → Queue) : State :=
  ({ tabled 1 with pool := { en := true, frames := 2 } } : State).setQueue 0 (x { enabled := true, known := true, ring := 2 ^ 28, asid := 1, tickets := 1, sizelog := 1, tail := 1, slot := some 0 })

/-- A launch of one block of one team. -/
def launch : Launch := { seq := 0, pkt := { entry := 0x1000, blocks := 1, vregs := 64, wlog := 4, teams := 1, scratch := 1024 } }

theorem test_hyps_queues :
    (tabled 1).notifyOk 0 2 = true ∧ (tabled 1).notifyOk 0 3 = false ∧ ((tabled 0).desc 0).v = true ∧
    (queued id).notifyOk 0 0 = false ∧ (queued id).notifyOk 0 1 = true ∧ (queued id).notifyOk 0 2 = true ∧ (queued id).notifyOk 0 3 = false ∧
    next (exec (.notifyWrite 0 0 2) ((queued fun x => { x with slot := none }))) (fun u => (u.queue 0).tail == 2 && (u.queue 0).slot == some 0) = true ∧
    next (exec (.notifyWrite 0 8 2) (queued id)) (fun u => (u.queue 0).tail == 1) = true ∧
    (tabled 1).up = true ∧ Tab.getD (tabled 1).fifos 0 [] = [] ∧ ((tabled 1).desc 0).clean = true ∧ sizeOk ((tabled 1).desc 0).sizelog = true ∧
    next (exec (.qcmdEnable 0) (tabled 1)) (fun u => (u.queue 0).enabled && (u.queue 0).ring == 2 ^ 28 && (u.queue 0).asid == 1) = true ∧
    next (exec (.qcmdEnable 0) (tabled 0)) (fun u => !(u.queue 0).enabled) = true ∧
    next (exec (.qcmdDisable 0) (queued id)) (fun u => !(u.queue 0).enabled && (u.queue 0).slot.isNone) = true ∧
    next (exec (.queueIdleExpiry 0) { (queued fun x => { x with tail := 0 }) with time := 10001 }) (fun u => (u.queue 0).slot.isNone) = true ∧
    next (exec (.queueIdleExpiry 0) { (queued fun x => { x with tail := 0 }) with time := 10000 }) (fun u => (u.queue 0).slot == some 0) = true ∧
    ((queued fun x => { x with tail := 0 }).queue 0).toPlace = false := by decide +kernel

/-- Die 0 is still to draw, over queue 0 alone. -/
def drawing : State := { (queued fun x => { x with launches := [launch] }) with draws := some [(0, [(0, 0, 1)])] }

theorem test_hyps_packets :
    next (exec (.launchPacketRead 0) (queued id)) (fun u => (u.queue 0).nread == 1 && (u.queue 0).launches.length == 1) = true ∧
    (queued fun x => { x with launches := [launch] }).drawsNow = [(0, [(0, 0, 1)]), (1, [(0, 0, 1)]), (2, [(0, 0, 1)]), (3, [(0, 0, 1)])] ∧
    next (exec (.lotteryDraw 0) (queued fun x => { x with launches := [launch] })) (fun u =>
      (u.block? 1).any (fun b => b.core / 192 == 0 && b.width == 16) && (u.team 32).pc == 0x1000 && (u.die 0).seed == xorshift 1 &&
        (u.draws.elim 0 (·.length)) == 3) = true ∧
    next (exec (.lotteryDraw 1) (queued fun x => { x with launches := [launch] })) (fun u => (u.block? 1).isNone) = true ∧
    drawing.eligible 0 0 (drawing.queue 0) = true ∧ { drawing with power := { ready.power with shed := 1 } }.eligible 0 0 (drawing.queue 0) = false ∧
    next (exec (.lotteryDraw 0) { drawing with power := { ready.power with shed := 1 } }) (fun u => (u.block? 1).isNone && u.draws == some []) = true ∧
    (ready.block? 0).any (fun b => ready.blockDone 0 b) = false ∧
    next (exec (.blockEnd 0) (team fun t => { t with sched := .exited })) (fun u => (u.block? 0).isNone && (Tab.get? u.teams 0).isNone) = true ∧
    (team fun t => { t with sched := .exited }).blockDone 0 handBlock = true := by decide +kernel

/-- A launch that is over at the head of queue 0, with a ring at 2^27 that is on. -/
def ended (l : Launch) : State :=
  let s := queued fun x => { x with launches := [l], nread := 1, slot := none }
  { s with launchRegs := { s.launchRegs with evEn := true, evBase := 2 ^ 27 } }

theorem test_hyps_completion_records :
    let done : Launch := { launch with placed := 1, ended := 1 }
    done.isOver = true ∧ launch.isOver = false ∧ (ended done).launchRegs.room = true ∧
    next (exec (.launchComplete 0) (ended launch)) (fun u => (u.queue 0).head == 0) = true ∧
    next (exec (.launchComplete 0) (ended done)) (fun u => (u.queue 0).head == 1 && u.launchRegs.evHead == 1) = true ∧
    ({ (ended done).launchRegs with evHead := 64 } : LaunchRegs).room = false ∧
    next (exec (.launchComplete 0) { ended done with launchRegs := { (ended done).launchRegs with evHead := 64 } }) (fun u =>
      u.launchRegs.held.length == 1 && (u.queue 0).head == 0) = true ∧
    next (exec .hostRingEntryWrite { ended done with launchRegs := { (ended done).launchRegs with held := [{ type := 3, body := [] }] } })
      (fun u => u.launchRegs.held.isEmpty && u.launchRegs.evHead == 1) = true ∧
    next (exec (.evtailWrite 5) (ended done)) (fun u => u.launchRegs.evTail == 5) = true ∧
    next (exec .msiCoalesceTimeout { ended done with time := 2000, launchRegs := { (ended done).launchRegs with evHead := 1, timeus := 2 } })
      (fun u => u.out == [.msix 0]) = true ∧
    next (exec .msiCoalesceTimeout { ended done with time := 1999, launchRegs := { (ended done).launchRegs with evHead := 1, timeus := 2 } })
      (fun u => u.out.isEmpty) = true := by decide +kernel

theorem test_hyps_gating : ready.dispatchFree 1 = true ∧ ready.dispatchFree 0 = false ∧ (ready.cluster 1).gated = false ∧ ready.ramped 1 = false ∧
    (die fun d => { d with pump := 9, pumpCols := [1] }).ramped 1 = true ∧
    next (exec (.clusterGatingCommit 1) ready) (fun u => (u.cluster 1).gated) = true ∧ ready.drawsNow = [] ∧
    next (exec (.clusterGatingCommit 1) drawing) (fun u => !(u.cluster 1).gated && drawing.drawsNow.any fun e => e.1 == 0) = true ∧
    next (exec (.clusterWakeComplete 1) (ready.setCluster 1 { ready.cluster 1 with waking := true })) (fun u => !(u.cluster 1).waking) = true := by
  decide +kernel

/-! ## Freezing, resuming and debugging -/

/-- A frozen block in frame 0, stopped by a cause, its image written or not. -/
def frozen (c : Cause) (imaged : Bool) : State :=
  (block fun b => { b with place := .frozen, cause := c, window := some [], imaged }).setTeam 0 { ready.team 0 with sched := .frozen }

/-- A block whose freeze has been asked for at time 0. -/
def freezing (src : FreezeSrc) (t : Nat) : State :=
  { (block fun b => { b with place := .freezing, freeze := some src, deadlineLeft := 0, vregs := 1, acc := 0, scratch := 0 }) with time := t }

theorem test_hyps_freezes :
    ready.block? 0 = some handBlock ∧ ready.blocksOf 0 = [0] ∧
    ([Instr.frzcmdFreezeBlock 0, .frzcmdFreezeQueue 0].all fun i => next (exec i ready) fun u =>
      (u.block? 0).any fun b => b.place == .freezing && b.freeze == some .host) = true ∧
    ([Instr.frzcmdResumeBlock 0, .frzcmdResumeQueue 0].all fun i => next (exec i (frozen Cause.hostfrz true)) (fun u => (u.die 0).resumeq == [0]) &&
      next (exec i (frozen Cause.dbgstop true)) fun u => (u.die 0).resumeq.isEmpty) = true ∧
    next (exec (.frzcmdResumeBlock 0) { frozen Cause.hostfrz true with power := { ready.power with shed := 1 } }) (fun u =>
      (u.block? 0).any (·.resumeAsked)) = true ∧
    next (exec (.frzcmdTerminateBlock 0) minimal) (fun u => (u.team 0).sched == .ready) = true ∧ (ready.team 0).gone = false ∧
    next (exec (.frzcmdTerminateBlock 0) ready) (fun u => (u.team 0).sched == .exited && (u.team 0).endCause == Cause.hostkill) = true ∧
    next (exec (.deadlineExpiry 0) (freezing .host 0)) (fun u => (u.block? 0).any (·.forced)) = true ∧
    next (exec (.shedForceTimeout 0) (freezing .shedding 1500000)) (fun u => (u.block? 0).any (·.forced)) = true ∧
    next (exec (.shedForceTimeout 0) (freezing .shedding 1499999)) (fun u => (u.block? 0).any (!·.forced)) = true ∧
    next (exec (.migwaitExpiry 0) (freezing .migration (freezing .migration 0).power.migNs)) (fun u => (u.block? 0).any (·.place == .running) &&
      (u.cluster 0).noTarget) = true := by decide +kernel

/-- A migration's frame whose target, core 9, has given up a block at some time, or none. -/
def migrated (t : Option Nat) : State :=
  ((frozen Cause.migrated true).setBlock 0 { handBlock with
    place := .frozen, cause := Cause.migrated, window := some [], imaged := true, migTarget := some { core := 9, slots := [3], base := 0 } }).setCore 9
      { ready.core 9 with gaveUp := t }

theorem test_hyps_resumes :
    next (exec (.windowImageWritten 0) (frozen Cause.hostfrz false)) (fun u => (u.block? 0).any (·.imaged)) = true ∧
    ((frozen Cause.hostfrz true).resumeSpot 0 { handBlock with place := .frozen, cause := Cause.hostfrz, window := some [], imaged := true }).isSome = true ∧
    next (exec (.resumePlace 0) ((frozen Cause.hostfrz true).setDie 0 { (frozen Cause.hostfrz true).die 0 with resumeq := [0] })) (fun u =>
      (u.block? 0).any (·.place == .running) && (u.team 0).sched == .ready) = true ∧
    next (exec (.resumePlace 0) ((frozen Cause.hostfrz false).setDie 0 { (frozen Cause.hostfrz false).die 0 with resumeq := [0] })) (fun u =>
      (u.block? 0).any (·.place == .frozen)) = true ∧
    ((migrated none).block? 0).any (fun b => (migrated none).mayLand 0 b { core := 9, slots := [3], base := 0 }) = true ∧
    ((migrated none).block? 0).any (fun b => (migrated (some 0)).mayLand 0 b { core := 9, slots := [3], base := 0 }) = false ∧
    next (exec (.migrationTransferComplete 0) (migrated none)) (fun u => (u.block? 0).any fun b => b.place == .running && b.core == 9) = true ∧
    next (exec (.migrationTransferComplete 0) (migrated (some 0))) (fun u =>
      (u.block? 0).any (fun b => b.place == .frozen && b.migTarget.isNone) && (u.die 0).resumeq == [0]) = true := by decide +kernel

/-- Debugging is on in cluster 0, beside the block of frame 0. -/
def debugged (b : Block) : State :=
  let s := (ready.setBlock 0 b).setCluster 0 { ready.cluster 0 with dbg := { en := true, started := true, entry := 0x3000 } }
  if b.place = .frozen then s.setTeam 0 { s.team 0 with sched := .frozen } else s

theorem test_hyps_debug :
    ready.monitorFits 0 = true ∧ next (exec (.dbgEnable 96 (2 ^ 63)) ready) (fun u => !(u.cluster 96).dbg.en) = true ∧
    next (exec (.dbgEnable 0 (2 ^ 63)) minimal) (fun u => !(u.cluster 0).dbg.en) = true ∧
    next (exec (.dbgEnable 0 (2 ^ 63 + 7)) ready) (fun u => (u.block? (monitorFrame 0)).any (·.monitor) && (u.team (monitorFrame 0 * 32)).handler) = true ∧
    next (exec (.dbgEnable 0 0) (debugged handBlock)) (fun u => !(u.cluster 0).dbg.en) = true ∧
    ready.dbgTarget 0 0 = none ∧ ((debugged handBlock).dbgTarget 0 0).isSome = true ∧ (debugged handBlock).dbgTarget 0 9 = none ∧
    next (exec (.dbgrunStop 0 0) (debugged { handBlock with vregs := 1, acc := 0, scratch := 0 })) (fun u => (u.block? 0).any fun b => b.freeze == some .debug) = true ∧
    next (exec (.dbgrunResume 0 0) (debugged { handBlock with place := .frozen, cause := Cause.dbgstop })) (fun u => (u.die 0).resumeq == [0]) = true ∧
    next (exec (.dbgrunStep 0 0) (debugged { handBlock with place := .frozen, cause := Cause.dbgstop })) (fun u =>
      (u.block? 0).any fun b => b.stepping == some 0) = true ∧
    next (exec (.dbgrunResume 0 0) (debugged handBlock)) (fun u => (u.die 0).resumeq.isEmpty) = true ∧
    next (exec (.rspseqWrite 0 4) ready) (fun u => (u.cluster 0).dbg.rspseq == 4 && u.out == [.msix 2]) = true := by decide +kernel

/-! ## Power, resets and the sideband -/

/-- `ready` with its power registers changed, and a column whose trims are not read. -/
def power (f : Power → Power) : State := { ready with power := f ready.power }

/-- Die 0's pump carries a current for queue 0 from time 0 on. -/
def pumped (p t : Nat) : State := { (die fun d => { d with pump := p, pumpQueues := [(0, 100)] }) with time := t }

theorem test_hyps_windows :
    ({ ready with cycles := 4096 } : State).cyclesOf 0 = 4096 ∧
    next (exec (.ntWindow 0) { ready with cycles := 4096 }) (fun u => (u.core 0).windowAt == 4096) = true ∧
    next (exec (.ntWindow 0) { ready with cycles := 4095 }) (fun u => (u.core 0).windowAt == 0) = true ∧
    next (exec (.columnLevelStep 0) (power fun p => { p with clamp := 2 })) (fun u => (u.cluster 0).level == 1) = true ∧
    next (exec (.columnLevelStep 0) ready) (fun u => (u.cluster 0).level == 0) = true ∧
    next (exec (.thermalLevelTick 0) ((({ ready with time := 1000000 } : State).setCore 0 { ready.core 0 with hot := true, relieved := true, temp := 0x600 }))) (fun u =>
      (u.cluster 0).thermal == 1) = true ∧
    next (exec (.thermalLevelTick 0) (({ ready with time := 1000000 } : State).setCluster 0 { ready.cluster 0 with thermal := 3 })) (fun u =>
      (u.cluster 0).thermal == 2) = true ∧
    next (exec (.thermalLevelTick 0) (({ ready with time := 999999 } : State).setCluster 0 { ready.cluster 0 with thermal := 3 })) (fun u =>
      (u.cluster 0).thermal == 3) = true ∧
    next (exec (.pumpRampStep 0) (pumped 100 1000)) (fun u => (u.die 0).pump == 60 && (u.die 0).pumpEnergy == 900 * (100 * 100 - 60 * 60) / 40) = true ∧
    next (exec (.pumpRampStep 0) (pumped 100 999)) (fun u => (u.die 0).pump == 100) = true ∧
    next (exec (.pumpRampStep 0) (pumped 30 1000)) (fun u => (u.die 0).pump == 0 && (u.queue 0).energy == 900 * 30 * 30 / 40 / 1000) = true ∧
    next (exec (.pumpRampStep 0) { pumped 30 0 with power := { ready.power with pumpen := false } }) (fun u => (u.die 0).pump == 0) = true := by
  decide +kernel

/-- The shelf's link is on, and its last frame came at time 0. -/
def shelf (t : Nat) : State := { (power fun p => { p with stpEn := true, pbudget := 60000 }) with time := t }

theorem test_hyps_shelf :
    ready.time % 10000 = 0 ∧ ready.plat.off = false ∧ tripped [(0, 0x740)] ready.power.ttrip = some (0, 0x740) ∧ ready.launchRegs.room = false ∧
    next (exec (.tempSample [(0, 0x740)]) ready) (fun u => u.plat.booting) = true ∧
    frameValid 0x0100 = false ∧ next (exec (.stpFrame 0x0100) (shelf 0)) (fun u => u.power.crcerr == 1) = true ∧
    next (exec .stpLossTimeout (shelf 500000)) (fun u => u.power.lost) = true ∧ next (exec .stpLossTimeout (shelf 499999)) (fun u => !u.power.lost) = true ∧
    next (exec .stpLossHoldExpiry { shelf 10000000 with blocks := [], power := { (shelf 0).power with lost := true, lossfrac := 512 } }) (fun u =>
      u.power.cap == 512) = true ∧
    next (exec .clampStep { (power fun p => { p with clampTarget := 3 }) with time := 1000 }) (fun u => u.power.clamp == 1) = true ∧
    next (exec .clampStep { (power fun p => { p with clampTarget := 3 }) with time := 999 }) (fun u => u.power.clamp == 0) = true ∧
    next (exec .clampLower { (power fun p => { p with clampTarget := 1, clamp := 1 }) with time := 100000 }) (fun u => u.power.clampTarget == 0) = true ∧
    next (exec (.classRestore 0) { (power fun p => { p with shed := 3, holdFrom := [(0, 0)], pbudget := 60000 }) with time := 100000000, blocks := [] })
      (fun u => u.power.shed == 2) = true ∧
    next (exec (.classRestore 1) { (power fun p => { p with shed := 3, holdFrom := [(1, 0)], pbudget := 60000 }) with time := 100000000, blocks := [] })
      (fun u => u.power.shed == 3) = true := by decide +kernel

/-- A sample of cores 0 and 8 and of an SRAM die and a sensor without a use: core 8 is newly hot, and no block is there to move. -/
def sampled : List (Nat × BitVec 16) := [(0, 0x300), (8, 0x600), (1024, 0x400), (1032, 0x2A0)]

theorem test_hyps_samples :
    tripped (sampled.filter fun r => isSensor r.1) ready.power.ttrip = none ∧ ready.power.thot = 0x5F0 ∧ (ready.die 0).wretire = 0x6E0 ∧
    next (exec (.tempSample sampled) { ready with blocks := [] }) (fun u =>
      (u.core 0).temp == 0x300 && !(u.core 0).hot && (u.core 8).hot && (u.cluster 1).noTarget && !(u.cluster 0).noTarget &&
        Tab.get? u.power.sramTemp 1032 == some 0x2A0 && Tab.get? u.power.sramTemp 1024 == some 0x400) = true ∧
    next (exec (.tempSample [(8, 0x5F0)]) ready) (fun u => (u.core 8).temp == 0x5F0 && !(u.core 8).hot && u.blocks == ready.blocks) = true ∧
    next (exec (.tempSample sampled) { ready with time := 9999 }) (fun u => !(u.core 8).hot) = true := by decide +kernel

/-- A start in progress with `n` of its steps done. -/
def starting (n fails : Nat) : State := { ready with plat := { ready.plat with booting := true, step := n, fails } }

theorem test_hyps_resets :
    ready.plat.off = false ∧ ready.halted.mayWipe = true ∧ (ready.emit (.sideband [0])).halted.mayWipe = true ∧
    ([Instr.resetctlWarmReset, .cxlReset, .secondaryBusReset, .wipe, .fatalReset, .coldReset, .powerLoss].all fun i => next (exec i ready) fun u =>
      u.teams.isEmpty && u.blocks.isEmpty && u.plat.wiping && u.plat.booting) = true ∧
    next (exec .resetctlWarmReset { ready with plat := { ready.plat with minimal := true } }) (fun u => u.teams.length == 1) = true ∧
    next (exec .wipeComplete { ready with plat := { ready.plat with wiping := true } }) (fun u => !u.plat.wiping) = true ∧
    ([(1, 0), (3, 2), (4, 3), (5, 4)].all fun n => next (exec (.startUp n.1 0 []) (starting n.2 1)) fun u => u.plat.step == n.1) = true ∧
    next (exec (.startUp 5 0 []) (starting 4 1)) (fun u => !u.plat.booting && u.plat.fails == 0 && u.plat.starts == 1) = true ∧
    next (exec (.startUp 3 0 [(0, 5)]) (starting 2 0)) (fun u => (u.die 0).retired == [5] && u.plat.step == 3) = true ∧
    next (exec (.startUp 2 0 []) { starting 1 0 with plat := { (starting 1 0).plat with boot := none } }) (fun u => u.plat.reason == 2 && u.plat.fails == 1) = true ∧
    next (exec .cxlTrainTimeout { starting 4 2 with time := 1000000000 }) (fun u => u.plat.reason == 7 && u.plat.minimal) = true ∧
    next (exec .cxlTrainTimeout { starting 4 1 with time := 1000000000 }) (fun u => u.plat.reason == 7 && !u.plat.minimal) = true ∧
    next (exec .cxlTrainTimeout { starting 4 1 with time := 999999999 }) (fun u => u.plat.reason == 0) = true := by decide +kernel

/-- A host line that die 0 holds dirty. -/
def dirty : State := filtered.setDie 0 { ready.die 0 with lines := [(5, { line := 2 ^ 44, st := .m, data := 7 })] }

theorem test_hyps_dirty_lines : dirty.dirtyHost = [2 ^ 44] ∧ isHostLine (2 ^ 44) = true ∧
    dirty.halted.mayWipe = false ∧ dirty.halted.dirtyHost = [2 ^ 44] ∧ hostOwns.halted.hostHeld = [0] ∧
    next (exec .cxlReset dirty) (fun u => u.plat.warming && !u.plat.wiping && (u.dirEnt (2 ^ 44)).queue.any fun r => r.op == .reclaim) = true ∧
    next (exec .cxlReset hostOwns) (fun u => u.plat.warming && (u.dirEnt 0).queue.any fun r => r.op == .recall) = true ∧
    next (exec .fatalReset dirty) (fun u => u.plat.lostLines == [2 ^ 44] && u.hostMem.isEmpty) = true := by decide +kernel

theorem test_hyps_sideband :
    next (exec .status ready) (fun u => u.out.length == 1) = true ∧
    next (exec .status { ready with plat := { ready.plat with sbBusy := true } }) (fun u => u.out == [.sideband [1]]) = true ∧
    next (exec .status { ready with plat := { ready.plat with off := true } }) (fun u => u.out.isEmpty) = true ∧
    next (exec .reason { ready with plat := { ready.plat with reason := 7, fails := 2 } }) (fun u => u.out == [.sideband [0, 7, 2, 5]]) = true ∧
    next (exec (.attest 0) { ready with plat := { ready.plat with sigIndex := 65536 } }) (fun u => u.out == [.sideband [4]]) = true ∧
    ([(0, 1), (1, 2), (1, 3), (2, 3), (3, 1)].all fun p => lifeCycleAllows p.1 p.2) = true ∧
    ([(0, 0), (0, 2), (2, 1), (3, 2), (1, 0)].all fun p => !lifeCycleAllows p.1 p.2) = true := by decide +kernel

theorem test_hyps_registers : ready.up = true ∧ ready.framesUsed ≠ 0 ∧ State.reset.framesUsed = 0 ∧
    next (exec (.registerWrite 0x10 (2 ^ 40)) ready) (fun u => u.regRead 0x10 == 2 ^ 40) = true ∧
    next (exec (.registerWrite 0x14 (2 ^ 40)) ready) (fun u => u.regRead 0x10 == 0) = true ∧
    (ready.regWrite 0x10 4 (2 ^ 40)).regRead 0x10 = 0 ∧
    next (exec (.registerWrite 0x18 (2 ^ 60)) ready) (fun u => u.plat.wiping) = true ∧ bitsAt (2 ^ 60 : Word64).toNat 60 4 = 1 ∧
    next (exec (.registerWrite 0x500010 (2 ^ 40)) State.reset) (fun u => u.pool.saveva == 2 ^ 40) = true ∧
    next (exec (.registerWrite 0x100028 9) ready) (fun u => (u.die 3).seed == 9) = true ∧
    next (exec (.registerWrite 0xA023F8 (2 ^ 63 + 5)) ready) (fun u => Tab.get? u.plat.peertab 1023 == some (true, 5)) = true := by decide +kernel

/-! ## Results by hand -/

/-- Lane 0 of v1 to v4, and s1 to s3. -/
def valued (v1 v2 v3 : Word32) (s1 s2 : Word64) : State := team fun t => { t with
  v := [(1024, v1), (2048, v2), (3072, v3)], s := [(1, s1), (2, s2)], k := [(1, 0x8001)] }

/-- R409: wrap and clamp; R426: the high half, a shift count modulo 32, leading zeros. -/
theorem test_integers : due (valued 0xFFFFFFFF 1 0 0 0) (.vadd { vd := 9, va := 1, vb := 2 }) [(.v 9 0, 0)] = true ∧
    due (valued 0x7FFFFFFF 1 0 0 0) (.vadd { vd := 9, va := 1, vb := 2, sat := true }) [(.v 9 0, 0x7FFFFFFF)] = true ∧
    due (valued 3 5 0 0 0) (.vsub { vd := 9, va := 1, vb := 2 }) [(.v 9 0, 0xFFFFFFFE)] = true ∧
    due (valued 0xFFFFFFFF 2 0 0 0) (.vmulh { vd := 9, va := 1, vb := 2 }) [(.v 9 0, 0xFFFFFFFF)] = true ∧
    due (valued 0x80000000 33 0 0 0) (.vsra { vd := 9, va := 1, vb := 2 }) [(.v 9 0, 0xC0000000)] = true ∧
    due (valued 0x00010000 0 0 0 0) (.vclz { vd := 9, va := 1 }) [(.v 9 0, 15)] = true := by decide +kernel

/-- R103: 1.5 + 2.25 = 3.75, 2 × 3 + 1 = 7; R105: an invalid operation gives the canonical NaN. -/
theorem test_floats : due (valued 0x3FC00000 0x40100000 0 0 0) (.vfadd { vd := 9, va := 1, vb := 2, ty := 6 }) [(.v 9 0, 0x40700000)] = true ∧
    due (valued 0x40000000 0x40400000 0x3F800000 0 0) (.vfma { vd := 9, va := 1, vb := 2, vc := 3, ty := 6 }) [(.v 9 0, 0x40E00000)] = true ∧
    due (valued 0x7F800000 0x7F800000 0 0 0) (.vfsub { vd := 9, va := 1, vb := 2, ty := 6 }) [(.v 9 0, 0x7FC00000)] = true := by decide +kernel

/-- R395 to R397: wrap, the high half, division toward zero and its remainder; R396: a comparison. -/
theorem test_scalars : due (valued 0 0 0 (2 ^ 64 - 1) 1) (.sadd { sd := 3, sa := 1, sb := 2 }) [(.s 3, 0)] = true ∧
    due (valued 0 0 0 (-1) 2) (.smulh { sd := 3, sa := 1, sb := 2 }) [(.s 3, 2 ^ 64 - 1)] = true ∧
    due (valued 0 0 0 (-7) 2) (.sdiv { sd := 3, sa := 1, sb := 2 }) [(.s 3, 2 ^ 64 - 3)] = true ∧
    due (valued 0 0 0 (-7) 2) (.srem { sd := 3, sa := 1, sb := 2 }) [(.s 3, 2 ^ 64 - 1)] = true ∧
    ends (valued 0 0 0 5 0) (.sdiv { sd := 3, sa := 1, sb := 2 }) Cause.sdivzero = true := by decide +kernel

/-- R383, R36: k1 has lanes 0 and 15; with no active lane nothing is written.  R37: a rotation beyond the span traps. -/
theorem test_masks : due (valued 0 0 0 0 0) (.kpopc { vd := 774, va := 1 }) [(.s 6, 2)] = true ∧
    due (valued 0 0 0 0 0) (.kget { vd := 774, va := 1, vb := 1023 }) [(.s 6, 0x8001)] = true ∧
    next (exec (.kpopc { vd := 774, va := 1, pm := 2 }) (valued 0 0 0 0 0)) (fun u => (u.team 0).pend.isEmpty) = true ∧
    ends ready (.vrot { vd := 9, va := 8, vb := 1023, imm := 16 }) Cause.badspan = true := by decide +kernel

/-- R55: SREAD of WIDTH and ASID, of LANE into a v-register, and of a number past the last. -/
theorem test_special_registers : due ready (.sread { sd := 1, imm := 5 }) [(.s 1, 16)] = true ∧ due ready (.sread { sd := 1, imm := 20 }) [(.s 1, 1)] = true ∧
    due ready (.sreadV { imm := 0x3000 }) [(.v 1 15, 15)] = true ∧
    ends ready (.sread { sd := 1, imm := 27 }) Cause.badreg = true := by decide +kernel

/-- R440: ZRD and ZWR move a row; R427: VSEL by a mask. -/
theorem test_rows : due (team fun t => { t with z := [(1024 + 96 + 1, 7)] }) (.zrd { zd := 1, sub := 0x020600000000 }) [(.v 8 1, 7)] = true ∧
    due (valued 5 6 0 0 0) (.vsel { vd := 9, va := 1, vb := 2, vc := 1 }) [(.v 9 0, 5), (.v 9 1, 0)] = true := by decide +kernel

/-! ## Clauses about less common cases -/

/-- R116: a negative and a positive finite input; 2^3 and log2 8 are exact. -/
theorem test_hyps_transcendentals :
    (match unpack fF32 (dazIn false fF32 0xC0000000) with | .fin true m _ => m != 0 | _ => false) = true ∧
    (match unpack fF16 (dazIn true fF16 0x4200) with | .fin false m e => m * 2 ^ e.toNat == 3 * 2 ^ (-e).toNat && m % 2 ^ (-e).toNat == 0 | _ => false) = true ∧
    (match unpack fF16 (dazIn true fF16 0x3E00) with | .fin false m e => m % 2 ^ (-e).toNat != 0 | _ => false) = true ∧
    transBits 2 6 fF32 false false 0x40400000 = 0x41000000 ∧ transBits 3 6 fF32 false false 0x41000000 = 0x40400000 := by
  decide +kernel

/-- A team with a wait to resume, a CINV that is out, and attributes that refuse the line of the Well. -/
def rewaiting : State := (withLine ready pairLine).setTeam 0 { ready.team 0 with rewait := true }
def invalidating : State := { (withLine ready pairLine).setDie 0 { ready.die 0 with
  anns := [.req { uid := 5, ent := 0, ctx := 0, core := 0, asid := 1, op := .cinv, va := 0x1000, pieces := [] }] } with uid := 9 }
def refusing : State := die fun d => { d with
  tiles := [(tileKey 1 0x1000, { attr := some { x := false } })], lines := [(lineKey 1 0x1000, { line := 32, st := .s, data := 0 })] }

/-- Fault records of every type for the line at the PC, and a die whose records are all in use. -/
def recordedFetch : State := die fun d => { d with frecs := (List.range 16).map fun ty => (ty,
  { va := 0x1000, asid := 1, type := ty, level := 0, rep := false, write := false, path := 3, pcore := 0, time := 0, att := [] }) }
def fullRecords : Tab FRec := (List.range 4096).map fun i => (i,
  { va := 0x9000, asid := 1, type := 0, level := 0, rep := false, write := false, path := 0, pcore := 0, time := 0, att := [] })

theorem firstBelow_none {p : Nat → Bool} : ∀ n lo, (∀ i, lo ≤ i → i < lo + n → p i = false) → firstBelow n lo p = none
  | 0, _, _ => rfl
  | n + 1, lo, h => by
    simp only [firstBelow, h lo (Nat.le_refl _) (by omega), Bool.false_eq_true, if_false]
    exact firstBelow_none n (lo + 1) fun i h1 h2 => h i (by omega) (by omega)

theorem get?_map_isSome (r : FRec) (i : Nat) : ∀ l : List Nat, i ∈ l → (Tab.get? (l.map fun j => (j, r)) i).isSome = true
  | j :: l, h => by
    by_cases e : j = i
    · simp [Tab.get?, e]
    · have h' : i ∈ l := by simpa [Ne.symm e] using h
      simpa [Tab.get?, e] using get?_map_isSome r i l h'

theorem test_hyps_full_records : freeRecord fullRecords = none :=
  firstBelow_none 4096 0 fun i _ h => by
    have := get?_map_isSome { va := 0x9000, asid := 1, type := 0, level := 0, rep := false, write := false, path := 0, pcore := 0, time := 0, att := [] }
      i (List.range 4096) (List.mem_range.2 (by omega))
    simpa [fullRecords, Option.isSome_iff_ne_none] using this

theorem test_hyps_fetch_cases :
    rewaiting.mayIssue 0 = true ∧ goodLine rewaiting true = true ∧ (rewaiting.team 0).rewait = true ∧
    invalidating.cinvOut 0 (lineKey 1 0x1000) = true ∧ (withLine ready pairLine).cinvOut 0 (lineKey 1 0x1000) = false ∧
    (Tab.get? ((withLine ready pairLine).core 0).fbuf (fetchKey 1 0x1000)).any (fun e => e.2.x && e.2.u) = true ∧
    refusing.keptRefuses 0 (lineKey 1 0x1000) = true ∧ refusing.wellFetch 0 (lineKey 1 0x1000) false = none ∧
    (match recordedFetch.fetch 0 with
      | .hold _ ty _ => (recordedFetch.die 0).frecs.any fun e => e.2.va == 0x1000 && e.2.asid == 1 && e.2.type == ty
      | _ => false) = true ∧
    next (exec .lineChecks recordedFetch) (fun u => (u.die 0).frecs.any fun e => e.2.att == [.fetch 0]) = true ∧
    next (exec .lineChecks ready) (fun u => (u.die 0).frecs.any fun e => e.2.path == 3 && e.2.att == [.fetch 0]) = true ∧
    (match (ready.setDie 0 { ready.die 0 with frecs := fullRecords }).fetch 0 with | .hold _ _ _ => true | _ => false) = true := by
  decide +kernel

/-- R92: fields that are not zero come before registers, and these before types. -/
theorem test_decode_checks : ready.blockOf? 0 = some handBlock ∧ handBlock.vregs ≤ 768 ∧
    ready.decodeTrap 0 (.vadd { ty := 13, vd := 800, rnd := 1 }) = some Cause.rsvfld ∧
    ready.decodeTrap 0 (.vadd { ty := 13, vd := 800 }) = some Cause.badreg ∧ ready.decodeTrap 0 (.vadd { ty := 13 }) = some Cause.badtype ∧
    ready.decodeTrap 0 (.vadd { ty := 12, vd := 766, va := 767 }) = some Cause.badreg ∧ ready.decodeTrap 0 (.vadd { ty := 12, vd := 766, va := 831 }) = none ∧
    ready.decodeTrap 0 (.vld { idx := 1023, sz := 4, data := 764 }) = none ∧ ready.decodeTrap 0 (.vld { idx := 1023, sz := 4, data := 766 }) = some Cause.badreg ∧
    ready.decodeTrap 0 (.vld { idx := 1023, sz := 5 }) = some Cause.rsvfld ∧ control.decodeTrap 0 (.mma { sub := 2 }) = some Cause.badctl ∧
    ready.decodeTrap 0 (.mma { sub := 2 }) = some Cause.rsvfld ∧ ready.decodeTrap 0 (.mma { zd := 15 }) = none ∧
    (block fun b => { b with acc := 2 }).decodeTrap 0 (.mma { zd := 2 }) = some Cause.badacc ∧ ready.decodeTrap 0 (.ctxrd {}) = some Cause.privop ∧
    (handled true).decodeTrap 0 (.ctxrd { sub := 1 }) = some Cause.rsvfld ∧ (handled true).decodeTrap 0 (.ctxrd {}) = none := by decide +kernel

/-! ## Performed accesses -/

/-- A line with 5 at offset 4, and an access of 4 bytes there. -/
def acc (s : State) : LineAcc := { s, data := linePut 0 4 4 5 }
def piece : Piece := { lane := 0, va := 0x2004, n := 4, data := 7, cmp := 5 }
def replayed (op : ReqOp) : Req := { request op 0 with tag := 1 }
/-- `ready` with that access of tag 1 recorded as performed. -/
def performed : State := ready.record (.mouth 0) 0 1 0 piece.id none

theorem test_hyps_performed : piece.va % 128 + piece.n ≤ 128 ∧ ready.isDup 0 1 piece.id = false ∧ performed.isDup 0 1 piece.id = true ∧
    laneValue (piece.got 9) 0 4 = some 9 ∧
    lineGet ((acc ready).piece (replayed .store) (.mouth 0) piece).data 4 4 = 7 ∧
    lineGet ((acc performed).piece (replayed .store) (.mouth 0) piece).data 4 4 = 5 ∧
    lineGet ((acc ready).piece (replayed (.atomic 0)) (.mouth 0) piece).data 4 4 = 12 ∧
    lineGet ((acc ready).piece (replayed .cas) (.mouth 0) piece).data 4 4 = 7 ∧
    lineGet ((acc ready).piece (replayed .cas) (.mouth 0) { piece with cmp := 6 }).data 4 4 = 5 := by decide +kernel

/-- A team that owes a cell to an instruction of which 1 access is left. -/
def owes (i : Instr) (c : Cell) : Team :=
  { ready.team 0 with pend := [⟨5, c, none, false⟩], inflight := [{ entry 1 true false false with word := wordOf i }] }

theorem test_hyps_credit :
    ([(Instr.vld { data := 8, base := 1, idx := 1023, sz := 2 }, Cell.v 8 0), (.vatom { data := 8, base := 1, idx := 1023, sz := 2 }, .v 8 0),
      (.sld { data := 3, base := 1, idx := 1023, sz := 2 }, .s 3)].all fun r =>
      ((owes r.1 r.2).inflight.find? fun e => e.uid == 5).isSome && accessBytes (decode (wordOf r.1)) == 4 &&
        ((owes r.1 r.2).credit 5 piece.id 0 (piece.got 9)).pend == [⟨5, r.2, some 9, false⟩]) = true := by decide +kernel

/-! ## Freezes met by YIELD and TRET -/

/-- A block of two teams that some source has asked to freeze. -/
def yielding (src : FreezeSrc) : State :=
  (block fun b => { b with teams := 2, place := .freezing, freeze := some src, vregs := 64, acc := 0, scratch := 0 }).setTeam 1 {}

theorem test_hyps_yield_frozen : ([FreezeSrc.host, .migration, .shedding, .debug].all fun src =>
    let s := yielding src
    s.cur == some 0 && s.canIssue 0 && pass s [.yield { disp := 16 }] && (s.team 0).pend.isEmpty && (s.team 1).sched == .ready &&
      next (exec (.yield { disp := 16 }) s) fun u => (u.team 0).sched == .frozen && (u.team 0).live == 16 && (u.team 0).pc == 0x1001) = true := by
  decide +kernel

/-- A handler whose TRET resumes the wait of an instruction at 0x3001. -/
def resuming (i : Instr) (f : Team → Team) : State :=
  let s := returning true (some 3)
  let l := lineWith 0 [wordOf (.nop {}), wordOf i]
  let s := s.setCore 0 { s.core 0 with fbuf := Tab.put (s.core 0).fbuf (fetchKey 1 0x3000) (l, {}) }
  s.setTeam 0 (f (s.team 0))

theorem test_hyps_rewait :
    ([resuming (.gbar { s1 := 2 }) id, resuming (.waitcnt { idx := 1023 }) fun t => { t with ldcnt := 1 }, resuming (.evwait {}) id].all fun s =>
      runsB s && pass s [.tret {}, .tret { sw := true }] && s.frameOk 0 && bitAt (s.physWord (trapArea 0)) 25) = true ∧
    next (exec (.tret {}) (resuming (.gbar { s1 := 2 }) id)) (fun u => (u.team 0).sched == .waiting (.gbar 3 true) && (u.team 0).pc == 0x3001) = true ∧
    next (exec (.tret {}) (resuming (.waitcnt { idx := 1023 }) fun t => { t with ldcnt := 1 })) (fun u =>
      (u.team 0).sched == .waiting (waitBounds 0) && !(u.team 0).handler) = true ∧
    next (exec (.tret {}) (resuming (.evwait {}) id)) (fun u => (u.team 0).sched == .waiting .events) = true ∧
    next (exec (.tret { sw := true }) (resuming (.gbar { s1 := 2 }) fun t => { t with pend := [⟨5, .s 1, none, false⟩] })) (fun u =>
      (u.team 0).sched == .parked && (u.team 0).rewait && (u.team 0).suspWait == some 3) = true ∧
    next (exec (.tret {}) (returning true (some 3))) (fun u => (u.team 0).rewait && (u.team 0).sched == .ready) = true := by decide +kernel

theorem test_hyps_frames : (handled false).framePA (frameOf 0) 0x3FFFFF < 0x18000000000 ∧ faulted.framePA (frameOf 0) 0x3FFFFF < 0x18000000000 ∧
    (faulted.team 0).pend = [] ∧ (belled.team 0).pend = [] ∧ belled.frameOk 0 = true := by decide +kernel

/-! ## Gangs -/

/-- Team 0 waits for its change of gang 3, beside team 32 of core 1, which waits in GBAR; the gangs are given. -/
def joining (gangs : Tab Gang) : State :=
  let s := team fun t => { t with sched := .waiting .gangChange, gangs := 8 }
  let s := (s.setBlock 1 { handBlock with core := 1, lcore := 1 }).setTeam 32 { sched := .waiting (.gbar 3 true), gangs := 8 }
  s.setCluster 0 { s.cluster 0 with gangs }

/-- Both teams in gang 3, team 32 alone arrived, team 0 now waiting in GBAR. -/
def meeting : State :=
  let s := joining [(3, { asid := 1, members := [0, 32], arrived := [32] })]
  s.setTeam 0 { s.team 0 with sched := .waiting (.gbar 3 false) }

theorem test_hyps_gang_acts :
    (joining []).gang? ((joining []).colOfCtx 0) 3 = none ∧ ((joining []).gjoinAct 0 3 false 0).gang? 0 3 = some { asid := 1, members := [0] } ∧
    (((joining []).gjoinAct 0 3 false 0).team 0).pc = 0x1001 ∧
    (((joining [(3, { asid := 2, members := [] })]).gjoinAct 0 3 false 0).team 0).endCause = Cause.gangfull ∧
    ((joining [(3, { asid := 1, members := [32] })]).gjoinAct 0 3 false 0).gang? 0 3 = some { asid := 1, members := [32, 0] } ∧
    (((joining ((List.range 64).map fun g => (g, { asid := 1, members := [] }))).gjoinAct 0 0 true 4).team 0).endCause = Cause.gangfull ∧
    (((joining [(0, { asid := 1, members := [] })]).gjoinAct 0 0 true 4).team 0).sreg 4 = 1 ∧
    (((joining [(3, { asid := 1, members := [32] })]).gleaveAct 0 4).team 0).endCause = Cause.gangnot ∧
    ((joining [(3, { asid := 1, members := [0] })]).gleaveAct 0 3).gang? 0 3 = none ∧
    ((joining [(3, { asid := 1, members := [0, 32] })]).gleaveAct 0 3).gang? 0 3 = some { asid := 1, members := [32] } ∧
    ((joining [(3, { asid := 1, members := [0, 32], arrived := [32] })]).gleaveAct 0 3).gang? 0 3 =
      some { asid := 1, members := [32], phase := true } ∧
    (((joining [(3, { asid := 1, members := [0, 32], arrived := [32] })]).gleaveAct 0 3).team 32).sched = .ready ∧
    ((joining [(3, { asid := 1, members := [0, 32] })]).gbarAct 32 3).gang? 0 3 = some { asid := 1, members := [0, 32], arrived := [32] } ∧
    (meeting.gbarAct 32 3) = meeting ∧ (meeting.gbarAct 0 3).gang? 0 3 = some { asid := 1, members := [0, 32], phase := true } ∧
    ((meeting.gbarAct 0 3).team 0).pc = 0x1001 ∧ ((meeting.gbarAct 0 3).team 32).sched = .ready := by decide +kernel

/-! ## Lost lines, snoops and engines -/

theorem test_hyps_lost_line :
    let s := die fun d => { d with lines := [(lineKey 1 0x2000, line .m)] }
    (line .m).inWell = true ∧ asidOfLine (lineKey 1 0x2000) = handBlock.asid ∧ (s.team 0).gone = false ∧
    next (exec (.wellUe 0 (lineKey 1 0x2000)) s) (fun u => (u.team 0).sched == .exited && (u.team 0).endCause == Cause.lostline) = true ∧
    next (exec (.snpinv (2 ^ 44)) { filtered with plat := { filtered.plat with minimal := true } }) (fun u => u.out.isEmpty) = true := by decide +kernel

theorem test_hyps_sums : ∃ (l : List FV) (lo : Int) (v : FV → Int), l ≠ [] ∧ (∀ n m e, v (.fin n m e) = scaled n m e lo) ∧
    ∀ x ∈ l, ∃ n m e, x = .fin n m e ∧ lo ≤ e :=
  ⟨[.fin false 1 0], 0, fun x => match x with | .fin n m e => scaled n m e 0 | _ => 0, by simp, fun _ _ _ => rfl, by simp⟩

/-- A copy to or from records of a space, with its window. -/
def copied (src dst : Record) : Copy := { copy 0 with src, dst }
/-- Die 0 holds the line at 0x4000 dirty, under kept attributes. -/
def dirtyLine (cs : List Copy) : State :=
  let s := working [] cs
  s.setDie 0 { s.die 0 with tiles := [(tileKey 1 0x4000, { attr := some {} })], chain := [some (tileKey 1 0x4000)], lines := [(lineKey 1 0x4000, line .m)] }

theorem test_hyps_elements :
    let g := ready.agentOf 0 true 5 false
    let w := working [] [copy 0]
    (match (mapped w).elemGot g (copied (shapeRec 0x4000 6 0 0 32) (copy 0).dst) 0 with | .wait _ => true | _ => false) = true ∧
    (match w.elemGot g (copy 0) 0 with | .ready _ _ _ => true | _ => false) = true ∧ w.fenced 0 5 1 = false ∧
    (copied (copy 0).src (shapeRec 0x4000 6 0 0 32)).spots 0 0 = [.glob 0x4000 false] ∧
    (copied (copy 0).src (shapeRec 0x4000 6 3 0 32)).spots 0 0 = [.glob 0x4000 true] ∧ (copy 0).spots 0 0 = [.pad 0 0 0x2000] ∧
    (copied (copy 0).src (shapeRec 0x2000 6 2 1 32)).spots 0 0 = [.pad 0 0 0x2000] ∧
    (match w.writeSpot g 1 0 6 0 7 (.pad 0 0 0x2000) with | .ready u 0 => (u.core 0).cpbuf == [(0x2000, 7), (0x2001, 0), (0x2002, 0), (0x2003, 0)] | _ => false) = true ∧
    (match w.writeSpot g 1 0 6 1 0x3F800000 (.pad 0 0 0x2000) with | .ready u 0 => (u.core 0).sp.readN 0x2000 4 == [0, 0, 0x80, 0x3F] | _ => false) = true ∧
    (match (dirtyLine []).writeSpot g 1 0 6 0 7 (.glob 0x4004 false) with
      | .ready u 0 => (Tab.get? (u.die 0).lines (lineKey 1 0x4000)).any fun l => lineGet l.data 4 4 == 7 && lineGet l.data 0 2 == 0x1234
      | _ => false) = true ∧
    w.isDup 0 1 0 = false ∧ w.block? (frameOf 0) = some { handBlock with scratch := 65536 } ∧
    (w.countBytes { copy 0 with be := true, bar := 0x40 } (.pad 0 0 0x2000) 4).2.counted = 4 ∧
    next (exec (.copyElement 5) (dirtyLine [copied (copy 0).src (shapeRec 0x4000 6 0 0 32)])) (fun u => u.copies.all fun c => c.idx == 1) = true := by
  decide +kernel

theorem test_hyps_mma_reads :
    let o : MmaOps := { a := [], b := [], sa := [], sb := 0 }
    next (exec (.mmaStart 0 5) (working [{ job with ops := some o }] [])) (fun u => (u.core 0).arrq.all (·.started)) = true ∧
    ((mmaReads job.ra job.rb).head?.any fun r =>
      match (working [job] []).mmaReadAt (ready.agentOf 0 true 5 false) 0 { job with early := [(0, 7)] } r 0 with
      | .ready _ x => x == 7
      | _ => false) = true ∧
    ([16, 32, 64, 128].all fun k => (List.replicate (32 * k) (0 : Word32)).length == 32 * k) = true := by decide +kernel

/-- R111: sixteen products of 1.0 added to 0 give 16.0; R115: sixty-four of −1 and 1 give −64. -/
theorem test_mma :
    let ones : MmaOps := { a := List.replicate 512 0x3F800000, b := List.replicate 512 0x3F800000, sa := [], sb := 0x3F800000 }
    let ints : MmaOps := { a := List.replicate 2048 0xFFFFFFFF, b := List.replicate 2048 1, sa := [], sb := 0x3F800000 }
    (job.result ones fun _ _ => 0)[0]? = some 0x41800000 ∧
    ({ job with ra := shapeRec 0 13 1 0 32, rb := shapeRec 0x2000 13 1 0 32 }.result ints fun _ _ => 0)[0]? = some 0xFFFFFFC0 := by decide +kernel

/-! ## Launches, completion records, freezes and starts -/

/-- The host has the newest data of a line, or a copy of it. -/
def hostHas (s : State) (pa : Nat) : State := s.setDir (pa / 128) { st := .exclusive, base := .exclusive, owner := 4, sharers := 16 }

theorem test_hyps_host_first :
    let serial : Launch := { launch with seq := 1, pkt := { launch.pkt with serial := true } }
    let done : Launch := { launch with placed := 1, ended := 1 }
    (queued id).packetWaits 0 = none ∧ (hostHas (queued id) (2 ^ 28)).packetWaits 0 = some (2 ^ 21, .pull) ∧
    (let s := queued fun x => { x with launches := [done, serial] }
     s.eligible 0 0 (s.queue 0) = true ∧ (s.queue 0).placing = some serial) ∧
    (let s := queued fun x => { x with launches := [{ launch with placed := 1 }, serial] }
     s.eligible 0 0 (s.queue 0) = false) ∧
    (ended done).completionWaits 0 = none ∧ (hostHas (ended done) (2 ^ 27)).completionWaits 0 = some (2 ^ 20, .recall) ∧
    (ended done).ringWaits = none ∧ (hostHas (ended done) (2 ^ 27)).ringWaits = some (2 ^ 20, .recall) := by decide +kernel

/-- A launch that is over with its record's address. -/
def recording (va : Word64) : State := mapped (ended { launch with placed := 1, ended := 1, pkt := { launch.pkt with complete := va } })

/-- R269: the record at 0x8000, and a record whose address is not canonical, which the ring alone takes, with NOWRITE. -/
theorem test_completion_record :
    (recording 0x8000).completionWaits 0 = none ∧ (recording 0x0100000000000000).completionWaits 0 = none ∧
    (match ((recording 0x8000).translate 0 1 0x8000 { write := true }).2 with | .ok e => !e.attr.swm && e.paOf 0x8000 == 0x8000 | _ => false) = true ∧
    next (exec (.launchComplete 0) (recording 0x8000)) (fun u => (u.queue 0).head == 1 && u.physWord 0x8008 == 0 && u.physWord (2 ^ 27) == 1) = true ∧
    next (exec (.launchComplete 0) (recording 0x0100000000000000)) (fun u => (u.queue 0).head == 1 && u.physWord (2 ^ 27) == 0x10001) = true := by
  decide +kernel

/-- A frozen block of one team with few registers. -/
def stopped (saved : Sched) : State :=
  (block fun b => { b with place := .frozen, cause := Cause.hostfrz, window := some [], imaged := true, vregs := 2, acc := 0, scratch := 0 }).setTeam 0
    { ready.team 0 with sched := .frozen, saved, s := [(5, 0x1234)], v := [(1024 + 3, 7)], k := [(1, 0x8001)], mode := 1 }

theorem test_hyps_frozen_registers :
    let b : Block := { handBlock with place := .frozen, cause := Cause.hostfrz, window := some [], imaged := true, vregs := 2, acc := 0, scratch := 0 }
    ((stopped .ready).team 0).pend = [] ∧ (stopped .ready).block? 0 = some b ∧ (stopped .ready).frameOk 0 = true ∧
    (stopped .ready).framePA 0 0x3FFFFF < 0x18000000000 ∧ b.teams * b.width * b.vregs * 4 ≤ 0xC0000 ∧ (stopped .ready).dataBefore 0 b.teams ≤ 0xE0000 ∧
    (stopped .ready).isShed b = false ∧ b.stepping = none ∧ b.heldAt = false ∧ ((stopped .ready).team 0).atBarrier = false ∧
    ((stopped (.waiting (.gbar 3 true))).team 0).saved = .waiting (.gbar 3 true) ∧
    handBlock.teams * handBlock.acc ≤ 16 ∧ handBlock.teams * handBlock.width * handBlock.vregs * 4 ≤ 0xC0000 := by decide +kernel

/-- R281, R283: PC, MODE, a scalar, a mask and a lane come back from the frame. -/
theorem test_frozen_registers :
    let s := stopped .ready
    let b : Block := { handBlock with place := .frozen, cause := Cause.hostfrz, window := some [], imaged := true, vregs := 2, acc := 0, scratch := 0 }
    let u := (s.saveBlock 0).loadTeam 0 b 0 {}
    u.pc = 0x1000 ∧ u.mode = 1 ∧ u.sreg 5 = 0x1234 ∧ u.kreg 1 = 0x8001 ∧ u.vreg 1 3 = 7 ∧ u.exec = 0xFFFF := by decide +kernel

theorem test_hyps_ramp : ready.power.pumpen = true ∧ 0 ∈ ready.idleArrays 0 ∧ 192 ∉ ready.idleArrays 0 ∧
    (core fun c => { c with arrq := [job] }).idleArrays 0 ≠ ready.idleArrays 0 := by decide +kernel

theorem test_hyps_start_stops :
    next (exec (.startUp 1 9 []) (starting 0 0)) (fun u => u.plat.reason == 9 && u.plat.fails == 1 && u.plat.wiping) = true ∧
    next (exec (.startUp 1 5 []) (starting 0 0)) (fun u => u.plat.fails == 0 && u.plat.step == 0) = true ∧
    next (exec (.startUp 3 4 []) (starting 2 0)) (fun u => u.plat.reason == 4) = true ∧
    ((starting 2 0).setDie 0 { ready.die 0 with retired := List.range 129 }).banksShort = true ∧
    next (exec (.startUp 3 0 []) ((starting 2 0).setDie 0 { ready.die 0 with retired := List.range 129 })) (fun u => u.plat.reason == 5) = true ∧
    next (exec (.startUp 4 6 []) (starting 3 0)) (fun u => u.plat.fails == 0 && u.plat.step == 3) = true ∧
    (let s := starting 3 0
     next (exec (.startUp 4 6 []) { s with plat := { s.plat with wiping := true } }) fun u => u.plat.reason == 6) = true ∧
    next (exec (.startUp 5 7 []) (starting 4 0)) (fun u => u.plat.fails == 0 && u.plat.step == 4) = true ∧
    next (exec (.startUp 5 0 []) { starting 4 0 with time := 1000000000 }) (fun u => u.plat.reason == 7) = true := by decide +kernel

end Sys2Proof.Tests
end

section
/-! SUPPORT. Register results written to their cells: what each register reads after one write, and after the writes of a
whole list of results (spec/03_execution.md R45; spec/04_encoding.md R78). -/

namespace Sys2Proof.Machine

/-- The results of a list written to their cells, in the list's order. -/
def Team.writeAll (t : Team) (rs : List Result) : Team := rs.foldl (fun t r => t.writeCell r.cell (r.val.getD 0)) t

/-! ## What a write leaves unchanged -/

/-- A write of an s-register changes the s-registers alone. -/
theorem Team.writeCell_s (t : Team) (n : Nat) (x : BitVec 1024) : ∃ s, t.writeCell (.s n) x = { t with s } := by
  by_cases hn : n = 0 <;> simp only [Team.writeCell, hn, if_true, if_false]
  · exact ⟨t.s, rfl⟩
  · exact ⟨_, rfl⟩

/-- A write of a bit of a k-register changes the k-registers alone. -/
theorem Team.writeCell_k (t : Team) (n l : Nat) (x : BitVec 1024) : ∃ k, t.writeCell (.k n l) x = { t with k } := by
  by_cases hn : n = 0 <;> simp only [Team.writeCell, hn, if_true, if_false]
  · exact ⟨t.k, rfl⟩
  · exact ⟨_, rfl⟩

/-- A write of an accumulator row changes the accumulator alone. -/
theorem Team.writeCell_zrow (t : Team) (j i : Nat) (x : BitVec 1024) : ∃ z, t.writeCell (.zrow j i) x = { t with z } :=
  ⟨_, rfl⟩

/-- Only registers change. -/
theorem Team.writeCell_eq (t : Team) (c : Cell) (x : BitVec 1024) : t.writeCell c x =
    { t with
      s := (t.writeCell c x).s, v := (t.writeCell c x).v, k := (t.writeCell c x).k, h := (t.writeCell c x).h
      z := (t.writeCell c x).z } := by
  cases c with
  | s n => obtain ⟨_, e⟩ := t.writeCell_s n x; rw [e]
  | k n l => obtain ⟨_, e⟩ := t.writeCell_k n l x; rw [e]
  | zrow j i => obtain ⟨_, e⟩ := t.writeCell_zrow j i x; rw [e]
  | v | h | commit => rfl

theorem Team.writeAll_eq (t : Team) (rs : List Result) : t.writeAll rs =
    { t with
      s := (t.writeAll rs).s, v := (t.writeAll rs).v, k := (t.writeAll rs).k, h := (t.writeAll rs).h
      z := (t.writeAll rs).z } := by
  induction rs generalizing t with
  | nil => rfl
  | cons r rs ih =>
    have first := t.writeCell_eq r.cell (r.val.getD 0)
    have others := ih (t.writeCell r.cell (r.val.getD 0))
    change (t.writeCell r.cell (r.val.getD 0)).writeAll rs = _
    unfold Team.writeAll at others ⊢
    rw [List.foldl_cons]
    generalize t.writeCell r.cell (r.val.getD 0) = u at first others ⊢
    generalize rs.foldl _ u = w at others ⊢
    rw [first] at others
    exact others

theorem Team.settle_eq (t : Team) : t.settle = { t with sched := t.settle.sched } := by
  unfold Team.settle
  split_ifs <;> rfl

/-- A parked team with nothing outstanding and no fatal fault settles as ready. -/
theorem Team.settle_parked {t : Team} (hs : t.sched = .parked) (hp : t.pend = []) (hf : t.fatal = []) :
    t.settle.sched = .ready := by
  simp [Team.settle, hs, hp, hf]

/-! ## A register after the writes of a list

`hit` names the cells that a reading `p` of the team depends on. -/

section
variable {α : Type} {p : Team → α} {hit : Cell → Prop}

/-- A reading that no result of the list touches stays. -/
theorem Team.writeAll_other (keep : ∀ (t : Team) c x, ¬ hit c → p (t.writeCell c x) = p t) (t : Team) {rs : List Result}
    (h : ∀ r ∈ rs, ¬ hit r.cell) : p (t.writeAll rs) = p t := by
  induction rs generalizing t with
  | nil => rfl
  | cons r rs ih =>
    obtain ⟨hr, hrs⟩ := List.forall_mem_cons.1 h
    exact (ih (t.writeCell r.cell (r.val.getD 0)) hrs).trans (keep t _ _ hr)

/-- A reading that one result alone touches is that result's value. -/
theorem Team.writeAll_only {val : BitVec 1024 → α} (keep : ∀ (t : Team) c x, ¬ hit c → p (t.writeCell c x) = p t)
    (set : ∀ (t : Team) c x, hit c → p (t.writeCell c x) = val x) (t : Team) {rs : List Result} {r : Result} (hm : r ∈ rs)
    (hr : hit r.cell) (only : ∀ y ∈ rs, hit y.cell → y = r) : p (t.writeAll rs) = val (r.val.getD 0) := by
  induction rs generalizing t with
  | nil => cases hm
  | cons y rs ih =>
    obtain ⟨hy, hys⟩ := List.forall_mem_cons.1 only
    by_cases hmem : r ∈ rs
    · exact ih (t.writeCell y.cell (y.val.getD 0)) hmem hys
    · obtain rfl : r = y := (List.mem_cons.1 hm).resolve_right hmem
      have last : ∀ z ∈ rs, ¬ hit z.cell := fun z hz hh => hmem (hys z hz hh ▸ hz)
      exact (Team.writeAll_other keep (t.writeCell r.cell (r.val.getD 0)) last).trans (set t _ _ hr)
end

/-! ## One write, register by register -/

theorem Team.sreg_writeCell_same (t : Team) {n : Nat} (x : BitVec 1024) (hn : n ≠ 0) :
    (t.writeCell (.s n) x).sreg n = x.setWidth 64 := by
  simp [Team.writeCell, Team.sreg, hn]

theorem Team.sreg_writeCell_other (t : Team) {n : Nat} {c : Cell} (x : BitVec 1024) (h : c ≠ .s n) :
    (t.writeCell c x).sreg n = t.sreg n := by
  cases c with
  | s m =>
    have hm : n ≠ m := fun e => h (e ▸ rfl)
    by_cases h0 : m = 0 <;> simp [Team.writeCell, Team.sreg, h0, Tab.getD_put_other _ _ _ _ hm]
  | k m l => obtain ⟨_, e⟩ := t.writeCell_k m l x; rw [e]; rfl
  | zrow j i => obtain ⟨_, e⟩ := t.writeCell_zrow j i x; rw [e]; rfl
  | v | h | commit => rfl

theorem Team.hreg_writeCell_same (t : Team) (n : Nat) (x : BitVec 1024) :
    (t.writeCell (.h n) x).hreg n = x.setWidth 512 := by
  simp [Team.writeCell, Team.hreg]

theorem Team.hreg_writeCell_other (t : Team) {n : Nat} {c : Cell} (x : BitVec 1024) (h : c ≠ .h n) :
    (t.writeCell c x).hreg n = t.hreg n := by
  cases c with
  | h m => exact Tab.getD_put_other _ _ _ _ fun e => h (e ▸ rfl)
  | s m => obtain ⟨_, e⟩ := t.writeCell_s m x; rw [e]; rfl
  | k m l => obtain ⟨_, e⟩ := t.writeCell_k m l x; rw [e]; rfl
  | zrow j i => obtain ⟨_, e⟩ := t.writeCell_zrow j i x; rw [e]; rfl
  | v | commit => rfl

/-- A cell of the lane that key `r * 1024 + l` stands for. -/
def Cell.atLane (r l : Nat) (c : Cell) : Prop := ∃ r' l', c = .v r' l' ∧ r' * 1024 + l' = r * 1024 + l

theorem Team.vreg_writeCell_same (t : Team) {r l : Nat} {c : Cell} (x : BitVec 1024) (h : c.atLane r l) :
    (t.writeCell c x).vreg r l = x.setWidth 32 := by
  obtain ⟨r', l', rfl, e⟩ := h
  simp [Team.writeCell, Team.vreg, e]

theorem Team.vreg_writeCell_other (t : Team) {r l : Nat} {c : Cell} (x : BitVec 1024) (h : ¬ c.atLane r l) :
    (t.writeCell c x).vreg r l = t.vreg r l := by
  cases c with
  | v r' l' => exact Tab.getD_put_other _ _ _ _ fun e => h ⟨r', l', rfl, e.symm⟩
  | s m => obtain ⟨_, e⟩ := t.writeCell_s m x; rw [e]; rfl
  | k m l => obtain ⟨_, e⟩ := t.writeCell_k m l x; rw [e]; rfl
  | zrow j i => obtain ⟨_, e⟩ := t.writeCell_zrow j i x; rw [e]; rfl
  | h | commit => rfl

/-- A bit of the mask with one lane. -/
theorem getLsbD_laneMask {i : Nat} (l : Nat) (hi : i < 1024) : (laneMask l).getLsbD i = decide (l = i) := by
  unfold laneMask
  rw [BitVec.getLsbD_ofNat, Nat.testBit_two_pow, decide_eq_true hi, Bool.true_and]

/-- What a write leaves of a k-register other than k0. -/
theorem Team.kreg_writeCell (t : Team) {n : Nat} (l : Nat) (x : BitVec 1024) (hn : n ≠ 0) :
    (t.writeCell (.k n l) x).kreg n = if x.getLsbD 0 then t.kreg n ||| laneMask l else t.kreg n &&& ~~~ laneMask l := by
  simp only [Team.writeCell, Team.kreg, hn, if_false, Tab.getD_put_same]

theorem Team.kbit_writeCell_same (t : Team) {n l : Nat} (x : BitVec 1024) (hn : n ≠ 0) (hl : l < 1024) :
    ((t.writeCell (.k n l) x).kreg n).getLsbD l = x.getLsbD 0 := by
  rw [Team.kreg_writeCell t l x hn]
  cases x.getLsbD 0 <;> simp only [if_true, if_false, Bool.false_eq_true, BitVec.getLsbD_or, BitVec.getLsbD_and,
    BitVec.getLsbD_not, getLsbD_laneMask l hl, decide_true, Bool.not_true, Bool.and_false, Bool.or_true]

theorem Team.kbit_writeCell_other (t : Team) {n l : Nat} {c : Cell} (x : BitVec 1024) (h : c ≠ .k n l) :
    ((t.writeCell c x).kreg n).getLsbD l = (t.kreg n).getLsbD l := by
  by_cases hl : l < 1024
  case neg => rw [BitVec.getLsbD_of_ge _ _ (by omega), BitVec.getLsbD_of_ge _ _ (by omega)]
  cases c with
  | k m i =>
    by_cases h0 : m = 0
    · simp only [Team.writeCell, h0, if_true]
    by_cases hm : n = m
    · subst hm
      have hi : i ≠ l := fun e => h (e ▸ rfl)
      rw [Team.kreg_writeCell t i x h0]
      cases x.getLsbD 0 <;> simp only [if_true, if_false, Bool.false_eq_true, BitVec.getLsbD_or, BitVec.getLsbD_and,
        BitVec.getLsbD_not, getLsbD_laneMask i hl, hi, hl, decide_true, decide_false, Bool.not_false, Bool.and_true,
        Bool.or_false]
    · simp only [Team.writeCell, h0, if_false, Team.kreg, Tab.getD_put_other _ _ _ _ hm]
  | s m => obtain ⟨_, e⟩ := t.writeCell_s m x; rw [e]; rfl
  | zrow j i => obtain ⟨_, e⟩ := t.writeCell_zrow j i x; rw [e]; rfl
  | v | h | commit => rfl

/-- A run of keys from `b`, written one by one. -/
theorem Tab.getD_putRun {α : Type} (f : Nat → α) (b n : Nat) (z : Tab α) (k : Nat) (d : α) :
    Tab.getD ((List.range n).foldl (fun z c => Tab.put z (b + c) (f c)) z) k d =
      if b ≤ k ∧ k < b + n then f (k - b) else Tab.getD z k d := by
  induction n with
  | zero => rw [if_neg (by omega)]; rfl
  | succ n ih =>
    rw [List.range_succ, List.foldl_append, List.foldl_cons, List.foldl_nil]
    by_cases h : k = b + n
    · subst h
      rw [Tab.getD_put_same, if_pos (by omega), Nat.add_sub_cancel_left]
    · rw [Tab.getD_put_other _ _ _ _ h, ih]
      exact if_congr (by omega) rfl rfl

/-- A cell of the accumulator row that starts at key `j * 1024 + i * 32`. -/
def Cell.atRow (j i : Nat) (c : Cell) : Prop := ∃ j' i', c = .zrow j' i' ∧ j' * 1024 + i' * 32 = j * 1024 + i * 32

theorem Team.zelem_writeCell_same (t : Team) {j i c : Nat} {d : Cell} (x : BitVec 1024) (hc : c < 32) (h : d.atRow j i) :
    (t.writeCell d x).zelem j i c = rowElem x c := by
  obtain ⟨j', i', rfl, e⟩ := h
  unfold Team.writeCell Team.zelem
  rw [Tab.getD_putRun, if_pos (by omega), e, Nat.add_sub_cancel_left]

/-- Rows start at multiples of 32, so that two of them meet only where they are one. -/
theorem Team.zelem_writeCell_other (t : Team) {j i c : Nat} {d : Cell} (x : BitVec 1024) (hc : c < 32) (h : ¬ d.atRow j i) :
    (t.writeCell d x).zelem j i c = t.zelem j i c := by
  cases d with
  | zrow j' i' =>
    have hne : j' * 1024 + i' * 32 ≠ j * 1024 + i * 32 := fun e => h ⟨j', i', rfl, e⟩
    unfold Team.writeCell Team.zelem
    rw [Tab.getD_putRun, if_neg (by omega)]
  | s m => obtain ⟨_, e⟩ := t.writeCell_s m x; rw [e]; rfl
  | k m l => obtain ⟨_, e⟩ := t.writeCell_k m l x; rw [e]; rfl
  | v | h | commit => rfl

/-! ## REGISTER_RESULT_RETURN -/

/-- A result that a return of an identity writes: it has come, and its lane, if it has one, is named. -/
def Result.returns (uid : Nat) (lanes : Mask) (r : Result) : Bool :=
  r.uid == uid && r.val.isSome && r.cell.lane.elim true lanes.getLsbD

/-- The team that a return leaves. -/
def Team.returned (t : Team) (uid : Nat) (lanes : Mask) : Team :=
  ({ t.writeAll (t.pend.filter (Result.returns uid lanes)) with pend := t.pend.filter fun r => !r.returns uid lanes }).settle

/-- In a block that runs with no freeze asked of it and no single step, a return changes its team and nothing else. -/
theorem exec_registerResultReturn {s : State} {ctx : Nat} {t : Team} {b : Block} (uid : Nat) (lanes : Mask)
    (ht : Tab.get? s.teams ctx = some t) (hb : s.blockOf? ctx = some b) (hp : b.place = .running) (hs : b.stepping = none) :
    exec (.registerResultReturn ctx uid lanes) s = .next (s.setTeam ctx (t.returned uid lanes)) := by
  have hev : ∀ u, (s.setTeam ctx u).afterEvent ctx = s.setTeam ctx u := fun u =>
    State.afterEvent_running (by rw [State.setTeam_blockOfQ]; exact hb) hp hs
  show execRegisterResultReturn ctx uid lanes s = _
  unfold execRegisterResultReturn
  rw [ht]
  dsimp only
  rw [hev, ite_self]
  rfl

theorem Team.returned_eq (t : Team) (uid : Nat) (lanes : Mask) : t.returned uid lanes =
    { t.writeAll (t.pend.filter (Result.returns uid lanes)) with
      pend := t.pend.filter fun r => !r.returns uid lanes, sched := (t.returned uid lanes).sched } :=
  Team.settle_eq _

section
variable {α : Type} {p : Team → α} {hit : Cell → Prop} {uid : Nat} {lanes : Mask}

/-- A reading of registers that no returning result touches stays. -/
theorem Team.returned_other (frame : ∀ (t : Team) pend sched, p { t with pend, sched } = p t)
    (keep : ∀ (t : Team) c x, ¬ hit c → p (t.writeCell c x) = p t) {t : Team}
    (h : ∀ x ∈ t.pend, x.returns uid lanes = true → ¬ hit x.cell) : p (t.returned uid lanes) = p t := by
  rw [Team.returned_eq, frame]
  refine Team.writeAll_other keep t fun r hr => ?_
  obtain ⟨hm, hn⟩ := List.mem_filter.1 hr
  exact h r hm hn

/-- A reading of registers that one returning result alone touches is that result's value. -/
theorem Team.returned_only {val : BitVec 1024 → α} (frame : ∀ (t : Team) pend sched, p { t with pend, sched } = p t)
    (keep : ∀ (t : Team) c x, ¬ hit c → p (t.writeCell c x) = p t) (set : ∀ (t : Team) c x, hit c → p (t.writeCell c x) = val x)
    {t : Team} {r : Result} (hm : r ∈ t.pend) (hn : r.returns uid lanes = true) (hr : hit r.cell)
    (only : ∀ y ∈ t.pend, y.returns uid lanes = true → hit y.cell → y = r) :
    p (t.returned uid lanes) = val (r.val.getD 0) := by
  rw [Team.returned_eq, frame]
  refine Team.writeAll_only keep set t (List.mem_filter.2 ⟨hm, hn⟩) hr fun y hy => ?_
  obtain ⟨hm', hn'⟩ := List.mem_filter.1 hy
  exact only y hm' hn'
end

/-- A return changes registers, what is owed and the scheduling state. -/
theorem Team.returned_frame (t : Team) (uid : Nat) (lanes : Mask) : t.returned uid lanes =
    { t with
      pend := t.pend.filter fun r => !r.returns uid lanes, sched := (t.returned uid lanes).sched
      s := (t.returned uid lanes).s, v := (t.returned uid lanes).v, k := (t.returned uid lanes).k
      h := (t.returned uid lanes).h, z := (t.returned uid lanes).z } := by
  have h := t.returned_eq uid lanes
  have w := t.writeAll_eq (t.pend.filter (Result.returns uid lanes))
  generalize t.returned uid lanes = u at h ⊢
  generalize t.writeAll (t.pend.filter (Result.returns uid lanes)) = y at h w
  rw [w] at h
  rw [h]

/-- A parked team with no fatal fault to take that owes nothing more is ready. -/
theorem Team.returned_ready {t : Team} {uid : Nat} {lanes : Mask} (hs : t.sched = .parked) (hf : t.fatal = [])
    (hp : (t.returned uid lanes).pend = []) : (t.returned uid lanes).sched = .ready := by
  rw [Team.returned_eq] at hp
  have w := t.writeAll_eq (t.pend.filter (Result.returns uid lanes))
  exact Team.settle_parked (by rw [w]; exact hs) hp (by rw [w]; exact hf)

/-- Settles O21: each register reads what the one returning result for it says, and what it held where there is none. -/
theorem resultsReturn : Obligations.ResultsReturn := by
  unfold Obligations.ResultsReturn
  intro s ctx uid lanes t b ht hb hp hs now
  refine ⟨_, exec_registerResultReturn uid lanes ht hb hp hs, OnlyTeam.setTeam s ctx _, ?_⟩
  rw [State.team_setTeam]
  refine ⟨t.returned_frame uid lanes, rfl, ?_, ?_, ?_, ?_, ?_, ?_, ?_, ?_, ?_, ?_, Team.returned_ready⟩
  · intro n
    exact Team.returned_other (p := (·.sreg n)) (hit := (· = .s n)) (fun _ _ _ => rfl)
      fun t _ x h => t.sreg_writeCell_other x h
  · intro r l h
    exact Team.returned_other (p := (·.vreg r l)) (hit := Cell.atLane r l) (fun _ _ _ => rfl)
      (fun t _ x h => t.vreg_writeCell_other x h) fun x hx hn ⟨r', l', hc, e⟩ => h x hx hn r' l' hc e
  · intro n l
    exact Team.returned_other (p := fun t => (t.kreg n).getLsbD l) (hit := (· = .k n l)) (fun _ _ _ => rfl)
      fun t _ x h => t.kbit_writeCell_other x h
  · intro n
    exact Team.returned_other (p := (·.hreg n)) (hit := (· = .h n)) (fun _ _ _ => rfl)
      fun t _ x h => t.hreg_writeCell_other x h
  · intro j i c hc h
    exact Team.returned_other (p := (·.zelem j i c)) (hit := Cell.atRow j i) (fun _ _ _ => rfl)
      (fun t _ x h => t.zelem_writeCell_other x hc h) fun x hx hn ⟨j', i', hz, e⟩ => h x hx hn j' i' hz e
  · intro x hx hn n hc h0 only
    exact Team.returned_only (p := (·.sreg n)) (hit := (· = .s n)) (val := (·.setWidth 64)) (fun _ _ _ => rfl)
      (fun t _ x h => t.sreg_writeCell_other x h) (fun t _ x h => h ▸ t.sreg_writeCell_same x h0) hx hn hc only
  · intro x hx hn n hc only
    exact Team.returned_only (p := (·.hreg n)) (hit := (· = .h n)) (val := (·.setWidth 512)) (fun _ _ _ => rfl)
      (fun t _ x h => t.hreg_writeCell_other x h) (fun t _ x h => h ▸ t.hreg_writeCell_same n x) hx hn hc only
  · intro x hx hn n l hc h0 hl only
    exact Team.returned_only (p := fun t => (t.kreg n).getLsbD l) (hit := (· = .k n l)) (val := (·.getLsbD 0))
      (fun _ _ _ => rfl) (fun t _ x h => t.kbit_writeCell_other x h)
      (fun t _ x h => h ▸ t.kbit_writeCell_same x h0 hl) hx hn hc only
  · intro x hx hn r l hc only
    exact Team.returned_only (p := (·.vreg r l)) (hit := Cell.atLane r l) (val := (·.setWidth 32)) (fun _ _ _ => rfl)
      (fun t _ x h => t.vreg_writeCell_other x h) (fun t _ x h => t.vreg_writeCell_same x h) hx hn ⟨r, l, hc, rfl⟩
      fun y hy hn' ⟨r', l', hc', e⟩ => only y hy hn' r' l' hc' e
  · intro x hx hn j i c hz hc only
    exact Team.returned_only (p := (·.zelem j i c)) (hit := Cell.atRow j i) (val := (rowElem · c)) (fun _ _ _ => rfl)
      (fun t _ x h => t.zelem_writeCell_other x hc h) (fun t _ x h => t.zelem_writeCell_same x hc h) hx hn ⟨j, i, hz, rfl⟩
      fun y hy hn' ⟨j', i', hz', e⟩ => only y hy hn' j' i' hz' e

end Sys2Proof.Machine
end


section
/-! SUPPORT. An issue whose own part traps or stays at its instruction (spec/03_execution.md R43; spec/13_preemption.md R276). -/

namespace Sys2Proof.Machine

section
variable {s : State} {ctx : Nat} {i : Instr} {body : Nat → Issued}

/-- One of an entry's own checks fails. -/
theorem State.trapsWith_of_body {c : Cause} {addr : Word64} (he : exec i s = s.atIssue i body) (hr : s.Runs ctx)
    (hp : s.Passes ctx i) (hb : body ctx = .trap c addr) : s.TrapsWith ctx i c addr := by
  unfold State.TrapsWith
  rw [he, State.atIssue_next body hr hp, hb]
  rfl

/-- An instruction at which the team stays, in a block that goes on running. -/
theorem State.stays_of_body {s' v : State} (he : exec i s = s.atIssue i body) (hr : s.Runs ctx) (hp : s.Passes ctx i)
    (hb : body ctx = .stay v) (ho : OnlyTeam s' v ctx) (hs : s'.blockOf? ctx = s.blockOf? ctx) :
    s.Stays ctx i s' (v.team ctx) := by
  have hnext := State.atIssue_next body hr hp
  obtain ⟨_, _, b, hbk, hplace, hstep⟩ := hr
  have hblock : ({ v with pairSecond := none, pairMark := false } : State).blockOf? ctx = some b :=
    (ho.blockOf ctx).trans (hs.trans hbk)
  rw [hb] at hnext
  refine ⟨_, he.trans hnext, ?_⟩
  change OnlyTeam s' (State.afterIssue { v with pairSecond := none, pairMark := false } ctx) ctx ∧
    (State.afterIssue { v with pairSecond := none, pairMark := false } ctx).team ctx = v.team ctx
  rw [State.afterIssue_running hblock hplace hstep]
  exact ⟨(ho.trans (OnlyTeam.pair v ctx none false)).trans (OnlyTeam.noteLast _ ctx _ _), rfl⟩
end

/-! ## Special registers (R55) -/

/-- What each number reads, in the order of R55's table. -/
theorem State.special_table {s : State} {ctx : Nat} {b : Block} (hb : s.blockOf? ctx = some b) (lane : Nat) :
    (List.range 27).map (fun k => s.special ctx k lane) =
      [lane, teamIx ctx, b.teams, b.index.toNat,
        ((s.queue b.queue).launches.find? fun l => l.seq == b.seq).elim 0 (·.pkt.blocks), b.width, b.span,
        b.lcore, b.core, colOf b.core % 24, dieOf b.core, s.cyclesOf (colOf b.core), s.time, (s.team ctx).mode.toNat,
        b.params.toNat, b.spbase, b.preq, (s.team ctx).bell.toNat, b.cls, b.queue, b.asid, (s.core b.core).nt.toNat,
        (s.team ctx).gangs.toNat, 0, (s.core b.core).temp.toNat, (s.team ctx).faultpc.toNat, s.trapRec ctx] := by
  rw [show List.range 27 = [0, 1, 2, 3, 4, 5, 6, 7, 8, 9, 10, 11, 12, 13, 14, 15, 16, 17, 18, 19, 20, 21, 22, 23, 24, 25, 26]
    from rfl]
  simp only [List.map_cons, List.map_nil, State.special, hb, State.colOfCtx, State.coreOf, Option.elim_some]

/-- The trap record's address is read in a handler, and not by the debug monitor. -/
theorem State.trapRec_of_block {s : State} {ctx : Nat} {b : Block} (hb : s.blockOf? ctx = some b) : s.trapRec ctx =
    if (s.team ctx).handler = true ∧ b.monitor = false then s.frameVA (frameOf ctx) (trapArea (teamIx ctx)) else 0 := by
  simp only [State.trapRec, hb, Option.elim_some, Bool.and_eq_true, Bool.not_eq_true']

section
variable {s : State} {ctx : Nat} {f : SF}

/-- SREAD of a number that R55 lists, LANE apart, into an s-register. -/
theorem State.gives_sread (hr : s.Runs ctx) (hp : s.Passes ctx (.sread f)) (hn : srNumber f < 27) (h0 : srNumber f ≠ 0) :
    s.Gives ctx (.sread f) (scalarWrite f.sd.toNat (BitVec.ofNat 64 (s.special ctx (srNumber f) 0))) := by
  have hok : ¬ (27 ≤ srNumber f ∨ srNumber f = 0) := by omega
  refine State.gives_scalar rfl hr hp ?_
  rw [← ofNat_mod_widen]
  exact if_neg hok

theorem State.trapsWith_sread (hr : s.Runs ctx) (hp : s.Passes ctx (.sread f)) (hn : 27 ≤ srNumber f ∨ srNumber f = 0) :
    s.TrapsWith ctx (.sread f) Cause.badreg 0 :=
  State.trapsWith_of_body rfl hr hp (if_pos hn)

theorem State.trapsWith_sreadV (hr : s.Runs ctx) (hp : s.Passes ctx (.sreadV f)) (hn : 27 ≤ srNumber f) :
    s.TrapsWith ctx (.sreadV f) Cause.badreg 0 :=
  State.trapsWith_of_body rfl hr hp (if_pos hn)

/-- A result of one v-register in the lanes of the execution mask below the width. -/
theorem State.gives_vector {i : Instr} {body : Nat → Issued} {w : Cell → Option (BitVec 1024)} {r : Nat} {x : Nat → Nat}
    (he : exec i s = s.atIssue i body) (hr : s.Runs ctx) (hp : s.Passes ctx i)
    (hb : body ctx = s.results ctx ((lanesOf (s.widthOf ctx) (s.team ctx).exec).map fun l =>
      (.v r l, some (BitVec.ofNat 1024 (x l)))))
    (on : ∀ l, l < s.widthOf ctx → (s.team ctx).exec.getLsbD l = true → w (.v r l) = some (BitVec.ofNat 1024 (x l)))
    (only : ∀ c v, w c = some v → ∃ l, c = .v r l ∧ l < s.widthOf ctx ∧ (s.team ctx).exec.getLsbD l = true) :
    s.Gives ctx i w := by
  apply State.gives_of_results he hr hp hb
  · intro c v h
    obtain ⟨l, hl, he⟩ := List.mem_map.1 h
    obtain ⟨rfl, rfl⟩ := Prod.mk.inj he
    obtain ⟨hw, hx⟩ := List.mem_filter.1 hl
    exact ⟨on l (List.mem_range.1 hw) hx, rfl⟩
  · intro c v h
    obtain ⟨l, rfl, hw, hx⟩ := only c v h
    obtain rfl : BitVec.ofNat 1024 (x l) = v := Option.some.inj ((on l hw hx).symm.trans h)
    exact List.mem_map.2 ⟨l, List.mem_filter.2 ⟨List.mem_range.2 hw, hx⟩, rfl⟩

/-- A result of one h-register. -/
theorem State.gives_shape {i : Instr} {body : Nat → Issued} {n : Nat} {x : BitVec 1024} (he : exec i s = s.atIssue i body)
    (hr : s.Runs ctx) (hp : s.Passes ctx i) (hb : body ctx = s.results ctx [(.h n, some x)]) :
    s.Gives ctx i fun c => if c = .h n then some x else none := by
  apply State.gives_of_results he hr hp hb
  · intro c v h
    obtain ⟨rfl, rfl⟩ := Prod.mk.inj (List.mem_singleton.1 h)
    exact ⟨if_pos rfl, rfl⟩
  · intro c v h
    split_ifs at h with hc
    exact List.mem_singleton.2 (Prod.ext hc h.symm)
end

/-- Settles O10: each form by the shape of its results, and R55's table by the model's reading of one number. -/
theorem specialRegisterReads : Obligations.SpecialRegisterReads := by
  unfold Obligations.SpecialRegisterReads
  intro s ctx f hr n
  refine ⟨State.gives_sread hr, State.trapsWith_sread hr, fun hp hn => ?_, State.trapsWith_sreadV hr,
    fun hp => State.gives_shape rfl hr hp rfl, fun b lane hb => ?_⟩
  · refine State.gives_vector (r := (f.imm.extractLsb' 13 10).toNat) (x := fun l => s.special ctx n l % 2 ^ 32) rfl hr hp
      (if_neg (Nat.not_le.2 hn)) (fun l hw hx => if_pos ⟨rfl, hw, hx⟩) fun c v h => ?_
    cases c with
    | v r l =>
      dsimp only at h
      split_ifs at h with hc
      obtain ⟨rfl, hw, hx⟩ := hc
      exact ⟨l, rfl, hw, hx⟩
    | s | k | h | zrow | commit => cases h
  · dsimp only
    rw [State.special_table hb, State.trapRec_of_block hb]
    rfl

end Sys2Proof.Machine
end

section
/-! SUPPORT. Gangs: what an announced change or arrival makes of the gang, its phase and the teams that it lets go on
(spec/03_execution.md R51 to R53; spec/17_ref_evpop_sxor.md R378 to R380). -/

namespace Sys2Proof.Machine

/-! ## At issue -/

/-- A membership change at issue: BADCTL for a control team, else the announcement and the wait (R379). -/
theorem State.gangChange_issues {s : State} {ctx : Nat} {i : Instr} {body : Nat → Issued} {a : Ann}
    (he : exec i s = s.atIssue i body) (hr : s.Runs ctx) (hp : s.Passes ctx i) (hb : body ctx = s.gangChange ctx i a) :
    if s.isControl ctx = true then s.TrapsWith ctx i Cause.badctl 0
    else s.Stays ctx i (s.announce (s.dieOfCtx ctx) a) ((s.team ctx).waitsFor .gangChange i) := by
  unfold State.gangChange at hb
  by_cases hc : s.isControl ctx = true
  · rw [if_pos hc] at hb ⊢
    exact State.trapsWith_of_body he hr hp hb
  · rw [if_neg hc] at hb ⊢
    have h := State.stays_of_body he hr hp hb (OnlyTeam.setTeam (s.announce (s.dieOfCtx ctx) a) ctx _) rfl
    unfold State.waitAt at h
    rwa [State.team_setTeam] at h

/-- GBAR at issue: a member's arrival, a release, is queued and the team waits for the phase (R379, R380). -/
theorem State.gbar_issues {s : State} {ctx : Nat} {f : XF} (hr : s.Runs ctx) (hp : s.Passes ctx (.gbar f)) :
    let t := s.team ctx
    let g := t.gangOf f.s1
    if s.isControl ctx = true then s.TrapsWith ctx (.gbar f) Cause.badctl 0
    else if t.gangs.getLsbD g = true then ∃ item : LsItem, item.work = .gbar g ∧ item.rel = true ∧ item.ent = 0 ∧
      s.Stays ctx (.gbar f) s ({ t with lsq := t.lsq ++ [item] }.waitsFor (.gbar g false) (.gbar f))
    else s.TrapsWith ctx (.gbar f) Cause.gangnot 0 := by
  intro t g
  have he : exec (.gbar f) s = execGbar f s := rfl
  unfold execGbar at he
  by_cases hc : s.isControl ctx = true
  · rw [if_pos hc]
    exact State.trapsWith_of_body he hr hp (if_pos hc)
  rw [if_neg hc]
  by_cases hg : t.gangs.getLsbD g = true
  · rw [if_pos hg]
    have hin : ¬ (!t.gangs.getLsbD g) = true := by simp [hg]
    refine ⟨{ uid := s.uid, ent := 0, work := .gbar g, rel := true }, rfl, rfl, rfl, ?_⟩
    have h := State.stays_of_body he hr hp ((if_neg hc).trans (if_neg hin))
      (((OnlyTeam.setTeam s ctx _).trans (OnlyTeam.bumpUid _ ctx)).trans (OnlyTeam.setTeam _ ctx _)) rfl
    unfold State.waitAt at h
    rwa [State.team_setTeam, State.bumpUid_team, State.team_setTeam] at h
  · rw [if_neg hg]
    exact State.trapsWith_of_body he hr hp ((if_neg hc).trans (if_pos (by simpa using hg)))

/-! ## Blocks that go on running -/

/-- The team at the next slot after a wait, parked if its word carries a marker and results are out (R43). -/
def Team.released (t : Team) : Team :=
  Team.mark { t with sched := .ready, pc := nextPc t.pc, waitWord := 0 } (t.waitWord.getLsbD 87)

/-- The context's block runs with no single step, and a barrier boundary would not shed it (R54, R56, R319). -/
def State.Calm (s : State) (ctx : Nat) : Prop :=
  ∃ b, s.blockOf? ctx = some b ∧ b.place = .running ∧ b.stepping = none ∧
    (s.power.shed.getLsbD b.cls = false ∨ b.ctrl = true ∨ b.monitor = true)

theorem State.Calm.congr {s u : State} {ctx : Nat} (h : s.Calm ctx) (hb : u.blocks = s.blocks) (hp : u.power = s.power) :
    u.Calm ctx := by
  unfold State.Calm State.blockOf? State.block? at *
  rwa [hb, hp]

/-- A block's class taking effect disturbs no block. -/
theorem State.Calm.takeClass {s : State} {ctx c : Nat} {b : Block} (h : s.Calm c) (hb : s.blockOf? ctx = some b) :
    (s.setBlock (frameOf ctx) { b with clsEff := b.cls }).Calm c := by
  obtain ⟨d, hd, hplace, hstep, hshed⟩ := h
  unfold State.blockOf? at hb hd
  by_cases e : frameOf c = frameOf ctx
  · obtain rfl : d = b := Option.some.inj (hd.symm.trans (e ▸ hb))
    refine ⟨{ d with clsEff := d.cls }, ?_, hplace, hstep, hshed⟩
    unfold State.blockOf?
    rw [e, State.block_setBlock]
  · refine ⟨d, ?_, hplace, hstep, hshed⟩
    unfold State.blockOf?
    rwa [State.block_setBlock_other _ _ e]

/-- A barrier boundary in such a block makes its class take effect, and nothing else. -/
theorem State.Calm.boundary {s : State} {ctx : Nat} (h : s.Calm ctx) : ∃ b, s.blockOf? ctx = some b ∧
    s.boundary ctx true = s.setBlock (frameOf ctx) { b with clsEff := b.cls } := by
  obtain ⟨b, hb, hplace, _, hshed⟩ := h
  refine ⟨b, hb, ?_⟩
  have hf : s.block? (frameOf ctx) = some b := hb
  have hstay : ¬ (s.power.shed.getLsbD b.cls = true ∧ (!b.ctrl) = true ∧ (!b.monitor) = true) := by
    rcases hshed with h | h | h <;> simp [h]
  have hclass : s.takeClass (frameOf ctx) = s.setBlock (frameOf ctx) { b with clsEff := b.cls } := by
    unfold State.takeClass
    rw [hf]
    exact if_neg hstay
  unfold State.boundary
  simp only [if_true, hclass, State.block_setBlock, hplace, reduceCtorEq, false_and, if_false]

theorem State.Calm.gangDone {s : State} {ctx : Nat} (h : s.Calm ctx) :
    s.gangDone ctx = s.setTeam ctx (s.team ctx).released := by
  obtain ⟨b, hb, hplace, hstep, _⟩ := h
  exact State.afterEvent_running (s := s.setTeam ctx (s.team ctx).released) hb hplace hstep

/-- With no fatal fault to take first, the end of a wait is an instruction boundary of the team that goes on. -/
theorem State.endWait_noFault {s : State} {ctx : Nat} (barrier : Bool) (h : (s.team ctx).fatal = []) :
    s.endWait ctx barrier = (s.setTeam ctx (s.team ctx).released).boundary ctx barrier :=
  if_neg (by simp [h])

/-! ## A gang's record -/

@[simp] theorem State.gang_setGang (s : State) (col g : Nat) (x : Gang) : (s.setGang col g x).gang? col g = some x := by
  simp [State.gang?, State.setGang]

/-- A state whose cluster agrees holds the same gangs. -/
theorem State.gang_congr {s u : State} {col : Nat} (h : u.cluster col = s.cluster col) (g : Nat) :
    u.gang? col g = s.gang? col g := by
  unfold State.gang?
  rw [h]

/-! ## Members released (R52) -/

/-- A member that waits in the gang's barrier, in a calm block and with no fatal fault to take first. -/
def State.WaitsAt (s : State) (g ctx : Nat) : Prop :=
  s.Calm ctx ∧ (s.team ctx).fatal = [] ∧ ∃ k, (s.team ctx).sched = .waiting (.gbar g k)

/-- The teams of a list have gone on; no other team and no cluster has changed, and no block has been disturbed. -/
structure State.Released (s u : State) (l : List Nat) : Prop where
  freed : ∀ c ∈ l, u.team c = (s.team c).released
  others : ∀ c, c ∉ l → u.team c = s.team c
  cluster : ∀ k, u.cluster k = s.cluster k
  calm : ∀ c, s.Calm c → u.Calm c

theorem State.WaitsAt.releaseMember {s : State} {g ctx : Nat} (h : s.WaitsAt g ctx) :
    s.Released (s.releaseMember g ctx) [ctx] := by
  obtain ⟨hcalm, hfatal, k, hsched⟩ := h
  have hc : ∀ c, s.Calm c → (s.setTeam ctx (s.team ctx).released).Calm c := fun c h => h.congr rfl rfl
  obtain ⟨b, hb, hboundary⟩ := (hc ctx hcalm).boundary
  have hrelease : s.releaseMember g ctx =
      (s.setTeam ctx (s.team ctx).released).setBlock (frameOf ctx) { b with clsEff := b.cls } := by
    rw [← hboundary, ← State.endWait_noFault true hfatal]
    unfold State.releaseMember
    simp only [hsched, if_true]
  rw [hrelease]
  refine ⟨fun c hm => ?_, fun c hm => ?_, fun _ => rfl, fun c h => (hc c h).takeClass hb⟩
  · obtain rfl := List.mem_singleton.1 hm
    exact State.team_setTeam _ _ _
  · exact State.team_setTeam_other s _ fun e => hm (List.mem_singleton.2 e)

theorem State.releaseMembers {s : State} {g : Nat} {l : List Nat} (hn : l.Nodup) (h : ∀ c ∈ l, s.WaitsAt g c) :
    s.Released (l.foldl (fun s c => s.releaseMember g c) s) l := by
  induction l generalizing s with
  | nil => exact ⟨fun _ h => (List.not_mem_nil h).elim, fun _ _ => rfl, fun _ => rfl, fun _ h => h⟩
  | cons a l ih =>
    obtain ⟨hal, hl⟩ := List.nodup_cons.1 hn
    obtain ⟨ha, hrest⟩ := List.forall_mem_cons.1 h
    have one := ha.releaseMember
    have same : ∀ c, c ≠ a → (s.releaseMember g a).team c = s.team c := fun c hc =>
      one.others c fun hm => hc (List.mem_singleton.1 hm)
    have more := ih hl (s := s.releaseMember g a) fun c hc => by
      obtain ⟨hcalm, hwait⟩ := hrest c hc
      rw [← same c fun e => hal (e ▸ hc)] at hwait
      exact ⟨one.calm c hcalm, hwait⟩
    rw [List.foldl_cons]
    refine ⟨fun c hc => ?_, fun c hc => ?_, fun k => (more.cluster k).trans (one.cluster k),
      fun c h => more.calm c (one.calm c h)⟩
    · rcases List.mem_cons.1 hc with rfl | hc
      · exact (more.others c hal).trans (one.freed c (List.mem_singleton.2 rfl))
      · rw [more.freed c hc, same c fun e => hal (e ▸ hc)]
    · obtain ⟨hca, hcl⟩ := not_or.1 (mt List.mem_cons.2 hc)
      exact (more.others c hcl).trans (same c hca)

/-! ## The end of a phase (R52) -/

/-- A phase that still waits for arrivals stays open. -/
theorem State.closePhase_open {s : State} {col g : Nat} {x : Gang} (hx : s.gang? col g = some x)
    (h : x.arrived = [] ∨ x.arrived.length ≠ x.members.length) : s.closePhase col g = s := by
  unfold State.closePhase
  rw [hx]
  refine if_neg fun hfull => ?_
  rcases h with h | h
  · simp [h] at hfull
  · exact h hfull.2

/-- A phase that its arrivals fill changes: the count is zero and the members go on. -/
theorem State.closePhase_full {s : State} {col g : Nat} {x : Gang} (hx : s.gang? col g = some x) (hne : x.arrived ≠ [])
    (hlen : x.arrived.length = x.members.length) (hn : x.arrived.Nodup) (h : ∀ c ∈ x.arrived, s.WaitsAt g c) :
    (s.closePhase col g).gang? col g = some { x with arrived := [], phase := !x.phase } ∧
      (∀ c ∈ x.arrived, (s.closePhase col g).team c = (s.team c).released) ∧
      ∀ c, s.Calm c → (s.closePhase col g).Calm c := by
  have hclose : s.closePhase col g = x.arrived.foldl (fun s c => s.releaseMember g c)
      (s.setGang col g { x with phase := !x.phase, arrived := [] }) := by
    unfold State.closePhase
    rw [hx]
    exact if_pos ⟨by simpa using hne, hlen⟩
  have hr := State.releaseMembers (s := s.setGang col g { x with phase := !x.phase, arrived := [] }) hn fun c hc =>
    ⟨(h c hc).1.congr rfl rfl, (h c hc).2⟩
  rw [← hclose] at hr
  exact ⟨(State.gang_congr (hr.cluster col) g).trans (State.gang_setGang s col g _), hr.freed,
    fun c hc => hr.calm c (hc.congr rfl rfl)⟩

/-- An arrival counts once; the last one ends the phase. -/
theorem State.gbarAct_arrives {s : State} {ctx g : Nat} {x : Gang} (hx : s.gang? (s.colOfCtx ctx) g = some x)
    (hm : ctx ∈ x.members) (ha : ctx ∉ x.arrived) : s.gbarAct ctx g =
      (s.setGang (s.colOfCtx ctx) g { x with arrived := x.arrived ++ [ctx] }).closePhase (s.colOfCtx ctx) g := by
  unfold State.gbarAct
  simp [hx, hm, ha]

theorem State.gbarAct_again {s : State} {ctx g : Nat} {x : Gang} (hx : s.gang? (s.colOfCtx ctx) g = some x)
    (ha : ctx ∈ x.arrived) : s.gbarAct ctx g = s := by
  unfold State.gbarAct
  simp [hx, ha]

/-! ## Joins (R51, R379) -/

theorem firstBelow_eq_none {p : Nat → Bool} {n lo : Nat} (h : ∀ i, lo ≤ i → i < lo + n → p i = false) :
    firstBelow n lo p = none := by
  induction n generalizing lo with
  | zero => rfl
  | succ n ih =>
    rw [firstBelow, h lo (Nat.le_refl lo) (by omega)]
    exact ih fun i hl hu => h i (by omega) (by omega)

theorem firstBelow_eq_some {p : Nat → Bool} {n lo g : Nat} (hl : lo ≤ g) (hu : g < lo + n) (hg : p g = true)
    (h : ∀ i, lo ≤ i → i < g → p i = false) : firstBelow n lo p = some g := by
  induction n generalizing lo with
  | zero => omega
  | succ n ih =>
    rw [firstBelow]
    by_cases e : lo = g
    · rw [if_pos (e ▸ hg), e]
    · rw [h lo (Nat.le_refl lo) (by omega)]
      exact ih (by omega) (by omega) fun i hi hlt => h i (by omega) hlt

/-- A team that has joined gang `g`. -/
def Team.joined (t : Team) (g : Nat) : Team := { t with gangs := t.gangs ||| BitVec.ofNat 64 (2 ^ g) }

/-- The gang's record written, and the team a member of it. -/
def State.withMember (s : State) (ctx g : Nat) (x : Gang) : State :=
  (s.setGang (s.colOfCtx ctx) g x).setTeam ctx ((s.team ctx).joined g)

theorem State.withMember_gangDone {s : State} {ctx : Nat} (h : s.Calm ctx) (g : Nat) (x : Gang) :
    ((s.withMember ctx g x).gangDone ctx).gang? (s.colOfCtx ctx) g = some x ∧
      ((s.withMember ctx g x).gangDone ctx).team ctx = ((s.team ctx).joined g).released := by
  have hcalm : (s.withMember ctx g x).Calm ctx := h.congr rfl rfl
  have hteam : (s.withMember ctx g x).team ctx = (s.team ctx).joined g := State.team_setTeam _ _ _
  rw [hcalm.gangDone, hteam, State.team_setTeam]
  exact ⟨State.gang_setGang s _ g x, rfl⟩

section
variable {s : State} {ctx : Nat} (hw : (s.team ctx).sched = .waiting .gangChange)
include hw

/-- A join of a named gang that does not exist forms it. -/
theorem State.gjoinAct_forms {g : Nat} (sd : Nat) (hx : s.gang? (s.colOfCtx ctx) g = none) :
    s.gjoinAct ctx g false sd = (s.withMember ctx g { asid := s.asidOf ctx, members := [ctx] }).gangDone ctx := by
  unfold State.gang? at hx
  refine (if_neg (not_not.2 hw)).trans ((if_neg Bool.false_ne_true).trans ?_)
  rw [hx]
  rfl

/-- What a join of a named gang comes to where it exists. -/
theorem State.gjoinAct_named {g : Nat} {x : Gang} (sd : Nat) (hx : s.gang? (s.colOfCtx ctx) g = some x) :
    s.gjoinAct ctx g false sd =
      if x.asid ≠ s.asidOf ctx then s.gangTrap ctx Cause.gangfull
      else if ctx ∈ x.members then s.gangDone ctx
      else (s.withMember ctx g { x with members := x.members ++ [ctx] }).gangDone ctx := by
  unfold State.gang? at hx
  refine (if_neg (not_not.2 hw)).trans ((if_neg Bool.false_ne_true).trans ?_)
  rw [hx]
  simp only [List.contains_iff_mem]
  rfl

/-- A join of any gang where all 64 exist. -/
theorem State.gjoinAct_full (n sd : Nat) (h : ∀ i < 64, (s.gang? (s.colOfCtx ctx) i).isSome = true) :
    s.gjoinAct ctx n true sd = s.gangTrap ctx Cause.gangfull := by
  have hnone : firstBelow 64 0 (fun i => (Tab.get? (s.cluster (s.colOfCtx ctx)).gangs i).isNone) = none :=
    firstBelow_eq_none fun i _ hi => by
      simpa [State.gang?, Option.isSome_iff_ne_none] using h i (by omega)
  refine (if_neg (not_not.2 hw)).trans ((if_pos rfl).trans ?_)
  rw [hnone]

/-- A join of any gang takes the lowest number that is free. -/
theorem State.gjoinAct_takes {g : Nat} (n sd : Nat) (hg : g < 64) (hx : s.gang? (s.colOfCtx ctx) g = none)
    (h : ∀ i < g, (s.gang? (s.colOfCtx ctx) i).isSome = true) : s.gjoinAct ctx n true sd =
      ((s.withMember ctx g { asid := s.asidOf ctx, members := [ctx] }).setTeam ctx
        (((s.team ctx).joined g).writeNow (.s sd) (BitVec.ofNat 1024 g))).gangDone ctx := by
  have hsome : firstBelow 64 0 (fun i => (Tab.get? (s.cluster (s.colOfCtx ctx)).gangs i).isNone) = some g :=
    firstBelow_eq_some (Nat.zero_le g) (by omega) (by simpa [State.gang?] using hx) fun i _ hi => by
      simpa [State.gang?, Option.isSome_iff_ne_none] using h i hi
  refine (if_neg (not_not.2 hw)).trans ((if_pos rfl).trans ?_)
  rw [hsome]
  dsimp only
  rw [State.team_setTeam]
  rfl

end

/-! ## Leaves (R52, R53, R379) -/

/-- A team that has left gang `g`. -/
def Team.left (t : Team) (g : Nat) : Team := { t with gangs := t.gangs &&& ~~~ BitVec.ofNat 64 (2 ^ g) }

/-- The teams of a list but for one. -/
abbrev exceptFor (ctx : Nat) (l : List Nat) : List Nat := l.filter fun c => c != ctx

/-- The gang without a member and its arrival, or none where the member was the last. -/
def Gang.without (x : Gang) (ctx : Nat) : Option Gang :=
  if exceptFor ctx x.members = [] then none
  else some { x with members := exceptFor ctx x.members, arrived := exceptFor ctx x.arrived }

/-- A gang's record written, or taken away. -/
def State.putGang (s : State) (col g : Nat) : Option Gang → State
  | none => s.setCluster col { s.cluster col with gangs := Tab.del (s.cluster col).gangs g }
  | some x => s.setGang col g x

theorem State.gang_putGang (s : State) (col g : Nat) (y : Option Gang) : (s.putGang col g y).gang? col g = y := by
  cases y with
  | none => simp [State.putGang, State.gang?, Tab.get?_del]
  | some x => exact State.gang_setGang s col g x

theorem State.putGang_teams (s : State) (col g : Nat) (y : Option Gang) : (s.putGang col g y).teams = s.teams := by
  cases y <;> rfl

theorem State.Calm.putGang {s : State} {c : Nat} (h : s.Calm c) (col g : Nat) (y : Option Gang) : (s.putGang col g y).Calm c := by
  cases y <;> exact h.congr rfl rfl

/-- The record as a leave writes it. -/
theorem State.ite_putGang (s : State) (col ctx g : Nat) (x : Gang) :
    (if (exceptFor ctx x.members).isEmpty = true then
      s.setCluster col { s.cluster col with gangs := Tab.del (s.cluster col).gangs g }
    else s.setGang col g
      { x with members := exceptFor ctx x.members, arrived := exceptFor ctx x.arrived }) =
    s.putGang col g (x.without ctx) := by
  unfold Gang.without
  by_cases h : exceptFor ctx x.members = []
  · rw [if_pos h, if_pos (by rw [h]; rfl)]
    rfl
  · rw [if_neg h, if_neg (by simpa using h)]
    rfl

/-- What a leave makes of the gang and its teams before its phase is looked at. -/
structure State.Left (s u : State) (col ctx g : Nat) (x : Gang) : Prop where
  gang : u.gang? col g = x.without ctx
  team : u.team ctx = (s.team ctx).left g
  others : ∀ c, c ≠ ctx → u.team c = s.team c
  calm : ∀ c, s.Calm c → u.Calm c

theorem State.left_putGang (s : State) (col ctx g : Nat) (x : Gang) :
    s.Left ((s.putGang col g (x.without ctx)).setTeam ctx ((s.team ctx).left g)) col ctx g x := by
  refine ⟨s.gang_putGang col g _, State.team_setTeam _ _ _, fun c hc => ?_, fun c h => (h.putGang col g _).congr rfl rfl⟩
  rw [State.team_setTeam_other _ _ hc]
  unfold State.team
  rw [State.putGang_teams]

/-- A gang with no open round has none to break. -/
theorem State.breakRound_nil (s : State) (col g : Nat) (c : Cause) :
    s.breakRound col g c [] = s.setCluster col (s.cluster col) := by
  simp [State.breakRound]

/-- A member with no round of the gang open leaves it. -/
theorem State.leaveGang_left {s : State} {col ctx g : Nat} {x : Gang} (hx : s.gang? col g = some x) (hm : ctx ∈ x.members)
    (hr : ∀ r ∈ (s.cluster col).rrots, r.gang ≠ g) (ht : (Tab.get? s.teams ctx).isNone = false) :
    ∃ u, s.leaveGang col ctx g = u.closePhase col g ∧ s.Left u col ctx g x := by
  have hrounds : (s.cluster col).rrots.filter (fun r => r.gang == g) = [] := by simpa [List.filter_eq_nil_iff] using hr
  have hleft := (s.setCluster col (s.cluster col)).left_putGang col ctx g x
  refine ⟨_, ?_, hleft.gang, hleft.team, hleft.others, fun c h => hleft.calm c (h.congr rfl rfl)⟩
  unfold State.leaveGang
  rw [hx]
  refine (if_neg (by simp [hm])).trans ?_
  dsimp only
  rw [hrounds, State.breakRound_nil]
  rw [State.ite_putGang, State.putGang_teams]
  refine congrArg (State.closePhase · col g) ((if_neg (by rw [State.setCluster_teams, ht]; exact Bool.false_ne_true)).trans ?_)
  unfold State.team
  rw [State.putGang_teams]
  rfl

section
variable {s : State} {ctx g : Nat} (hw : (s.team ctx).sched = .waiting .gangChange)
include hw

theorem State.gleaveAct_outside (hg : (s.team ctx).gangs.getLsbD g = false) :
    s.gleaveAct ctx g = s.gangTrap ctx Cause.gangnot := by
  unfold State.gleaveAct
  simp [Team.gone, hw, hg]

/-- A leave that acts on a gang with no open round. -/
theorem State.gleaveAct_leaves {x : Gang} (hg : (s.team ctx).gangs.getLsbD g = true)
    (hx : s.gang? (s.colOfCtx ctx) g = some x) (hm : ctx ∈ x.members)
    (hr : ∀ r ∈ (s.cluster (s.colOfCtx ctx)).rrots, r.gang ≠ g) :
    ∃ u, s.gleaveAct ctx g = (u.closePhase (s.colOfCtx ctx) g).gangDone ctx ∧ s.Left u (s.colOfCtx ctx) ctx g x := by
  have ht : (Tab.get? s.teams ctx).isNone = false := by
    cases h : Tab.get? s.teams ctx with
    | none => simp [State.team, Tab.getD, h] at hw
    | some t => rfl
  obtain ⟨u, hu, hleft⟩ := State.leaveGang_left hx hm hr ht
  refine ⟨u, ?_, hleft⟩
  rw [← hu]
  unfold State.gleaveAct
  simp [Team.gone, hw, hg]

end

/-- Going on after a change leaves the gangs and the other teams as they are. -/
theorem State.Calm.gangDone_frame {s : State} {ctx : Nat} (h : s.Calm ctx) :
    (∀ col g, (s.gangDone ctx).gang? col g = s.gang? col g) ∧ (s.gangDone ctx).team ctx = (s.team ctx).released ∧
      ∀ c, c ≠ ctx → (s.gangDone ctx).team c = s.team c := by
  rw [h.gangDone]
  exact ⟨fun _ _ => rfl, State.team_setTeam _ _ _, fun _ hc => State.team_setTeam_other _ _ hc⟩

section
variable {s u : State} {col ctx g : Nat} {x : Gang} (hl : s.Left u col ctx g x) (hc : s.Calm ctx)
include hl hc

/-- The gang ends with its last member. -/
theorem State.Left.ends (hms : exceptFor ctx x.members = []) :
    ((u.closePhase col g).gangDone ctx).gang? col g = none := by
  have hx : u.gang? col g = none := hl.gang.trans (if_pos hms)
  have hclose : u.closePhase col g = u := by
    unfold State.closePhase
    rw [hx]
  rw [hclose, (hl.calm ctx hc).gangDone_frame.1, hx]

/-- The gang goes on without the member, and its phase stays open. -/
theorem State.Left.goes_on (hms : exceptFor ctx x.members ≠ [])
    (hrs : exceptFor ctx x.arrived = [] ∨ (exceptFor ctx x.arrived).length ≠ (exceptFor ctx x.members).length) :
    ((u.closePhase col g).gangDone ctx).gang? col g =
        some { x with members := exceptFor ctx x.members, arrived := exceptFor ctx x.arrived } ∧
      ((u.closePhase col g).gangDone ctx).team ctx = ((s.team ctx).left g).released := by
  have hx := hl.gang.trans (if_neg hms)
  obtain ⟨hgang, hteam, _⟩ := (hl.calm ctx hc).gangDone_frame
  rw [State.closePhase_open hx hrs, hgang, hteam, hl.team]
  exact ⟨hx, rfl⟩

/-- The arrivals of the members that stay fill the phase. -/
theorem State.Left.closes (hrs : exceptFor ctx x.arrived ≠ [])
    (hlen : (exceptFor ctx x.arrived).length = (exceptFor ctx x.members).length)
    (hn : (exceptFor ctx x.arrived).Nodup) (hwait : ∀ c ∈ exceptFor ctx x.arrived, s.WaitsAt g c) :
    ((u.closePhase col g).gangDone ctx).gang? col g =
        some { x with members := exceptFor ctx x.members, arrived := [], phase := !x.phase } ∧
      ∀ c ∈ exceptFor ctx x.arrived, ((u.closePhase col g).gangDone ctx).team c = (s.team c).released := by
  have hms : exceptFor ctx x.members ≠ [] := fun e => hrs (List.length_eq_zero_iff.1 (by rw [hlen, e]; rfl))
  have hne : ∀ c ∈ exceptFor ctx x.arrived, c ≠ ctx := fun c h => by simpa using (List.mem_filter.1 h).2
  have hx := hl.gang.trans (if_neg hms)
  obtain ⟨hgang, hfreed, hcalm⟩ := State.closePhase_full hx hrs hlen hn fun c h => by
    obtain ⟨h1, h2⟩ := hwait c h
    rw [← hl.others c (hne c h)] at h2
    exact ⟨hl.calm c h1, h2⟩
  obtain ⟨hgang', _, hothers⟩ := (hcalm ctx (hl.calm ctx hc)).gangDone_frame
  refine ⟨(hgang' col g).trans hgang, fun c h => ?_⟩
  rw [hothers c (hne c h), hfreed c h, hl.others c (hne c h)]

end

/-- The number that a join of any gang takes is written before the team goes on. -/
theorem Team.sreg_writeNow_released (t : Team) {sd : Nat} (x : BitVec 1024) (h : sd ≠ 0) :
    (t.writeNow (.s sd) x).released.sreg sd = x.setWidth 64 := by
  unfold Team.released
  rw [Team.mark_eq]
  exact Team.sreg_writeCell_same _ x h

theorem Team.writeNow_s_released (t : Team) (sd : Nat) (x : BitVec 1024) :
    (t.writeNow (.s sd) x).released.gangs = t.gangs ∧ (t.writeNow (.s sd) x).released.pc = nextPc t.pc := by
  obtain ⟨r, e⟩ := ({ t with pend := t.pend.filter fun r => r.cell != .s sd } : Team).writeCell_s sd x
  unfold Team.released Team.writeNow
  rw [Team.mark_eq, e]
  exact ⟨rfl, rfl⟩

/-- Settles O44: the issues by what each entry's own part comes to; the acts by what they make of the gang's record, and the
releases of a phase that ends one member after the other. -/
theorem gangIssue : Obligations.GangIssue := by
  unfold Obligations.GangIssue
  refine ⟨fun s ctx f hr => ⟨?_, State.gbar_issues hr⟩, ?_⟩
  · intro r hmem hp
    simp only [List.mem_cons, List.not_mem_nil, or_false] at hmem
    obtain rfl | rfl | rfl := hmem
    · exact State.gangChange_issues (i := .gjoin f) rfl hr hp rfl
    · exact State.gangChange_issues (i := .gjoinAny f) rfl hr hp rfl
    · exact State.gangChange_issues (i := .gleave f) rfl hr hp rfl
  intro s ctx g t col on trap joined calm freed
  refine ⟨fun hw hc => ⟨fun hx => ?_, fun x hx => ?_, fun n => State.gjoinAct_full hw n g, fun n sd hg hx hfull => ?_,
    State.gleaveAct_outside hw, fun x hg hx hm hr => ?_⟩, fun x hx hm => ⟨State.gbarAct_again hx, fun ha => ?_⟩⟩
  · rw [State.gjoinAct_forms hw 0 hx]
    exact State.withMember_gangDone hc g _
  · rw [State.gjoinAct_named hw 0 hx]
    refine ⟨fun h => if_pos h, fun h hin => ?_, fun h hout => ?_⟩
    · rw [if_neg (not_not.2 h), if_pos hin]
    · rw [if_neg (not_not.2 h), if_neg hout]
      exact State.withMember_gangDone hc g _
  · have hcalm : ((s.withMember ctx g { asid := s.asidOf ctx, members := [ctx] }).setTeam ctx
        (((s.team ctx).joined g).writeNow (.s sd) (BitVec.ofNat 1024 g))).Calm ctx := State.Calm.congr hc rfl rfl
    obtain ⟨hgang, hteam, _⟩ := hcalm.gangDone_frame
    obtain ⟨hgangs, hpc⟩ := ((s.team ctx).joined g).writeNow_s_released sd (BitVec.ofNat 1024 g)
    rw [State.gjoinAct_takes hw n sd hg hx hfull, hgang, hteam, State.team_setTeam]
    refine ⟨State.gang_setGang s col g _, fun h0 => ?_, hgangs, hpc⟩
    rw [Team.sreg_writeNow_released _ _ h0]
    exact BitVec.setWidth_ofNat_of_le (by norm_num) g
  · obtain ⟨u, hu, hleft⟩ := State.gleaveAct_leaves hw hg hx hm hr
    rw [hu]
    exact ⟨hleft.ends hc, hleft.goes_on hc, fun hrs hlen ⟨hn, hwait⟩ => hleft.closes hc hrs hlen hn hwait⟩
  · have hx' := State.gang_setGang s col g { x with arrived := x.arrived ++ [ctx] }
    rw [State.gbarAct_arrives hx hm ha]
    refine ⟨fun hlen => State.closePhase_open hx' (.inr (by simpa using hlen)), fun hlen ⟨hn, hwait⟩ => ?_⟩
    obtain ⟨hgang, hfreed, _⟩ := State.closePhase_full hx' (by simp) (by simpa using hlen) hn fun c h =>
      ⟨State.Calm.congr (hwait c h).1 rfl rfl, (hwait c h).2⟩
    exact ⟨hgang, hfreed⟩

end Sys2Proof.Machine
end

section
/-! SUPPORT. Words and instructions: the decoder and the encoder undo each other, and the words that the spec prints
(spec/04_encoding.md R58, R69 to R89, R93). -/

namespace Sys2Proof

/-- Every constructor's round trip, in the order of `Instr`. -/
theorem Laws.RoundTrip.every (i : Instr) : RoundTrip.Statement i :=
  i.casesOn (motive := RoundTrip.Statement)
    RoundTrip.vadd RoundTrip.vsub RoundTrip.vmul RoundTrip.vmulh RoundTrip.vmad RoundTrip.vmin RoundTrip.vmax RoundTrip.vand
    RoundTrip.vor RoundTrip.vxor RoundTrip.vshl RoundTrip.vshr RoundTrip.vsra RoundTrip.vcmp RoundTrip.vsel RoundTrip.vmov
    RoundTrip.vcvt RoundTrip.vpopc RoundTrip.vclz RoundTrip.vextr RoundTrip.vins RoundTrip.vfadd RoundTrip.vfsub
    RoundTrip.vfmul RoundTrip.vfma RoundTrip.vfmin RoundTrip.vfmax RoundTrip.vfcmp RoundTrip.vfclass RoundTrip.vfrnd
    RoundTrip.vrcp RoundTrip.vrsq RoundTrip.vexp2 RoundTrip.vlog2 RoundTrip.vtanh RoundTrip.vshfl RoundTrip.vrot
    RoundTrip.vmatch RoundTrip.vscan RoundTrip.kand RoundTrip.kor RoundTrip.kxor RoundTrip.kandn RoundTrip.kset RoundTrip.kpopc
    RoundTrip.kfirst RoundTrip.kget RoundTrip.kput RoundTrip.sadd RoundTrip.saddi RoundTrip.ssub RoundTrip.smul RoundTrip.smulh
    RoundTrip.sdiv RoundTrip.srem RoundTrip.sand RoundTrip.sor RoundTrip.sxor RoundTrip.sshl RoundTrip.sshr RoundTrip.ssra
    RoundTrip.smin RoundTrip.smax RoundTrip.scmp RoundTrip.ssel RoundTrip.smov RoundTrip.smovi RoundTrip.sread RoundTrip.sreadV
    RoundTrip.swrite RoundTrip.shset RoundTrip.vld RoundTrip.vst RoundTrip.vldx RoundTrip.vstx RoundTrip.sld RoundTrip.sst
    RoundTrip.vlds RoundTrip.vsts RoundTrip.vatom RoundTrip.vcas RoundTrip.vatoms RoundTrip.pref RoundTrip.shld RoundTrip.shst
    RoundTrip.wdepth RoundTrip.wpin RoundTrip.wunpin RoundTrip.wevict RoundTrip.wclean RoundTrip.cflush RoundTrip.cinv
    RoundTrip.waitcnt RoundTrip.xfence RoundTrip.mma RoundTrip.zclr RoundTrip.zrd RoundTrip.zwr RoundTrip.zdrain RoundTrip.cpy
    RoundTrip.cpym RoundTrip.rrot RoundTrip.barinit RoundTrip.bararv RoundTrip.barwait RoundTrip.gjoin RoundTrip.gjoinAny
    RoundTrip.gleave RoundTrip.gbar RoundTrip.br RoundTrip.bcond RoundTrip.bany RoundTrip.bnone RoundTrip.call RoundTrip.jmp
    RoundTrip.ret RoundTrip.divg RoundTrip.delse RoundTrip.djoin RoundTrip.dloop RoundTrip.dbrk RoundTrip.exit RoundTrip.yield
    RoundTrip.nop RoundTrip.trap RoundTrip.tret RoundTrip.bellarm RoundTrip.modewr RoundTrip.ctxrd RoundTrip.ctxwr
    RoundTrip.evpop RoundTrip.evpush RoundTrip.evwait RoundTrip.trel RoundTrip.trelRelease RoundTrip.registerResultReturn
    RoundTrip.accessComplete RoundTrip.trapDelivery RoundTrip.fatalFaultDelivery RoundTrip.bellDelivery
    RoundTrip.drumAnnouncementAct RoundTrip.wellBeatAdmit RoundTrip.transitArrival RoundTrip.l1Fill RoundTrip.l1HoldExpiry
    RoundTrip.wellUe RoundTrip.memue RoundTrip.wrestitchRetire RoundTrip.wrestitchRestore RoundTrip.restitchComplete
    RoundTrip.wellThermalRestore RoundTrip.pageWalkComplete RoundTrip.fcmdReplayRecord RoundTrip.fcmdCancelRecord
    RoundTrip.fcmdReplayAsid RoundTrip.fcmdCancelAsid RoundTrip.sideLogPerform RoundTrip.invcmdPage RoundTrip.invcmdAsid
    RoundTrip.rds RoundTrip.rdx RoundTrip.own RoundTrip.upg RoundTrip.wb RoundTrip.wbk RoundTrip.cmp RoundTrip.homeQueueServe
    RoundTrip.gntS RoundTrip.gntE RoundTrip.gntX RoundTrip.wba RoundTrip.prShr RoundTrip.prInv RoundTrip.ackI RoundTrip.ackD
    RoundTrip.ackWb RoundTrip.ackSt RoundTrip.cxlMemReadShared RoundTrip.cxlMemReadExclusive RoundTrip.cxlMemReadUncached
    RoundTrip.cxlMemWrite RoundTrip.birsp RoundTrip.snpinv RoundTrip.snpdata RoundTrip.snpcur RoundTrip.peerRequest
    RoundTrip.peererr RoundTrip.peerLinkTimeout RoundTrip.mmaStart RoundTrip.mmaCommit RoundTrip.copyElement
    RoundTrip.countingEvent RoundTrip.eventRecordEnter RoundTrip.notifyWrite RoundTrip.qcmdEnable RoundTrip.qcmdDisable
    RoundTrip.queueIdleExpiry RoundTrip.launchPacketRead RoundTrip.lotteryDraw RoundTrip.clusterGatingCommit
    RoundTrip.clusterWakeComplete RoundTrip.blockEnd RoundTrip.launchComplete RoundTrip.evtailWrite RoundTrip.frzcmdFreezeBlock
    RoundTrip.frzcmdResumeBlock RoundTrip.frzcmdTerminateBlock RoundTrip.frzcmdFreezeQueue RoundTrip.frzcmdResumeQueue
    RoundTrip.deadlineExpiry RoundTrip.windowImageWritten RoundTrip.resumePlace RoundTrip.migrationTransferComplete
    RoundTrip.dbgEnable RoundTrip.dbgrunStop RoundTrip.dbgrunStep RoundTrip.dbgrunResume RoundTrip.rspseqWrite
    RoundTrip.ntWindow RoundTrip.columnLevelStep RoundTrip.pumpRampStep RoundTrip.tempSample RoundTrip.migwaitExpiry
    RoundTrip.thermalLevelTick RoundTrip.stpFrame RoundTrip.shedForceTimeout RoundTrip.classRestore RoundTrip.startUp
    RoundTrip.mctpControl RoundTrip.pldmSensorRead RoundTrip.firmwareUpdate RoundTrip.attest RoundTrip.transition
    RoundTrip.registerWrite RoundTrip.reservedOpcode RoundTrip.cxlCacheHostResponse RoundTrip.portLinkFailure
    RoundTrip.invcmdAll RoundTrip.invalidationComplete RoundTrip.hostRingEntryWrite RoundTrip.msiCoalesceTimeout
    RoundTrip.stpLossTimeout RoundTrip.stpLossHoldExpiry RoundTrip.clampStep RoundTrip.clampLower RoundTrip.resetctlWarmReset
    RoundTrip.cxlReset RoundTrip.secondaryBusReset RoundTrip.coldReset RoundTrip.fatalReset RoundTrip.cxlTrainTimeout
    RoundTrip.wipeComplete RoundTrip.status RoundTrip.reason RoundTrip.wipe RoundTrip.lineChecks RoundTrip.powerLoss

/-! ## The bytes of a slot (R58) -/

/-- Consecutive bytes of a word from byte `i` on, as a number. -/
theorem wordOfBytes_extract (w : Word96) (n i : Nat) :
    wordOfBytes ((List.range' i n).map fun j => w.extractLsb' (8 * j) 8) = w.toNat / 2 ^ (8 * i) % 2 ^ (8 * n) := by
  induction n generalizing i with
  | zero => simp [wordOfBytes, Nat.mod_one]
  | succ n ih =>
    rw [List.range'_succ, List.map_cons, wordOfBytes, ih, BitVec.extractLsb'_toNat, Nat.shiftRight_eq_div_pow,
      show 8 * (n + 1) = 8 + 8 * n by ring, pow_add, Nat.mod_mul, Nat.div_div_eq_div_mul, ← pow_add]
    rfl

theorem ofNat_wordOfBytes (w : Word96) : BitVec.ofNat 96 (wordOfBytes (bytesOfWord w)) = w := by
  have h := wordOfBytes_extract w 12 0
  rw [← List.range_eq_range', Nat.mul_zero, pow_zero, Nat.div_one] at h
  apply BitVec.eq_of_toNat_eq
  rw [BitVec.toNat_ofNat, bytesOfWord, h, Nat.mod_mod]
  exact Nat.mod_eq_of_lt w.isLt

/-- A slot's bytes are one instruction, with no byte left. -/
theorem decodeBytes_bytesOfWord (w : Word96) : decodeBytes (bytesOfWord w) = .ok (decode w, []) := by
  have hl : (bytesOfWord w).length = 12 := by simp [bytesOfWord]
  rw [decodeBytes, if_neg (by omega), List.take_of_length_le hl.le, List.drop_of_length_le hl.le, ofNat_wordOfBytes]

/-- Settles O12: each constructor's round trip, and the bytes of the slot that holds the word. -/
theorem decodeOfEncode : Obligations.DecodeOfEncode := by
  unfold Obligations.DecodeOfEncode
  intro i hi w hw
  have hdec : decode w = i := Laws.RoundTrip.every i hi w hw
  exact ⟨hdec, hdec ▸ decodeBytes_bytesOfWord w⟩

/-! ## Words put together again -/

section
variable {w : Word96} {op : BitVec 8} (h : (w.extractLsb' 88 8).toNat = op.toNat)
include h

theorem putV_of_op : putV op (getV w) = w := by rw [← BitVec.eq_of_toNat_eq h, putV_getV]
theorem putS_of_op : putS op (getS w) = w := by rw [← BitVec.eq_of_toNat_eq h, putS_getS]
theorem putM_of_op : putM op (getM w) = w := by rw [← BitVec.eq_of_toNat_eq h, putM_getM]
theorem putX_of_op : putX op (getX w) = w := by rw [← BitVec.eq_of_toNat_eq h, putX_getX]
theorem putC_of_op : putC op (getC w) = w := by rw [← BitVec.eq_of_toNat_eq h, putC_getC]
theorem putY_of_op : putY op (getY w) = w := by rw [← BitVec.eq_of_toNat_eq h, putY_getY]
end

/-- The opcodes that R89's map gives an instruction. -/
def mappedOps : List Nat :=
  [0x01, 0x02, 0x03, 0x04, 0x05, 0x06, 0x07, 0x08, 0x09, 0x0A, 0x0B, 0x0C, 0x0D, 0x0E, 0x0F, 0x10, 0x11, 0x12, 0x13,
    0x14, 0x15, 0x18, 0x19, 0x1A, 0x1B, 0x1C, 0x1D, 0x1E, 0x1F, 0x20, 0x21, 0x22, 0x23, 0x24, 0x25, 0x28, 0x29, 0x2A,
    0x2B, 0x30, 0x31, 0x32, 0x33, 0x34, 0x35, 0x36, 0x37, 0x38, 0x40, 0x41, 0x42, 0x43, 0x44, 0x45, 0x46, 0x47, 0x48,
    0x49, 0x4A, 0x4B, 0x4C, 0x4D, 0x4E, 0x4F, 0x50, 0x51, 0x52, 0x53, 0x54, 0x55, 0x60, 0x61, 0x62, 0x63, 0x64, 0x65,
    0x66, 0x67, 0x68, 0x69, 0x6A, 0x6B, 0x6C, 0x6D, 0x70, 0x71, 0x72, 0x73, 0x74, 0x75, 0x76, 0x78, 0x79, 0x80, 0x81,
    0x82, 0x83, 0x84, 0x88, 0x89, 0x8A, 0x90, 0x91, 0x92, 0x94, 0x95, 0x96, 0xA0, 0xA1, 0xA2, 0xA3, 0xA4, 0xA5, 0xA6,
    0xA8, 0xA9, 0xAA, 0xAB, 0xAC, 0xB0, 0xB1, 0xB2, 0xC0, 0xC1, 0xC2, 0xC3, 0xC4, 0xC5, 0xC8, 0xC9, 0xCA, 0xCB]

/-- An opcode outside the map is one that R89 leaves reserved. -/
theorem reservedOp_of_not_mapped : ∀ n < 256, n ∉ mappedOps → reservedOp n = true := by decide +kernel

/-- Settles O13: the arms of the decoder in their order, one format after the other; SREAD and GJOIN have a bit of their own
to tell two rows apart, and the last arm takes the reserved opcodes. -/
theorem encodeOfDecode : Obligations.EncodeOfDecode := by
  unfold Obligations.EncodeOfDecode
  intro w
  unfold decode
  split
  iterate 48 next h => exact ⟨rfl, congrArg some (putV_of_op h)⟩
  iterate 19 next h => exact ⟨rfl, congrArg some (putS_of_op h)⟩
  next h =>
    split
    next hv => exact ⟨hv, congrArg some (putS_of_op h)⟩
    next hv => exact ⟨Bool.not_eq_true' _ ▸ Bool.eq_false_iff.2 hv, congrArg some (putS_of_op h)⟩
  iterate 2 next h => exact ⟨rfl, congrArg some (putS_of_op h)⟩
  iterate 23 next h => exact ⟨rfl, congrArg some (putM_of_op h)⟩
  iterate 11 next h => exact ⟨rfl, congrArg some (putX_of_op h)⟩
  next h =>
    split
    next hany => exact ⟨hany, congrArg some (putX_of_op h)⟩
    next hany => exact ⟨Bool.not_eq_true' _ ▸ Bool.eq_false_iff.2 hany, congrArg some (putX_of_op h)⟩
  iterate 2 next h => exact ⟨rfl, congrArg some (putX_of_op h)⟩
  iterate 15 next h => exact ⟨rfl, congrArg some (putC_of_op h)⟩
  iterate 10 next h => exact ⟨rfl, congrArg some (putY_of_op h)⟩
  refine ⟨reservedOp_of_not_mapped _ (w.extractLsb' 88 8).isLt ?_, rfl⟩
  simp only [imp_false] at *
  simp only [mappedOps, List.mem_cons, List.not_mem_nil, or_false, *, not_false_eq_true]

/-- Settles O11: the decoder evaluated at each word. -/
theorem exampleWords : Obligations.ExampleWords := by
  unfold Obligations.ExampleWords
  decide +kernel

end Sys2Proof
end

section
/-! SUPPORT. The fetch of a line, the checks of a transfer's target, and a step that issues (spec/04_encoding.md R58 to R68, R92,
R94; spec/07_translation.md R150 to R158). -/

namespace Sys2Proof.Machine

/-! ## A line and its second copy (R60) -/

section
variable {s : State} {ctx : Nat} {pc : Word64} {bad : BitVec 512 → Bool}

/-- A first copy that passes the parity checks is the line. -/
theorem State.goodLine_ok {s' : State} {l : BitVec 512} (h : s.fetchLine ctx pc = .ok s' l) (hl : bad l = false) :
    s.goodLine ctx pc bad = .ok s' l := by
  unfold State.goodLine
  rw [h]
  exact if_neg (by simp [hl])

/-- A first copy that fails a parity check is discarded, and the line fetched once more (R60). -/
theorem State.goodLine_again {s' : State} {l : BitVec 512} (h : s.fetchLine ctx pc = .ok s' l) (hl : bad l = true) :
    s.goodLine ctx pc bad = (s'.dropFetchLine ctx pc).refetch ctx pc false := by
  unfold State.goodLine
  rw [h]
  exact if_pos hl

theorem State.goodLine_fault {s' : State} {ty lv : Nat} (h : s.fetchLine ctx pc = .fault s' ty lv) :
    s.goodLine ctx pc bad = .fault s' ty lv := by
  unfold State.goodLine
  rw [h]

theorem State.goodLine_later {s' : State} (h : s.fetchLine ctx pc = .later s') : s.goodLine ctx pc bad = .later s' := by
  unfold State.goodLine
  rw [h]

/-- What a transfer's target comes to once its line is there, by the checks of R63 in their order. -/
def Line.asTarget (pc : Word64) : Line → Target
  | .ok s l =>
    if lparBad (lineWord l) then .bad Cause.linepar
    else if tgtBit (lineWord l) (pcSlot pc) then .ok s
    else .bad Cause.badtgt
  | .fault s ty lv => .fault s ty lv
  | .later s => .later s

theorem State.checkTarget_line (hb : badSlot pc = false) (hc : canonical (pcLine pc) = true) :
    s.checkTarget ctx pc = (s.goodLine ctx pc fun l => lparBad (lineWord l)).asTarget pc := by
  unfold State.checkTarget
  rw [hb, hc]
  cases s.goodLine ctx pc fun l => lparBad (lineWord l) with
  | ok s' l =>
    show (if lparBad (lineWord l) = true then _ else _) = if lparBad (lineWord l) = true then _ else _
    cases lparBad (lineWord l) <;> cases tgtBit (lineWord l) (pcSlot pc) <;> rfl
  | fault | later => rfl
end

/-- Settles O22: the checks before the line, then what each copy of the line comes to. -/
theorem targetChecks : Obligations.TargetChecks := by
  unfold Obligations.TargetChecks
  intro s ctx pc
  refine ⟨fun hb => if_pos hb, fun hb hc => ?_, fun hb hc =>
    ⟨fun s' l h hl => ?_, fun s1 s2 l m h hl h2 => ?_, fun s' ty lv h => ?_, fun s' h => ?_⟩⟩
  · unfold State.checkTarget
    rw [hb, hc]
    rfl
  · rw [State.checkTarget_line hb hc, State.goodLine_ok h hl, Line.asTarget, hl]
    rfl
  · rw [State.checkTarget_line hb hc, State.goodLine_again h hl, h2, Line.asTarget]
  · rw [State.checkTarget_line hb hc, State.goodLine_fault h, Line.asTarget]
  · rw [State.checkTarget_line hb hc, State.goodLine_later h, Line.asTarget]

/-! ## Where a line comes from -/

section
variable {s : State} {ctx : Nat} {pc : Word64}

theorem OnlyFetch.coreOf {s t : State} (h : OnlyFetch s t) (ctx : Nat) : t.coreOf ctx = s.coreOf ctx := by
  unfold State.coreOf
  rw [h.blockOf]

theorem OnlyFetch.asidOf {s t : State} (h : OnlyFetch s t) (ctx : Nat) : t.asidOf ctx = s.asidOf ctx := by
  unfold State.asidOf
  rw [h.blockOf]

theorem OnlyFetch.dieOfCtx {s t : State} (h : OnlyFetch s t) (ctx : Nat) : t.dieOfCtx ctx = s.dieOfCtx ctx := by
  unfold State.dieOfCtx
  rw [h.coreOf]

/-- A line that comes: `s2` is the state in which it is taken; the core's fetch buffer then holds it with the page's
attributes. -/
def Line.Comes (s s2 : State) (ctx va : Nat) (data : LineData) (a : Attr) (r : Line) : Prop :=
  ∃ s3 l, r = .ok s3 l ∧ OnlyFetch s2 s3 ∧ l = BitVec.ofNat 512 (lineGet data (va % 128) 64) ∧
    Tab.get? (s3.core (s.coreOf ctx)).fbuf (fetchKey (s.asidOf ctx) va) = some (l, a)

theorem State.takeFetch_comes {s2 : State} {va : Nat} {data : LineData} {a : Attr} {r : Line} (ho : OnlyFetch s s2)
    (hr : r = s2.takeFetch ctx va data a) : Line.Comes s s2 ctx va data a r := by
  refine ⟨_, _, hr, .setFbuf s2 _ _, rfl, ?_⟩
  rw [← ho.coreOf ctx, ← ho.asidOf ctx, State.core_setCore, Tab.get?_put_same]

theorem State.fetchLine_cinv (h : s.cinvOut ctx (lineKey (s.asidOf ctx) (pcLine pc).toNat) = true) :
    s.fetchLine ctx pc = .later s := if_pos h

/-- A line that the fetch buffer holds under attributes that allow the fetch is taken from there (R150). -/
theorem State.fetchLine_buffered {l : BitVec 512} {a : Attr}
    (hc : s.cinvOut ctx (lineKey (s.asidOf ctx) (pcLine pc).toNat) = false)
    (h : Tab.get? (s.core (s.coreOf ctx)).fbuf (fetchKey (s.asidOf ctx) (pcLine pc).toNat) = some (l, a)) (hx : a.x = true)
    (hu : a.u = true ∨ s.isHandler ctx = true) : s.fetchLine ctx pc = .ok s l := by
  have ha : (a.x && (a.u || s.isHandler ctx)) = true := by simpa [hx] using hu
  unfold State.fetchLine
  rw [hc, h]
  exact if_pos ha

theorem State.fetchLine_unbuffered (hc : s.cinvOut ctx (lineKey (s.asidOf ctx) (pcLine pc).toNat) = false)
    (h : Tab.get? (s.core (s.coreOf ctx)).fbuf (fetchKey (s.asidOf ctx) (pcLine pc).toNat) = none) :
    s.fetchLine ctx pc = s.refetch ctx pc false := by
  unfold State.fetchLine
  rw [hc, h]
  rfl
end

/-! ## A line that the buffer does not hold -/

section
variable {s : State} {ctx : Nat} {pc : Word64}

/-- What a fetch of a team needs of its page (R157). -/
def State.fetchNeed (s : State) (ctx : Nat) : Need := { fetch := true, user := !s.isHandler ctx }

/-- The state in which a fetch of a line that the Well does not give translates: kept attributes and a replay first drop the
TLB's entry (R150, R156). -/
def State.beforeWalk (s : State) (ctx : Nat) (pc : Word64) : State :=
  if s.keptRefuses (s.dieOfCtx ctx) (lineKey (s.asidOf ctx) (pcLine pc).toNat) = true ∨ (s.team ctx).fetchRep = true then
    s.dropTlb (s.dieOfCtx ctx) (s.asidOf ctx) (pcLine pc).toNat
  else s

/-- The state after a translation that grants a fetch: what a walk that kept attributes asked for grants is kept (R150). -/
def State.afterWalk (s s1 : State) (ctx : Nat) (pc : Word64) (e : TlbEnt) : State :=
  if s.keptRefuses (s.dieOfCtx ctx) (lineKey (s.asidOf ctx) (pcLine pc).toNat) = true then
    s1.keepLeaf (s.dieOfCtx ctx) (tileOfLine (lineKey (s.asidOf ctx) (pcLine pc).toNat)) e.attr
  else s1

theorem State.beforeWalk_only (s : State) (ctx : Nat) (pc : Word64) : OnlyFetch s (s.beforeWalk ctx pc) := by
  unfold State.beforeWalk
  split_ifs
  · exact s.dropTlb_only _ _ _
  · exact .refl s

theorem State.afterWalk_only (s s1 : State) (ctx : Nat) (pc : Word64) (e : TlbEnt) : OnlyFetch s1 (s.afterWalk s1 ctx pc e) := by
  unfold State.afterWalk
  split_ifs
  · exact s1.keepLeaf_only _ _ _
  · exact .refl s1

theorem State.refetch_well {data : LineData} {a : Attr} {again : Bool}
    (h : s.wellFetch (s.dieOfCtx ctx) (lineKey (s.asidOf ctx) (pcLine pc).toNat) (s.isHandler ctx) = some (data, a)) :
    s.refetch ctx pc again = s.takeFetch ctx (pcLine pc).toNat data a := by
  unfold State.refetch
  dsimp only
  rw [h]

/-- A line read under a leaf, from the state after the walk (R158, R206, R207): `d` and `key` are the team's die and the line. -/
def State.leafLine (s : State) (ctx : Nat) (pc : Word64) (d key : Nat) (e : TlbEnt) : Line :=
  let va := (pcLine pc).toNat
  let pl := e.paOf va / 128
  match s.homeFirst key pl e.attr.swm with
  | some op => .later (s.homeAsk pl op)
  | none =>
    if s.fetchFirst ctx pc.toNat pl then .later (s.fetchAway ctx pc.toNat pl)
    else (s.fetchBack ctx pc.toNat pl).takeFetch ctx va (s.seenLine d key pl e.attr.swm) e.attr

/-- A line that neither the fetch buffer nor the Well gives, through a translation. -/
def State.walkedLine (s : State) (ctx : Nat) (pc : Word64) : Line :=
  let d := s.dieOfCtx ctx
  let asid := s.asidOf ctx
  let va := (pcLine pc).toNat
  let s0 := s.beforeWalk ctx pc
  match s0.walkWaits d asid va (s.fetchNeed ctx) with
  | some pl => .later (s0.homeAsk pl .pull)
  | none =>
    match s0.translate d asid va (s.fetchNeed ctx) with
    | (s1, .error (ty, lv)) => .fault s1 ty lv
    | (s1, .ok e) => (s.afterWalk s1 ctx pc e).leafLine ctx pc d (lineKey asid va) e

theorem State.refetch_walkedLine
    (hw : s.wellFetch (s.dieOfCtx ctx) (lineKey (s.asidOf ctx) (pcLine pc).toNat) (s.isHandler ctx) = none) :
    s.refetch ctx pc false = s.walkedLine ctx pc := by
  unfold State.refetch State.walkedLine
  dsimp only
  rw [hw]
  simp only [Bool.or_false, Bool.or_eq_true] <;> rfl

theorem State.walkedLine_waits {pl : Nat}
    (h : (s.beforeWalk ctx pc).walkWaits (s.dieOfCtx ctx) (s.asidOf ctx) (pcLine pc).toNat (s.fetchNeed ctx) = some pl) :
    s.walkedLine ctx pc = .later ((s.beforeWalk ctx pc).homeAsk pl .pull) := by
  unfold State.walkedLine
  dsimp only
  rw [h]

section
variable (hn : (s.beforeWalk ctx pc).walkWaits (s.dieOfCtx ctx) (s.asidOf ctx) (pcLine pc).toNat (s.fetchNeed ctx) = none)
include hn

theorem State.walkedLine_fault {s1 : State} {ty lv : Nat}
    (h : (s.beforeWalk ctx pc).translate (s.dieOfCtx ctx) (s.asidOf ctx) (pcLine pc).toNat (s.fetchNeed ctx) =
      (s1, .error (ty, lv))) : s.walkedLine ctx pc = .fault s1 ty lv := by
  unfold State.walkedLine
  dsimp only
  rw [hn, h]

theorem State.walkedLine_leaf {s1 : State} {e : TlbEnt}
    (h : (s.beforeWalk ctx pc).translate (s.dieOfCtx ctx) (s.asidOf ctx) (pcLine pc).toNat (s.fetchNeed ctx) = (s1, .ok e)) :
    s.walkedLine ctx pc =
      (s.afterWalk s1 ctx pc e).leafLine ctx pc (s.dieOfCtx ctx) (lineKey (s.asidOf ctx) (pcLine pc).toNat) e := by
  unfold State.walkedLine
  dsimp only
  rw [hn, h]
end

theorem State.leafLine_home {d key : Nat} {e : TlbEnt} {op : HomeOp}
    (h : s.homeFirst key (e.paOf (pcLine pc).toNat / 128) e.attr.swm = some op) :
    s.leafLine ctx pc d key e = .later (s.homeAsk (e.paOf (pcLine pc).toNat / 128) op) := by
  unfold State.leafLine
  dsimp only
  rw [h]

/-- No home need act first: a peer's line goes to the peer until it has been there, and any other line comes. -/
theorem State.leafLine_seen {d key : Nat} {e : TlbEnt}
    (h : s.homeFirst key (e.paOf (pcLine pc).toNat / 128) e.attr.swm = none) :
    s.leafLine ctx pc d key e =
      if s.fetchFirst ctx pc.toNat (e.paOf (pcLine pc).toNat / 128) then
        .later (s.fetchAway ctx pc.toNat (e.paOf (pcLine pc).toNat / 128))
      else (s.fetchBack ctx pc.toNat (e.paOf (pcLine pc).toNat / 128)).takeFetch ctx (pcLine pc).toNat
        (s.seenLine d key (e.paOf (pcLine pc).toNat / 128) e.attr.swm) e.attr := by
  unfold State.leafLine
  dsimp only
  rw [h]

end

/-- Settles O15: the fetch buffer first, then the Well, then the walk, each with what its own step of the fetch comes to. -/
theorem fetchReadsMemory : Obligations.FetchReadsMemory := by
  unfold Obligations.FetchReadsMemory
  intro s ctx pc va d asid key need buffered comes
  refine ⟨State.fetchLine_cinv, fun hc => ⟨fun l a hb hx hu => State.fetchLine_buffered hc hb hx hu, fun hb => ?_⟩⟩
  have hline : s.fetchLine ctx pc = s.refetch ctx pc false := State.fetchLine_unbuffered hc hb
  refine ⟨fun data a hw => State.takeFetch_comes (.refl s) (hline.trans (State.refetch_well hw)), fun hw => ?_⟩
  replace hline := hline.trans (State.refetch_walkedLine hw)
  refine ⟨fun pl h => hline.trans (State.walkedLine_waits h), fun hn s1 r hr => ?_⟩
  have h1 : OnlyFetch s s1 := by
    have hfst : ((s.beforeWalk ctx pc).translate d asid va need).1 = s1 := congrArg Prod.fst hr
    exact (s.beforeWalk_only ctx pc).trans (hfst ▸ State.translate_only _ d asid va need)
  cases r with
  | error x => exact ⟨hline.trans (State.walkedLine_fault hn hr), h1⟩
  | ok e =>
    have h2 := s.afterWalk_only s1 ctx pc e
    replace hline := hline.trans (State.walkedLine_leaf hn hr)
    refine ⟨fun op h => hline.trans (State.leafLine_home h), fun hh => ?_⟩
    replace hline := hline.trans (State.leafLine_seen hh)
    refine ⟨fun hf => hline.trans (if_pos hf), fun hf => ?_⟩
    exact State.takeFetch_comes ((h1.trans h2).trans (State.fetchBack_only _ _ _ _))
      (hline.trans (if_neg (Bool.eq_false_iff.1 hf)))

/-! ## A step that issues -/

/-- A line whose first copy passes every check of R92 step 1 gives the word of the slot, or the pair (R58, R66). -/
theorem State.fetch_words {s s' : State} {ctx i : Nat} {pc : Word64} {l : BitVec 512} (hpc : (s.team ctx).pc = pc)
    (hi : pcSlot pc = i) (hb : badSlot pc = false) (hc : canonical (pcLine pc) = true) (hl : s.fetchLine ctx pc = .ok s' l)
    (hp : lparBad (lineWord l) = false) (hs : (issuing (lineWord l) i).any (parBad l) = false)
    (ht : (s.team ctx).entryTgt = true → tgtBit (lineWord l) i = true) (hr : bitsAt (lineWord l) 15 17 = 0)
    (hm : malformed (lineWord l) = false) (hf : 0 < i → pairBit (lineWord l) (i - 1) = false) :
    s.fetch ctx = .words s' (slotWord l i) (if pairBit (lineWord l) i then some (slotWord l (i + 1)) else none) := by
  subst hpc hi
  have hgood := State.goodLine_ok (bad := fun l =>
    lparBad (lineWord l) || (issuing (lineWord l) (pcSlot (s.team ctx).pc)).any (parBad l)) hl (by rw [hp, hs]; rfl)
  have htgt : ((s.team ctx).entryTgt && !tgtBit (lineWord l) (pcSlot (s.team ctx).pc)) = false := by
    cases he : (s.team ctx).entryTgt
    · rfl
    · rw [ht he]; rfl
  have hpair : (malformed (lineWord l) ||
      (decide (0 < pcSlot (s.team ctx).pc) && pairBit (lineWord l) (pcSlot (s.team ctx).pc - 1))) = false := by
    rw [hm, Bool.false_or, Bool.and_eq_false_iff, decide_eq_false_iff_not]
    exact or_iff_not_imp_left.2 fun h => hf (not_not.1 h)
  unfold State.fetch
  dsimp only
  rw [hb, hc, hgood]
  dsimp only
  rw [hp, htgt, hs, if_neg (not_not.2 hr), hpair]
  rfl

section
variable {s s' : State} {ctx : Nat} {w : Word96} {second : Option Word96}

/-- A team left with a wait to be resumed resumes it in the place of an issue (R406). -/
theorem State.issue_resumes (hi : s.canIssue ctx = true) (hf : s.fetch ctx = .words s' w second)
    (hr : (s.team ctx).rewait = true) : s.issue ctx = .next ((s'.resumeWait ctx w).afterIssue ctx) := by
  unfold State.issue
  rw [if_pos hi, hf]
  exact if_pos hr

theorem State.issue_runs (hi : s.canIssue ctx = true) (hf : s.fetch ctx = .words s' w second)
    (hr : (s.team ctx).rewait = false) : s.issue ctx = s'.runWords ctx w second := by
  unfold State.issue
  rw [if_pos hi, hf]
  exact if_neg (by simp [hr])

/-- The first member of a pair that goes on to its second one (R25, R68). -/
theorem State.runWords_pair {t : State} {w2 : Word96} (he : exec (decode w) (s.issuingAs ctx (some w2)) = .next t)
    (hn : (s.issuingAs ctx (some w2)).issueTrap ctx (decode w) = none) :
    s.runWords ctx w (some w2) = t.runSecond ctx (s.team ctx).pc w2 := by
  unfold State.runWords
  dsimp only
  rw [he]
  exact if_pos (by rw [hn]; rfl)
end

theorem State.canIssue_of_mayIssue {s : State} {ctx : Nat} (h : s.mayIssue ctx = true) : s.canIssue ctx = true :=
  (Bool.and_eq_true_iff.1 (Bool.and_eq_true_iff.1 h).1).1

/-- A step whose move is an issue that the scheduler allows. -/
theorem step_issue {s : State} {ctx : Nat} {rest : List Act} (ha : s.agenda = .issue ctx :: rest)
    (hi : ({ s with agenda := rest } : State).mayIssue ctx = true) : step s = ({ s with agenda := rest } : State).issue ctx := by
  unfold step State.move
  rw [ha]
  exact if_pos hi

/-- Settles O14: the move at the head of the agenda is the issue, and its fetch gives the slot's word or pair. -/
theorem stepRunsDecoded : Obligations.StepRunsDecoded := by
  unfold Obligations.StepRunsDecoded
  intro s s' ctx rest l ha s0 pc i lw hi hb hc hl hp hs ht hr hm hf
  have hwords : s0.fetch ctx = .words s' (slotWord l i) (if pairBit lw i then some (slotWord l (i + 1)) else none) :=
    State.fetch_words rfl rfl hb hc hl hp hs ht hr hm hf
  have hcan : s0.canIssue ctx = true := State.canIssue_of_mayIssue hi
  rw [step_issue ha hi]
  refine ⟨fun hw => State.issue_resumes hcan hwords hw, fun hw h1 => ?_, fun hw h2 => ?_⟩
  · rw [State.issue_runs hcan hwords hw, h1]
    rfl
  · intro first t he hn
    rw [State.issue_runs hcan hwords hw, h2]
    exact State.runWords_pair he hn

end Sys2Proof.Machine
end

section
/-! SUPPORT. A lane's address (spec/04_encoding.md R83): the model's sum over the integers, and its words. -/

namespace Sys2Proof.Machine

/-- The low bits of a vector's number read as two's complement are its signed value. -/
theorem signed_toNat {n : Nat} (x : BitVec n) (h : 0 < n) : signed n x.toNat = x.toInt := by
  have h2 : 2 ^ n = 2 * 2 ^ (n - 1) := by rw [← pow_succ', Nat.sub_add_cancel h]
  unfold signed
  rw [Nat.mod_eq_of_lt x.isLt, BitVec.toInt_eq_toNat_cond]
  congr 1
  exact propext (by omega)

/-- An integer modulo 2^64, as a word. -/
theorem ofNat_wrapN (x : Int) : BitVec.ofNat 64 (wrapN 64 x) = BitVec.ofInt 64 x := by
  apply BitVec.eq_of_toNat_eq
  have h := wrapN_lt 64 x
  rw [BitVec.toNat_ofNat, Nat.mod_eq_of_lt h, BitVec.toNat_ofInt]
  rfl

/-- The two's complement reading of an integer modulo 2^64 is the same word. -/
theorem ofInt_signed_wrapN (x : Int) : BitVec.ofInt 64 (signed 64 (wrapN 64 x)) = BitVec.ofInt 64 x := by
  have h : wrapN 64 x = (BitVec.ofInt 64 x).toNat := by rw [BitVec.toNat_ofInt]; rfl
  rw [h, signed_toNat _ (by norm_num), BitVec.ofInt_toInt]

theorem ofInt_mul_two_pow (x : Int) (k : Nat) : BitVec.ofInt 64 (x * (2 ^ k : Nat)) = BitVec.ofInt 64 x <<< k := by
  rw [BitVec.ofInt_mul, BitVec.ofInt_natCast, BitVec.shiftLeft_eq_mul_twoPow]
  congr 1
  exact BitVec.eq_of_toNat_eq (by rw [BitVec.toNat_ofNat, BitVec.toNat_twoPow])

/-- The per-lane offset of R83, as a word. -/
theorem Team.ofInt_idxOff (t : Team) (f : MF) (l : Nat) : BitVec.ofInt 64 (t.idxOff f l) =
    if f.idx.toNat = 1023 then 0 else (t.vreg f.idx.toNat l).signExtend 64 <<< f.shift.toNat := by
  unfold Team.idxOff
  split_ifs
  · rfl
  · rw [ofInt_signed_wrapN, ofInt_mul_two_pow, signed_toNat _ (by norm_num)]
    rfl

/-- Settles O33: each term of the model's sum is a word, and words add modulo 2^64. -/
theorem effectiveAddress : Obligations.EffectiveAddress := by
  unfold Obligations.EffectiveAddress
  intro t f elem l
  unfold Team.ea
  rw [ofNat_wrapN, BitVec.ofInt_add, BitVec.ofInt_add, BitVec.ofInt_add, Team.ofInt_idxOff, signed_toNat _ (by norm_num),
    BitVec.ofInt_natCast, BitVec.ofInt_natCast, BitVec.ofNat_toNat, BitVec.setWidth_eq]
  rfl

end Sys2Proof.Machine
end

section
/-! SUPPORT. The checks before an issue: the precise trap of a word or pair, the line checks of a slot, and what the decode
checks of each format come to (spec/04_encoding.md R62 to R68, R92, R93; spec/07_translation.md R159 to R161). -/

namespace Sys2Proof.Machine

/-! ## An issue that traps -/

/-- Every program instruction issues through the checks of R92. -/
theorem exec_program {i : Instr} (s : State) (h : encode i ≠ none) : ∃ body, exec i s = s.atIssue i body := by
  cases i with
  | vadd | vsub | vmul | vmulh | vmad | vmin | vmax | vand | vor | vxor | vshl | vshr | vsra | vcmp | vsel | vmov | vcvt | vpopc
  | vclz | vextr | vins | vfadd | vfsub | vfmul | vfma | vfmin | vfmax | vfcmp | vfclass | vfrnd | vrcp | vrsq | vexp2 | vlog2
  | vtanh | vshfl | vrot | vmatch | vscan | kand | kor | kxor | kandn | kset | kpopc | kfirst | kget | kput => exact ⟨_, rfl⟩
  | sadd | saddi | ssub | smul | smulh | sdiv | srem | sand | sor | sxor | sshl | sshr | ssra | smin | smax | scmp | ssel | smov
  | smovi | sread | sreadV | swrite | shset => exact ⟨_, rfl⟩
  | vld | vst | vldx | vstx | sld | sst | vlds | vsts | vatom | vcas | vatoms | pref | shld | shst | wdepth | wpin | wunpin
  | wevict | wclean | cflush | cinv | waitcnt | xfence => exact ⟨_, rfl⟩
  | mma | zclr | zrd | zwr | zdrain | cpy | cpym | rrot | barinit | bararv | barwait | gjoin | gjoinAny | gleave | gbar =>
    exact ⟨_, rfl⟩
  | br | bcond | bany | bnone | call | jmp | ret | divg | delse | djoin | dloop | dbrk | exit | yield | nop => exact ⟨_, rfl⟩
  | trap | tret | bellarm | modewr | ctxrd | ctxwr | evpop | evpush | evwait | trel => exact ⟨_, rfl⟩
  | reservedOpcode w => exact ⟨fun _ => .trap Cause.illop 0, rfl⟩
  | _ => exact absurd rfl h

section
variable {s : State} {ctx : Nat}

/-- A word or pair that fails a check before its own entry traps precisely, with nothing of it performed (R68, R92). -/
theorem State.exec_issueTrap {i : Instr} {c : Cause} {second : Bool} (he : encode i ≠ none) (hc : s.cur = some ctx)
    (hi : s.canIssue ctx = true) (ht : s.issueTrap ctx i = some (c, second)) :
    exec i s = .next ((({ s with pairSecond := none, pairMark := false } : State).preciseTrap ctx c
      (if second then s.pairSecond.elim 0 wordOf else wordOf i)
      (if second then nextPc (s.team ctx).pc else (s.team ctx).pc) (s.team ctx).pc 0).afterIssue ctx) := by
  obtain ⟨body, hb⟩ := exec_program s he
  rw [hb]
  unfold State.atIssue
  rw [hc]
  dsimp only
  rw [if_pos hi, ht]

/-- A pair passes when its second word does, R67 allows it, and neither member's immediate is out of its span (R68). -/
theorem State.pairTrap_eq_none {i j : Instr} : s.pairTrap ctx i j = none ↔
    s.decodeTrap ctx j = none ∧ pairOk i j = true ∧ s.badSpan ctx i = false ∧ s.badSpan ctx j = false := by
  unfold State.pairTrap
  cases s.decodeTrap ctx j with
  | some c => simp
  | none =>
    dsimp only
    split_ifs with hpair hfirst hsecond <;> simp_all

theorem State.issueTrap_eq_none {i : Instr} : s.issueTrap ctx i = none ↔
    s.decodeTrap ctx i = none ∧ ∀ j, s.pairSecond = some j →
      s.decodeTrap ctx j = none ∧ pairOk i j = true ∧ s.badSpan ctx i = false ∧ s.badSpan ctx j = false := by
  unfold State.issueTrap
  cases s.decodeTrap ctx i with
  | some c => simp
  | none =>
    cases s.pairSecond with
    | none => simp
    | some j => simpa using State.pairTrap_eq_none
end

/-! ## The line checks (R92) -/

section
variable {s : State} {ctx : Nat}

theorem State.fetch_badslot (h : badSlot (s.team ctx).pc = true) : s.fetch ctx = .trap s Cause.badslot 0 := if_pos h

theorem State.fetch_noncanon (h : badSlot (s.team ctx).pc = false) (hc : canonical (pcLine (s.team ctx).pc) = false) :
    s.fetch ctx = .trap s Cause.noncanon 0 :=
  (if_neg (Bool.eq_false_iff.1 h)).trans (if_pos (by rw [hc]; rfl))

/-- What the line checks make of a fetch at a program counter: a failing check traps with no word decoded, a fetch fault holds
the team, and checks that pass leave it alone. -/
def Fetched.checked (ctx : Nat) (pc : Word64) : Fetched → State
  | .words s' _ _ => s'
  | .hold s' ty lv => s'.fetchFault ctx ty lv
  | .later s' => s'
  | .trap s' c w => (s'.preciseTrap ctx c w pc pc 0).afterIssue ctx

theorem State.exec_lineChecks {r : Fetched} (hc : s.cur = some ctx) (hi : s.canIssue ctx = true) (hf : s.fetch ctx = r) :
    exec .lineChecks s = .next (r.checked ctx (s.team ctx).pc) := by
  have hexec : exec .lineChecks s = execLineChecks s := rfl
  rw [hexec, execLineChecks, hc]
  dsimp only
  rw [if_pos hi, hf]
  cases r <;> rfl
end

/-! ## Fault records (R159, R161) -/

section
variable {s : State} {d : Nat} {a : Att} {r : FRec}

/-- A failed access joins the record of its page and type. -/
theorem State.logFault_joins {e : Nat × FRec}
    (h : (s.die d).frecs.find? (fun e => e.2.va == r.va && e.2.asid == r.asid && e.2.type == r.type) = some e) :
    Tab.get? ((s.logFault d a r).die d).frecs e.1 = some { e.2 with att := e.2.att ++ [a] } := by
  unfold State.logFault
  dsimp only
  rw [h]
  dsimp only
  rw [State.die_setDie, Tab.get?_put_same]

variable (h : (s.die d).frecs.find? (fun e => e.2.va == r.va && e.2.asid == r.asid && e.2.type == r.type) = none)
include h

theorem State.logFault_opens {id : Nat} (hf : Machine.freeRecord (s.die d).frecs = some id) :
    Tab.get? ((s.logFault d a r).die d).frecs id = some { r with att := [a] } := by
  unfold State.logFault
  dsimp only
  rw [h]
  dsimp only
  rw [hf]
  have hdie := State.die_setDie s d
    { s.die d with frecs := Tab.put (s.die d).frecs id { r with att := [a] }, logged := min ((s.die d).logged + 1) (2 ^ 32 - 1) }
  exact (congrArg (fun x : Die => Tab.get? x.frecs id) hdie).trans (Tab.get?_put_same _ _ _)

theorem State.logFault_waits (hf : Machine.freeRecord (s.die d).frecs = none) :
    ((s.logFault d a r).die d).frwait = (s.die d).frwait ++ [(a, r)] := by
  unfold State.logFault
  dsimp only
  rw [h]
  dsimp only
  rw [hf]
  dsimp only
  rw [State.die_setDie]
end

/-- A failed access changes no team. -/
theorem State.logFault_team (s : State) (d : Nat) (a : Att) (r : FRec) (c : Nat) : (s.logFault d a r).team c = s.team c := by
  unfold State.logFault
  dsimp only
  split
  · rfl
  · split <;> rfl

/-- A team held by a fault of its fetch waits at its program counter, under a record of path 3 (R161). -/
theorem State.fetchFault_team {s : State} {ctx : Nat} (hs : (s.team ctx).sched = .ready) (ty lv : Nat) :
    (s.fetchFault ctx ty lv).team ctx =
      { s.team ctx with sched := .waiting .fetchHold, waitWord := 0, fresh := true, fetchRep := false } := by
  unfold State.fetchFault
  dsimp only
  rw [State.logFault_team, State.team_setTeam, hs]
  rfl

/-- The record of a fault of a team's fetch (R160, R161). -/
def State.fetchRecord (s : State) (ctx ty lv : Nat) : FRec :=
  { va := (pcLine (s.team ctx).pc).toNat / 4096 * 4096, asid := s.asidOf ctx, type := ty, level := lv
    rep := (s.team ctx).fetchRep, write := false, path := 3, pcore := s.coreOf ctx % 1024, time := s.time, att := [] }

theorem State.sched_of_canIssue {s : State} {ctx : Nat} (h : s.canIssue ctx = true) : (s.team ctx).sched = .ready := by
  unfold State.canIssue at h
  unfold State.team Tab.getD
  split at h
  next b t hb ht =>
    simp only [Bool.and_eq_true, decide_eq_true_eq] at h
    rw [ht]
    exact h.1.1.2
  next => cases h

theorem OnlyFetch.frecs {s t : State} (h : OnlyFetch s t) (d : Nat) : (t.die d).frecs = (s.die d).frecs := by rw [h.dies d]
theorem OnlyFetch.frwait {s t : State} (h : OnlyFetch s t) (d : Nat) : (t.die d).frwait = (s.die d).frwait := by rw [h.dies d]

theorem State.fetchFault_eq (s : State) (ctx ty lv : Nat) : ∃ t, s.fetchFault ctx ty lv =
    (s.setTeam ctx t).logFault (s.dieOfCtx ctx) (.fetch ctx) (s.fetchRecord ctx ty lv) := ⟨_, rfl⟩

/-- A fault of a team's fetch is logged at its die (R161). -/
theorem State.fetchFault_logs {s s' : State} {ctx ty lv : Nat} (ho : OnlyFetch s s') :
    ∃ u : State, s'.fetchFault ctx ty lv = u.logFault (s.dieOfCtx ctx) (.fetch ctx) (s.fetchRecord ctx ty lv) ∧
      ∀ d, (u.die d).frecs = (s.die d).frecs ∧ (u.die d).frwait = (s.die d).frwait := by
  have hrec : s'.fetchRecord ctx ty lv = s.fetchRecord ctx ty lv := by
    have htime : s'.time = s.time := by rw [ho.rest]
    unfold State.fetchRecord
    rw [ho.team, ho.asidOf, ho.coreOf, htime]
  obtain ⟨T, hT⟩ := s'.fetchFault_eq ctx ty lv
  exact ⟨s'.setTeam ctx T, by rw [hT, hrec, ho.dieOfCtx], fun d => ⟨ho.frecs d, ho.frwait d⟩⟩

/-- A fetch fault at the line checks holds the team under a fault record (R161). -/
theorem State.lineChecks_held {s s' : State} {ctx ty lv : Nat} (hc : s.cur = some ctx) (hi : s.canIssue ctx = true)
    (hf : s.fetch ctx = .hold s' ty lv) : ∃ u, exec .lineChecks s = .next u ∧
      u.team ctx = { s.team ctx with sched := .waiting .fetchHold, waitWord := 0, fresh := true, fetchRep := false } ∧
      let d := s.dieOfCtx ctx
      let r := s.fetchRecord ctx ty lv
      let same := (s.die d).frecs.find? fun e => e.2.va == r.va && e.2.asid == r.asid && e.2.type == r.type
      (∀ e, same = some e → Tab.get? (u.die d).frecs e.1 = some { e.2 with att := e.2.att ++ [.fetch ctx] }) ∧
      (same = none →
        (∀ id, Machine.freeRecord (s.die d).frecs = some id →
          Tab.get? (u.die d).frecs id = some { r with att := [.fetch ctx] }) ∧
        (Machine.freeRecord (s.die d).frecs = none → (u.die d).frwait = (s.die d).frwait ++ [(.fetch ctx, r)])) := by
  have ho : OnlyFetch s s' := by simpa only [hf] using s.fetch_only ctx
  obtain ⟨v, hv, hsame⟩ := State.fetchFault_logs (ctx := ctx) (ty := ty) (lv := lv) ho
  obtain ⟨hrecs, hwait⟩ := hsame (s.dieOfCtx ctx)
  refine ⟨s'.fetchFault ctx ty lv, State.exec_lineChecks hc hi hf, ?_, ?_⟩
  · rw [State.fetchFault_team (by rw [ho.team, State.sched_of_canIssue hi]), ho.team]
  · dsimp only
    rw [hv, ← hrecs, ← hwait]
    exact ⟨fun e h => State.logFault_joins h, fun h => ⟨fun id hid => State.logFault_opens h hid, State.logFault_waits h⟩⟩

/-! ## What the decode checks of a format come to (R92) -/

section
variable {lim : Limits}

/-- A v-register field that is good: below the count, and an even pair for a 64-bit operand (R73, R74). -/
abbrev Limits.goodV (lim : Limits) (pair : Prop) (r : Nat) : Prop := r < lim.vregs ∧ (pair → r % 2 = 0 ∧ r + 1 < lim.vregs)

theorem badV_iff (hv : lim.vregs ≤ 768) (pair : Bool) (r : Nat) : badV lim pair r = true ↔ ¬ lim.goodV (pair = true) r := by
  unfold badV Limits.goodV
  cases pair
  · simp only [Bool.false_and, Bool.or_false, Bool.or_eq_true, decide_eq_true_eq, Bool.false_eq_true, false_implies, and_true]
    omega
  · simp only [Bool.true_and, Bool.or_eq_true, decide_eq_true_eq, beq_iff_eq, true_implies]
    omega

theorem badSrc_iff (hv : lim.vregs ≤ 768) (pair imm : Bool) (r : Nat) : badSrc lim pair imm r = true ↔
    ¬ (lim.goodV (pair = true) r ∨ (768 ≤ r ∧ r < 832) ∨ (imm = true ∧ r = 1023)) := by
  unfold badSrc
  have hlt : lim.goodV (pair = true) r → r < 768 := fun h => Nat.lt_of_lt_of_le h.1 hv
  split_ifs with h1 h2
  · rw [badV_iff hv]
    refine not_congr ⟨.inl, fun h => ?_⟩
    exact h.resolve_right (by omega)
  · simp only [false_iff, not_not]
    exact .inr (.inl ⟨by omega, h2⟩)
  · rw [Bool.not_eq_true', ← Bool.not_eq_true, Bool.and_eq_true, beq_iff_eq, or_iff_right (h1 ∘ hlt), or_iff_right (h2 ·.2)]

theorem ty64_iff (ty : BitVec 4) : ty64 ty.toNat = true ↔ ty = 11 ∨ ty = 12 := by
  revert ty
  decide

theorem nz_iff {n : Nat} (x : BitVec n) : nz x = true ↔ x ≠ 0 := by simp [nz]

theorem toNat_pos_iff {n : Nat} (x : BitVec n) : 0 < x.toNat ↔ x ≠ 0 := by
  rw [Nat.pos_iff_ne_zero, Ne, Ne, BitVec.toNat_eq]
  rfl
end

section
variable {s : State} {ctx : Nat} {b : Block}

/-- What the checks need of a team in a block (R40, R252, R277). -/
def State.limitsIn (s : State) (ctx : Nat) (b : Block) : Limits :=
  { vregs := b.vregs, acc := b.acc, width := b.width, control := s.isControl ctx, handler := s.isHandler ctx }

theorem State.decodeTrap_of_block (hb : s.blockOf? ctx = some b) (i : Instr) :
    s.decodeTrap ctx i = (flaws (s.limitsIn ctx b) i).cause := by
  unfold State.decodeTrap State.limits
  rw [hb]
  rfl

theorem Flaws.cause_control (ctl rsv acc : Bool) : ({ ctl, rsv, acc } : Flaws).cause =
    if ctl = true then some Cause.badctl else if rsv = true then some Cause.rsvfld else if acc = true then some Cause.badacc
    else none := rfl

theorem Flaws.cause_handler (priv rsv reg : Bool) : ({ priv, rsv, reg } : Flaws).cause =
    if priv = true then some Cause.privop else if rsv = true then some Cause.rsvfld else if reg = true then some Cause.badreg
    else none := rfl

theorem Flaws.cause_fields (rsv reg typ : Bool) : ({ rsv, reg, typ } : Flaws).cause =
    if rsv = true then some Cause.rsvfld else if reg = true then some Cause.badreg else if typ = true then some Cause.badtype
    else none := rfl
end

section
variable {lim : Limits}

/-- The types that the integer mould does not take (R76). -/
theorem not_tysI_iff (ty : BitVec 4) : (!tysI.contains ty.toNat) = true ↔ ty.toNat ∈ [6, 7, 8, 9, 10, 13, 14, 15] := by
  revert ty
  decide

theorem flaws_vadd (hv : lim.vregs ≤ 768) (f : VF) :
    let pair := f.ty = 11 ∨ f.ty = 12
    (flaws lim (.vadd f)).cause =
      if f.res ≠ 0 ∨ (f.pn = true ∧ f.pm = 0) ∨ f.rnd ≠ 0 ∨ f.vc ≠ 0 ∨ (f.vb.toNat ≠ 1023 ∧ f.imm ≠ 0) then some Cause.rsvfld
      else if ¬ (lim.goodV pair f.vd.toNat ∧ (lim.goodV pair f.va.toNat ∨ (768 ≤ f.va.toNat ∧ f.va.toNat < 832)) ∧
        (lim.goodV pair f.vb.toNat ∨ (768 ≤ f.vb.toNat ∧ f.vb.toNat < 832) ∨ f.vb.toNat = 1023)) then some Cause.badreg
      else if f.ty.toNat ∈ [6, 7, 8, 9, 10, 13, 14, 15] then some Cause.badtype else none := by
  intro pair
  have hrnd : f.rnd = 0 → ¬ 4 < f.rnd.toNat := fun h => by rw [h]; decide
  refine (Flaws.cause_fields _ _ _).trans (if_congr ?_ rfl (if_congr ?_ rfl (if_congr (not_tysI_iff f.ty) rfl rfl)))
  · simp only [rsvV, Bool.or_eq_true, Bool.and_eq_true, nz_iff, decide_eq_true_eq, Bool.not_true, Bool.not_false, Bool.false_and,
      Bool.true_and, Bool.false_eq_true, or_false, beq_iff_eq, bne_iff_ne]
    tauto
  · simp only [Bool.or_eq_true, Bool.true_and, Bool.false_and, badV_iff hv, badSrc_iff hv, ty64_iff, true_and, false_and,
      or_false, Bool.false_eq_true]
    rw [or_assoc]
    exact (not_and_or.trans (or_congr_right not_and_or)).symm

theorem flaws_sadd (f : SF) : (flaws lim (.sadd f)).cause =
    if f.pm ≠ 0 ∨ f.pn = true ∨ f.imm ≠ 0 then some Cause.rsvfld else none := by
  have himm : f.imm &&& ~~~ (0 : BitVec 64) = f.imm := BitVec.and_allOnes
  refine (Flaws.cause_fields _ _ _).trans (if_congr ?_ rfl rfl)
  simp only [himm, Bool.or_eq_true, nz_iff, Bool.not_true, Bool.false_and, Bool.false_eq_true, or_false, or_assoc]

/-- What R80, R81 and R419 reserve in a VLD. -/
abbrev vldReserved (f : MF) : Prop :=
  f.res ≠ 0 ∨ 4 < f.sz.toNat ∨ 4 < f.scope.toNat ∨ 1 < f.well.toNat ∨ f.aop ≠ 0 ∨ f.shift ≠ 0 ∨ (f.pn = true ∧ f.pm = 0) ∨
    f.idx.toNat ≠ 1023 ∨ (f.sx = true ∧ 1 < f.sz.toNat) ∨ 1 < f.ord.toNat

/-- The registers of a vector datum of a size (R81). -/
abbrev dataRegs (f : MF) : Nat := if f.sz = 3 then 2 else if f.sz = 4 then 4 else 1

theorem flaws_vld_rsv (f : MF) : (flaws lim (.vld f)).rsv = true ↔ vldReserved f := by
  have hsx : (!mVld.sx.contains f.sz.toNat) = true ↔ 1 < f.sz.toNat := by
    generalize f.sz = z
    revert z
    decide
  have hord : (!mVld.ords.contains f.ord.toNat) = true ↔ 1 < f.ord.toNat := by
    generalize f.ord = z
    revert z
    decide
  have haop : 11 < f.aop.toNat → f.aop ≠ 0 := fun h e => by rw [e] at h; exact absurd h (by decide)
  change (chkM lim f mVld).rsv = true ↔ _
  simp only [chkM, Bool.or_eq_true, Bool.and_eq_true, hsx, hord, nz_iff]
  simp only [mVld, decide_eq_true_eq, beq_iff_eq, Nat.one_ne_zero, OfNat.one_ne_ofNat, le_refl, Bool.not_true, Bool.not_false,
    Bool.false_eq_true, Bool.not_eq_true', beq_eq_false_iff_ne, true_and, false_and, or_false]
  grind

theorem flaws_vld_reg (hv : lim.vregs ≤ 768) (f : MF) : (flaws lim (.vld f)).reg = true ↔
    f.data.toNat % dataRegs f ≠ 0 ∨ lim.vregs < f.data.toNat + dataRegs f := by
  have h3 : f.sz.toNat = 3 ↔ f.sz = 3 := BitVec.toNat_inj (y := 3)
  have h4 : f.sz.toNat = 4 ↔ f.sz = 4 := BitVec.toNat_inj (y := 4)
  have hidx : decide (2 ≤ mVld.idx) = false := rfl
  have hn : 0 < dataRegs f := by
    unfold dataRegs
    split_ifs <;> decide
  change (chkM lim f mVld).reg = true ↔ _
  simp only [chkM, hidx, Bool.and_false, Bool.false_and, Bool.false_or]
  simp only [mVld, badData, h3, h4, Bool.or_eq_true, Bool.false_and, decide_eq_true_eq, bne_iff_ne, Bool.false_eq_true, if_false,
    Nat.mul_one]
  unfold dataRegs at hn ⊢
  omega

theorem flaws_vld_typ {f : MF} (h : ¬ vldReserved f) : (flaws lim (.vld f)).typ = false := by
  have hsz : ¬ 4 < f.sz.toNat := fun hs => h (.inr (.inl hs))
  have hall : ∀ z : BitVec 3, ¬ 4 < z.toNat → (!mVld.szs.contains z.toNat) = false := by decide
  change (chkM lim f mVld).typ = false
  simp only [chkM, hall _ hsz]
  rfl

theorem flaws_vld (hv : lim.vregs ≤ 768) (f : MF) : (flaws lim (.vld f)).cause =
    if vldReserved f then some Cause.rsvfld
    else if f.data.toNat % dataRegs f ≠ 0 ∨ lim.vregs < f.data.toNat + dataRegs f then some Cause.badreg else none := by
  refine (Flaws.cause_fields (flaws lim (.vld f)).rsv (flaws lim (.vld f)).reg (flaws lim (.vld f)).typ).trans ?_
  by_cases h : vldReserved f
  · rw [if_pos h, if_pos ((flaws_vld_rsv f).2 h)]
  · rw [if_neg h, if_neg (mt (flaws_vld_rsv f).1 h)]
    exact if_congr (flaws_vld_reg hv f) rfl (if_neg (Bool.eq_false_iff.1 (flaws_vld_typ h)))

/-- A field whose set bits all lie in a mask. -/
theorem and_not_eq_zero_iff {n : Nat} (x m : BitVec n) : x &&& ~~~ m = 0 ↔ x &&& m = x := by
  simp only [BitVec.eq_of_getLsbD_eq_iff, BitVec.getLsbD_and, BitVec.getLsbD_not]
  refine forall₂_congr fun i hi => ?_
  cases x.getLsbD i <;> simp [hi]

theorem and_not_one_ne_zero_iff (x : BitVec 48) : x &&& ~~~ 1 ≠ 0 ↔ x.toNat / 2 ≠ 0 := by
  have hbit : x &&& 1 = x ↔ x.toNat / 2 = 0 := by
    rw [← BitVec.toNat_inj, BitVec.toNat_and, show (1 : BitVec 48).toNat = 1 from rfl, Nat.and_one_is_mod]
    omega
  rw [Ne, and_not_eq_zero_iff, hbit]

/-- The bits of a Y-format sub-field below CTXRD's register (R363). -/
theorem and_not_vr_ne_zero_iff (x : BitVec 63) : x &&& ~~~ ((0x3FF <<< 53 : Nat) : BitVec 63) ≠ 0 ↔ x.toNat % 2 ^ 53 ≠ 0 := by
  have hmask : (~~~ ((0x3FF <<< 53 : Nat) : BitVec 63)).toNat = 2 ^ 53 - 1 := by decide
  rw [Ne, ← BitVec.toNat_inj, BitVec.toNat_and, hmask, Nat.and_two_pow_sub_one_eq_mod]
  rfl

theorem flaws_br (f : CF) : (flaws lim (.br f)).cause =
    if f.pm ≠ 0 ∨ f.pn = true ∨ f.res ≠ 0 ∨ f.sa ≠ 0 ∨ f.ksel ≠ 0 ∨ f.cc ≠ 0 then some Cause.rsvfld else none := by
  refine (Flaws.cause_fields _ _ _).trans (if_congr ?_ rfl rfl)
  simp only [toNat_pos_iff, Bool.or_eq_true, nz_iff, decide_eq_true_eq, Bool.not_true, Bool.not_false, Bool.false_and,
    Bool.true_and, Bool.false_eq_true, or_false, or_assoc]

theorem flaws_mma (f : XF) : (flaws lim (.mma f)).cause =
    if lim.control = true then some Cause.badctl
    else if f.pm ≠ 0 ∨ f.pn = true ∨ f.hc ≠ 0 ∨ f.bar ≠ 0 ∨ f.s1 ≠ 0 ∨ f.sub.toNat / 2 ≠ 0 then some Cause.rsvfld
    else if lim.acc ≤ f.zd.toNat then some Cause.badacc else none := by
  refine (Flaws.cause_control _ _ _).trans <| if_congr .rfl rfl (if_congr ?_ rfl (if_congr ?_ rfl rfl))
  · simp only [chkX, xMma, and_not_one_ne_zero_iff, Bool.or_eq_true, nz_iff, Bool.not_true, Bool.not_false, Bool.false_and,
      Bool.true_and, Bool.false_eq_true, or_false, or_assoc]
  · simp only [chkX, xMma, Bool.true_and, decide_eq_true_eq]

theorem flaws_ctxrd (hv : lim.vregs ≤ 768) (f : YF) : (flaws lim (.ctxrd f)).cause =
    if lim.handler = false then some Cause.privop
    else if f.pm ≠ 0 ∨ f.pn = true ∨ f.code ≠ 0 ∨ f.sub.toNat % 2 ^ 53 ≠ 0 then some Cause.rsvfld
    else if lim.vregs ≤ f.sub.toNat / 2 ^ 53 then some Cause.badreg else none := by
  refine (Flaws.cause_handler _ _ _).trans <| if_congr ?_ rfl (if_congr ?_ rfl (if_congr ?_ rfl rfl))
  · rw [Bool.not_eq_true']
  · simp only [chkY, and_not_vr_ne_zero_iff, Bool.or_eq_true, nz_iff, Bool.not_true, Bool.false_and, Bool.false_eq_true,
      or_false, or_assoc, decide_eq_true_eq, toNat_pos_iff]
  · have hvr : yVr f = f.sub.toNat / 2 ^ 53 := by
      have hlt := f.sub.isLt
      unfold yVr
      rw [BitVec.extractLsb'_toNat, Nat.shiftRight_eq_div_pow]
      exact Nat.mod_eq_of_lt (by omega)
    rw [hvr]
    simp only [Bool.or_eq_true, decide_eq_true_eq]
    omega
end

/-- Settles O16: the trap of the first check that fails, what each outcome of the fetch comes to at the line checks, and the
decode checks of one word of each format. -/
theorem checksBeforeIssue : Obligations.ChecksBeforeIssue := by
  unfold Obligations.ChecksBeforeIssue
  refine ⟨fun s ctx i c second he hc hi ht => State.exec_issueTrap he hc hi ht, fun s ctx w hc hi => ?_, fun s ctx hc hi => ?_,
    fun s ctx i => State.issueTrap_eq_none, fun s ctx b hb hv => ?_⟩
  · exact State.exec_issueTrap (i := .reservedOpcode w) (second := false) (Option.some_ne_none w) hc hi rfl
  · refine ⟨fun h => State.exec_lineChecks hc hi (State.fetch_badslot h),
      fun h h2 => State.exec_lineChecks hc hi (State.fetch_noncanon h h2), fun s' w second hf => ?_,
      fun s' ty lv hf => State.lineChecks_held hc hi hf, fun s' hf => ?_, fun s' c w hf => ?_⟩
    · exact ⟨State.exec_lineChecks hc hi hf, by simpa only [hf] using s.fetch_only ctx⟩
    · exact ⟨State.exec_lineChecks hc hi hf, by simpa only [hf] using s.fetch_only ctx⟩
    · exact ⟨by simpa only [hf] using s.fetch_only ctx, State.exec_lineChecks hc hi hf⟩
  · have htrap := State.decodeTrap_of_block hb
    have hlim : (s.limitsIn ctx b).vregs ≤ 768 := hv
    exact ⟨fun w => rfl, fun f => (htrap _).trans (flaws_vadd hlim f), fun f => (htrap _).trans (flaws_sadd f),
      fun f => (htrap _).trans (flaws_vld hlim f), fun f => (htrap _).trans (flaws_mma f), fun f => (htrap _).trans (flaws_br f),
      fun f => (htrap _).trans (flaws_ctxrd hlim f)⟩

end Sys2Proof.Machine
end

section
/-! SUPPORT. Memory instructions at issue: pieces in groups, the entry and the cells owed, and requests that hold no entry
(spec/06_well.md R121; spec/08_ordering.md R176, R179; spec/13_preemption.md R284; spec/17_ref_evpop_sxor.md R387). -/

namespace Sys2Proof.Machine

/-! ## What an instruction's own part leaves of its team -/

section
variable {s : State} {ctx : Nat} {i : Instr} {body : Nat → Issued}

/-- An instruction that is done and has touched its team alone. -/
theorem State.goesOn_of_body {v : State} (he : exec i s = s.atIssue i body) (hr : s.Runs ctx) (hp : s.Passes ctx i)
    (hb : body ctx = .done v) (ho : OnlyTeam s v ctx) (hm : v.marks i = s.marks i) : s.GoesOn ctx i s (v.team ctx) :=
  ⟨_, he.trans (State.atIssue_next body hr hp), hb ▸ State.conclude_done hr ho hm⟩

/-- An instruction that the scheduler passes over (R44). -/
theorem State.holds_of_body (he : exec i s = s.atIssue i body) (hr : s.Runs ctx) (hp : s.Passes ctx i)
    (hb : body ctx = .hold) : s.Holds i := by
  unfold State.Holds
  rw [he, State.atIssue_next body hr hp, hb]
  rfl
end

/-! ## Pieces in groups (R121) -/

theorem distinct_eq_dedup (xs : List Nat) : distinct xs = xs.dedup := by
  induction xs with
  | nil => rfl
  | cons x xs ih =>
    unfold distinct
    by_cases h : x ∈ xs
    · rw [if_pos (List.contains_iff_mem.2 h), List.dedup_cons_of_mem h, ih]
    · rw [if_neg (by rwa [List.contains_iff_mem]), List.dedup_cons_of_notMem h, ih]

/-- A list in the groups of its elements' keys, each key once. -/
theorem flatten_groups_perm {α : Type} (key : α → Nat) (ks : List Nat) (xs : List α) (hn : ks.Nodup)
    (hk : ∀ x ∈ xs, key x ∈ ks) : ((ks.map fun k => xs.filter fun x => key x == k).flatten).Perm xs := by
  induction ks generalizing xs with
  | nil =>
    obtain rfl : xs = [] := List.eq_nil_iff_forall_not_mem.2 fun x h => List.not_mem_nil (hk x h)
    exact .refl _
  | cons k ks ih =>
    obtain ⟨hout, hn⟩ := List.nodup_cons.1 hn
    have hrest : ks.map (fun j => xs.filter fun x => key x == j) =
        ks.map fun j => (xs.filter fun x => !(key x == k)).filter fun x => key x == j := by
      refine List.map_congr_left fun j hj => ?_
      rw [List.filter_filter]
      refine List.filter_congr fun x _ => ?_
      by_cases h : key x = j
      · have : ¬ j = k := fun e => hout (e ▸ hj)
        simp [h, this]
      · simp [h]
    have hmem : ∀ x ∈ xs.filter (fun x => !(key x == k)), key x ∈ ks := by
      intro x h
      obtain ⟨hx, hne⟩ := List.mem_filter.1 h
      exact (List.mem_cons.1 (hk x hx)).resolve_left (by simpa using hne)
    rw [List.map_cons, List.flatten_cons, hrest]
    exact ((ih _ hn hmem).append_left _).trans (List.filter_append_perm _ xs)

theorem byTile_perm (ps : List Piece) : (byTile ps).flatten.Perm ps := by
  refine flatten_groups_perm (fun p => va57 p.va / 4096) _ ps ?_ fun p h => ?_
  · rw [List.nodup_reverse, distinct_eq_dedup]
    exact List.nodup_dedup _
  · rw [List.mem_reverse, distinct_eq_dedup, List.mem_dedup, List.mem_reverse]
    exact List.mem_map_of_mem h

theorem byRun_flatten (ps : List Piece) : (byRun ps).flatten = ps := by
  induction ps with
  | nil => rfl
  | cons p ps ih =>
    unfold byRun
    split
    next q qs rest h =>
      rw [h] at ih
      split_ifs <;> simpa using ih
    next => simpa using ih

/-- The groups of an instruction's pieces: runs on a strongly ordered page, tiles on any other (R121, R176). -/
theorem groups_perm (kind : Nat) (ps : List Piece) : (if kind = 1 then byRun ps else byTile ps).flatten.Perm ps := by
  split_ifs
  · exact .of_eq (byRun_flatten ps)
  · exact byTile_perm ps

/-- A memory instruction's requests: their pieces are together those of the accesses. -/
theorem State.requests_perm (s : State) (ctx ent tag : Nat) (f : MF) (m : MemOp) (as : List Access) :
    (((s.requests ctx ent tag f m as).map (·.pieces)).flatten).Perm ((as.map m.pieces).flatten) := by
  unfold State.requests
  dsimp only
  by_cases hw : m.win = true
  · rw [if_pos hw]
    exact .of_eq (by simp [LsItem.pieces])
  · rw [if_neg hw, List.map_map]
    exact (List.Perm.of_eq (congrArg List.flatten (List.zipIdx_map_fst s.uid _))).trans (groups_perm _ _)

theorem State.requests_ask {s : State} {ctx ent tag : Nat} {f : MF} {m : MemOp} {as : List Access} {x : LsItem}
    (hx : x ∈ s.requests ctx ent tag f m as) : x.ent = ent ∧ x.asks m.op m.win := by
  unfold State.requests at hx
  unfold LsItem.asks
  dsimp only at hx
  by_cases hw : m.win = true
  · rw [if_pos hw, List.mem_singleton] at hx
    subst hx
    exact ⟨rfl, by rw [if_pos hw]; exact ⟨_, rfl⟩⟩
  · rw [if_neg hw] at hx
    obtain ⟨⟨g, uid⟩, _, rfl⟩ := List.mem_map.1 hx
    exact ⟨rfl, by rw [if_neg hw]; exact ⟨_, rfl, rfl⟩⟩

/-! ## Results owed -/

theorem Team.owes_post {t : Team} {u : Nat} {c d : Cell} {v : Option (BitVec 1024)} :
    (t.post u c v).owes d ↔ d = c ∨ t.owes d := by
  unfold Team.owes
  rw [Team.post_pend]
  by_cases h : d = c
  · simp [h]
  · simp only [h, false_or, List.mem_append, List.mem_filter, List.mem_singleton]
    constructor
    · rintro ⟨r, ⟨hr, -⟩ | rfl, he⟩
      · exact ⟨r, hr, he⟩
      · exact absurd he.symm h
    · rintro ⟨r, hr, rfl⟩
      exact ⟨r, .inl ⟨hr, by simpa using h⟩, rfl⟩

theorem Team.owes_postAll {t : Team} {u : Nat} {rs : List (Cell × Option (BitVec 1024))} {d : Cell} :
    (t.postAll u rs).owes d ↔ (∃ r ∈ rs, r.1 = d) ∨ t.owes d := by
  induction rs generalizing t with
  | nil => simp [Team.postAll]
  | cons r rs ih =>
    have h : t.postAll u (r :: rs) = (t.post u r.1 r.2).postAll u rs := rfl
    rw [h, ih, Team.owes_post, List.exists_mem_cons_iff, eq_comm (a := d)]
    exact (or_assoc.trans or_left_comm).symm

/-- Cells made outstanding with no value yet are owed, and every other cell is as it was. -/
theorem Team.postAll_noValue (t : Team) (u : Nat) (cs : List (Cell × Nat)) (c : Cell) :
    if c ∈ cs.map (·.1) then
      (t.postAll u (cs.map fun x => (x.1, none))).owes c ∧ (t.postAll u (cs.map fun x => (x.1, none))).due c = none
    else
      ((t.postAll u (cs.map fun x => (x.1, none))).owes c ↔ t.owes c) ∧
        (t.postAll u (cs.map fun x => (x.1, none))).due c = t.due c := by
  have hmem : (∃ r ∈ cs.map fun x => (x.1, (none : Option (BitVec 1024))), r.1 = c) ↔ c ∈ cs.map (·.1) := by simp
  rw [Team.owes_postAll, hmem]
  split_ifs with h
  · refine ⟨.inl h, Team.due_postAll t u _ ?_ ?_⟩
    · obtain ⟨x, hx, rfl⟩ := List.mem_map.1 h
      exact List.mem_map.2 ⟨x, hx, rfl⟩
    · intro w hw
      obtain ⟨x, -, he⟩ := List.mem_map.1 hw
      exact (Prod.mk.inj he).2.symm
  · refine ⟨or_iff_right h, Team.due_postAll_other t u _ fun r hr e => h (hmem.1 ⟨r, hr, e⟩)⟩

/-- What is owed afterwards depends on what was owed before alone. -/
theorem Team.postAll_of_pend {t t' : Team} {u : Nat} {rs : List (Cell × Option (BitVec 1024))} (h : t'.pend = t.pend) :
    t'.postAll u rs = { t' with pend := (t.postAll u rs).pend } := by
  induction rs generalizing t t' with
  | nil =>
    show t' = { t' with pend := t.pend }
    rw [← h]
  | cons r rs ih => exact ih (t := t.post u r.1 r.2) (t' := t'.post u r.1 r.2) (by rw [Team.post_pend, Team.post_pend, h])

/-! ## Accesses at issue -/

section
variable (s : State) (ctx : Nat) (i : Instr) (f : MF) (m : MemOp) (as : List Access)

/-- The requests of a memory instruction that issues. -/
def State.memItems : List LsItem := s.bumpUid.requests ctx s.uid (if m.op.writes then (s.team ctx).nextTag else 0) f m as

/-- The in-flight entry of a memory instruction that issues (R284). -/
def State.memEntry : Entry :=
  { uid := s.uid, tag := if m.op.writes then (if m.op.writes then (s.team ctx).nextTag else 0) else (s.team ctx).nextTag - 1
    kind := m.kind, clsT := m.op.writes, ld := !m.op.writes, st := m.op.writes, acq := f.ord.toNat % 2 == 1
    rel := decide (2 ≤ f.ord.toNat), strong := (s.memItems ctx f m as).any (·.strong), pc := (s.team ctx).pc, word := wordOf i
    addr := (s.team ctx).baseDisp f, left := ((as.map m.pieces).flatten).length, reserve := m.reserve, resUid := s.uid
    works := s.memItems ctx f m as }

/-- The cells that a memory instruction makes outstanding. -/
def memCells : List (Cell × Nat) := if m.op.reads then (as.map fun a => loadCells i a.lane 0).flatten else []

/-- What a team owes once a memory instruction has issued. -/
def State.memPend : List Result := ((s.team ctx).postAll s.uid ((memCells i m as).map fun c => (c.1, none))).pend

/-- The state in which a memory instruction's accesses are on their way. -/
def State.memSent : State :=
  { s.setTeam ctx ((s.team ctx).enters (s.memEntry ctx i f m as) (s.memItems ctx f m as) (s.memPend ctx i m as)) with
    uid := s.uid + 1 + (s.memItems ctx f m as).length }

theorem State.memSent_only : OnlyTeam s (s.memSent ctx i f m as) ctx :=
  .trans (.setTeam s ctx _) ⟨fun _ _ => rfl, fun _ => rfl, rfl⟩

theorem State.memSent_team : (s.memSent ctx i f m as).team ctx =
    (s.team ctx).enters (s.memEntry ctx i f m as) (s.memItems ctx f m as) (s.memPend ctx i m as) := State.team_setTeam s ctx _

theorem memIssue_trap {c : Cause} (hc : m.check ((s.blockOf? ctx).elim 0 (·.scratch)) as = some c) :
    s.memIssue ctx i f m as = .trap c 0 := by
  unfold State.memIssue
  dsimp only
  rw [hc]

variable (hc : m.check ((s.blockOf? ctx).elim 0 (·.scratch)) as = none)
include hc

theorem memIssue_nil (ha : as = []) : s.memIssue ctx i f m as = .done s := by
  unfold State.memIssue
  dsimp only
  rw [hc]
  exact if_pos (List.isEmpty_iff.2 ha)

variable (ha : as ≠ [])
include ha

theorem memIssue_hold (hr : ¬ s.room ctx m.reserve (if m.op.writes then as.length * m.n else 0) = true) :
    s.memIssue ctx i f m as = .hold := by
  unfold State.memIssue
  dsimp only
  rw [hc]
  exact (if_neg (mt List.isEmpty_iff.1 ha)).trans (if_pos (by simpa using hr))

theorem memIssue_sends (hr : s.room ctx m.reserve (if m.op.writes then as.length * m.n else 0) = true) :
    s.memIssue ctx i f m as = .done (s.memSent ctx i f m as) := by
  unfold State.memIssue
  dsimp only
  rw [hc]
  refine (if_neg (mt List.isEmpty_iff.1 ha)).trans ((if_neg (by simpa using hr)).trans ?_)
  have hcells : (if m.op.reads = true then ((as.map fun a => loadCells i a.lane 0).flatten).map fun c =>
      (c.1, (none : Option (BitVec 1024))) else []) = (memCells i m as).map fun c => (c.1, none) := by
    unfold memCells
    split_ifs <;> rfl
  have htag : (if m.op.writes = true then (s.team ctx).nextTag + 1 else (s.team ctx).nextTag) =
      (s.team ctx).nextTag + b2n m.op.writes := by
    cases m.op.writes <;> rfl
  rw [hcells, htag, Team.postAll_of_pend (t := s.team ctx)] <;> rfl
end

section
variable {s : State} {ctx : Nat} {i : Instr} {f : MF} {m : MemOp} {as : List Access} {body : Nat → Issued}

/-- A memory instruction with an access and room for it: its entry, its requests and the cells that it owes (R179, R284). -/
theorem State.sends_of_memIssue (he : exec i s = s.atIssue i body) (hr : s.Runs ctx) (hp : s.Passes ctx i)
    (hb : body ctx = s.memIssue ctx i f m as) (hc : m.check ((s.blockOf? ctx).elim 0 (·.scratch)) as = none) (ha : as ≠ [])
    (hroom : s.room ctx m.reserve (if m.op.writes then as.length * m.n else 0) = true) : s.SendsAccesses ctx i m as := by
  have hgoes := State.goesOn_of_body he hr hp (hb.trans (memIssue_sends s ctx i f m as hc ha hroom))
    (s.memSent_only ctx i f m as) rfl
  rw [State.memSent_team] at hgoes
  refine ⟨s.memEntry ctx i f m as, s.memItems ctx f m as, s.memPend ctx i m as, hgoes,
    rfl, rfl, rfl, rfl, rfl, rfl, rfl, rfl, rfl, rfl, fun hw => ?_, State.requests_perm _ _ _ _ _ _ _,
    fun x hx => State.requests_ask hx, fun c => ?_⟩
  · unfold State.memEntry
    dsimp only
    rw [if_pos hw, if_pos hw]
  · have h := (s.team ctx).postAll_noValue s.uid (memCells i m as) c
    have hmem : c ∈ (memCells i m as).map (·.1) ↔
        m.op.reads = true ∧ c ∈ ((as.map fun a => loadCells i a.lane 0).flatten).map (·.1) := by
      unfold memCells
      cases m.op.reads <;> simp
    simp only [hmem] at h
    exact h

/-- A memory instruction's own part, in the order of its checks (R148, R149, R179). -/
theorem State.issues_of_memIssue (he : exec i s = s.atIssue i body) (hr : s.Runs ctx) (hp : s.Passes ctx i)
    (hb : body ctx = s.memIssue ctx i f m as) : s.IssuesAccesses ctx i m as := by
  unfold State.IssuesAccesses
  cases hc : m.check ((s.blockOf? ctx).elim 0 (·.scratch)) as with
  | some c => exact State.trapsWith_of_body he hr hp (hb.trans (memIssue_trap s ctx i f m as hc))
  | none =>
    dsimp only
    by_cases ha : as = []
    · rw [if_pos ha]
      exact State.goesOn_of_body he hr hp (hb.trans (memIssue_nil s ctx i f m as hc ha)) (.refl s ctx) rfl
    by_cases hroom : s.room ctx m.reserve (if m.op.writes then as.length * m.n else 0) = true
    · rw [if_neg ha, if_pos hroom]
      exact State.sends_of_memIssue he hr hp hb hc ha hroom
    · rw [if_neg ha, if_neg hroom]
      exact State.holds_of_body he hr hp (hb.trans (memIssue_hold s ctx i f m as hc ha hroom))
end

/-! ## Requests without an entry (R387) -/

/-- The queued item of a request that holds no entry. -/
def State.bareItem (s : State) (ctx kind : Nat) (op : ReqOp) (va : Nat) (ps : List Piece) : LsItem :=
  { uid := s.uid, ent := 0
    work := .glob { uid := s.uid, ent := 0, ctx, core := s.coreOf ctx, asid := s.asidOf ctx, op, va, pieces := ps
                    user := !s.isHandler ctx, strong := kind == 1 }
    strong := kind == 1, unordered := kind == 2 }

/-- A team with requests more in its queue. -/
def Team.queues (t : Team) (items : List LsItem) : Team := { t with lsq := t.lsq ++ items }

theorem Team.queues_nil (t : Team) : t.queues [] = t := by
  unfold Team.queues
  rw [List.append_nil]

theorem Team.queues_queues (t : Team) (xs ys : List LsItem) : (t.queues xs).queues ys = t.queues (xs ++ ys) := by
  unfold Team.queues
  rw [List.append_assoc]

theorem State.bareOf_team (s : State) (ctx kind : Nat) (op : ReqOp) (va : Nat) (ps : List Piece) :
    (s.bareOf ctx kind op va ps).team ctx = (s.team ctx).queues [s.bareItem ctx kind op va ps] := State.team_setTeam s ctx _

theorem State.bareOf_only (s : State) (ctx kind : Nat) (op : ReqOp) (va : Nat) (ps : List Piece) :
    OnlyTeam s (s.bareOf ctx kind op va ps) ctx := .trans (.setTeam s ctx _) (.bumpUid _ ctx)

/-- Requests queued one after the other: each asks for its own pieces and holds no entry. -/
theorem State.bareOf_foldl (s : State) (ctx kind : Nat) (op : ReqOp) (va : List Piece → Nat) (i : Instr)
    (gs : List (List Piece)) :
    ∃ items : List LsItem, OnlyTeam s (gs.foldl (fun u g => u.bareOf ctx kind op (va g) g) s) ctx ∧
      (gs.foldl (fun u g => u.bareOf ctx kind op (va g) g) s).marks i = s.marks i ∧
      (gs.foldl (fun u g => u.bareOf ctx kind op (va g) g) s).team ctx = (s.team ctx).queues items ∧
      items.map (·.pieces) = gs ∧ ∀ x ∈ items, x.ent = 0 ∧ x.asks op false := by
  induction gs generalizing s with
  | nil => exact ⟨[], .refl s ctx, rfl, (Team.queues_nil _).symm, rfl, fun x h => absurd h List.not_mem_nil⟩
  | cons g gs ih =>
    obtain ⟨items, honly, hmarks, hteam, hpieces, hasks⟩ := ih (s.bareOf ctx kind op (va g) g)
    refine ⟨s.bareItem ctx kind op (va g) g :: items, (s.bareOf_only ctx kind op _ _).trans honly, hmarks, ?_, ?_, ?_⟩
    · rw [List.foldl_cons, hteam, State.bareOf_team, Team.queues_queues]
      rfl
    · rw [List.map_cons, hpieces]
      rfl
    · rintro x (_ | ⟨_, h⟩)
      · exact ⟨rfl, _, rfl, rfl⟩
      · exact hasks x h

/-- Settles O37: the uniform accesses are memory instructions of one access; PREF's requests are queued one group after the
other, and nothing is entered or owed. -/
theorem uniformAccessesAndPrefetch : Obligations.UniformAccessesAndPrefetch := by
  unfold Obligations.UniformAccessesAndPrefetch
  refine ⟨fun s ctx f hr => ⟨fun hp => State.issues_of_memIssue (i := .sld f) (f := f) rfl hr hp rfl,
    fun hp => State.issues_of_memIssue (i := .sst f) (f := f) rfl hr hp rfl,
    fun hp => State.issues_of_memIssue (i := .shld f) (f := f) rfl hr hp rfl,
    fun hp => State.issues_of_memIssue (i := .shst f) (f := f) rfl hr hp rfl⟩, fun s ctx f hr hp => ?_⟩
  intro t n lanes as
  let ps := (as.map (MemOp.pieces { op := .pref, n, kind := 0 })).flatten
  let kind := strongest (as.map fun a => s.pageKind ctx a.addr.toNat)
  have has : (if f.idx.toNat = 1023 then [({ lane := 0, addr := t.ea f 0 0 } : Access)]
      else s.laneAccesses ctx f (fun _ => 0) (fun _ => 0) fun _ => 0) = lanes.map fun l => { lane := l, addr := t.ea f 0 l } := by
    dsimp only [lanes]
    split_ifs <;> rfl
  obtain ⟨items, honly, hmarks, hteam, hgroups, hasks⟩ := s.bareOf_foldl ctx kind .pref (fun g => g.head?.elim 0 (·.va))
    (.pref f) (if kind = 1 then byRun ps else byTile ps)
  refine ⟨items, ?_, hasks, hgroups ▸ groups_perm kind ps⟩
  change s.GoesOn ctx (.pref f) s ((s.team ctx).queues items)
  rw [← hteam]
  refine State.goesOn_of_body rfl hr hp ?_ honly hmarks
  dsimp only
  rw [has]
  rfl

end Sys2Proof.Machine
end

section
/-! SUPPORT. The matrix array's work (spec/05_numbers.md R103, R111 to R115; spec/10_matrix.md R225 to R227): an element of an
MMA's result by its format, the exact sum, what a commit writes, and the operands that a start takes, in which O53 fails. -/

namespace Sys2Proof.Machine

/-! ## An element of an MMA (R111 to R115) -/

/-- An operand element under a negate option: the sign bit inverted for a floating-point format, the integer negated for q8 and
q4. -/
theorem negElem_eq (fmt : Nat) (on : Bool) (x : Word32) : negElem fmt on x =
    if on = false then x else if 13 ≤ fmt then -x else x ^^^ BitVec.ofNat 32 (2 ^ ((fmtOf fmt).w - 1)) := by
  have hflip : BitVec.ofNat 32 (flipSign fmt x.toNat) = x ^^^ BitVec.ofNat 32 (2 ^ ((fmtOf fmt).w - 1)) := by
    apply BitVec.eq_of_toNat_eq
    rw [BitVec.toNat_xor, BitVec.toNat_ofNat, BitVec.toNat_ofNat, flipSign, Nat.xor_mod_two_pow, Nat.mod_eq_of_lt x.isLt]
  unfold negElem mmaFloat
  by_cases hf : fmt < 13
  · simp [hf, Nat.not_le.2 hf, hflip]
  · simp [hf, Nat.not_lt.1 hf]

/-- A row of an operand with 32 rows of `k` elements. -/
theorem rowOf_map (f : Word32 → Word32) {a : List Word32} {k r : Nat} (hr : r < 32) (ha : a.length = 32 * k) :
    rowOf (a.map f) k r = (List.range k).map fun i => f (a[r * k + i]?.getD 0) := by
  have hrow : r * k + k ≤ 32 * k := by nlinarith
  apply List.ext_getElem
  · simp only [rowOf, List.length_take, List.length_drop, List.length_map, List.length_range, ha]
    omega
  · intro i hi _
    have hik : i < k := (List.length_take_le _ _).trans_lt' hi
    have hlt : r * k + i < a.length := by omega
    simp [rowOf, hlt]

/-- A column of an operand with `k` rows of 32 elements. -/
theorem column_map (f : Word32 → Word32) {b : List Word32} {k c : Nat} (hc : c < 32) (hb : b.length = 32 * k) :
    column (b.map f) k c = (List.range k).map fun i => f (b[i * 32 + c]?.getD 0) := by
  apply List.map_congr_left
  intro i hi
  have hlt : i * 32 + c < b.length := by have := List.mem_range.1 hi; omega
  simp [hlt]

section
variable {fa fb k : Nat} {a b : Nat → Word32}

theorem dotInt_range : dotInt ((List.range k).map a) ((List.range k).map b) =
    ((List.range k).map fun i => (a i).toInt * (b i).toInt).sum := by
  rw [dotInt, List.zipWith_map, List.zipWith_self, List.sum_eq_foldl]

theorem dotSteps_range : dotSteps ((List.range (k + 1)).map a) ((List.range (k + 1)).map b) =
    (List.range k).foldl (fun s i => addF32 0 s (mulF32 (a (i + 1)).toNat (b (i + 1)).toNat)) (mulF32 (a 0).toNat (b 0).toNat) := by
  simp only [List.range_succ_eq_map, List.map_cons, List.map_map, dotSteps, List.zip_map', List.foldl_map, Function.comp,
    Nat.succ_eq_add_one]

theorem dotOnce_range : dotOnce fa fb ((List.range k).map a) ((List.range k).map b) =
    roundFV fF32 0 false false (sumFV ((List.range k).map fun i =>
      mulFV (unpack (fmtOf fa) (a i).toNat) (unpack (fmtOf fb) (b i).toNat))) := by
  rw [dotOnce, List.zipWith_map, List.zipWith_self]
end

/-- An i32 result, wrapped or saturated (R107). -/
theorem ofNat_narrowInt (sat : Bool) (x : Int) : BitVec.ofNat 32 (narrowInt 0 sat x) =
    BitVec.ofInt 32 (if sat then max (-2 ^ 31) (min (2 ^ 31 - 1) x) else x) := by
  have hwrap (y : Int) : BitVec.ofNat 32 (wrapN 32 y) = BitVec.ofInt 32 y := by
    apply BitVec.eq_of_toNat_eq
    simp only [wrapN, BitVec.toNat_ofNat, BitVec.toNat_ofInt]
    omega
  exact hwrap _

/-- A floating-point sum as the array delivers it: as it is, or added to the accumulator's element (R111). -/
def mmaPut (acd : Bool) (c : Word32) (t : Nat) : Word32 := BitVec.ofNat 32 (if acd then canon fF32 t else addF32 0 c.toNat t)

/-- Element `k` of A's row `r` as the job multiplies it, its sign inverted where the job says so. -/
def MmaJob.elemA (j : MmaJob) (o : MmaOps) (r k : Nat) : Word32 :=
  negElem (Shape.fmt j.ra) j.nega (o.a[r * mmaK (Shape.fmt j.ra) + k]?.getD 0)

/-- Element `k` of B's column `c` as the job multiplies it. -/
def MmaJob.elemB (j : MmaJob) (o : MmaOps) (c k : Nat) : Word32 := negElem (Shape.fmt j.rb) j.negb (o.b[k * 32 + c]?.getD 0)

section
variable {j : MmaJob} {o : MmaOps} (z : Nat → Nat → Word32) {r c : Nat} (hr : r < 32) (hc : c < 32)
  (ha : o.a.length = 32 * mmaK (Shape.fmt j.ra)) (hb : o.b.length = 32 * mmaK (Shape.fmt j.ra))
include hr hc ha hb

/-- Element (r, c) of an MMA's result is made of A's row r and B's column c. -/
theorem MmaJob.result_elem : (j.result o z)[r * 32 + c]? = some (mmaElement (Shape.fmt j.ra) (Shape.fmt j.rb)
    ((List.range (mmaK (Shape.fmt j.ra))).map (j.elemA o r)) ((List.range (mmaK (Shape.fmt j.ra))).map (j.elemB o c))
    (o.sa[r]?.getD oneF32) o.sb (z r c) j.acd j.sat) := by
  have he : r * 32 + c < 1024 := by omega
  have hdiv : (r * 32 + c) / 32 = r := by omega
  have hmod : (r * 32 + c) % 32 = c := by omega
  simp only [MmaJob.result, List.getElem?_map, List.getElem?_range he, Option.map_some, hdiv, hmod, rowOf_map _ hr ha,
    column_map _ hc hb]
  rfl

/-- R115: the exact sum of products, alone or added to the accumulator's element, wrapped or saturated. -/
theorem MmaJob.result_int (h : Shape.fmt j.ra = 13 ∨ Shape.fmt j.ra = 14) :
    let sum := ((List.range (mmaK (Shape.fmt j.ra))).map fun k => (j.elemA o r k).toInt * (j.elemB o c k).toInt).sum
    let x := (z r c).toInt + sum
    (j.result o z)[r * 32 + c]? =
      some (BitVec.ofInt 32 (if j.acd then sum else if j.sat then max (-2 ^ 31) (min (2 ^ 31 - 1) x) else x)) := by
  rw [MmaJob.result_elem z hr hc ha hb, mmaElement, if_pos h, dotInt_range]
  dsimp only
  rw [ofNat_narrowInt]
  cases j.acd <;> rfl

/-- R114: sixteen products rounded and summed in turn. -/
theorem MmaJob.result_f32 (h : Shape.fmt j.ra = 6) : (j.result o z)[r * 32 + c]? = some (mmaPut j.acd (z r c)
    ((List.range 15).foldl (fun s k => addF32 0 s (mulF32 (j.elemA o r (k + 1)).toNat (j.elemB o c (k + 1)).toNat))
      (mulF32 (j.elemA o r 0).toNat (j.elemB o c 0).toNat))) := by
  have hk : mmaK (Shape.fmt j.ra) = 15 + 1 := by rw [h]; rfl
  rw [MmaJob.result_elem z hr hc ha hb, hk, mmaElement, if_neg (by omega), if_pos h, dotSteps_range, mmaPut]

/-- R112: the exact sum of the products of f16 or bf16 elements, rounded once. -/
theorem MmaJob.result_half (h : Shape.fmt j.ra = 7 ∨ Shape.fmt j.ra = 8) :
    (j.result o z)[r * 32 + c]? = some (mmaPut j.acd (z r c) (roundFV fF32 0 false false
      (sumFV ((List.range (mmaK (Shape.fmt j.ra))).map fun k =>
        mulFV (unpack (fmtOf (Shape.fmt j.ra)) (j.elemA o r k).toNat) (unpack (fmtOf (Shape.fmt j.rb)) (j.elemB o c k).toNat))))) := by
  have hf8 : ¬ isF8 (Shape.fmt j.ra) = true := by rcases h with h | h <;> rw [h] <;> decide
  rw [MmaJob.result_elem z hr hc ha hb, mmaElement, if_neg (by omega), if_neg (by omega), if_neg hf8, dotOnce_range, mmaPut]

/-- R113: the sum of an 8-bit format, rounded once and scaled by the scales of A's row and of B. -/
theorem MmaJob.result_f8 (h : Shape.fmt j.ra = 9 ∨ Shape.fmt j.ra = 10) :
    (j.result o z)[r * 32 + c]? = some (mmaPut j.acd (z r c) (mulF32 (roundFV fF32 0 false false
      (sumFV ((List.range (mmaK (Shape.fmt j.ra))).map fun k =>
        mulFV (unpack (fmtOf (Shape.fmt j.ra)) (j.elemA o r k).toNat) (unpack (fmtOf (Shape.fmt j.rb)) (j.elemB o c k).toNat))))
      (mulF32 (o.sa[r]?.getD oneF32).toNat o.sb.toNat))) := by
  have hf8 : isF8 (Shape.fmt j.ra) = true := by rcases h with h | h <;> rw [h] <;> decide
  rw [MmaJob.result_elem z hr hc ha hb, mmaElement, if_neg (by omega), if_neg (by omega), if_pos hf8, dotOnce_range, mmaPut]
end

/-! ## The exact sum (R103) -/

/-- A value counted in units of a lower power of two. -/
theorem scaled_shift (n : Bool) (m : Nat) {e lo lo' : Int} (h : lo ≤ lo') (he : lo' ≤ e) :
    scaled n m e lo = scaled n m e lo' * 2 ^ (lo' - lo).toNat := by
  have hsplit : (e - lo).toNat = (e - lo').toNat + (lo' - lo).toNat := by omega
  unfold scaled
  rw [hsplit]
  cases n <;> push_cast <;> simp [pow_add, mul_assoc]

/-- The sum of two finite values is finite, and exact. -/
theorem addFV_fin (mode : Nat) (na nb : Bool) (ma mb : Nat) {ea eb lo : Int} (ha : lo ≤ ea) (hb : lo ≤ eb) :
    ∃ n m e, addFV mode (.fin na ma ea) (.fin nb mb eb) = .fin n m e ∧ lo ≤ e ∧
      scaled n m e lo = scaled na ma ea lo + scaled nb mb eb lo := by
  have hunits : ∀ n m, scaled n m (min ea eb) (min ea eb) = if n then -(m : Int) else m := by intro n m; simp [scaled]
  have hmin : lo ≤ min ea eb := le_min ha hb
  rw [scaled_shift na ma hmin (min_le_left ea eb), scaled_shift nb mb hmin (min_le_right ea eb), ← add_mul]
  simp only [addFV]
  generalize scaled na ma ea (min ea eb) + scaled nb mb eb (min ea eb) = x
  split_ifs with hx
  · exact ⟨_, _, _, rfl, hmin, by rw [scaled_shift _ _ hmin le_rfl, hunits, hx]; simp⟩
  · exact ⟨_, _, _, rfl, hmin, by rw [scaled_shift _ _ hmin le_rfl, hunits, hx]; simp⟩
  · refine ⟨_, _, _, rfl, hmin, ?_⟩
    rw [scaled_shift _ _ hmin le_rfl, hunits]
    congr 1
    by_cases h : x < 0
    · simp only [h, decide_true, if_true]; omega
    · simp only [h, decide_false, Bool.false_eq_true, if_false]; omega

/-- The exact sum of finite values is the sum of their values. -/
theorem sumFV_exact {lo : Int} {v : FV → Int} (hv : ∀ n m e, v (.fin n m e) = scaled n m e lo) {l : List FV} (hl : l ≠ [])
    (h : ∀ x ∈ l, ∃ n m e, x = .fin n m e ∧ lo ≤ e) :
    ∃ n m e, sumFV l = .fin n m e ∧ lo ≤ e ∧ scaled n m e lo = (l.map v).sum := by
  induction l with
  | nil => exact absurd rfl hl
  | cons x xs ih =>
    obtain ⟨⟨n, m, e, rfl, he⟩, hxs⟩ := List.forall_mem_cons.1 h
    cases xs with
    | nil => exact ⟨n, m, e, rfl, he, by simp [hv]⟩
    | cons y ys =>
      obtain ⟨n', m', e', hsum, he', hval⟩ := ih (List.cons_ne_nil y ys) hxs
      obtain ⟨n'', m'', e'', hadd, hle, hexact⟩ := addFV_fin 0 n n' m m' he he'
      exact ⟨n'', m'', e'', by rw [sumFV, hsum, hadd]; simp, hle, by
        rw [hexact, hval, List.map_cons (l := y :: ys), List.sum_cons, hv]⟩

/-! ## The accumulator takes a result (R227) -/

theorem Team.setTile_z (t : Team) (j : Nat) (es : List Word32) : (t.setTile j es).z =
    (List.range es.length).foldl (fun z i => Tab.put z (j * 1024 + i) (es[i]?.getD 0)) t.z := by
  have hlist : es.zipIdx = (List.range es.length).map fun i => (es[i]?.getD 0, i) := by
    apply List.ext_getElem
    · simp
    · intro i hi _
      have hlt : i < es.length := by simpa using hi
      simp [hlt]
  rw [Team.setTile, hlist, List.foldl_map]

/-- A tile written reads as the elements given for it. -/
theorem Team.zelem_setTile_same (t : Team) (j : Nat) {es : List Word32} (hes : es.length = 1024) {r c : Nat} (hr : r < 32)
    (hc : c < 32) : some ((t.setTile j es).zelem j r c) = es[r * 32 + c]? := by
  have hlt : r * 32 + c < es.length := by omega
  have hkey : j * 1024 + r * 32 + c - j * 1024 = r * 32 + c := by omega
  unfold Team.zelem
  rw [Team.setTile_z, Tab.getD_putRun (fun i => es[i]?.getD 0), if_pos (by omega), hkey]
  simp [hlt]

/-- The other tiles stay. -/
theorem Team.zelem_setTile_other (t : Team) {j z : Nat} {es : List Word32} (hes : es.length = 1024) (hz : z ≠ j) {r c : Nat}
    (hr : r < 32) (hc : c < 32) : (t.setTile j es).zelem z r c = t.zelem z r c := by
  unfold Team.zelem
  rw [Team.setTile_z, Tab.getD_putRun (fun i => es[i]?.getD 0), if_neg (by omega)]

@[simp] theorem MmaJob.result_length (j : MmaJob) (o : MmaOps) (z : Nat → Nat → Word32) : (j.result o z).length = 1024 := by
  simp [MmaJob.result]

/-- The register results that a commit overwrites. -/
def MmaJob.overwrites (j : MmaJob) (r : Result) : Bool :=
  match r.cell with
  | .zrow z _ => z == j.zd && decide (r.uid < j.ent)
  | .commit _ uid => uid == j.uid
  | _ => false

/-- A commit changes the accumulator, takes what it overwrites from the outstanding results, and may ready the team. -/
theorem Team.commitMma_eq (t : Team) (j : MmaJob) (o : MmaOps) : t.commitMma j o =
    { t with
      z := (t.setTile j.zd (j.result o fun r c => t.zelem j.zd r c)).z, sched := (t.commitMma j o).sched
      pend := t.pend.filter fun r => !j.overwrites r } := by
  have hset : t.commitMma j o = (({ t with pend := t.pend.filter fun r => !j.overwrites r } : Team).setTile j.zd
      (j.result o fun r c => t.zelem j.zd r c)).settle := by
    unfold Team.commitMma
    generalize j.result o (fun r c => t.zelem j.zd r c) = es
    rfl
  rw [hset, Team.settle_eq, ← hset]
  generalize j.result o (fun r c => t.zelem j.zd r c) = es
  rfl

/-- What answers leave of the outstanding results: their cells. -/
theorem Team.answers_cells (l : List (Cell × Nat)) (t : Team) (uid : Nat) :
    ((l.foldl (fun t c => t.answer uid c.1 c.2) t).pend.map (·.cell)) = t.pend.map (·.cell) := by
  induction l generalizing t with
  | nil => rfl
  | cons c l ih =>
    rw [List.foldl_cons, ih, Team.answer]
    simp only [List.map_map]
    apply List.map_congr_left
    intro r _
    dsimp only [Function.comp]
    split_ifs <;> rfl

/-- A credit leaves the cells that are outstanding. -/
theorem Team.credit_cells (t : Team) (ent id lane : Nat) (got : List (Nat × Byte)) :
    (t.credit ent id lane got).pend.map (·.cell) = t.pend.map (·.cell) := by
  unfold Team.credit
  split
  · rfl
  · split
    · rfl
    · dsimp only
      split
      · rfl
      · rw [Team.answers_cells]

/-- An access credited to a team that is there: its team, the other teams, and the cores. -/
theorem State.credit_of_team {s : State} {ctx : Nat} {t : Team} (ht : Tab.get? s.teams ctx = some t) (ent id lane : Nat)
    (got : List (Nat × Byte)) :
    (∃ t', (s.credit ctx ent id lane got).team ctx = t' ∧
      t' = { t with inflight := t'.inflight, pend := t'.pend } ∧ t'.pend.map (·.cell) = t.pend.map (·.cell)) ∧
    (∀ c, c ≠ ctx → Tab.get? (s.credit ctx ent id lane got).teams c = Tab.get? s.teams c) ∧
    ∀ k, ((s.credit ctx ent id lane got).core k).arrq = (s.core k).arrq := by
  have hteam : s.team ctx = t := by simp [State.team, Tab.getD, ht]
  rcases s.credit_eq ctx ent id lane got with h | ⟨t', ht', h⟩
  · rw [h]
    exact ⟨⟨t, hteam, rfl, rfl⟩, fun _ _ => rfl, fun _ => rfl⟩
  · obtain rfl : t = t' := Option.some.inj (ht.symm.trans ht')
    refine ⟨⟨t.credit ent id lane got, ?_, t.credit_eq ent id lane got, t.credit_cells ent id lane got⟩,
      fun c hc => ?_, fun k => ?_⟩
    · rw [h.team, State.team_setTeam]
    · rw [h.teams]
      exact Tab.get?_put_other _ _ _ hc
    · rw [h.cores]
      rfl

/-- R227: the accumulator takes all 1,024 elements at once; the team's other tiles, its registers and the other teams stay, and
the job's own result is outstanding no longer. -/
theorem mmaCommit_elements {s : State} {core : Nat} {j : MmaJob} {o : MmaOps} {t : Team}
    (hj : (s.core core).arrq.find? (fun k => k.uid == j.uid) = some j) (hs : j.started = true) (ho : j.ops = some o)
    (hb : j.be = false) (ht : Tab.get? s.teams j.ctx = some t) :
    ∃ u, exec (.mmaCommit core j.uid) s = .next u ∧ (u.core core).arrq = ((s.core core).arrq.filter fun k => k.uid != j.uid) ∧
      (∀ r c, r < 32 → c < 32 → some ((u.team j.ctx).zelem j.zd r c) = (j.result o fun r c => t.zelem j.zd r c)[r * 32 + c]?) ∧
      (∀ z r c, z ≠ j.zd → r < 32 → c < 32 → (u.team j.ctx).zelem z r c = t.zelem z r c) ∧
      (∀ r ∈ (u.team j.ctx).pend, r.cell ≠ .commit j.zd j.uid) ∧ (u.team j.ctx).s = t.s ∧ (u.team j.ctx).v = t.v ∧
      ∀ c, c ≠ j.ctx → Tab.get? u.teams c = Tab.get? s.teams c := by
  have hteam : s.team j.ctx = t := by simp [State.team, Tab.getD, ht]
  let s1 := s.setCore core { s.core core with arrq := (s.core core).arrq.filter fun k => k.uid != j.uid }
  let s2 := s1.setTeam j.ctx (t.commitMma j o)
  have hget : Tab.get? s2.teams j.ctx = some (t.commitMma j o) := Tab.get?_put_same _ _ _
  have hexec : exec (.mmaCommit core j.uid) s = .next (s2.credit j.ctx j.ent (if j.after = 0 then 0 else 2) 0 []) := by
    change execMmaCommit core j.uid s = _
    simp only [execMmaCommit, hj, hs, ho, hb, State.setCore_team, hteam, Bool.false_eq_true, if_false, s2, s1]
  obtain ⟨⟨t', hu, heq, hcells⟩, hothers, hcores⟩ := State.credit_of_team hget j.ent (if j.after = 0 then 0 else 2) 0 []
  rw [Team.commitMma_eq] at heq hcells
  have htile : t'.z = (t.setTile j.zd (j.result o fun r c => t.zelem j.zd r c)).z := by rw [heq]
  have hz : ∀ z r c, t'.zelem z r c = (t.setTile j.zd (j.result o fun r c => t.zelem j.zd r c)).zelem z r c :=
    fun z r c => by rw [Team.zelem, Team.zelem, htile]
  have harrq : (s2.core core).arrq = (s.core core).arrq.filter fun k => k.uid != j.uid :=
    congrArg Core.arrq (State.core_setCore s core _)
  refine ⟨_, hexec, (hcores core).trans harrq, ?_⟩
  rw [hu]
  refine ⟨fun r c hr hc => ?_, fun z r c hz' hr hc => ?_, fun r hr => ?_, by rw [heq], by rw [heq], fun c hc => ?_⟩
  · rw [hz, t.zelem_setTile_same j.zd (j.result_length o _) hr hc]
  · rw [hz, t.zelem_setTile_other (j.result_length o _) hz' hr hc]
  · intro hc
    have hmem : Cell.commit j.zd j.uid ∈ (t.pend.filter fun r => !j.overwrites r).map (·.cell) :=
      hcells ▸ hc ▸ List.mem_map_of_mem hr
    obtain ⟨q, hq, hqc⟩ := List.mem_map.1 hmem
    simp [MmaJob.overwrites, hqc] at hq
  · rw [hothers c hc]
    exact Tab.get?_put_other _ _ _ hc

/-! ## MMA_START takes the operands (R226) -/

@[simp] theorem State.endTouches_core (s : State) (d work k : Nat) : (s.endTouches d work).core k = s.core k := rfl

@[simp] theorem State.mapJob_arrq (s : State) (core uid : Nat) (f : MmaJob → MmaJob) :
    ((s.mapJob core uid f).core core).arrq = (s.core core).arrq.map fun k => if k.uid = uid then f k else k :=
  congrArg Core.arrq (State.core_setCore s core _)

theorem State.mapJob_congr {s : State} {core uid : Nat} {f g : MmaJob → MmaJob}
    (h : ∀ k ∈ (s.core core).arrq, k.uid = uid → f k = g k) : s.mapJob core uid f = s.mapJob core uid g := by
  have hmap : ((s.core core).arrq.map fun k => if k.uid = uid then f k else k) =
      (s.core core).arrq.map fun k => if k.uid = uid then g k else k := by
    refine List.map_congr_left fun k hk => ?_
    split_ifs with hu
    · exact h k hk hu
    · rfl
  unfold State.mapJob
  dsimp only
  rw [hmap]

section
variable {s s' : State} {core : Nat} {j : MmaJob} {xs : List Nat}
  (hj : (s.core core).arrq.find? (fun k => k.uid == j.uid) = some j) (ho : j.ops = none) (hm : s.mayFetch core j = true)
  (hr : (mmaReads j.ra j.rb).zipIdx.foldl
    (Many.next fun u r => u.mmaReadAt (s.agentOf j.ctx j.user j.uid j.rep) (colOf core) j r.1 r.2) (.ready s []) = .ready s' xs)
include hj ho hm hr

/-- MMA_START with all its reads made: each job of the queue with the job's identity takes the operands that its own records
make of the values. -/
theorem mmaStart_takes : exec (.mmaStart core j.uid) s =
    .next ((s'.endTouches (s.agentOf j.ctx j.user j.uid j.rep).die j.uid).mapJob core j.uid fun k =>
      { k with started := s'.mayStart core j, rep := false, early := [], ops := some (mmaOps k.ra k.rb xs) }) := by
  change execMmaStart core j.uid s = _
  simp only [execMmaStart, hj, ho, hm, hr, Option.isSome_none, Bool.false_eq_true, if_false, Bool.not_true]

/-- Where the identity names one job, these are the operands that this job's records make (R226). -/
theorem mmaStart_takes_own (hu : ∀ k ∈ (s'.core core).arrq, k.uid = j.uid → k.ra = j.ra ∧ k.rb = j.rb) :
    exec (.mmaStart core j.uid) s =
      .next ((s'.endTouches (s.agentOf j.ctx j.user j.uid j.rep).die j.uid).mapJob core j.uid fun k =>
        { k with started := s'.mayStart core j, rep := false, early := [], ops := some (mmaOps j.ra j.rb xs) }) := by
  rw [mmaStart_takes hj ho hm hr]
  refine congrArg _ (State.mapJob_congr fun k hk hid => ?_)
  obtain ⟨ha, hb⟩ := hu k hk hid
  rw [ha, hb]

/-- O53 says that the operands of the first job go to all: so the jobs of one identity would make the same operands of the values
read. -/
theorem mmaOps_eq_of_enginesAtWork (h : Obligations.EnginesAtWork) {k : MmaJob} (hk : k ∈ (s'.core core).arrq)
    (hu : k.uid = j.uid) : mmaOps k.ra k.rb xs = mmaOps j.ra j.rb xs := by
  unfold Obligations.EnginesAtWork at h
  obtain ⟨hmma, -⟩ := h
  obtain ⟨-, -, hstart, -⟩ := hmma s core j hj
  have hsame := hstart ho hm
  simp only [hr] at hsame
  have heq := Host.Outcome.next.inj ((mmaStart_takes hj ho hm hr).symm.trans hsame)
  have hqueue := congrArg (fun u => (u.core core).arrq) heq
  simp only [State.mapJob_arrq, State.endTouches_core] at hqueue
  have hjob := List.map_inj_left.1 hqueue k hk
  simp only [if_pos hu] at hjob
  exact Option.some.inj (congrArg MmaJob.ops hjob)
end

theorem mmaOps_a_length (a b : Record) (xs : List Nat) : (mmaOps a b xs).a.length = 32 * mmaK (Shape.fmt a) := by
  simp [mmaOps]

/-! ## Reads of records with no row in range -/

/-- Reads that are all ready leave the state as it is. -/
theorem Many.foldl_ready {α : Type} {f : State → α → Got} {s : State} {l : List α} (h : ∀ a ∈ l, ∃ x, f s a = .ready s x)
    (xs : List Nat) : ∃ ys, l.foldl (Many.next f) (.ready s xs) = .ready s ys := by
  induction l generalizing xs with
  | nil => exact ⟨xs, rfl⟩
  | cons a l ih =>
    obtain ⟨⟨x, hx⟩, hl⟩ := List.forall_mem_cons.1 h
    obtain ⟨ys, hys⟩ := ih hl (xs ++ [x])
    refine ⟨ys, ?_⟩
    rw [List.foldl_cons, ← hys]
    simp only [Many.next, hx]

section
variable {rc : Record} (h : Shape.rows rc = 0)
include h

theorem Shape.inRange_noRows (i j : Nat) : Shape.inRange rc i j = false := by
  unfold Shape.inRange
  simp only [h, Bool.and_eq_false_iff, decide_eq_false_iff_not]
  omega

theorem groupA_noRows (k i : Nat) : groupA rc k i = none := by
  unfold groupA
  dsimp only
  split
  · exact if_neg (by rw [h]; omega)
  · rfl

theorem groupB_noRows (k : Nat) : groupB rc k = none := by
  have hspan : Shape.span (Shape.row0 rc) k (Shape.rows rc) = none := by
    unfold Shape.span
    exact if_neg (by rw [h]; omega)
  unfold groupB
  rw [hspan]
end

/-- With no row in range an MMA reads zeros, scales of 1.0 and zero points of 0, and no memory (R218, R219). -/
theorem mmaRead_noRows {a b : Record} (ha : Shape.rows a = 0) (hb : Shape.rows b = 0) (s : State) (g : Agent) (col : Nat)
    (wins : List Win) {r : MmaRead} (hr : r ∈ mmaReads a b) : ∃ x, s.mmaRead g col wins r = .ready s x := by
  have helem : ∀ rc i j, Shape.rows rc = 0 → ∃ x, s.mmaRead g col wins (.elem rc i j) = .ready s x := by
    intro rc i j h
    exact ⟨0, by simp [State.mmaRead, State.readElem, Shape.inRange_noRows h]⟩
  have hconst : ∀ x, ∃ y, s.mmaRead g col wins (.const x) = .ready s y := fun x => ⟨x, rfl⟩
  simp only [mmaReads, groupA_noRows ha, groupB_noRows hb, scaleRead, zeroRead, List.mem_append, List.mem_flatten, List.mem_map,
    List.mem_singleton] at hr
  rcases hr with ((((⟨_, ⟨_, _, rfl⟩, hr⟩ | ⟨_, ⟨_, _, rfl⟩, hr⟩) | ⟨_, _, rfl⟩) | rfl) | ⟨_, _, rfl⟩) | rfl
  · obtain ⟨_, _, rfl⟩ := List.mem_map.1 hr
    exact helem _ _ _ ha
  · obtain ⟨_, _, rfl⟩ := List.mem_map.1 hr
    exact helem _ _ _ hb
  all_goals exact hconst _

/-! ## Two jobs of one identity -/

/-- A record of a format with no row. -/
def noRows (fmt : Nat) : Record := BitVec.ofNat 512 (fmt * 2 ^ 64)

/-- A job of a format whose operands are clipped whole. -/
def clippedJob (fmt : Nat) : MmaJob :=
  { uid := 5, ent := 5, ctx := 0, zd := 0, ra := noRows fmt, rb := noRows fmt, nega := false, negb := false, acd := false, sat := false }

/-- Core 0 has an f16 job in its queue and behind it an f32 job with the same identity. -/
def twoJobs : State := ({} : State).setCore 0 { arrq := [clippedJob 7, clippedJob 6] }

/-- Refutes O53: in MMA_START's clause each job with the named identity takes operands made by the records of the first one,
where the model has each take those that its own records make.  They differ where the queue holds two jobs of one identity, an
f16 one with K = 32 and an f32 one with K = 16.  Issues give fresh identities, but the statement is about every state;
`mmaStart_takes_own` is the clause for queues where the identity names one job. -/
theorem not_enginesAtWork : ¬ Obligations.EnginesAtWork := by
  intro h
  have hj : (twoJobs.core 0).arrq.find? (fun k => k.uid == (clippedJob 7).uid) = some (clippedJob 7) := by decide +kernel
  have hm : twoJobs.mayFetch 0 (clippedJob 7) = true := by decide +kernel
  have hclip : Shape.rows (noRows 7) = 0 := by decide +kernel
  obtain ⟨xs, hr⟩ := Many.foldl_ready (s := twoJobs) (l := (mmaReads (clippedJob 7).ra (clippedJob 7).rb).zipIdx)
    (f := fun u r => u.mmaReadAt (twoJobs.agentOf (clippedJob 7).ctx (clippedJob 7).user (clippedJob 7).uid (clippedJob 7).rep)
      (colOf 0) (clippedJob 7) r.1 r.2)
    (fun r hr => mmaRead_noRows hclip hclip _ _ _ _ (List.fst_mem_of_mem_zipIdx hr)) []
  have hops := mmaOps_eq_of_enginesAtWork hj rfl hm hr h (k := clippedJob 6) (by decide +kernel) rfl
  have hlen := congrArg (fun o : MmaOps => o.a.length) hops
  simp only [mmaOps_a_length] at hlen
  exact absurd hlen (by decide +kernel)

end Sys2Proof.Machine
end

section
/-! SUPPORT. The machine after reset, part by part. -/

namespace Sys2Proof.Machine

/-- A die after reset: the four dies have seeds of their own, and nothing else tells one from another (R264). -/
theorem State.reset_die (d : Nat) : State.reset.die d = { seed := if d < 4 then BitVec.ofNat 64 (d + 1) else 1 } := by
  unfold State.die State.reset Tab.getD
  match d with
  | 0 | 1 | 2 | 3 => rfl
  | n + 4 => simp [Tab.get?]

/-- Settles O17: the registers are the initial values of their tables; a die and a core read the same at each number but for
the seeds. -/
theorem resetValues : Obligations.ResetValues := by
  unfold Obligations.ResetValues
  refine ⟨rfl, rfl, rfl, rfl, rfl, rfl, fun d => ?dies, fun _ => ⟨rfl, rfl, rfl⟩, rfl, rfl, rfl, rfl, rfl, rfl, rfl, rfl, rfl,
    rfl, rfl, rfl, rfl, rfl, rfl, rfl, fun d hd => ?seeds, rfl, fun _ => ⟨rfl, rfl, rfl⟩⟩
  case dies =>
    rw [State.reset_die]
    exact ⟨rfl, rfl, rfl, rfl, rfl⟩
  case seeds =>
    rw [State.reset_die]
    simp only [if_pos hd, BitVec.toNat_ofNat]
    omega

end Sys2Proof.Machine
end

section
/-! SUPPORT. The Well instructions and the cache controls at issue (spec/06_well.md R134; spec/16_ref_bany_dloop.md R354, R355;
spec/19_ref_vmulh_zwr.md R434, R435). -/

namespace Sys2Proof.Machine

/-! ## Instructions that change more than their team -/

section
variable {s s' v : State} {ctx : Nat} {i : Instr} {body : Nat → Issued}

/-- An instruction that is done: outside its team the machine is as `s'`, which has the team's block as it was. -/
theorem State.goesOn_of_done (he : exec i s = s.atIssue i body) (hr : s.Runs ctx) (hp : s.Passes ctx i)
    (hb : body ctx = .done v) (hs : s'.blockOf? ctx = s.blockOf? ctx) (ho : OnlyTeam s' v ctx) (hm : v.marks i = s.marks i) :
    s.GoesOn ctx i s' (v.team ctx) := by
  have hnext := State.atIssue_next body hr hp
  obtain ⟨_, _, b, hbk, hplace, hstep⟩ := hr
  have hgroups := OnlyTeam.noteGroups v ctx ctx (s.groupsAt ctx i)
  have hblock : (v.noteGroups ctx (s.groupsAt ctx i)).blockOf? ctx = some b := by rw [hgroups.blockOf, ho.blockOf, hs, hbk]
  obtain ⟨honly, hteam⟩ := State.complete_running (i := i) (pc := nextPc (s.team ctx).pc) hblock hplace hstep
  rw [hb] at hnext
  refine ⟨_, he.trans hnext, (ho.trans hgroups).trans honly, hteam.trans ?_⟩
  rw [← hm]
  rfl
end

/-! ## The address (R134, R434) -/

section
variable {s : State} {ctx : Nat} {f : MF} {k : Word64 → Issued}

theorem State.wellOp_noncanon (h : canonical ((s.team ctx).ea f 0 0) = false) :
    s.wellOp ctx f k = .trap Cause.noncanon 0 := by
  simp [State.wellOp, h]

theorem State.wellOp_canonical (h : canonical ((s.team ctx).ea f 0 0) = true) :
    s.wellOp ctx f k = k ((s.team ctx).ea f 0 0) := by
  simp [State.wellOp, h]

theorem State.trapsWith_wellOp {i : Instr} {body : Nat → Issued} (he : exec i s = s.atIssue i body) (hr : s.Runs ctx)
    (hp : s.Passes ctx i) (hb : body ctx = s.wellOp ctx f k) (h : canonical ((s.team ctx).ea f 0 0) = false) :
    s.TrapsWith ctx i Cause.noncanon 0 :=
  State.trapsWith_of_body he hr hp (hb.trans (State.wellOp_noncanon h))
end

/-! ## Requests -/

/-- A queued item asks for an operation at an address, for a team and an entry of it. -/
def LsItem.AsksAt (x : LsItem) (op : ReqOp) (va ctx : Nat) : Prop :=
  ∃ r, x.work = .glob r ∧ r.op = op ∧ r.va = va ∧ r.ctx = ctx ∧ r.ent = x.ent

theorem State.bareItem_asksAt (s : State) (ctx kind : Nat) (op : ReqOp) (va : Nat) (ps : List Piece) :
    (s.bareItem ctx kind op va ps).AsksAt op va ctx := ⟨_, rfl, rfl, rfl, rfl, rfl⟩

section
variable {s s' : State} {ctx : Nat} {f : MF} {i : Instr} {body : Nat → Issued} {op : ReqOp}

/-- An instruction whose request holds no entry: it is queued, whatever else `s'` has changed (R435, R355). -/
theorem State.goesOn_bareRequest {va : Nat} (he : exec i s = s.atIssue i body) (hr : s.Runs ctx) (hp : s.Passes ctx i)
    (hb : body ctx = .done (s'.bareRequest ctx op va [])) (hs : s'.blockOf? ctx = s.blockOf? ctx)
    (hm : s'.marks i = s.marks i) :
    ∃ item : LsItem, item.AsksAt op va ctx ∧ item.ent = 0 ∧ s.GoesOn ctx i s' ((s'.team ctx).queues [item]) := by
  refine ⟨s'.bareItem ctx (s'.pageKind ctx va) op va [], s'.bareItem_asksAt .., rfl, ?_⟩
  rw [← State.bareOf_team]
  exact State.goesOn_of_done he hr hp hb hs (s'.bareOf_only ..) hm

/-- An instruction whose request's result is an s-register: the register is owed (R433, R435). -/
theorem State.goesOn_wellResult (he : exec i s = s.atIssue i body) (hr : s.Runs ctx) (hp : s.Passes ctx i)
    (hb : body ctx = s.wellResult ctx f op) (h : canonical ((s.team ctx).ea f 0 0) = true) :
    ∃ item : LsItem, item.AsksAt op ((s.team ctx).ea f 0 0).toNat ctx ∧ item.ent = 0 ∧
      s.GoesOn ctx i s (((s.team ctx).post s.uid (.s f.data.toNat) none).queues [item]) := by
  unfold State.wellResult at hb
  rw [State.wellOp_canonical h] at hb
  obtain ⟨item, hasks, hent, u, hu, honly, hteam⟩ := State.goesOn_bareRequest he hr hp hb rfl rfl
  rw [State.team_setTeam] at hteam
  exact ⟨item, hasks, hent, u, hu, (OnlyTeam.setTeam s ctx _).trans honly, hteam⟩
end

/-! ## Counted write-backs (R284, R354, R435) -/

section
variable (s : State) (ctx : Nat) (i : Instr) (f : MF) (op : ReqOp)

/-- The queued item of a counted write-back. -/
def State.backItem : LsItem :=
  let kind := s.pageKind ctx ((s.team ctx).ea f 0 0).toNat
  { uid := s.uid + 1, ent := s.uid, tag := (s.team ctx).nextTag
    work := .glob { uid := s.uid + 1, ent := s.uid, ctx, tag := (s.team ctx).nextTag, core := s.coreOf ctx, asid := s.asidOf ctx, op
                    va := ((s.team ctx).ea f 0 0).toNat, user := !s.isHandler ctx, strong := kind == 1 }
    strong := kind == 1, unordered := kind == 2 }

/-- The in-flight entry of a counted write-back, KIND 4 (R284). -/
def State.backEntry : Entry :=
  { uid := s.uid, tag := (s.team ctx).nextTag, kind := 4, clsT := true, st := true
    strong := s.pageKind ctx ((s.team ctx).ea f 0 0).toNat == 1, pc := (s.team ctx).pc, word := wordOf i
    addr := (s.team ctx).baseDisp f, left := 1, works := [s.backItem ctx f op] }

/-- The team of a counted write-back that has issued. -/
def State.backTeam : Team := (s.team ctx).enters (s.backEntry ctx i f op) [s.backItem ctx f op] (s.team ctx).pend

/-- A state with the team of a counted write-back, and with the identities that it takes given out. -/
def State.withBack (s' : State) : State := { s'.setTeam ctx (s.backTeam ctx i f op) with uid := s.uid + 2 }

theorem State.withBack_only (s' : State) : OnlyTeam s' (s.withBack ctx i f op s') ctx :=
  .trans (.setTeam s' ctx _) ⟨fun _ _ => rfl, fun _ => rfl, rfl⟩

theorem State.withBack_team (s' : State) : (s.withBack ctx i f op s').team ctx = s.backTeam ctx i f op :=
  State.team_setTeam s' ctx _

/-- Dropping the core's own copies of a line reads and changes nothing of the team. -/
theorem State.withBack_dropOwn (ea : Word64) :
    (s.withBack ctx i f op s).dropOwn ctx ea = s.withBack ctx i f op (s.dropOwn ctx ea) := rfl

variable {s ctx i f op} {after : Word64 → State → State}

theorem State.writeBack_hold (h : canonical ((s.team ctx).ea f 0 0) = true) (hroom : ¬ s.room ctx 0 0 = true) :
    s.writeBack ctx i f op after = .hold := by
  unfold State.writeBack
  rw [State.wellOp_canonical h]
  exact if_pos (by simpa using hroom)

theorem State.writeBack_sends (h : canonical ((s.team ctx).ea f 0 0) = true) (hroom : s.room ctx 0 0 = true) :
    s.writeBack ctx i f op after = .done (after ((s.team ctx).ea f 0 0) (s.withBack ctx i f op s)) := by
  unfold State.writeBack
  rw [State.wellOp_canonical h]
  exact if_neg (by simp [hroom])

/-- A counted write-back at issue: passed over without room, else entered and queued, with the copies dropped that go at
issue (`s'`). -/
theorem State.issues_writeBack {s' : State} {body : Nat → Issued} (he : exec i s = s.atIssue i body) (hr : s.Runs ctx)
    (hp : s.Passes ctx i) (hb : body ctx = s.writeBack ctx i f op after) (h : canonical ((s.team ctx).ea f 0 0) = true)
    (hafter : after ((s.team ctx).ea f 0 0) (s.withBack ctx i f op s) = s.withBack ctx i f op s')
    (hs : s'.blockOf? ctx = s.blockOf? ctx) (hm : s'.marks i = s.marks i) :
    if s.room ctx 0 0 = true then ∃ (e : Entry) (item : LsItem), item.AsksAt op ((s.team ctx).ea f 0 0).toNat ctx ∧
      item.ent = e.uid ∧ e.uid = s.uid ∧ e.kind = 4 ∧ e.clsT = true ∧ e.st = true ∧ e.ld = false ∧ e.left = 1 ∧
      e.works = [item] ∧ s.GoesOn ctx i s' ((s.team ctx).enters e [item] (s.team ctx).pend)
    else s.Holds i := by
  by_cases hroom : s.room ctx 0 0 = true
  · rw [if_pos hroom]
    refine ⟨s.backEntry ctx i f op, s.backItem ctx f op, ⟨_, rfl, rfl, rfl, rfl, rfl⟩, rfl, rfl, rfl, rfl, rfl, rfl, rfl, rfl, ?_⟩
    have hdone := (hb.trans (State.writeBack_sends h hroom)).trans (congrArg Issued.done hafter)
    have hgoes := State.goesOn_of_done he hr hp hdone hs (s.withBack_only ctx i f op s') hm
    rwa [State.withBack_team] at hgoes
  · rw [if_neg hroom]
    exact State.holds_of_body he hr hp (hb.trans (State.writeBack_hold h hroom))
end

/-- Settles O38: each instruction's own part is a check of the address, then a request with or without an entry; CFLUSH and
CINV act on the machine whose core has dropped its copies of the line. -/
theorem wellRequests : Obligations.WellRequests := by
  unfold Obligations.WellRequests
  intro s ctx f hr t ea asks
  refine ⟨?_, fun hc => ⟨?_, fun hp => ?_, fun hp => ?_, ?_⟩⟩
  · simp only [List.forall_mem_cons]
    exact ⟨fun hp => State.trapsWith_wellOp rfl hr hp rfl, fun hp => State.trapsWith_wellOp rfl hr hp rfl,
      fun hp => State.trapsWith_wellOp rfl hr hp rfl, fun hp => State.trapsWith_wellOp rfl hr hp rfl,
      fun hp => State.trapsWith_wellOp rfl hr hp rfl, fun hp => State.trapsWith_wellOp rfl hr hp rfl,
      fun hp => State.trapsWith_wellOp rfl hr hp rfl, fun _ h => absurd h List.not_mem_nil⟩
  · simp only [List.forall_mem_cons]
    exact ⟨fun hp => State.goesOn_wellResult rfl hr hp rfl hc, fun hp => State.goesOn_wellResult rfl hr hp rfl hc,
      fun _ h => absurd h List.not_mem_nil⟩
  · exact State.goesOn_bareRequest (s' := s) rfl hr hp (State.wellOp_canonical hc) rfl rfl
  · exact State.goesOn_bareRequest (s' := s.dropOwn ctx ea) rfl hr hp (State.wellOp_canonical hc) rfl rfl
  · simp only [List.forall_mem_cons]
    exact ⟨fun hp => State.issues_writeBack rfl hr hp rfl hc rfl rfl rfl, fun hp => State.issues_writeBack rfl hr hp rfl hc rfl rfl rfl,
      fun hp => State.issues_writeBack rfl hr hp rfl hc (s.withBack_dropOwn ctx _ f .cflush ea) rfl rfl,
      fun _ h => absurd h List.not_mem_nil⟩

end Sys2Proof.Machine
end

section
/-! SUPPORT. The banks of a die: what ends with a lost line, and restitches asked for, begun and completed (spec/06_well.md R141
to R146; spec/12_launch.md R269). -/

namespace Sys2Proof.Machine

/-! ## Teams that only end (R269, R289) -/

/-- A team that differs in nothing but an end, if at all: it has not begun again, what had ended keeps its cause, and an end
since has cause `c`. -/
structure Team.EndsOnly (c : Cause) (t u : Team) : Prop where
  exited : t.sched = .exited → u.sched = .exited
  gone : t.gone = true → u.gone = true ∧ u.endCause = t.endCause
  ended : t.gone = false → u.gone = true → u.endCause = c

theorem Team.gone_of_exited {t : Team} (h : t.sched = .exited) : t.gone = true := by
  simp [Team.gone, h]

theorem Team.EndsOnly.refl (c : Cause) (t : Team) : t.EndsOnly c t :=
  ⟨id, fun h => ⟨h, rfl⟩, fun h g => by rw [h] at g; cases g⟩

theorem Team.EndsOnly.trans {c : Cause} {t u v : Team} (h : t.EndsOnly c u) (g : u.EndsOnly c v) : t.EndsOnly c v where
  exited := g.exited ∘ h.exited
  gone ht := by
    obtain ⟨hu, hcu⟩ := h.gone ht
    obtain ⟨hv, hcv⟩ := g.gone hu
    exact ⟨hv, hcv.trans hcu⟩
  ended ht hv := by
    cases hu : u.gone with
    | false => exact g.ended hu hv
    | true => exact (g.gone hu).2.trans (h.ended ht hu)

/-- Blocks stay, and teams only end, with cause `c`. -/
structure State.EndsOnly (c : Cause) (s u : State) : Prop where
  blocks : u.blocks = s.blocks
  teams : ∀ x, (s.team x).EndsOnly c (u.team x)

theorem State.EndsOnly.refl (c : Cause) (s : State) : s.EndsOnly c s := ⟨rfl, fun _ => .refl c _⟩

theorem State.EndsOnly.trans {c : Cause} {s u v : State} (h : s.EndsOnly c u) (g : u.EndsOnly c v) : s.EndsOnly c v :=
  ⟨g.blocks.trans h.blocks, fun x => (h.teams x).trans (g.teams x)⟩

theorem State.EndsOnly.block {c : Cause} {s u : State} (h : s.EndsOnly c u) (f : Nat) : u.block? f = s.block? f := by
  unfold State.block?
  rw [h.blocks]

/-- One team changed, in a way that only ends it. -/
theorem State.EndsOnly.of_team {c : Cause} {s u : State} {ctx : Nat} (hb : u.blocks = s.blocks)
    (ho : ∀ x, x ≠ ctx → u.team x = s.team x) (ht : (s.team ctx).EndsOnly c (u.team ctx)) : s.EndsOnly c u := by
  refine ⟨hb, fun x => ?_⟩
  by_cases hx : x = ctx
  · exact hx ▸ ht
  · rw [ho x hx]; exact .refl c _

section
variable {α : Type} {c : Cause} {f : State → α → State} (h : ∀ s a, State.EndsOnly c s (f s a))
include h

theorem State.EndsOnly.foldl (l : List α) (s : State) : s.EndsOnly c (l.foldl f s) := by
  induction l generalizing s with
  | nil => exact .refl c s
  | cons a l ih => exact (h s a).trans (ih (f s a))

/-- A team that one of the steps ends has ended after them all. -/
theorem State.exited_foldl {l : List α} {s : State} {a : α} {x : Nat} (ha : a ∈ l)
    (he : ∀ u, s.EndsOnly c u → ((f u a).team x).sched = .exited) : ((l.foldl f s).team x).sched = .exited := by
  induction l generalizing s with
  | nil => cases ha
  | cons b l ih =>
    rw [List.foldl_cons]
    rcases List.mem_cons.1 ha with rfl | hl
    · exact ((State.EndsOnly.foldl h l (f s a)).teams x).exited (he s (.refl c s))
    · exact ih hl fun u hu => he u ((h s b).trans hu)
end

/-! ## A block terminated -/

/-- A team ended with a cause of kind X, if it has not ended already. -/
def State.endUnlessGone (c : Cause) (s : State) (ctx : Nat) : State :=
  if (s.team ctx).gone then s.setTeam ctx { s.team ctx with sched := .exited } else s.endTeam ctx c 0

theorem State.endUnlessGone_exited (c : Cause) (s : State) (ctx : Nat) :
    ((s.endUnlessGone c ctx).team ctx).sched = .exited := by
  unfold State.endUnlessGone
  split_ifs
  · rw [State.team_setTeam]
  · rw [State.endTeam_team]

theorem State.endUnlessGone_endsOnly (c : Cause) (s : State) (ctx : Nat) : s.EndsOnly c (s.endUnlessGone c ctx) := by
  unfold State.endUnlessGone
  by_cases hg : (s.team ctx).gone = true
  · rw [if_pos hg]
    refine .of_team rfl (fun x hx => s.team_setTeam_other _ hx) ?_
    rw [State.team_setTeam]
    exact ⟨fun _ => rfl, fun _ => ⟨Team.gone_of_exited rfl, rfl⟩, fun h => absurd hg (ne_true_of_eq_false h)⟩
  · rw [if_neg hg]
    obtain ⟨hrest, hothers⟩ := s.endTeam_rest ctx c 0
    refine .of_team (ctx := ctx) (by rw [hrest]) (fun x hx => ?_) ?_
    · unfold State.team Tab.getD
      rw [hothers x hx]
    · rw [State.endTeam_team]
      exact ⟨fun _ => rfl, fun h => absurd h hg, fun _ _ => rfl⟩

theorem State.terminateTeams_eq {s : State} {f : Nat} {b : Block} (hb : s.block? f = some b) (c : Cause) :
    s.terminateTeams f c = (ctxsOf f b).foldl (State.endUnlessGone c) s := by
  unfold State.terminateTeams
  rw [hb]
  rfl

/-- What a stopped team has in flight is discarded; its end, or that it has none, stays as it is (R289). -/
theorem State.discard_endsOnly (c : Cause) (s : State) (ctx : Nat) : s.EndsOnly c (s.discard ctx) := by
  refine .of_team rfl (fun x hx => s.team_setTeam_other _ hx) ?_
  unfold State.discard
  rw [State.team_setTeam]
  exact ⟨id, fun h => ⟨h, rfl⟩, fun h g => absurd (show (s.team ctx).gone = true from g) (ne_true_of_eq_false h)⟩

/-- The parts of a block's termination, in their order. -/
theorem State.terminate_eq {s : State} {f : Nat} {b : Block} (hb : s.block? f = some b) (c : Cause) :
    ∃ (dies : Tab Die) (stopped : List Nat), s.terminate f c =
      stopped.foldl (fun s ctx => s.discard ctx) { (ctxsOf f b).foldl (State.endUnlessGone c) s with dies } := by
  unfold State.terminate
  rw [hb]
  dsimp only
  rw [State.terminateTeams_eq hb]
  exact ⟨_, _, rfl⟩

theorem State.terminate_endsOnly (c : Cause) (s : State) (f : Nat) : s.EndsOnly c (s.terminate f c) := by
  cases hb : s.block? f with
  | none => unfold State.terminate; rw [hb]; exact .refl c s
  | some b =>
    obtain ⟨dies, stopped, heq⟩ := State.terminate_eq hb c
    rw [heq]
    have hends := State.EndsOnly.foldl (State.endUnlessGone_endsOnly c) (ctxsOf f b) s
    exact State.EndsOnly.trans (u := { (ctxsOf f b).foldl (State.endUnlessGone c) s with dies }) ⟨hends.blocks, hends.teams⟩
      (.foldl (State.discard_endsOnly c) _ _)

theorem State.terminate_exited {s : State} {f : Nat} {b : Block} (hb : s.block? f = some b) (c : Cause) {x : Nat}
    (hx : x ∈ ctxsOf f b) : ((s.terminate f c).team x).sched = .exited := by
  obtain ⟨dies, stopped, heq⟩ := State.terminate_eq hb c
  rw [heq]
  refine ((State.EndsOnly.foldl (State.discard_endsOnly c) _ _).teams x).exited ?_
  exact State.exited_foldl (State.endUnlessGone_endsOnly c) hx fun u _ => u.endUnlessGone_exited c x

/-! ## An address space lost (R141) -/

theorem Tab.mem_of_get? {α : Type} {t : Tab α} {k : Nat} {a : α} (h : Tab.get? t k = some a) : (k, a) ∈ t := by
  induction t with
  | nil => cases h
  | cons e t ih =>
    obtain ⟨j, b⟩ := e
    unfold Tab.get? at h
    split_ifs at h with hj
    · cases h; subst hj; exact List.mem_cons_self
    · exact List.mem_cons_of_mem _ (ih h)

theorem State.loseAsid_endsOnly (s : State) (asid : Nat) : s.EndsOnly Cause.lostline (s.loseAsid asid) :=
  .foldl (fun s (e : Nat × Block) => s.terminate_endsOnly Cause.lostline e.1) _ s

/-- Each team of the address space's blocks has ended, with LOSTLINE if it had not before. -/
theorem State.loseAsid_team {s : State} {f ix : Nat} {b : Block} (hb : s.block? f = some b) (hix : ix < b.teams) :
    ((s.loseAsid b.asid).team (f * 32 + ix)).sched = .exited ∧
      ((s.team (f * 32 + ix)).gone = false → ((s.loseAsid b.asid).team (f * 32 + ix)).endCause = Cause.lostline) := by
  have hmem : (f, b) ∈ s.blocks.filter fun e => e.2.asid == b.asid :=
    List.mem_filter.2 ⟨Tab.mem_of_get? hb, beq_self_eq_true _⟩
  have hctx : f * 32 + ix ∈ ctxsOf f b := List.mem_map.2 ⟨ix, List.mem_range.2 hix, rfl⟩
  have hexited : ((s.loseAsid b.asid).team (f * 32 + ix)).sched = .exited :=
    State.exited_foldl (fun s (e : Nat × Block) => s.terminate_endsOnly Cause.lostline e.1) hmem fun u hu =>
      State.terminate_exited ((hu.block f).trans hb) Cause.lostline hctx
  exact ⟨hexited, fun hg => ((s.loseAsid_endsOnly b.asid).teams _).ended hg (Team.gone_of_exited hexited)⟩

section
variable (s : State) (d line : Nat)

/-- A lost dirty line is gone from the die and its L1s, counted, and reported to the host; no context has ended yet. -/
def State.lineLost : State :=
  let u := (s.delLine d line).l1Drop d line
  (u.setDie d { u.die d with ue := min ((u.die d).ue + 1) 65535 }).postHost
    { type := 3, die := d, body := lostLineWords line s.time }

theorem State.lineLost_die : ∃ fills, (s.lineLost d line).die d = { s.die d with
    lines := Tab.del (s.die d).lines line, fills, ue := min ((s.die d).ue + 1) 65535 } := by
  have hdel : ((s.delLine d line).mapL1 d fun _ l => toI l line).die d =
      { s.die d with lines := Tab.del (s.die d).lines line } := State.die_setDie s d _
  refine ⟨((s.die d).fills.map fun f => if f.key == line then { f with keep := false } else f), ?_⟩
  change ((((s.delLine d line).l1Drop d line).setDie d _).die d) = _
  unfold State.l1Drop State.spoilFills
  simp [hdel]

theorem State.lineLost_rest : (s.lineLost d line).teams = s.teams ∧ (s.lineLost d line).blocks = s.blocks ∧
    (s.lineLost d line).mem = s.mem ∧ (s.lineLost d line).launchRegs = { s.launchRegs with
      held := s.launchRegs.held ++ [{ type := 3, die := d, body := lostLineWords line s.time }] } := by
  simp [State.lineLost, State.postHost, State.l1Drop, State.spoilFills, State.mapL1, State.delLine]

theorem State.lineLost_team (x : Nat) : (s.lineLost d line).team x = s.team x := by
  obtain ⟨hteams, _⟩ := s.lineLost_rest d line
  unfold State.team
  rw [hteams]

theorem State.lineLost_block (f : Nat) : (s.lineLost d line).block? f = s.block? f := by
  obtain ⟨_, hblocks, _⟩ := s.lineLost_rest d line
  unfold State.block?
  rw [hblocks]

variable {s d line}

theorem exec_wellUe_dirty {l : DLine} (hl : Tab.get? (s.die d).lines line = some l) (hw : l.inWell = true)
    (hd : l.dirty = true) : exec (.wellUe d line) s = .next ((s.lineLost d line).loseAsid (asidOfLine line)) := by
  change execWellUe d line s = _
  unfold execWellUe
  rw [hl]
  simp only [hw, hd]
  rfl

theorem exec_wellUe_other (h : ∀ l, Tab.get? (s.die d).lines line = some l → l.inWell = false ∨ l.dirty = false) :
    exec (.wellUe d line) s = .next s := by
  change execWellUe d line s = _
  unfold execWellUe
  cases hl : Tab.get? (s.die d).lines line with
  | none => rfl
  | some l =>
    refine if_pos ?_
    rcases h l hl with hw | hd
    · simp [hw]
    · simp [hd]
end

/-! ## Restitches asked for (R143 to R145) -/

section
variable {s : State} {d : Nat} {r : Restitch}

theorem State.askRestitch_queued (h : (s.die d).restitch.isSome = true) :
    s.askRestitch d r = s.setDie d { s.die d with restitchq := (s.die d).restitchq ++ [r] } := if_pos h

theorem State.askRestitch_idle (h : (s.die d).restitch = none) : s.askRestitch d r = s.nextRestitch d [r] :=
  if_neg (by simp [h])

/-- Nothing of a state differs but one die. -/
def State.DieBecomes (s u : State) (d : Nat) (x : Die) : Prop := u.die d = x ∧ ∀ e, e ≠ d → u.die e = s.die e

theorem State.dieBecomes_setDie (s : State) (d : Nat) (x : Die) : s.DieBecomes (s.setDie d x) d x :=
  ⟨s.die_setDie d x, fun _ he => s.die_setDie_other x he⟩

theorem State.DieBecomes.setDie {t : State} {x : Die} (h : s.DieBecomes t d x) (y : Die) :
    s.DieBecomes (t.setDie d y) d y :=
  ⟨t.die_setDie d y, fun e he => (t.die_setDie_other y he).trans (h.2 e he)⟩

/-- A host's request that cannot run reports a status (R145). -/
theorem State.nextRestitch_refused {st : Nat} (hj : (s.die d).judge r = some st) (ht : r.thermal = false) :
    s.DieBecomes (s.nextRestitch d [r]) d { s.die d with rstatus := st, restitchq := [] } := by
  simp only [State.nextRestitch, hj, ht, Bool.false_eq_true, if_false, State.die_setDie]
  exact (s.dieBecomes_setDie d _).setDie _

/-- With no tile at rest in the bank that it retires, a restitch drops nothing as it begins (R143). -/
theorem State.beginRestitch_empty (h : r.retire = true → (s.die d).bankTiles r.bank = []) :
    s.beginRestitch d r = s.setDie d { s.die d with restitch := some r } := by
  unfold State.beginRestitch
  dsimp only
  split_ifs with hr
  · rw [h hr]; rfl
  · rfl

/-- A request that can run, with no tile at rest in the bank that it retires, begins (R143). -/
theorem State.nextRestitch_begins (hj : (s.die d).judge r = none) (h : r.retire = true → (s.die d).bankTiles r.bank = []) :
    s.DieBecomes (s.nextRestitch d [r]) d { s.die d with restitch := some r, restitchq := [] } := by
  simp only [State.nextRestitch, hj]
  rw [State.beginRestitch_empty fun hr => by rw [State.die_setDie]; exact h hr, State.die_setDie]
  exact (s.dieBecomes_setDie d _).setDie _

/-- A retired bank that is asked for again, and a die with too few live banks, refuse a retire (R145). -/
theorem Die.judge_retire {x : Die} (hr : r.retire = true) :
    x.judge r = if r.bank ∈ x.retired then some 2 else if 1024 - x.retired.length ≤ 896 then some 1 else none := by
  simp [Die.judge, Die.liveBanks, hr]

/-- A bank under repair, and one that is live, refuse a restore (R145). -/
theorem Die.judge_restore {x : Die} (hr : r.retire = false) :
    x.judge r = if r.bank ∈ x.repair then some 3 else if r.bank ∈ x.retired then none else some 2 := by
  simp [Die.judge, hr]

/-- Both host commands ask for a restitch while the register BAR is served. -/
theorem exec_restitch (s : State) (d bank : Nat) (retire : Bool) :
    exec (if retire then .wrestitchRetire d bank else .wrestitchRestore d bank) s =
      .next (if s.up = true then s.askRestitch d { bank := bank % 1024, retire } else s) := by
  cases retire <;> rfl
end

/-! ## Restitches completed (R143, R144) -/

/-- A die whose restitch has completed: the bank is retired or restored, and the depths are those over the live slots. -/
def Die.restitched (x : Die) (r : Restitch) : Die :=
  let x' := { x with restitch := none, rstatus := if r.thermal then x.rstatus else 0 }
  if r.retire then
    { x' with
      retired := x.retired ++ [r.bank], heat := if r.thermal then x.heat ++ [r.bank] else x.heat
      chain := chainWithout x.retired r.bank (fun t => (Tab.get? x.tiles t).elim false (·.transit)) x.chain }
  else
    let ret := x.retired.filter (· != r.bank)
    { x' with
      retired := ret, heat := x.heat.filter (· != r.bank)
      chain := chainWith ret r.bank (2 * x.chain.length + 2) 0 x.chain }

section
variable (x : Die) (r : Restitch)

theorem Die.restitched_retired : (x.restitched r).retired =
    if r.retire then x.retired ++ [r.bank] else x.retired.filter (· != r.bank) := by
  unfold Die.restitched
  split_ifs <;> rfl

theorem Die.restitched_chain : (x.restitched r).chain =
    if r.retire then chainWithout x.retired r.bank (fun t => (Tab.get? x.tiles t).elim false (·.transit)) x.chain
    else chainWith (if r.retire then x.retired ++ [r.bank] else x.retired.filter (· != r.bank)) r.bank
      (2 * x.chain.length + 2) 0 x.chain := by
  unfold Die.restitched
  split_ifs <;> rfl

/-- The restitch is over; lines and waiting requests are as they were. -/
theorem Die.restitched_rest : (x.restitched r).restitch = none ∧ (x.restitched r).lines = x.lines ∧
    (x.restitched r).waits = x.waits ∧ (x.restitched r).rstatus = if r.thermal then x.rstatus else 0 := by
  unfold Die.restitched
  split_ifs <;> exact ⟨rfl, rfl, rfl, rfl⟩
end

section
variable {s : State} {d : Nat}

theorem State.trim_short (h : (s.die d).chain.length ≤ (s.die d).slots) : s.trim d = s := if_pos h

theorem exec_restitchComplete {r : Restitch} (hr : (s.die d).restitch = some r) : exec (.restitchComplete d) s =
    .next ((((s.setDie d ((s.die d).restitched r)).trim d).pumpDie d).nextRestitch d (s.die d).restitchq) := by
  change execRestitchComplete d s = _
  unfold execRestitchComplete
  dsimp only
  rw [hr]
  rfl

theorem exec_restitchComplete_none (h : (s.die d).restitch = none) : exec (.restitchComplete d) s = .next s := by
  change execRestitchComplete d s = _
  unfold execRestitchComplete
  dsimp only
  rw [h]

/-- A restitch completed at a die where nothing waits, over a chain that the live slots hold. -/
theorem exec_restitchComplete_idle {r : Restitch} (hr : (s.die d).restitch = some r) (hq : (s.die d).restitchq = [])
    (hw : (s.die d).waits = []) (hl : ∀ l ∈ (s.die d).lines, l.2.leaving = false)
    (hc : ((s.die d).restitched r).chain.length ≤ ((s.die d).restitched r).slots) :
    ∃ u, exec (.restitchComplete d) s = .next u ∧ s.DieBecomes u d { (s.die d).restitched r with restitchq := [] } := by
  obtain ⟨_, hlines, hwaits, _⟩ := (s.die d).restitched_rest r
  refine ⟨_, exec_restitchComplete hr, ?_⟩
  rw [hq, State.trim_short (by rwa [State.die_setDie]), State.pumpDie_idle]
  · unfold State.nextRestitch
    rw [State.die_setDie]
    exact (s.dieBecomes_setDie d _).setDie _
  · rw [State.die_setDie, hwaits, hw]
  · rw [State.die_setDie, hlines]
    exact List.filter_eq_nil_iff.2 fun l h => ne_true_of_eq_false (hl l h)

/-- A bank that heat has retired, with no restitch of it asked for, is restored when its sensor has been cool for 100 ms. -/
theorem exec_wellThermalRestore {bank t : Nat} (hh : bank ∈ (s.die d).heat) (hq : ∀ r ∈ (s.die d).restitchq, r.bank ≠ bank)
    (hr : ∀ r, (s.die d).restitch = some r → r.bank ≠ bank)
    (ht : Tab.get? s.power.coolFrom (sramSensor d (Config.bankSram bank)) = some t) :
    exec (.wellThermalRestore d bank) s = .next
      (if t + 100000000 ≤ s.time then s.askRestitch d { bank, retire := false, thermal := true } else s) := by
  have hidle : ¬ ((!(s.die d).heat.contains bank) = true ∨ (s.die d).restitchq.any (fun r => r.bank == bank) = true ∨
      (s.die d).restitch.any (fun r => r.bank == bank) = true) := by
    rintro (h | h | h)
    · simp [hh] at h
    · obtain ⟨r, hmem, hb⟩ := List.any_eq_true.1 h
      exact hq r hmem (beq_iff_eq.1 hb)
    · cases hx : (s.die d).restitch with
      | none => rw [hx] at h; cases h
      | some r => rw [hx] at h; exact hr r hx (beq_iff_eq.1 h)
  change execWellThermalRestore d bank s = _
  unfold execWellThermalRestore
  dsimp only
  rw [if_neg hidle, ht]
  dsimp only
  split_ifs <;> rfl
end

/-- Settles O48: the lost line's contexts by what a termination can do to a team, host commands by how a request is judged,
and the completion by the die that it leaves. -/
theorem banksAndErrors : Obligations.BanksAndErrors := by
  unfold Obligations.BanksAndErrors
  intro s d x
  refine ⟨fun line l hl hw hd => ?lost, fun line h => exec_wellUe_other h, fun bank retire => ?asked,
    fun r hr hq hw hl => ?completed, exec_restitchComplete_none, fun bank t => exec_wellThermalRestore⟩
  case lost =>
    obtain ⟨fills, hdie⟩ := s.lineLost_die d line
    refine ⟨s.lineLost d line, exec_wellUe_dirty hl hw hd, fun f b ix hb hasid hix => ?_, ?_, fun k hk => ?_, ?_,
      s.lineLost_rest d line⟩
    · have hteam := State.loseAsid_team ((s.lineLost_block d line f).trans hb) hix
      rwa [State.lineLost_team, hasid] at hteam
    · rw [hdie, Tab.get?_del, if_pos rfl]
    · rw [hdie, Tab.get?_del, if_neg (Ne.symm hk)]
    · rw [hdie]
  case asked =>
    intro i r
    have hexec := exec_restitch s d bank retire
    refine ⟨fun hup => ?_, fun hup hrun => ?_, fun hup hidle => ⟨fun st hj => ?_, fun hj hb => ?_⟩, ?_⟩
    · rw [hexec, if_neg (ne_true_of_eq_false hup)]
    · rw [hexec, if_pos hup, State.askRestitch_queued hrun]
    · rw [hexec, if_pos hup, State.askRestitch_idle hidle]
      exact ⟨_, rfl, State.nextRestitch_refused hj rfl⟩
    · rw [hexec, if_pos hup, State.askRestitch_idle hidle]
      exact ⟨_, rfl, State.nextRestitch_begins hj hb⟩
    · cases retire with
      | true => exact Die.judge_retire rfl
      | false => exact Die.judge_restore rfl
  case completed =>
    intro ret chain hc
    have hret := x.restitched_retired r
    have hchain := x.restitched_chain r
    have hslots : (x.restitched r).slots = ({ x with retired := ret } : Die).slots := by
      unfold Die.slots
      rw [hret]
    obtain ⟨u, hu, hdie, hothers⟩ := exec_restitchComplete_idle hr hq hw hl (by rw [hslots, hchain]; exact hc)
    obtain ⟨hnone, hlines, _, hstatus⟩ := x.restitched_rest r
    refine ⟨u, hu, ?_, ?_, ?_, ?_, fun ht => ?_, hothers⟩
    all_goals rw [hdie]
    · exact hret
    · exact hchain
    · exact hnone
    · exact hlines
    · exact hstatus.trans (if_neg (ne_true_of_eq_false ht))

end Sys2Proof.Machine
end

section
/-! SUPPORT. An access's own checks (R148, R149): the tests of an address as bounds on its value, and the cause that a list of
accesses gives. -/
namespace Sys2Proof.Machine

/-- The top eight bits all zero or all one are the two ends of the address space. -/
theorem canonical_iff (a : Word64) : canonical a = true ↔ a.toNat < 2 ^ 56 ∨ 2 ^ 64 - 2 ^ 56 ≤ a.toNat := by
  have hlt : a.toNat < 2 ^ 64 := a.isLt
  have h0 : (0 : BitVec 8).toNat = 0 := rfl
  have h255 : (255 : BitVec 8).toNat = 255 := rfl
  simp only [canonical, Bool.or_eq_true, beq_iff_eq, ← BitVec.toNat_inj, BitVec.extractLsb'_toNat, Nat.shiftRight_eq_div_pow,
    h0, h255]
  omega

/-- The first and the last byte lie in two 4 KiB regions when the access runs past the end of the first byte's region. -/
theorem crosses4K_iff {a n : Nat} (hn : 0 < n) (hn' : n ≤ 64) :
    crosses4K a n = true ↔ a % n ≠ 0 ∧ a % 4096 + n > 4096 := by
  have hregions : a / 4096 ≠ (a + n - 1) / 4096 ↔ a % 4096 + n > 4096 := by omega
  rw [crosses4K, Bool.and_eq_true, decide_eq_true_iff, decide_eq_true_iff, hregions, and_comm]

section
variable {m : MemOp} {window : Nat} {as : List Access}

theorem MemOp.check_noncanon_iff :
    m.check window as = some Cause.noncanon ↔ m.win = false ∧ ∃ a ∈ as, ¬ canonical a.addr = true := by
  unfold MemOp.check
  have hmis : Cause.misalign ≠ Cause.noncanon := by decide
  have hsp : Cause.spbound ≠ Cause.noncanon := by decide
  split_ifs with h <;> simp_all

/-- Outside the window, accesses with canonical addresses fail only by misalignment. -/
theorem MemOp.check_memory (hn : 0 < m.n) (hn' : m.n ≤ 64) (hw : m.win = false) (hc : ∀ a ∈ as, canonical a.addr = true) :
    m.check window as = if (∃ a ∈ as, a.addr.toNat % m.n ≠ 0 ∧
        (m.op.isAtomic = true ∨ m.n = 64 ∨ a.addr.toNat % 4096 + m.n > 4096)) then some Cause.misalign else none := by
  have hcanon : (as.any fun a => !canonical a.addr) = false := by simpa using hc
  have hcross : (as.any fun a => crosses4K a.addr.toNat m.n) = true ↔
      ∃ a ∈ as, a.addr.toNat % m.n ≠ 0 ∧ a.addr.toNat % 4096 + m.n > 4096 := by
    simp only [List.any_eq_true, crosses4K_iff hn hn']
  have halign : ((m.op.isAtomic || m.n == 64) && as.any fun a => a.addr.toNat % m.n != 0) = true ↔
      ∃ a ∈ as, a.addr.toNat % m.n ≠ 0 ∧ (m.op.isAtomic = true ∨ m.n = 64) := by
    simp only [Bool.and_eq_true, Bool.or_eq_true, List.any_eq_true, beq_iff_eq, bne_iff_ne]
    exact ⟨fun ⟨hm, a, ha, hmis⟩ => ⟨a, ha, hmis, hm⟩, fun ⟨a, ha, hmis, hm⟩ => ⟨hm, a, ha, hmis⟩⟩
  have hboth : (∃ a ∈ as, a.addr.toNat % m.n ≠ 0 ∧
      (m.op.isAtomic = true ∨ m.n = 64 ∨ a.addr.toNat % 4096 + m.n > 4096)) ↔
      ((m.op.isAtomic || m.n == 64) && as.any fun a => a.addr.toNat % m.n != 0) = true ∨
        (as.any fun a => crosses4K a.addr.toNat m.n) = true := by
    rw [halign, hcross, ← exists_or]
    grind
  unfold MemOp.check
  simp only [hw, hcanon, hboth, Bool.not_false, Bool.true_and, Bool.false_and, Bool.false_eq_true, if_false, ite_or]

/-- Within the window, aligned atomics fail only past its end. -/
theorem MemOp.check_window (hw : m.win = true) (hn : m.n < 64)
    (ha : m.op.isAtomic = true → ∀ a ∈ as, a.addr.toNat % m.n = 0) :
    m.check window as = if (∃ a ∈ as, window < a.addr.toNat + m.n) then some Cause.spbound else none := by
  have haligned : ((m.op.isAtomic || m.n == 64) && as.any fun a => a.addr.toNat % m.n != 0) = false := by
    have hrecord : (m.n == 64) = false := beq_false_of_ne (Nat.ne_of_lt hn)
    cases hop : m.op.isAtomic
    · rw [hrecord, Bool.or_false, Bool.false_and]
    · simpa using ha hop
  have hpast : (as.any fun a => decide (window < a.addr.toNat + m.n)) = true ↔ ∃ a ∈ as, window < a.addr.toNat + m.n := by
    simp only [List.any_eq_true, decide_eq_true_iff]
  unfold MemOp.check
  simp only [hw, haligned, hpast, Bool.not_true, Bool.true_and, Bool.false_and, Bool.false_eq_true, if_false]
end

/-- Settles O34: the checks as bounds on the addresses, the causes in the order of the tests. -/
theorem accessChecks : Obligations.AccessChecks := by
  unfold Obligations.AccessChecks
  intro m window as hn hn'
  simp only [← canonical_iff]
  exact ⟨MemOp.check_noncanon_iff, MemOp.check_memory hn hn', fun hw ha hlt => MemOp.check_window hw hlt ha⟩

end Sys2Proof.Machine
end

section
/-! SUPPORT. Every state that a step builds is in canonical memory form: the ways to build a state, and what carries one. -/
namespace Sys2Proof.Machine
variable {s : State}

/-! ## Ways to build a state -/

theorem State.MemoryOk.ite {c : Prop} [Decidable c] {a b : State} (ha : a.MemoryOk) (hb : b.MemoryOk) :
    (if c then a else b).MemoryOk := by
  split
  · exact ha
  · exact hb

theorem State.MemoryOk.elim {α : Type} {o : Option α} {s : State} {f : α → State} (h : s.MemoryOk)
    (hf : ∀ a, (f a).MemoryOk) : (o.elim s f).MemoryOk := by
  cases o with
  | none => exact h
  | some a => exact hf a

theorem State.MemoryOk.foldl {α : Type} {f : State → α → State} {l : List α} {s : State} (h : s.MemoryOk)
    (hf : ∀ s a, s.MemoryOk → (f s a).MemoryOk) : (l.foldl f s).MemoryOk := by
  induction l generalizing s with
  | nil => exact h
  | cons a l ih => exact ih (hf s a h)

/-- A state that a fold carries with something else. -/
theorem State.MemoryOk.foldl_fst {α β : Type} {f : State × β → α → State × β} {l : List α} {p : State × β} (h : p.1.MemoryOk)
    (hf : ∀ p a, p.1.MemoryOk → (f p a).1.MemoryOk) : (l.foldl f p).1.MemoryOk := by
  induction l generalizing p with
  | nil => exact h
  | cons a l ih => exact ih (hf p a h)

theorem State.MemoryOk.fst_ite {α : Type} {c : Prop} [Decidable c] {a b : State × α} (ha : a.1.MemoryOk) (hb : b.1.MemoryOk) :
    (if c then a else b).1.MemoryOk := by
  split
  · exact ha
  · exact hb

theorem OnlyFetch.memoryOk {s t : State} (g : OnlyFetch s t) (h : s.MemoryOk) : t.MemoryOk := by
  rw [g.rest]
  exact h

theorem OnlyFabric.memoryOk {s t : State} (g : OnlyFabric s t) (h : s.MemoryOk) : t.MemoryOk := by
  rw [g]
  exact h

theorem OnlyAsk.memoryOk {s t : State} (g : OnlyAsk s t) (h : s.MemoryOk) : t.MemoryOk := by
  rw [g.rest]
  exact h

/-! ## Answers that carry a state -/

/-- A step's next state, where it has one, is in canonical memory form. -/
def NextOk : Host.Outcome State Fault Refusal → Prop
  | .next s => s.MemoryOk
  | .fault _ | .refused _ => True

theorem NextOk.next {s : State} (h : s.MemoryOk) : NextOk (.next s) := h

theorem NextOk.ite {c : Prop} [Decidable c] {a b : Host.Outcome State Fault Refusal} (ha : NextOk a) (hb : NextOk b) :
    NextOk (if c then a else b) := by
  split
  · exact ha
  · exact hb

/-- What an instruction issues, where it carries a state, carries one in canonical memory form. -/
def Issued.MemoryOk : Issued → Prop
  | .done s | .jump s _ | .far s _ _ _ | .stay s | .later s => s.MemoryOk
  | .trap _ _ | .hold => True

theorem Issued.MemoryOk.ite {c : Prop} [Decidable c] {a b : Issued} (ha : a.MemoryOk) (hb : b.MemoryOk) :
    (if c then a else b).MemoryOk := by
  split
  · exact ha
  · exact hb

/-- The same of a fetch. -/
def Fetched.MemoryOk : Fetched → Prop
  | .words s _ _ | .trap s _ _ | .hold s _ _ | .later s => s.MemoryOk

/-- The same of a target that is checked. -/
def Target.MemoryOk : Target → Prop
  | .ok s | .fault s _ _ | .later s => s.MemoryOk
  | .bad _ => True

/-- The same of a request that a line is tried for. -/
def Try.MemoryOk : Try → Prop
  | .done s | .split s _ => s.MemoryOk
  | .walk | .ask _ _ | .bstore | .peer | .stay => True

/-- The same of a line that an engine asks for. -/
def LineGot.MemoryOk : LineGot → Prop
  | .ready s _ _ _ _ | .wait s | .fault s _ _ => s.MemoryOk

/-- The same of an element that an engine reads or writes. -/
def Got.MemoryOk : Got → Prop
  | .ready s _ | .wait s | .fault s _ _ _ => s.MemoryOk

/-- The same of a run of reads. -/
def Many.MemoryOk : Many → Prop
  | .ready s _ | .wait s | .fault s _ _ _ => s.MemoryOk

/-- The same of a spot that is made ready. -/
def Ready.MemoryOk : Ready → Prop
  | .yes s | .wait s | .fault s _ _ _ => s.MemoryOk

theorem Ready.MemoryOk.ite {c : Prop} [Decidable c] {a b : Ready} (ha : a.MemoryOk) (hb : b.MemoryOk) :
    (if c then a else b).MemoryOk := by
  split
  · exact ha
  · exact hb

/-- The same of an element that a copy reads. -/
def ElemGot.MemoryOk : ElemGot → Prop
  | .ready s _ _ | .wait s | .fault s _ _ _ _ => s.MemoryOk

theorem Got.MemoryOk.ready {g : Got} {t : State} {x : Nat} (hg : g.MemoryOk) (he : g = .ready t x) : t.MemoryOk := by
  subst he
  exact hg

theorem Got.MemoryOk.wait {g : Got} {t : State} (hg : g.MemoryOk) (he : g = .wait t) : t.MemoryOk := by
  subst he
  exact hg

theorem Got.MemoryOk.fault {g : Got} {t : State} {ty l va} (hg : g.MemoryOk) (he : g = .fault t ty l va) : t.MemoryOk := by
  subst he
  exact hg

theorem State.MemoryOk.fetch {ctx} (h : s.MemoryOk) : (s.fetch ctx).MemoryOk := by
  have g := s.fetch_only ctx
  generalize s.fetch ctx = x at g ⊢
  cases x with
  | words | trap | hold => exact OnlyFetch.memoryOk g h
  | later => exact OnlyAsk.memoryOk g h

theorem State.MemoryOk.checkTarget {ctx pc} (h : s.MemoryOk) : (s.checkTarget ctx pc).MemoryOk := by
  have g := s.checkTarget_only ctx pc
  generalize s.checkTarget ctx pc = x at g ⊢
  cases x with
  | ok | fault => exact OnlyFetch.memoryOk g h
  | later => exact OnlyAsk.memoryOk g h
  | bad => trivial

end Sys2Proof.Machine
end

section
/-! SUPPORT. Canonical memory form through the traps, saves and freezes of teams and the issue of an instruction. -/
namespace Sys2Proof.Machine
variable {s : State}

/-! ## The ends of teams, traps and the saves that go with them (R53, R275 to R281) -/

theorem State.MemoryOk.setTeam {ctx t} (h : s.MemoryOk) : (s.setTeam ctx t).MemoryOk := h

theorem State.MemoryOk.written {pl d mask} (h : s.MemoryOk) : (s.homeWrite pl d mask).MemoryOk := h.homeWrite pl d mask

theorem State.MemoryOk.setCluster {c x} (h : s.MemoryOk) : (s.setCluster c x).MemoryOk := h

theorem State.MemoryOk.onBar {f} (h : s.MemoryOk) (hf : ∀ s, s.MemoryOk → (f s).MemoryOk) : (s.onBar f).MemoryOk :=
  .ite (hf s h) h

theorem State.MemoryOk.mapCopies {pl f} (h : s.MemoryOk) : (s.mapCopies pl f).MemoryOk := (OnlyCopies.mapCopies s pl f).form h

theorem State.MemoryOk.physWrite {pa bs} (h : s.MemoryOk) : (s.physWrite pa bs).MemoryOk :=
  (OnlyCopies.physWrite s pa bs).form h

theorem State.MemoryOk.onLaunch {b f} (h : s.MemoryOk) : (s.onLaunch b f).MemoryOk :=
  .ite h h

theorem State.MemoryOk.countFault {ctx c addr} (h : s.MemoryOk) : (s.countFault ctx c addr).MemoryOk := by
  unfold State.countFault
  split
  · exact h
  · exact .onLaunch h

theorem State.MemoryOk.leaveGangs {ctx} (h : s.MemoryOk) : (s.leaveGangs ctx).MemoryOk :=
  .foldl h fun _ _ h => h

theorem State.MemoryOk.noteEnd {d q} (h : s.MemoryOk) : (s.noteEnd d q).MemoryOk :=
  .ite h h

theorem State.MemoryOk.noteEndOf {ctx} (h : s.MemoryOk) : (s.noteEndOf ctx).MemoryOk := by
  unfold State.noteEndOf
  split
  · exact h
  · exact .noteEnd h

theorem State.MemoryOk.endTeam {ctx c addr} (h : s.MemoryOk) : (s.endTeam ctx c addr).MemoryOk :=
  .ite (.noteEndOf (.leaveGangs h)) (.countFault (.noteEndOf (.leaveGangs h)))

theorem State.MemoryOk.terminateTeams {f c} (h : s.MemoryOk) : (s.terminateTeams f c).MemoryOk := by
  unfold State.terminateTeams
  dsimp only
  split
  · exact h
  · exact .foldl h fun _ _ h => .ite h (.endTeam h)

theorem State.MemoryOk.deliver {ctx i} (h : s.MemoryOk) : (s.deliver ctx i).MemoryOk := by
  unfold State.deliver
  dsimp only
  split
  · exact .endTeam h
  · split
    · exact .ite h (.endTeam h)
    · exact .ite (.terminateTeams h) (.setTeam (.physWrite h))

theorem State.MemoryOk.raise {ctx i} (h : s.MemoryOk) : (s.raise ctx i).MemoryOk :=
  .ite (.deliver h) h

theorem State.MemoryOk.addFatal {ctx i} (h : s.MemoryOk) : (s.addFatal ctx i).MemoryOk :=
  .ite (.ite (.countFault h) h) (.ite h h)

theorem State.MemoryOk.leaveHandler {ctx} (h : s.MemoryOk) : (s.leaveHandler ctx).MemoryOk :=
  .ite (.terminateTeams h) h

/-! ## Writing to a save frame (R281) -/

theorem State.MemoryOk.putFrame {f l} (h : s.MemoryOk) : (s.putFrame f l).MemoryOk := (OnlyCopies.putFrame s f l).form h

theorem State.MemoryOk.saveHeader {f} (h : s.MemoryOk) : (s.saveHeader f).MemoryOk := (OnlyCopies.saveHeader s f).form h

theorem State.MemoryOk.saveState {f state} (h : s.MemoryOk) : (s.saveState f state).MemoryOk :=
  (OnlyCopies.saveState s f state).form h

theorem State.MemoryOk.saveBlock {f} (h : s.MemoryOk) : (s.saveBlock f).MemoryOk := (OnlyCopies.saveBlock s f).form h

theorem State.MemoryOk.saveStatus {ctx} (h : s.MemoryOk) : (s.saveStatus ctx).MemoryOk := (OnlyCopies.saveStatus s ctx).form h

theorem State.MemoryOk.savePc {ctx} (h : s.MemoryOk) : (s.savePc ctx).MemoryOk := (OnlyCopies.savePc s ctx).form h

theorem State.MemoryOk.fatalFault {ctx i} (h : s.MemoryOk) : (s.fatalFault ctx i).MemoryOk :=
  .saveStatus (.addFatal h)

theorem State.MemoryOk.saveCell {ctx c val} (h : s.MemoryOk) : (s.saveCell ctx c val).MemoryOk := by
  unfold State.saveCell
  split
  · exact h
  · refine .ite h ?_
    cases c with
    | v => exact .putFrame (.putFrame h)
    | s | k => exact .ite h (.putFrame h)
    | h | zrow => exact .putFrame h
    | commit => exact h

theorem State.MemoryOk.windowWrite {f b w off bs} (h : s.MemoryOk) : (s.windowWrite f b w off bs).MemoryOk :=
  .ite (.putFrame h) h

theorem State.MemoryOk.saveWindow {f b w} (h : s.MemoryOk) : (s.saveWindow f b w).MemoryOk :=
  (OnlyCopies.saveWindow s f b w).form h

/-! ## Stopping teams and freezing blocks (R286, R287) -/

theorem State.MemoryOk.releaseHold {c k} (h : s.MemoryOk) : (s.releaseHold c k).MemoryOk := by
  unfold State.releaseHold
  dsimp only
  split
  · exact h
  · exact .ite h h

theorem State.MemoryOk.passHold {d c k p} (h : s.MemoryOk) : (s.passHold d c k p).MemoryOk := by
  unfold State.passHold
  dsimp only
  split
  · exact h
  · split
    · exact h
    · exact .releaseHold h

theorem State.MemoryOk.releaseHolds {ctx} (h : s.MemoryOk) : (s.releaseHolds ctx).MemoryOk :=
  .foldl h fun _ _ h => .passHold h

theorem State.MemoryOk.capture {ctx saved} (h : s.MemoryOk) : (s.capture ctx saved).MemoryOk :=
  .releaseHolds h

theorem State.MemoryOk.stopTeam {ctx} (h : s.MemoryOk) : (s.stopTeam ctx).MemoryOk :=
  .ite h (.capture h)

theorem State.MemoryOk.captureEnded {f b} (h : s.MemoryOk) : (s.captureEnded f b).MemoryOk :=
  .foldl h fun _ _ h => .ite (.capture h) h

theorem State.MemoryOk.sealFlush {core f} (h : s.MemoryOk) : (s.sealFlush core f).MemoryOk :=
  .ite h (.foldl h fun _ _ h => h)

theorem State.MemoryOk.finishFreeze {f} (h : s.MemoryOk) : (s.finishFreeze f).MemoryOk := by
  unfold State.finishFreeze
  split
  · exact h
  · next b _ =>
    have hs : (((s.captureEnded f b).noteEnd (dieOf b.core) b.queue?).sealFlush b.core f).MemoryOk :=
      .sealFlush (.noteEnd (.captureEnded h))
    exact .ite (.ite (.saveBlock hs) (.terminateTeams hs)) h

theorem State.MemoryOk.stopBy {ctx} (h : s.MemoryOk) : (s.stopBy ctx).MemoryOk := by
  unfold State.stopBy
  dsimp only
  split
  · exact .stopTeam h
  · exact .ite (.stopTeam h) (.stopTeam h)

theorem State.MemoryOk.stopDue {f} (h : s.MemoryOk) : (s.stopDue f).MemoryOk := by
  unfold State.stopDue
  dsimp only
  split
  · exact h
  · exact .ite h (.finishFreeze (.foldl h fun _ _ h => .ite (.stopBy h) h))

theorem State.MemoryOk.requestFreeze {f src} (h : s.MemoryOk) : (s.requestFreeze f src).MemoryOk := by
  unfold State.requestFreeze
  dsimp only
  split
  · exact h
  · split
    · exact .stopDue (.saveHeader h)
    · exact .finishFreeze (.saveHeader (.foldl h fun _ _ h => .stopTeam h))
    · split
      · exact .ite (.stopDue (.ite h h)) h
      · exact h
    · exact h

theorem State.MemoryOk.takeClass {f} (h : s.MemoryOk) : (s.takeClass f).MemoryOk := by
  unfold State.takeClass
  dsimp only
  split
  · exact h
  · exact .ite (.requestFreeze h) h

theorem State.MemoryOk.boundary {ctx barrier} (h : s.MemoryOk) : (s.boundary ctx barrier).MemoryOk := by
  unfold State.boundary
  dsimp only
  split
  · exact .ite (.takeClass h) h
  · exact .ite (.finishFreeze (.stopBy (.ite (.takeClass h) h))) (.ite (.takeClass h) h)

/-! ## Translation and fault records (R152 to R161) -/

theorem State.MemoryOk.homeAsk {pl op} (h : s.MemoryOk) : (s.homeAsk pl op).MemoryOk :=
  .ite h h

theorem State.MemoryOk.translate {d asid va n} (h : s.MemoryOk) : (s.translate d asid va n).1.MemoryOk :=
  (s.translate_only d asid va n).memoryOk h

theorem State.MemoryOk.logFault {d a r} (h : s.MemoryOk) : (s.logFault d a r).MemoryOk := by
  unfold State.logFault
  dsimp only
  split
  · exact h
  · split <;> exact h

theorem State.MemoryOk.drainWaiting {d n} (h : s.MemoryOk) : (s.drainWaiting d n).MemoryOk := by
  induction n generalizing s with
  | zero => exact h
  | succ n ih =>
    unfold State.drainWaiting
    dsimp only
    split
    · exact h
    · exact .ite h (ih (.logFault h))

/-! ## Fetches and issue (R58 to R62, R92) -/

theorem State.MemoryOk.fetchFault {ctx ty lv} (h : s.MemoryOk) : (s.fetchFault ctx ty lv).MemoryOk :=
  .logFault h

theorem State.MemoryOk.preciseTrap {ctx c word pc resume addr} (h : s.MemoryOk) :
    (s.preciseTrap ctx c word pc resume addr).MemoryOk :=
  .raise h

theorem State.MemoryOk.endStep {ctx issued} (h : s.MemoryOk) : (s.endStep ctx issued).MemoryOk := by
  unfold State.endStep
  split
  · exact h
  · exact .ite (.ite h (.stopTeam h)) h

theorem State.MemoryOk.afterIssue {ctx} (h : s.MemoryOk) : (s.afterIssue ctx).MemoryOk :=
  .finishFreeze (.endStep (.boundary h))

theorem State.MemoryOk.afterEvent {ctx} (h : s.MemoryOk) : (s.afterEvent ctx).MemoryOk :=
  .finishFreeze (.endStep (.boundary h))

theorem State.MemoryOk.complete {ctx i pc} (h : s.MemoryOk) : (s.complete ctx i pc).MemoryOk :=
  .ite h (.afterIssue h)

theorem State.MemoryOk.targetFault {ctx ty lv} (h : s.MemoryOk) : (s.targetFault ctx ty lv).MemoryOk :=
  .ite (.fetchFault h) h

theorem State.MemoryOk.conclude {ctx i x} (h : s.MemoryOk) (hx : Issued.MemoryOk x) : (s.conclude ctx i x).MemoryOk := by
  cases x with
  | done s' => exact .complete (s := s'.noteGroups ctx _) hx
  | jump => exact .complete hx
  | far => exact .targetFault (.complete hx)
  | stay => exact .afterIssue hx
  | trap => exact .afterIssue (.preciseTrap h)
  | hold => exact h
  | later => exact hx

theorem nextOk_atIssue {i body} (h : s.MemoryOk) (hb : ∀ ctx, (body ctx).MemoryOk) : NextOk (s.atIssue i body) := by
  unfold State.atIssue
  split
  · trivial
  · refine .ite ?_ trivial
    split
    · exact .next (.afterIssue (.preciseTrap h))
    · exact .next (.conclude h (hb _))

theorem State.MemoryOk.endWait {ctx barrier} (h : s.MemoryOk) : (s.endWait ctx barrier).MemoryOk := by
  unfold State.endWait
  dsimp only
  split
  · split
    · exact .boundary h
    · exact h
  · exact .boundary h

/-! ## Waits on barrier objects (R239 to R242) -/

theorem State.MemoryOk.setObject {f b off x} (h : s.MemoryOk) : (s.setObject f b off x).MemoryOk := by
  unfold State.setObject
  dsimp only
  split
  · exact .windowWrite h
  · exact h

theorem State.MemoryOk.examEnd {ctx off c} (h : s.MemoryOk) : (s.examEnd ctx off c).MemoryOk :=
  .ite (.endWait h) (.afterEvent (.preciseTrap h))

theorem State.MemoryOk.examWait {ctx} (h : s.MemoryOk) : (s.examWait ctx).MemoryOk := by
  unfold State.examWait
  dsimp only
  split
  · split
    · exact .ite h h
    · exact .elim h fun _ => .examEnd h
  · exact h

theorem State.MemoryOk.examFirst {ctx i} (h : s.MemoryOk) : (s.examFirst ctx i).MemoryOk := by
  unfold State.examFirst
  split
  · exact .examEnd h
  · exact .examWait h

theorem State.MemoryOk.examBlock {f} (h : s.MemoryOk) : (s.examBlock f).MemoryOk := by
  unfold State.examBlock
  split
  · exact h
  · exact .ite h (.foldl h fun _ _ h => .examWait h)

theorem State.MemoryOk.flushCore {core} (h : s.MemoryOk) : (s.flushCore core).MemoryOk :=
  .ite h (.foldl h fun _ _ h => .examBlock h)

/-! ## Scalar and control instructions -/

theorem nextOk_execSwrite {f} (h : s.MemoryOk) : NextOk (execSwrite f s) :=
  nextOk_atIssue h fun _ => by
    dsimp only
    split
    · exact h
    · exact .ite trivial h
    · trivial

theorem Issued.MemoryOk.transfer {ctx target f} (h : s.MemoryOk) (hf : ∀ s, s.MemoryOk → (f s).MemoryOk) :
    (s.transfer ctx target f).MemoryOk := by
  have ht := h.checkTarget (ctx := ctx) (pc := target)
  unfold State.transfer
  generalize s.checkTarget ctx target = x at ht ⊢
  cases x with
  | ok | fault => exact hf _ ht
  | later => exact ht
  | bad => trivial

theorem Issued.MemoryOk.branchIf {ctx f taken} (h : s.MemoryOk) : (s.branchIf ctx f taken).MemoryOk :=
  .ite (.transfer h fun _ h => h) h

theorem Issued.MemoryOk.results {ctx rs} (h : s.MemoryOk) : (s.results ctx rs).MemoryOk := h

theorem Issued.MemoryOk.regEffect {ctx f} (h : s.MemoryOk) : (s.regEffect ctx f).MemoryOk := h

theorem Issued.MemoryOk.scalarOp {ctx f g} (h : s.MemoryOk) : (s.scalarOp ctx f g).MemoryOk := .results h

theorem Issued.MemoryOk.maskOp {ctx f g} (h : s.MemoryOk) : (s.maskOp ctx f g).MemoryOk := .results h

theorem Issued.MemoryOk.vecOp {ctx f g} (h : s.MemoryOk) : (s.vecOp ctx f g).MemoryOk := .results h

theorem Issued.MemoryOk.cmpOp {ctx f g} (h : s.MemoryOk) : (s.cmpOp ctx f g).MemoryOk := .results h

theorem nextOk_execDelse {f} (h : s.MemoryOk) : NextOk (execDelse f s) :=
  nextOk_atIssue h fun _ => by
    dsimp only
    split
    · trivial
    · exact .ite trivial (.regEffect h)

theorem nextOk_execDjoin {f} (h : s.MemoryOk) : NextOk (execDjoin f s) :=
  nextOk_atIssue h fun _ => by
    split
    · trivial
    · exact .regEffect h

theorem nextOk_execYield {f} (h : s.MemoryOk) : NextOk (execYield f s) :=
  nextOk_atIssue h fun _ => by
    dsimp only
    split
    · exact h
    · exact .ite (.takeClass h) (.stopTeam (.takeClass h))

theorem State.MemoryOk.resumeWait {ctx w} (h : s.MemoryOk) : (s.resumeWait ctx w).MemoryOk := by
  unfold State.resumeWait
  dsimp only
  split
  · split
    · exact h
    · exact .endWait h
  · exact .ite (.endWait h) h
  · split
    · exact .preciseTrap h
    · exact .examWait h
  · exact .ite h (.endWait h)
  · exact .boundary h

theorem State.MemoryOk.resumeNow {ctx} (h : s.MemoryOk) : (s.resumeNow ctx).MemoryOk := by
  unfold State.resumeNow
  refine .ite ?_ h
  have hf := h.fetch (ctx := ctx)
  generalize s.fetch ctx = x at hf ⊢
  cases x with
  | words => exact .resumeWait hf
  | trap | hold | later => exact h

theorem nextOk_execReservedOpcode {w} (h : s.MemoryOk) : NextOk (execReservedOpcode w s) :=
  nextOk_atIssue (body := fun _ => .trap _ _) h fun _ => trivial

theorem nextOk_execLineChecks (h : s.MemoryOk) : NextOk (execLineChecks s) := by
  unfold Machine.execLineChecks
  split
  · trivial
  · refine .ite ?_ trivial
    next ctx _ =>
    have hf := h.fetch (ctx := ctx)
    generalize s.fetch ctx = x at hf ⊢
    cases x with
    | words | later => exact hf
    | trap => exact .next (.afterIssue (.preciseTrap hf))
    | hold => exact .next (.fetchFault hf)

theorem State.MemoryOk.flushCp {col} (h : s.MemoryOk) : (s.flushCp col).MemoryOk :=
  .foldl h fun _ _ h => .flushCore h

end Sys2Proof.Machine
end

section
/-! SUPPORT. Canonical memory form through accesses, barriers and gangs. -/
namespace Sys2Proof.Machine
variable {s : State}

/-! ## Accesses performed (R285) -/

theorem State.MemoryOk.credit {ctx ent id lane got} (h : s.MemoryOk) : (s.credit ctx ent id lane got).MemoryOk := by
  unfold State.credit
  split
  · exact h
  · split
    · exact h
    · exact .saveStatus h

theorem State.MemoryOk.answer {ctx uid x} (h : s.MemoryOk) : (s.answer ctx uid x).MemoryOk := by
  unfold State.answer
  dsimp only
  split
  · exact h
  · split
    · exact h
    · exact .ite (.ite (.saveCell h) h) h

theorem State.MemoryOk.onSupp {p f} (h : s.MemoryOk) : (s.onSupp p f).MemoryOk := by
  unfold State.onSupp
  dsimp only
  split <;> exact h

theorem State.MemoryOk.freeSupp {p ctx tag low} (h : s.MemoryOk) : (s.freeSupp p ctx tag low).MemoryOk :=
  .ite h (.onSupp h)

theorem State.MemoryOk.record {p ctx tag low elem val} (h : s.MemoryOk) : (s.record p ctx tag low elem val).MemoryOk :=
  .ite h (.onSupp h)

theorem State.MemoryOk.padPiece {ctx ent tag op b p} (h : s.MemoryOk) : (s.padPiece ctx ent tag op b p).MemoryOk := by
  unfold State.padPiece
  dsimp only
  split
  · exact .credit (.freeSupp h)
  · exact .credit (by
      split
      · exact .record (by split <;> exact h)
      · split <;> exact h)

theorem State.MemoryOk.padAccess {ctx ent tag op ps} (h : s.MemoryOk) : (s.padAccess ctx ent tag op ps).MemoryOk := by
  unfold State.padAccess
  split
  · exact h
  · exact .foldl h fun _ _ h => .padPiece h

/-! ## The issue of memory instructions (R144 to R149) -/

theorem Issued.MemoryOk.memIssue {ctx i f m as} (h : s.MemoryOk) : (s.memIssue ctx i f m as).MemoryOk := by
  unfold State.memIssue
  dsimp only
  split
  · trivial
  · exact .ite h (.ite trivial h)

theorem Issued.MemoryOk.vload {ctx i f win} (h : s.MemoryOk) : (s.vload ctx i f win).MemoryOk := .memIssue h

theorem Issued.MemoryOk.vstore {ctx i f win} (h : s.MemoryOk) : (s.vstore ctx i f win).MemoryOk := .memIssue h

theorem Issued.MemoryOk.vatomic {ctx i f win cas} (h : s.MemoryOk) : (s.vatomic ctx i f win cas).MemoryOk := .memIssue h

theorem Issued.MemoryOk.uniform {ctx i f m data} (h : s.MemoryOk) : (s.uniform ctx i f m data).MemoryOk := .memIssue h

theorem Issued.MemoryOk.wellOp {s : State} {ctx f k} (hk : ∀ ea, (k ea).MemoryOk) : (s.wellOp ctx f k).MemoryOk :=
  .ite trivial (hk _)

theorem Issued.MemoryOk.wellResult {ctx f op} (h : s.MemoryOk) : (s.wellResult ctx f op).MemoryOk := .wellOp fun _ => h

theorem Issued.MemoryOk.writeBack {ctx i f op g} (h : s.MemoryOk) (hg : ∀ ea s, s.MemoryOk → (g ea s).MemoryOk) :
    (s.writeBack ctx i f op g).MemoryOk :=
  .wellOp fun _ => .ite trivial (hg _ _ h)

/-! ## Barriers, counting events and the event queue (R239 to R253) -/

theorem Issued.MemoryOk.padIssue {ctx i kind reserve path rel w addr} (h : s.MemoryOk) :
    (s.padIssue ctx i kind reserve path rel w addr).MemoryOk := .ite trivial h

theorem nextOk_execBarinit {f} (h : s.MemoryOk) : NextOk (execBarinit f s) :=
  nextOk_atIssue h fun _ => by
    dsimp only
    split
    · trivial
    · exact .padIssue h

theorem nextOk_execBararv {f} (h : s.MemoryOk) : NextOk (execBararv f s) :=
  nextOk_atIssue h fun _ => by
    dsimp only
    split
    · trivial
    · exact .padIssue h

theorem nextOk_execBarwait {f} (h : s.MemoryOk) : NextOk (execBarwait f s) :=
  nextOk_atIssue h fun _ => by
    dsimp only
    split
    · trivial
    · exact h
    · split
      · split
        · trivial
        · exact .boundary h
        · exact h
      · exact h

theorem State.MemoryOk.barinitAct {ctx ent tag off target expect} (h : s.MemoryOk) :
    (s.barinitAct ctx ent tag off target expect).MemoryOk := by
  unfold State.barinitAct
  dsimp only
  split
  · exact h
  · exact .ite (.credit (.freeSupp h)) (.examBlock (.credit (.record (.setObject h))))

theorem nextOk_execCountingEvent {core} (h : s.MemoryOk) : NextOk (execCountingEvent core s) := by
  unfold execCountingEvent
  dsimp only
  split
  · exact h
  · split
    · exact h
    · exact .ite h (.next (.examBlock (.credit (.ite (.freeSupp h) (.record (.setObject h))))))

theorem State.MemoryOk.enterEvent {col w0 w1} (h : s.MemoryOk) : (s.enterEvent col w0 w1).MemoryOk := by
  unfold State.enterEvent
  dsimp only
  split
  · exact h
  · exact .ite (.endWait h) h

theorem State.MemoryOk.evpushAct {ctx ent tag w0 w1} (h : s.MemoryOk) : (s.evpushAct ctx ent tag w0 w1).MemoryOk := by
  unfold State.evpushAct
  dsimp only
  split
  · exact .credit (.freeSupp h)
  · split
    · split
      · exact h
      · exact .credit (.fatalFault h)
    · exact .credit (.record (.enterEvent h))

theorem nextOk_execEventRecordEnter {col} (h : s.MemoryOk) : NextOk (execEventRecordEnter col s) := by
  unfold execEventRecordEnter
  dsimp only
  split
  · exact h
  · exact .ite h (.next (.enterEvent h))

theorem nextOk_execTrelRelease {col} (h : s.MemoryOk) : NextOk (execTrelRelease col s) := by
  unfold execTrelRelease
  dsimp only
  split
  · exact h
  · split
    · exact h
    · exact .ite h h

/-! ## Gangs (R243, R244) -/

theorem State.MemoryOk.flagObjects {c objs} (h : s.MemoryOk) : (s.flagObjects c objs).MemoryOk :=
  .foldl h fun _ _ h => by
    split
    · exact h
    · exact .examBlock (.setObject h)

theorem State.MemoryOk.fatalWork {ctx i} (h : s.MemoryOk) : (s.fatalWork ctx i).MemoryOk :=
  .ite (.flagObjects (.fatalFault h)) (.fatalFault h)

theorem Issued.MemoryOk.gangChange {ctx i a} (h : s.MemoryOk) : (s.gangChange ctx i a).MemoryOk := .ite trivial h

theorem State.MemoryOk.releaseMember {g ctx} (h : s.MemoryOk) : (s.releaseMember g ctx).MemoryOk := by
  unfold State.releaseMember
  dsimp only
  split
  · exact .ite (.endWait h) h
  · split
    · exact .ite (.saveStatus (.savePc h)) h
    · exact .ite (.saveStatus h) h
  · exact .ite h h

theorem State.MemoryOk.closePhase {col g} (h : s.MemoryOk) : (s.closePhase col g).MemoryOk := by
  unfold State.closePhase
  split
  · exact h
  · exact .ite (.foldl h fun _ _ h => .releaseMember h) h

theorem State.MemoryOk.gangDone {ctx} (h : s.MemoryOk) : (s.gangDone ctx).MemoryOk :=
  .afterEvent h

theorem State.MemoryOk.gangTrap {ctx c} (h : s.MemoryOk) : (s.gangTrap ctx c).MemoryOk :=
  .afterEvent (.preciseTrap h)

theorem State.MemoryOk.gjoinAct {ctx g any sd} (h : s.MemoryOk) : (s.gjoinAct ctx g any sd).MemoryOk := by
  unfold State.gjoinAct
  refine .ite h (.ite ?_ ?_)
  · split
    · exact .gangTrap h
    · exact .gangDone h
  · split
    · exact .gangDone h
    · exact .ite (.gangTrap h) (.ite (.gangDone h) (.gangDone h))

theorem State.MemoryOk.breakRound {col g c who} (h : s.MemoryOk) : (s.breakRound col g c who).MemoryOk :=
  .foldl h fun _ _ h => by
    split
    · exact h
    · exact .credit (.fatalWork h)

theorem State.MemoryOk.leaveGang {col ctx g} (h : s.MemoryOk) : (s.leaveGang col ctx g).MemoryOk := by
  unfold State.leaveGang
  dsimp only
  split
  · exact h
  · exact .ite h (.closePhase (.ite (.ite (.breakRound h) (.breakRound h)) (.ite (.breakRound h) (.breakRound h))))

theorem State.MemoryOk.gleaveAct {ctx g} (h : s.MemoryOk) : (s.gleaveAct ctx g).MemoryOk :=
  .ite (.leaveGang h) (.ite h (.ite (.gangTrap h) (.gangDone (.leaveGang h))))

theorem State.MemoryOk.gbarAct {ctx g} (h : s.MemoryOk) : (s.gbarAct ctx g).MemoryOk := by
  unfold State.gbarAct
  dsimp only
  split
  · exact h
  · exact .ite (.closePhase h) h

end Sys2Proof.Machine
end

section
/-! SUPPORT. Canonical memory form through the lines of a die and the Well. -/
namespace Sys2Proof.Machine
variable {s : State}

/-! ## Lines of a die (R192 to R205) -/

theorem State.MemoryOk.endHold {d k r} (h : s.MemoryOk) : (s.endHold d k r).MemoryOk :=
  .ite (.passHold h) h

theorem State.MemoryOk.peerHome {d k pl} (h : s.MemoryOk) : (s.peerHome d k pl).MemoryOk := by
  unfold State.peerHome
  split
  · exact h
  · exact .written h

theorem State.MemoryOk.forgetLine {d k} (h : s.MemoryOk) : (s.forgetLine d k).MemoryOk := by
  unfold State.forgetLine
  split
  · exact h
  · exact .ite h h

theorem State.MemoryOk.cleanLine {d k waits} (h : s.MemoryOk) : (s.cleanLine d k waits).1.MemoryOk := by
  unfold State.cleanLine
  split
  · exact h
  · exact .fst_ite h h

theorem State.MemoryOk.dropLine {d k waits} (h : s.MemoryOk) : (s.dropLine d k waits).1.MemoryOk :=
  (s.dropLine_fabric d k waits).memoryOk h

theorem State.MemoryOk.leaveLine {d k} (h : s.MemoryOk) : (s.leaveLine d k).MemoryOk := by
  unfold State.leaveLine
  split
  · exact h
  · exact .ite (.dropLine h) h

theorem State.MemoryOk.dropLines {d tile waits} (h : s.MemoryOk) : (s.dropLines d tile waits).1.MemoryOk :=
  foldl_fst h fun _ _ h => .dropLine h

theorem State.MemoryOk.codeRoom {d} (h : s.MemoryOk) : (s.codeRoom d).MemoryOk := by
  unfold State.codeRoom
  dsimp only
  split
  · exact h
  · split
    · exact h
    · exact .cleanLine h

theorem State.MemoryOk.probed {d k pl stamp inv clean} (h : s.MemoryOk) : (s.probed d k pl stamp inv clean).MemoryOk := by
  unfold State.probed
  refine .ite h ?_
  split
  · exact .ite h h
  · have hs : (if inv then s.l1Drop d k else s.l1Share d k).MemoryOk := .ite h h
    dsimp only
    split <;> exact hs

/-! ## The Well (R118 to R142) -/

theorem State.MemoryOk.trim {d} (h : s.MemoryOk) : (s.trim d).MemoryOk := by
  unfold State.trim
  dsimp only
  split
  · exact h
  · split
    · exact h
    · exact .dropLines h

theorem State.MemoryOk.touchTile {d tile uid} (h : s.MemoryOk) : (s.touchTile d tile uid).MemoryOk := by
  unfold State.touchTile
  dsimp only
  split
  · split
    · exact h
    · split
      · exact .ite (.trim h) h
      · exact h
  · exact .trim h

theorem LineAcc.piece_memoryOk {a : LineAcc} (h : a.s.MemoryOk) (r : Req) (pt : Point) (p : Piece) :
    (a.piece r pt p).s.MemoryOk := by
  unfold LineAcc.piece
  split
  · exact .credit (.freeSupp h)
  · extract_lets off old s s'
    have hs' : s'.MemoryOk := .credit (.ite (.record h) h)
    split <;> exact hs'

theorem LineAcc.pieces_memoryOk {a : LineAcc} (h : a.s.MemoryOk) {r : Req} {pt : Point} {l : List Piece} :
    (l.foldl (fun acc p => acc.piece r pt p) a).s.MemoryOk := by
  induction l generalizing a with
  | nil => exact h
  | cons p l ih => exact ih (a.piece_memoryOk h r pt p)

theorem State.MemoryOk.l1Atomic {k r line a} (h : s.MemoryOk) : (s.l1Atomic k r line a).MemoryOk := by
  unfold State.l1Atomic
  dsimp only
  split
  · exact .endHold h
  · exact .ite h h

theorem State.MemoryOk.performLine {d k r l a} (h : s.MemoryOk) : (s.performLine d k r l a).MemoryOk := by
  unfold State.performLine
  extract_lets place acc s1 l' s2 s3 s4
  have hacc : acc.s.MemoryOk := LineAcc.pieces_memoryOk h
  have h1 : s1.MemoryOk := .ite (.codeRoom hacc) hacc
  have h3 : s3.MemoryOk := .ite h1 h1
  have h4 : s4.MemoryOk := .ite (.l1Atomic h3) h3
  exact .ite (.dropLine h4) h4

theorem State.MemoryOk.l1Away {d k r data mask} (h : s.MemoryOk) : (s.l1Away d k r data mask).MemoryOk := by
  unfold State.l1Away
  dsimp only
  split
  · exact h
  · exact .endHold (by split <;> exact h)

theorem State.MemoryOk.peerAtomic {d k pl r} (h : s.MemoryOk) : (s.peerAtomic d k pl r).MemoryOk := by
  unfold State.peerAtomic
  extract_lets s1 acc s2
  have h2 : s2.MemoryOk := .homeWrite (LineAcc.pieces_memoryOk (State.MemoryOk.peerHome h)) ..
  split
  · exact .l1Away h2
  · exact .l1Away h2

theorem State.MemoryOk.ackStore {pl r} (h : s.MemoryOk) : (s.ackStore pl r).MemoryOk :=
  .foldl h fun _ _ h => .credit (.ite (.freeSupp h) (.record h))

theorem State.MemoryOk.splitAtomic {d k r l a} (h : s.MemoryOk) : (s.splitAtomic d k r l a).MemoryOk := by
  unfold State.splitAtomic
  extract_lets step r'
  have hr : r'.1.MemoryOk := foldl_fst h fun p q h => by
    dsimp only [step]
    refine fst_ite (.credit (.freeSupp h)) ?_
    split
    · exact h
    · exact .credit (.record h)
  split
  · exact State.MemoryOk.endHold (s := r'.1.endOwn d k r.uid) hr
  · exact State.MemoryOk.ite hr hr

theorem Try.MemoryOk.ite {c : Prop} [Decidable c] {a b : Try} (ha : a.MemoryOk) (hb : b.MemoryOk) :
    (if c then a else b).MemoryOk := by
  split
  · exact ha
  · exact hb

theorem State.MemoryOk.tryReq {d w granted} (h : s.MemoryOk) : (s.tryReq d w granted).MemoryOk := by
  have hdone : ∀ {k r l a} {c : Bool} {b}, (if c then Try.done (s.performLine d k r l a) else .ask .upg b).MemoryOk :=
    .ite (.performLine h) trivial
  unfold State.tryReq
  dsimp only
  split
  · trivial
  · refine .ite trivial (.ite trivial (.ite ?_ ?_))
    · split
      · refine .ite (.ite trivial (.ite (.peerAtomic h) trivial)) ?_
        split
        · exact hdone
        · trivial
      · split
        · exact .ite hdone trivial
        · trivial
    · split
      · refine .ite (.ite trivial trivial) ?_
        split
        · exact hdone
        · exact .ite trivial trivial
      · split
        · exact hdone
        · exact .ite trivial trivial
      · split
        · exact hdone
        · exact .ite trivial trivial
      · split
        · exact .ite (.performLine h) h.splitAtomic
        · exact .ite trivial trivial
      · split
        · exact .ite (.performLine h) h.splitAtomic
        · exact .ite trivial trivial
      · split
        · exact .performLine h
        · exact .ite trivial trivial

theorem State.MemoryOk.unwaitRun {d w} (h : s.MemoryOk) : (s.unwaitRun d w).MemoryOk :=
  .foldl h fun _ _ h => h

theorem State.MemoryOk.sendStore {d w} (h : s.MemoryOk) : (s.sendStore d w).MemoryOk :=
  .ite (.ackStore (.written h)) (.ite h h)

theorem State.MemoryOk.maintain {d w} (h : s.MemoryOk) : (s.maintain d w).MemoryOk := by
  unfold State.maintain
  refine .ite (.ite h h) ?_
  extract_lets c x
  have hc : c.1.MemoryOk := fst_ite (.cleanLine h) (fst_ite (.dropLine h) h)
  exact .ite hc (.ite hc (.credit hc))

theorem State.MemoryOk.pump {d k granted n} (h : s.MemoryOk) : (s.pump d k granted n).MemoryOk := by
  induction n generalizing s k granted with
  | zero => exact h
  | succ n ih =>
    unfold State.pump
    split
    · exact h
    · next w _ =>
      refine .ite (.ite (ih (.maintain h)) h) ?_
      extract_lets others onward
      have hon : ∀ {s : State}, s.MemoryOk → (onward s).MemoryOk := fun h => .foldl (ih h) fun _ _ h => ih h
      refine .ite h ?_
      have ht := h.tryReq (d := d) (w := w) (granted := granted)
      generalize s.tryReq d w granted = x at ht ⊢
      cases x with
      | done s' => exact hon (s := s'.unwait d w) ht
      | split s' r => exact .ite (ih (s := s'.rewait d _) ht) (.ite h h)
      | bstore => exact .ite h (.ite h (.ite h (.ite (hon (.sendStore h)) (.sendStore h))))
      | peer | stay => exact h
      | walk | ask => exact .ite h h

theorem State.MemoryOk.pumpLine {d k granted} (h : s.MemoryOk) : (s.pumpLine d k granted).MemoryOk :=
  .leaveLine (.pump (.ite h (.leaveLine h)))

theorem State.MemoryOk.finishWait {d w} (h : s.MemoryOk) : (s.finishWait d w).MemoryOk :=
  .foldl (.pumpLine h) fun _ _ h => .pumpLine h

theorem State.MemoryOk.pumpDie {d} (h : s.MemoryOk) : (s.pumpDie d).MemoryOk :=
  .foldl h fun _ _ h => .pumpLine h

theorem State.MemoryOk.enqueue {d r} (h : s.MemoryOk) : (s.enqueue d r).MemoryOk :=
  .ite (.foldl h fun _ _ h => .pumpLine h) (.foldl h fun _ _ h => .pumpLine h)

theorem State.MemoryOk.setLeft {ctx ent n} (h : s.MemoryOk) : (s.setLeft ctx ent n).MemoryOk := by
  unfold State.setLeft
  split <;> exact h

theorem State.MemoryOk.counted {d r ks} (h : s.MemoryOk) : (s.counted d r ks).MemoryOk :=
  .ite (.ite (.credit (.freeSupp h)) (.setLeft (.freeSupp h)))
    (.ite (.credit (.record h)) (.foldl (.setLeft (.record h)) fun _ _ h => .pumpLine h))

theorem State.MemoryOk.pinAct {d tile a} (h : s.MemoryOk) : (s.pinAct d tile a).1.MemoryOk := by
  unfold State.pinAct
  dsimp only
  split
  · exact .fst_ite h (.fst_ite h (.fst_ite h h))
  · exact .fst_ite h h

theorem State.MemoryOk.pin {d r} (h : s.MemoryOk) : (s.pin d r).MemoryOk := by
  unfold State.pin
  refine .ite (.answer (.pinAct h)) (.ite (State.MemoryOk.pinAct h) ?_)
  have ht := h.translate (d := d) (asid := r.asid) (va := va57 r.va) (n := { user := r.user })
  generalize s.translate d r.asid (va57 r.va) { user := r.user } = x at ht ⊢
  obtain ⟨s', e | e⟩ := x
  · exact .answer (.pinAct ht)
  · exact .ite (.answer ht) (.answer (.pinAct ht))

theorem State.MemoryOk.unpin {d tile} (h : s.MemoryOk) : (s.unpin d tile).MemoryOk := by
  unfold State.unpin
  dsimp only
  split
  · exact .ite (.trim h) h
  · exact h

theorem State.MemoryOk.evictTile {d tile} (h : s.MemoryOk) : (s.evictTile d tile).MemoryOk := by
  unfold State.evictTile
  dsimp only
  split
  · exact h
  · exact .ite h h

theorem State.MemoryOk.applyReq {d r} (h : s.MemoryOk) : (s.applyReq d r).MemoryOk := by
  unfold State.applyReq
  cases r.op with
  | load | store | atomic | cas | commit | own | pref => exact .enqueue h
  | wunpin => exact .unpin h
  | wclean | cflush => exact .counted h
  | wevict => exact .ite (.counted h) (.evictTile (.counted h))
  | cinv => exact .pumpLine h
  | probe => exact .probed h
  | wpin => exact .pin h
  | wdepth =>
    dsimp only
    split
    · exact .ite h (.answer h)
    · exact h

theorem State.MemoryOk.admitReq {d r} (h : s.MemoryOk) : (s.admitReq d r).MemoryOk := by
  unfold State.admitReq
  extract_lets tile t x
  have ht : t.MemoryOk := .ite (.touchTile h) h
  clear_value t
  split
  · exact .ite (.ite (.applyReq ht) (.ite ht ht)) (.applyReq ht)
  · exact .applyReq ht

theorem State.MemoryOk.admitUpTo {d n} (h : s.MemoryOk) : (s.admitUpTo d n).MemoryOk := by
  induction n generalizing s with
  | zero => exact h
  | succ n ih =>
    unfold State.admitUpTo
    dsimp only
    split
    · exact h
    · exact .ite h (ih (.admitReq h))

theorem State.MemoryOk.fillLog {core} (h : s.MemoryOk) : (s.fillLog core).MemoryOk :=
  .foldl h fun _ _ h => by
    split
    · exact .ite h h
    · exact h

theorem State.MemoryOk.fillLogs {d} (h : s.MemoryOk) : (s.fillLogs d).MemoryOk :=
  .foldl h fun _ _ h => .fillLog h

theorem State.MemoryOk.applyHeld {d r} (h : s.MemoryOk) : (s.applyHeld d r).MemoryOk :=
  .ite h (.applyReq (.ite (.touchTile h) h))

theorem State.MemoryOk.landTile {d tile} (h : s.MemoryOk) : (s.landTile d tile).MemoryOk := by
  unfold State.landTile
  dsimp only
  split
  · exact h
  · exact .ite h (.dropLines h)

theorem State.MemoryOk.dropNowell {d tile} (h : s.MemoryOk) : (s.dropNowell d tile).MemoryOk := by
  unfold State.dropNowell
  split
  · exact h
  · exact .ite h (.foldl h fun _ _ h => .applyReq h)

theorem State.MemoryOk.rejectPin {d tile} (h : s.MemoryOk) : (s.rejectPin d tile).MemoryOk := by
  unfold State.rejectPin
  dsimp only
  split
  · exact h
  · exact .ite h (.dropNowell h)

theorem State.MemoryOk.keepAttr {d tile a} (h : s.MemoryOk) : (s.keepAttr d tile a).MemoryOk := by
  unfold State.keepAttr
  dsimp only
  split
  · exact h
  · exact .ite (.dropNowell h) h

theorem nextOk_execTransitArrival {die tile} (h : s.MemoryOk) : NextOk (execTransitArrival die tile s) := by
  unfold execTransitArrival
  dsimp only
  split
  · exact h
  · exact .ite h (.next (.landTile (.foldl h fun _ _ h => .applyHeld h)))

theorem State.MemoryOk.heard {d r} (h : s.MemoryOk) : (s.heard d r).MemoryOk := by
  unfold State.heard
  dsimp only
  split
  · exact h
  · exact .foldl h fun _ _ h => h
  · exact .foldl h fun _ _ h => .ite h h
  · exact .foldl h fun _ _ h => .ite h h
  · exact .foldl h fun _ _ h => .ite h h
  · exact .foldl h fun _ _ h => h
  · exact h
  · exact .ite h (.ite h h)
  · exact h

theorem nextOk_execDrumAnnouncementAct {die} (h : s.MemoryOk) : NextOk (execDrumAnnouncementAct die s) := by
  unfold execDrumAnnouncementAct
  dsimp only
  split
  · exact h
  · split
    · exact .next (.heard h)
    · exact .next (.gjoinAct h)
    · exact .next (.gleaveAct h)
    · exact .next (.gbarAct h)

theorem nextOk_execL1Fill {core line} (h : s.MemoryOk) : NextOk (execL1Fill core line s) := by
  unfold execL1Fill
  dsimp only
  split
  · exact h
  · split
    · exact h
    · split
      · exact h
      · exact .next (.forgetLine h)

theorem nextOk_execL1HoldExpiry {core line} (h : s.MemoryOk) : NextOk (execL1HoldExpiry core line s) := by
  unfold execL1HoldExpiry
  split
  · exact h
  · exact .ite (.next (.releaseHold h)) h

end Sys2Proof.Machine
end

section
/-! SUPPORT. Canonical memory form through the engines. -/
namespace Sys2Proof.Machine
variable {s : State}

/-! ## What the engines reach (R226, R230) -/

theorem State.MemoryOk.engAsk {g va key pl a op} (h : s.MemoryOk) : (s.engAsk g va key pl a op).MemoryOk :=
  .ite h (.pumpLine h)

theorem State.MemoryOk.engTouch {g tile} (h : s.MemoryOk) : (s.engTouch g tile).MemoryOk :=
  .ite h (.touchTile h)

theorem State.MemoryOk.engStuck {g va pl} (h : s.MemoryOk) : (s.engStuck g va pl).MemoryOk :=
  .ite h h

theorem LineGot.MemoryOk.ite {c : Prop} [Decidable c] {a b : LineGot} (ha : a.MemoryOk) (hb : b.MemoryOk) :
    (if c then a else b).MemoryOk := by
  split
  · exact ha
  · exact hb

theorem State.MemoryOk.engFound {g va e write} (h : s.MemoryOk) : (s.engFound g va e write).MemoryOk := by
  unfold State.engFound
  extract_lets pl k tile t x
  split
  · have ht : t.MemoryOk := by
      dsimp only [t]
      split
      · exact .ite (.dropNowell h) h
      · exact h
    refine .ite ht.engStuck (.ite ht.homeAsk ?_)
    split
    · exact ht.homeAsk
    · exact ht
  · split
    · exact h
    · extract_lets u
      have hu : u.MemoryOk := h
      refine .ite hu ?_
      split
      · exact .ite hu hu.engAsk
      · exact hu.engAsk

theorem State.MemoryOk.translated {t : State} {d asid va n x} (h : s.MemoryOk) (he : s.translate d asid va n = (t, x)) :
    t.MemoryOk := by
  have ht := h.translate (d := d) (asid := asid) (va := va) (n := n)
  rwa [he] at ht

theorem State.MemoryOk.engWalk {g va write peer recheck} (h : s.MemoryOk) : (s.engWalk g va write peer recheck).MemoryOk := by
  unfold State.engWalk
  extract_lets need s1
  have h1 : s1.MemoryOk := .ite h h
  split
  · exact h1.homeAsk
  · split
    · next he => exact h1.translated he
    · next he => exact .ite (h1.translated he) (h1.translated he).engFound

theorem State.MemoryOk.engLine {g va write peer} (h : s.MemoryOk) : (s.engLine g va write peer).MemoryOk := by
  unfold State.engLine
  extract_lets k tile x t
  refine .ite h ?_
  have ht : t.MemoryOk := h.engTouch
  clear_value t
  split
  · exact .ite ht.engWalk (.ite ht (.ite ht ht.engAsk))
  · exact ht.engWalk

theorem State.MemoryOk.engStore {g key pl a off n x} (h : s.MemoryOk) : (s.engStore g key pl a off n x).MemoryOk := by
  unfold State.engStore
  dsimp only
  split
  · exact .ite (.ite (.written h) (.mapCopies h)) (.ite (.written h) (.mapCopies h))
  · split <;> exact .ite (.ite h (.codeRoom h)) (.ite h (.codeRoom h))

theorem State.MemoryOk.padWrite {frame off n x} (h : s.MemoryOk) : (s.padWrite frame off n x).MemoryOk := by
  unfold State.padWrite
  dsimp only
  split
  · exact h
  · split
    · exact .windowWrite h
    · exact h

theorem State.MemoryOk.padReduce {frame off fmt red x} (h : s.MemoryOk) : (s.padReduce frame off fmt red x).MemoryOk := by
  unfold State.padReduce
  dsimp only
  split
  · exact .elim h fun _ => .flushCore h
  · split
    · exact .windowWrite (.elim h fun _ => .flushCore h)
    · exact .examBlock (.elim h fun _ => .flushCore h)

theorem State.MemoryOk.readSpot {g cp n sp} (h : s.MemoryOk) : (s.readSpot g cp n sp).MemoryOk := by
  cases sp with
  | pad => exact h
  | glob va peer =>
    have hl := h.engLine (g := g) (va := va) (write := false) (peer := peer)
    unfold State.readSpot
    dsimp only
    generalize s.engLine g va false peer = x at hl ⊢
    cases x <;> exact hl

theorem State.MemoryOk.readElem {g cp col wins rc i j} (h : s.MemoryOk) : (s.readElem g cp col wins rc i j).MemoryOk := by
  unfold State.readElem
  split
  · exact h
  · split
    · next sp _ _ =>
      have hs := h.readSpot (g := g) (cp := cp) (n := Shape.bytes (Shape.fmt rc)) (sp := sp)
      generalize s.readSpot g cp (Shape.bytes (Shape.fmt rc)) sp = x at hs ⊢
      cases x <;> exact hs
    · exact h

theorem State.MemoryOk.writeSpot {g tag elem fmt red x sp} (h : s.MemoryOk) :
    (s.writeSpot g tag elem fmt red x sp).MemoryOk := by
  cases sp with
  | pad =>
    unfold State.writeSpot
    dsimp only
    split
    · exact h
    · exact State.MemoryOk.record (.ite (.padWrite h) (.padReduce h))
  | glob va peer =>
    have hl := h.engLine (g := g) (va := va) (write := true) (peer := peer)
    unfold State.writeSpot
    dsimp only
    generalize s.engLine g va true peer = y at hl ⊢
    cases y with
    | wait | fault => exact hl
    | ready s' key pl a data =>
      refine State.MemoryOk.record (.ite ?_ (.engStore hl))
      have hw : ∀ y, ((s'.peerHome g.die key pl).homeWrite pl (linePut 0 (va % 128) (Shape.bytes fmt) y)
        (byteMask (va % 128) (Shape.bytes fmt))).MemoryOk := fun y => .homeWrite (.peerHome hl) ..
      split
      · exact hw _
      · exact hw _

/-! ## The matrix array (R111 to R115) -/

theorem nextOk_execMma {f} (h : s.MemoryOk) : NextOk (execMma f s) :=
  nextOk_atIssue h fun _ => by
    dsimp only
    split
    · trivial
    · exact .ite trivial h

theorem Many.MemoryOk.next {α : Type} {f : State → α → Got} {m : Many} {a : α} (h : m.MemoryOk)
    (hf : ∀ s, s.MemoryOk → (f s a).MemoryOk) : (m.next f a).MemoryOk := by
  cases m with
  | fault => exact h
  | ready s | wait s =>
    have hg := hf s h
    unfold Many.next
    dsimp only
    generalize f s a = x at hg ⊢
    cases x <;> exact hg

theorem Many.MemoryOk.foldl {α : Type} {f : State → α → Got} {l : List α} {m : Many} (h : m.MemoryOk)
    (hf : ∀ s a, s.MemoryOk → (f s a).MemoryOk) : (l.foldl (Many.next f) m).MemoryOk := by
  induction l generalizing m with
  | nil => exact h
  | cons a l ih => exact ih (h.next fun s h => hf s a h)

theorem State.MemoryOk.mmaRead {g col wins r} (h : s.MemoryOk) : (s.mmaRead g col wins r).MemoryOk := by
  cases r with
  | elem => exact h.readElem
  | mem va => exact h.readSpot (g := g) (cp := false) (sp := .glob va false)
  | const => exact h

theorem State.MemoryOk.mmaReadAt {g col j r i} (h : s.MemoryOk) : (s.mmaReadAt g col j r i).MemoryOk := by
  unfold State.mmaReadAt
  split
  · exact h
  · exact h.mmaRead

theorem State.MemoryOk.engFault {g att type level va path write rep} (h : s.MemoryOk) :
    (s.engFault g att type level va path write rep).MemoryOk :=
  .logFault h

theorem State.MemoryOk.readOperand {core job i} (h : s.MemoryOk) : (s.readOperand core job i).MemoryOk := by
  unfold State.readOperand
  split
  · exact h
  · next j _ =>
    split
    · exact h
    · next r _ =>
      refine .ite h ?_
      extract_lets g
      have hr := h.mmaReadAt (g := g) (col := colOf core) (j := j) (r := r) (i := i)
      generalize s.mmaReadAt g (colOf core) j r i = x at hr ⊢
      cases x with
      | ready | wait => exact hr
      | fault => exact h

theorem nextOk_execMmaStart {core job} (h : s.MemoryOk) : NextOk (execMmaStart core job s) := by
  unfold Machine.execMmaStart
  split
  · exact h
  · next j _ =>
    refine .ite (.next (.ite h h)) (.ite h ?_)
    extract_lets g
    have hm := Many.MemoryOk.foldl (m := .ready s []) (l := (mmaReads j.ra j.rb).zipIdx) h fun s r (h : s.MemoryOk) =>
      h.mmaReadAt (g := g) (col := colOf core) (j := j) (r := r.1) (i := r.2)
    generalize List.foldl _ _ _ = x at hm ⊢
    cases x with
    | ready | wait => exact hm
    | fault s' => exact .next (.engFault (s := (s'.endTouches _ _).mapJob _ _ _) hm)

theorem nextOk_execMmaCommit {core job} (h : s.MemoryOk) : NextOk (execMmaCommit core job s) := by
  unfold execMmaCommit
  dsimp only
  split
  · exact h
  · split
    · exact .next (.ite h (.credit h))
    · exact h

/-! ## The copy engine (R229 to R236) -/

theorem nextOk_execCpy {f} (h : s.MemoryOk) : NextOk (execCpy f s) :=
  nextOk_atIssue h fun _ => by
    dsimp only
    split
    · trivial
    · exact .ite trivial h

theorem nextOk_execCpym {f} (h : s.MemoryOk) : NextOk (execCpym f s) :=
  nextOk_atIssue h fun _ => by
    dsimp only
    split
    · trivial
    · exact .ite trivial h

theorem nextOk_execZdrain {f} (h : s.MemoryOk) : NextOk (execZdrain f s) :=
  nextOk_atIssue h fun _ => by
    dsimp only
    split
    · trivial
    · exact .ite trivial h

theorem nextOk_execRrot {f} (h : s.MemoryOk) : NextOk (execRrot f s) :=
  nextOk_atIssue h fun _ => by
    dsimp only
    split
    · trivial
    · exact .ite trivial h

theorem State.MemoryOk.mapCopy {ctx ent f} (h : s.MemoryOk) : (s.mapCopy ctx ent f).MemoryOk := by
  unfold State.mapCopy
  dsimp only
  split <;> exact h

theorem State.MemoryOk.formRound {col g} (h : s.MemoryOk) : (s.formRound col g).MemoryOk := by
  unfold State.formRound
  dsimp only
  split
  · exact h
  · split
    · exact h
    · exact .ite h (.ite (.breakRound h) (.foldl h fun _ _ h => .mapCopy h))

theorem State.MemoryOk.countBytes {c sp n} (h : s.MemoryOk) : (s.countBytes c sp n).1.MemoryOk := by
  unfold State.countBytes
  dsimp only
  split
  · exact h
  · split
    · exact h
    · split <;> exact h

theorem State.MemoryOk.freeSpot {g tag sp} (h : s.MemoryOk) : (s.freeSpot g tag sp).MemoryOk := by
  cases sp with
  | pad => exact .freeSupp h
  | glob va peer =>
    have hl := h.engLine (g := g) (va := va) (write := true) (peer := peer)
    unfold State.freeSpot
    dsimp only
    generalize s.engLine g va true peer = x at hl ⊢
    cases x with
    | ready => exact .freeSupp hl
    | wait | fault => exact hl

theorem State.MemoryOk.performSpots {g c i x spots} (h : s.MemoryOk) : (s.performSpots g c i x spots).1.MemoryOk := by
  refine foldl_fst h fun a sp h => .countBytes (.ite (.freeSpot h) ?_)
  split
  · exact h.writeSpot.ready ‹_›
  · exact h.writeSpot.wait ‹_›
  · exact h.writeSpot.fault ‹_›

theorem State.MemoryOk.copyFault {g c type level va write} (h : s.MemoryOk) :
    (s.copyFault g c type level va write).MemoryOk :=
  .engFault h

theorem State.MemoryOk.landCopy {c} (h : s.MemoryOk) : (s.landCopy c).MemoryOk :=
  .ite h (.foldl h fun _ _ h => .flushCore h)

theorem State.MemoryOk.finishCopy {c} (h : s.MemoryOk) : (s.finishCopy c).MemoryOk :=
  .ite h (.ite (.ite (.landCopy h) (.landCopy h)) (.ite (.landCopy h) (.credit (.ite (.landCopy h) (.landCopy h)))))

theorem State.MemoryOk.copyValue {g c i} (h : s.MemoryOk) : (s.copyValue g c i).MemoryOk := by
  unfold State.copyValue
  split
  · exact h
  · split
    · exact h
    · exact h
    · exact h.readElem

theorem State.MemoryOk.spotReady {g red sp} (h : s.MemoryOk) : (s.spotReady g red sp).MemoryOk := by
  cases sp with
  | pad => exact .ite h h
  | glob va peer =>
    have hl := h.engLine (g := g) (va := va) (write := true) (peer := peer)
    unfold State.spotReady
    dsimp only
    generalize s.engLine g va true peer = x at hl ⊢
    cases x with
    | wait | fault => exact hl
    | ready => exact .ite hl (.ite (State.MemoryOk.engStuck hl) hl)

theorem Ready.MemoryOk.foldl {α : Type} {f : Ready → α → Ready} {l : List α} {r t : Ready} (h : r.MemoryOk)
    (ht : l.foldl f r = t) (hf : ∀ r a, r.MemoryOk → (f r a).MemoryOk) : t.MemoryOk := by
  subst ht
  induction l generalizing r with
  | nil => exact h
  | cons a l ih => exact ih (hf r a h)

theorem State.MemoryOk.elemGot {g c i} (h : s.MemoryOk) : (s.elemGot g c i).MemoryOk := by
  have hv := h.copyValue (g := g) (c := c) (i := i)
  unfold State.elemGot
  generalize s.copyValue g c i = x at hv ⊢
  cases x with
  | wait | fault => exact hv
  | ready s' =>
    dsimp only
    split <;> next ht =>
      have hr := Ready.MemoryOk.foldl (r := .yes s') hv ht fun r sp h => by
        cases r with
        | yes => exact State.MemoryOk.spotReady h
        | wait | fault => exact h
      exact hr

theorem State.MemoryOk.copyStep {c i} (h : s.MemoryOk) : (s.copyStep c i).MemoryOk := by
  unfold State.copyStep
  extract_lets g
  have he := h.elemGot (g := g) (c := c) (i := i)
  generalize s.elemGot g c i = x at he ⊢
  cases x with
  | ready => exact .performSpots he
  | wait => exact he
  | fault s' => exact .ite (.copyFault (s := s'.endTouches _ _) he) h

theorem State.MemoryOk.pick {copy i} (h : s.MemoryOk) : (s.pick copy i).MemoryOk := by
  unfold State.pick
  split
  · exact h
  · exact .ite (.copyStep h) h

theorem State.MemoryOk.readEarly {copy i} (h : s.MemoryOk) : (s.readEarly copy i).MemoryOk := by
  unfold State.readEarly
  split
  · exact h
  · next c _ =>
    extract_lets put
    refine .ite h ?_
    split
    · exact h
    · refine .ite (.ite h h) ?_
      split
      · exact .ite h h
      · exact h
    · refine .ite ?_ h
      split
      · next he =>
        have ht := h.readElem.ready he
        exact ht
      · exact h.readElem.wait ‹_›
      · exact h

theorem nextOk_execCopyElement {copy} (h : s.MemoryOk) : NextOk (execCopyElement copy s) := by
  unfold execCopyElement
  split
  · exact h
  · split
    · exact h
    · split
      · exact .next (.finishCopy h)
      · split
        · split
          · exact .next (.formRound h)
          · exact h
        · exact .ite (.next (.finishCopy h)) (.ite h (.next (.copyStep h)))

theorem State.MemoryOk.fatalCopy {c i} (h : s.MemoryOk) : (s.fatalCopy c i).MemoryOk :=
  .ite (.credit (.fatalWork h)) (.fatalWork h)

end Sys2Proof.Machine
end

section
/-! SUPPORT. Canonical memory form through the queues of teams and the homes. -/
namespace Sys2Proof.Machine
variable {s : State}

/-! ## Items of a queue and what comes back to a team -/

theorem State.MemoryOk.hitL1 {r} (h : s.MemoryOk) : (s.hitL1 r).1.MemoryOk := by
  refine foldl_fst h fun a p h => ?_
  split
  · exact fst_ite h (.credit h)
  · exact h

theorem State.MemoryOk.sendReq {r} (h : s.MemoryOk) : (s.sendReq r).MemoryOk := .ite (.ite (.hitL1 h) (.hitL1 h)) h

theorem State.MemoryOk.actItem {ctx i} (h : s.MemoryOk) : (s.actItem ctx i).MemoryOk := by
  unfold State.actItem
  split
  · exact .sendReq h
  · exact .examBlock (.padAccess h)
  · exact .barinitAct h
  · exact h
  · exact .examFirst h
  · exact .evpushAct h
  · exact h

theorem State.MemoryOk.goItem {ctx idx} (h : s.MemoryOk) : (s.goItem ctx idx).MemoryOk := by
  unfold State.goItem
  split
  · exact h
  · split
    · exact h
    · exact .ite h (.actItem h)

theorem State.MemoryOk.goLane {ctx idx k} (h : s.MemoryOk) : (s.goLane ctx idx k).MemoryOk := by
  unfold State.goLane
  split
  · exact h
  · split
    · exact h
    · split
      · split
        · exact h
        · exact .ite h (.actItem h)
      · exact h

theorem nextOk_execRegisterResultReturn {ctx uid lanes} (h : s.MemoryOk) :
    NextOk (execRegisterResultReturn ctx uid lanes s) := by
  unfold execRegisterResultReturn
  dsimp only
  split
  · exact h
  · exact .next (.ite h (.afterEvent h))

theorem State.MemoryOk.wakeCounters {ctx} (h : s.MemoryOk) : (s.wakeCounters ctx).MemoryOk := by
  unfold State.wakeCounters
  dsimp only
  split
  · exact .ite (.afterEvent (.endWait h)) h
  · exact h

theorem nextOk_execAccessComplete {ctx ent} (h : s.MemoryOk) : NextOk (execAccessComplete ctx ent s) := by
  unfold execAccessComplete
  split
  · exact h
  · split
    · exact h
    · exact .ite h (.ite (.next (.wakeCounters h)) (.ite (.next (.wakeCounters h)) h))

theorem nextOk_execTrapDelivery {ctx} (h : s.MemoryOk) : NextOk (execTrapDelivery ctx s) := by
  unfold execTrapDelivery
  dsimp only
  split
  · exact h
  · exact .ite (.next (.afterEvent (.flagObjects (.deliver h)))) h

theorem State.MemoryOk.takeFatal {ctx t i rest} (h : s.MemoryOk) : (s.takeFatal ctx t i rest).MemoryOk := by
  unfold State.takeFatal
  dsimp only
  split <;> exact .raise h

theorem nextOk_execFatalFaultDelivery {ctx} (h : s.MemoryOk) : NextOk (execFatalFaultDelivery ctx s) := by
  unfold execFatalFaultDelivery
  dsimp only
  split
  · exact h
  · split
    · exact h
    · exact .ite (.next (.flagObjects h)) (.ite h (.next (.afterEvent (.ite (.flagObjects (.takeFatal h)) (.takeFatal h)))))

/-! ## The homes and the host cache agent (R199 to R209) -/

theorem State.MemoryOk.probe {pl inv clean a} (h : s.MemoryOk) : (s.probe pl inv clean a).MemoryOk :=
  .ite h h

theorem State.MemoryOk.evictFilter {pl data} (h : s.MemoryOk) : (s.evictFilter pl data).MemoryOk :=
  .ite h h

theorem State.MemoryOk.bstoreDone {pl r uid} (h : s.MemoryOk) : (s.bstoreDone pl r uid).MemoryOk := by
  unfold State.bstoreDone
  dsimp only
  split
  · exact h
  · exact .finishWait (.ackStore h)

theorem State.MemoryOk.takeDirty {pl} (h : s.MemoryOk) : (s.takeDirty pl).MemoryOk := by
  unfold State.takeDirty
  split
  · exact h
  · exact .written h

theorem State.MemoryOk.storeDirty {pl} (h : s.MemoryOk) : (s.storeDirty pl).MemoryOk := by
  unfold State.storeDirty
  split
  · exact h
  · exact .ite (.written h) (.written h)

theorem State.MemoryOk.answerSnoop {pl kind} (h : s.MemoryOk) : (s.answerSnoop pl kind).MemoryOk := by
  unfold State.answerSnoop
  dsimp only
  split
  · exact h
  · split
    · exact .takeDirty h
    · exact .takeDirty h
    · exact h

theorem State.MemoryOk.conclude' {pl r} (h : s.MemoryOk) : (s.conclude' pl r).MemoryOk := by
  unfold State.conclude'
  dsimp only
  split
  case h_1 | h_2 =>
    have ht : (if (s.dirEnt pl).owned? = some 4 then s.takeDirty pl else s).MemoryOk := .ite h.takeDirty h
    generalize (if (s.dirEnt pl).owned? = some 4 then s.takeDirty pl else s) = t at ht ⊢
    split
    · exact .ite (.ite ht ht) (.ite ht ht)
    · exact .ite ht ht
    · exact .ite (.ite ht ht) (.ite (.ite ht ht) (.ite ht ht))
    · exact .ite (.ite ht ht) (.ite ht ht)
  case h_3 | h_4 | h_5 | h_6 => exact .ite h.storeDirty h.storeDirty
  case h_7 => exact .bstoreDone (.ite (.evictFilter h.storeDirty.written) h.storeDirty.written)
  case h_8 => exact .ite h h
  case h_9 => exact .evictFilter h.written
  case h_10 => exact .ite (.evictFilter h.takeDirty) h.takeDirty
  case h_11 => exact h.takeDirty
  case h_12 => exact h.takeDirty
  case h_13 => exact .ite h.takeDirty h
  case h_14 => exact h.takeDirty.written
  case h_15 => exact h.answerSnoop

theorem State.MemoryOk.begin {pl r} (h : s.MemoryOk) : (s.begin pl r).MemoryOk :=
  .ite (.conclude' (.foldl h fun _ _ h => .probe h)) (.foldl h fun _ _ h => .probe h)

theorem State.MemoryOk.askHost {pl m} (h : s.MemoryOk) : (s.askHost pl m).MemoryOk := by
  unfold State.askHost
  dsimp only
  split
  · exact h
  · split
    · split
      · exact h
      · exact .ite h h
    · exact h

theorem State.MemoryOk.serve {pl} (h : s.MemoryOk) : (s.serve pl).MemoryOk := by
  unfold State.serve
  dsimp only
  split
  · exact h
  · split
    · exact h
    · split
      · exact .begin h
      · split
        · exact .askHost h
        · exact .begin h

theorem State.MemoryOk.arrive {pl r} (h : s.MemoryOk) : (s.arrive pl r).MemoryOk := by
  unfold State.arrive
  dsimp only
  split
  · exact .serve h
  · split
    · exact .ite (.ite (.begin h) (.conclude' h)) h
    · exact h

theorem State.MemoryOk.proceed {pl} (h : s.MemoryOk) : (s.proceed pl).MemoryOk := by
  unfold State.proceed
  dsimp only
  split
  · exact h
  · exact .ite h (.ite (.begin h) (.conclude' h))

theorem State.MemoryOk.answered {pl agent stamp data} (h : s.MemoryOk) : (s.answered pl agent stamp data).MemoryOk :=
  .ite h (.proceed h)

theorem State.MemoryOk.homeRequest {k op agent pl} (h : s.MemoryOk) : (s.homeRequest k op agent pl).MemoryOk := by
  unfold State.homeRequest
  dsimp only
  split
  · exact h
  · exact .ite h (.ite (.arrive h) (.ite h (.arrive h)))

theorem nextOk_execCmp {agent line} (h : s.MemoryOk) : NextOk (execCmp agent line s) := by
  unfold execCmp
  dsimp only
  split
  · exact h
  · exact .next (.ite h h)

theorem State.MemoryOk.homeWb {k agent pl} (h : s.MemoryOk) : (s.homeWb k agent pl).MemoryOk := by
  unfold State.homeWb
  dsimp only
  split
  · exact h
  · split
    · exact h
    · split
      · exact .ite (.arrive h) (.written h)
      · exact .proceed (.ite (.ite (.evictFilter (.ite (.written h) h)) (.ite (.written h) h)) (.ite (.written h) h))

theorem nextOk_execAckI {agent line} (h : s.MemoryOk) : NextOk (execAckI agent line s) := by
  unfold execAckI
  split
  · exact h
  · exact .next (.answered h)

theorem nextOk_execAckD {agent line} (h : s.MemoryOk) : NextOk (execAckD agent line s) := by
  unfold execAckD
  split
  · exact h
  · exact .next (.answered h)

theorem nextOk_execAckSt {agent line} (h : s.MemoryOk) : NextOk (execAckSt agent line s) := by
  unfold execAckSt
  split
  · exact h
  · exact .next (.answered h)

theorem nextOk_execAckWb {agent line} (h : s.MemoryOk) : NextOk (execAckWb agent line s) := by
  unfold execAckWb
  dsimp only
  split
  · exact h
  · exact .ite h (.next (.proceed h))

theorem State.MemoryOk.probeComes {k d pl} (h : s.MemoryOk) : (s.probeComes k d pl).MemoryOk := by
  unfold State.probeComes
  split <;> exact h

theorem State.MemoryOk.install {d m} (h : s.MemoryOk) : (s.install d m).MemoryOk :=
  .pumpLine (.ite h h)

theorem State.MemoryOk.granted {k d pl} (h : s.MemoryOk) : (s.granted k d pl).MemoryOk := by
  unfold State.granted
  split
  · exact h
  · exact .ite h (.install h)

theorem nextOk_execWba {agent line} (h : s.MemoryOk) : NextOk (execWba agent line s) := by
  unfold execWba
  dsimp only
  split
  · exact h
  · split
    · exact h
    · exact .next (.pumpDie (.foldl h fun _ _ h => .credit h))

end Sys2Proof.Machine
end

section
/-! SUPPORT. Canonical memory form through faults, blocks, freezes and debug. -/
namespace Sys2Proof.Machine
variable {s : State}

/-! ## Faults, replay and invalidation (R157 to R167) -/

theorem State.MemoryOk.attach {d r f} (h : s.MemoryOk) : (s.attach d r f).MemoryOk := by
  unfold State.attach
  dsimp only
  split
  · exact h
  · exact .ite h (.logFault h)

theorem State.MemoryOk.logStore {r} (h : s.MemoryOk) : (s.logStore r).MemoryOk :=
  .ite h (.ite h h)

theorem State.MemoryOk.dropPref {d tile uid} (h : s.MemoryOk) : (s.dropPref d tile uid).MemoryOk := by
  unfold State.dropPref
  split
  · exact h
  · exact .ite (.dropNowell h) h

theorem State.MemoryOk.setDie {d x} (h : s.MemoryOk) : (s.setDie d x).MemoryOk := h

theorem State.MemoryOk.keepPin {d tile a} (h : s.MemoryOk) : (s.keepPin d tile a).MemoryOk := h

theorem State.MemoryOk.strengthen {r va} (h : s.MemoryOk) : (s.strengthen r va).1.MemoryOk := by
  unfold State.strengthen
  split
  · exact h
  · exact .fst_ite h h

theorem State.MemoryOk.walkFailed {d w type level} (h : s.MemoryOk) : (s.walkFailed d w type level).MemoryOk := by
  unfold State.walkFailed
  have h1 : (s.unwaitRun d w).MemoryOk := .unwaitRun h
  dsimp only
  split
  · exact .dropPref h1
  · exact .ite h1 (.attach (.ite (.logStore (.fst_ite (.strengthen h1) h1)) h1))

theorem nextOk_execPageWalkComplete {die walk} (h : s.MemoryOk) : NextOk (execPageWalkComplete die walk s) := by
  unfold execPageWalkComplete
  extract_lets x
  split
  · exact h
  · extract_lets r va s1 x1 s2 tile
    have h2 : s2.MemoryOk := .setDie (.ite h h)
    clear_value s2
    split
    · exact .next (.homeAsk (.ite h h))
    · split
      · split <;> next he => exact .next (.answer (h2.translated he))
      · split
        · next he =>
          have ht := h2.translated he
          exact .ite (.next (.answer (.rejectPin ht))) (.next (.answer (.keepPin ht)))
        · next he => exact .next (.answer (h2.translated he))
      · split
        · exact h2
        · split
          · next he => exact .next (.pumpLine (.walkFailed (h2.translated he)))
          · next he => exact .next (.pumpLine (.ite (.keepAttr (h2.translated he)) (.keepAttr (h2.translated he))))

theorem nextOk_execSideLogPerform {core idx} (h : s.MemoryOk) : NextOk (execSideLogPerform core idx s) := by
  unfold execSideLogPerform
  dsimp only
  split
  · exact h
  · exact .ite h (.ite (.ite h (.next (.pumpDie (.fillLog h)))) (.ite h h))

theorem State.MemoryOk.replayAtt {d x} (h : s.MemoryOk) : (s.replayAtt d x).MemoryOk := by
  unfold State.replayAtt
  dsimp only
  split
  · exact .ite h h
  · exact h
  · exact h
  · exact .ite h h

theorem State.MemoryOk.freeRecord {d id} (h : s.MemoryOk) : (s.freeRecord d id).MemoryOk := by
  unfold State.freeRecord
  dsimp only
  split <;> exact h

theorem State.MemoryOk.replayRecord {d id} (h : s.MemoryOk) : (s.replayRecord d id).MemoryOk := by
  unfold State.replayRecord
  split
  · exact h
  · exact .foldl (.freeRecord h) fun _ _ h => .replayAtt h

theorem State.MemoryOk.afterCommand {d} (h : s.MemoryOk) : (s.afterCommand d).MemoryOk :=
  .pumpDie (.drainWaiting h)

theorem nextOk_execFcmdReplayRecord {die id} (h : s.MemoryOk) : NextOk (execFcmdReplayRecord die id s) :=
  .next (.onBar h fun _ h => .afterCommand (.replayRecord h))

theorem nextOk_execFcmdReplayAsid {die asid} (h : s.MemoryOk) : NextOk (execFcmdReplayAsid die asid s) :=
  .next (.onBar h fun _ h => .afterCommand (.foldl h fun _ _ h => .replayRecord h))

theorem State.MemoryOk.cancelPieces {r} (h : s.MemoryOk) : (s.cancelPieces r).MemoryOk :=
  .foldl h fun _ _ h => by
    dsimp only
    split
    · exact .credit h
    · exact .credit h

theorem State.MemoryOk.fatalReq {r c va} (h : s.MemoryOk) : (s.fatalReq r c va).MemoryOk := by
  unfold State.fatalReq
  dsimp only
  split
  · exact .cancelPieces h
  · exact .cancelPieces (.fatalFault h)

theorem State.MemoryOk.fatalWorkOf {uid cp mx va} (h : s.MemoryOk) : (s.fatalWorkOf uid cp mx va).MemoryOk := by
  unfold State.fatalWorkOf
  dsimp only
  split
  · split <;> exact .fatalCopy h
  · split
    · exact h
    · split
      · exact h
      · exact .credit (.fatalWork h)

theorem State.MemoryOk.cancelAtt {f x} (h : s.MemoryOk) : (s.cancelAtt f x).MemoryOk := by
  unfold State.cancelAtt
  dsimp only
  split
  · exact .fatalReq h
  · exact .fatalWorkOf h
  · exact .fatalWorkOf h
  · exact .fatalFault h

theorem State.MemoryOk.cancelRecord {d id} (h : s.MemoryOk) : (s.cancelRecord d id).MemoryOk := by
  unfold State.cancelRecord
  dsimp only
  split
  · exact h
  · exact .foldl (.foldl (.freeRecord h) fun _ _ h => .cancelAtt h) fun _ _ h => .fillLog h

theorem nextOk_execFcmdCancelRecord {die id} (h : s.MemoryOk) : NextOk (execFcmdCancelRecord die id s) :=
  .next (.onBar h fun _ h => .afterCommand (.cancelRecord h))

theorem nextOk_execFcmdCancelAsid {die asid} (h : s.MemoryOk) : NextOk (execFcmdCancelAsid die asid s) :=
  .next (.onBar h fun _ h => .afterCommand (.foldl h fun _ _ h => .cancelRecord h))

theorem State.MemoryOk.failAsker {d pl c} (h : s.MemoryOk) : (s.failAsker d pl c).MemoryOk := by
  unfold State.failAsker
  dsimp only
  split
  · exact h
  · exact .pumpLine (.ite (.fatalWorkOf (.unwaitRun h)) (.fatalReq (.unwaitRun h)))

theorem nextOk_execMemue {die line} (h : s.MemoryOk) : NextOk (execMemue die line s) := by
  unfold execMemue
  dsimp only
  split
  · exact h
  · exact .next (.failAsker (.ite h h))

theorem State.MemoryOk.peerFail {d pl} (h : s.MemoryOk) : (s.peerFail d pl).MemoryOk :=
  .failAsker (.foldl h fun _ _ h => .foldl h fun _ _ h => by
    split
    · exact h
    · exact .credit (.fatalFault h))

theorem State.MemoryOk.failStuck {d pl} (h : s.MemoryOk) : (s.failStuck d pl).MemoryOk :=
  .foldl h fun _ _ h => .fatalWorkOf h

theorem State.MemoryOk.failAway {d pl} (h : s.MemoryOk) : (s.failAway d pl).MemoryOk :=
  .foldl h fun _ _ h => .ite (.fatalFault h) h

theorem State.MemoryOk.peerLate {dest} (h : s.MemoryOk) : (s.peerLate dest).MemoryOk := by
  unfold State.peerLate
  split
  · exact h
  · exact .ite h (.foldl h fun _ _ h => .failAway (.failStuck (.peerFail h)))

theorem State.MemoryOk.peerUp {dest} (h : s.MemoryOk) : (s.peerUp dest).MemoryOk :=
  .foldl (.peerLate h) fun _ _ h => .pumpDie h

theorem State.MemoryOk.sweep {i} (h : s.MemoryOk) : (s.sweep i).MemoryOk :=
  .foldl (.foldl (.foldl h fun _ _ h => .foldl h fun _ _ h => .dropLine h) fun _ _ h => h) fun _ _ h => .serve (.homeAsk h)

theorem State.MemoryOk.invalidate {i} (h : s.MemoryOk) : (s.invalidate i).MemoryOk :=
  .sweep h

theorem State.MemoryOk.invalidatePage {asid size} (h : s.MemoryOk) : (s.invalidatePage asid size).MemoryOk :=
  .invalidate h

theorem nextOk_execInvcmdPage {asid va size} (h : s.MemoryOk) : NextOk (execInvcmdPage asid va size s) :=
  .next (.onBar h fun _ h => .invalidatePage h)

theorem nextOk_execInvcmdAsid {asid} (h : s.MemoryOk) : NextOk (execInvcmdAsid asid s) :=
  .next (.onBar h fun _ h => .invalidate h)

theorem nextOk_execInvcmdAll (h : s.MemoryOk) : NextOk (execInvcmdAll s) :=
  .next (.onBar h fun _ h => .invalidate h)

theorem nextOk_execInvalidationComplete (h : s.MemoryOk) : NextOk (execInvalidationComplete s) := by
  unfold execInvalidationComplete
  dsimp only
  split
  · exact h
  · exact .next (.ite (.sweep h) h)

/-! ## Blocks: placement, start and end (R39 to R42) -/

theorem State.MemoryOk.wake {core} (h : s.MemoryOk) : (s.wake core).MemoryOk :=
  .ite h h

theorem State.MemoryOk.startBlock {f b entry} (h : s.MemoryOk) : (s.startBlock f b entry).MemoryOk :=
  .wake (.ite (.saveHeader (.foldl h fun _ _ h => h)) (.terminateTeams (.foldl h fun _ _ h => h)))

theorem State.MemoryOk.dropPins {asid} (h : s.MemoryOk) : (s.dropPins asid).MemoryOk :=
  .ite h (.foldl h fun _ _ h => .foldl h fun _ _ h => .dropLines h)

theorem nextOk_execBlockEnd {frame} (h : s.MemoryOk) : NextOk (execBlockEnd frame s) := by
  unfold execBlockEnd
  split
  · exact h
  · refine .ite h (.ite h (.next (.dropPins (.saveState ?_))))
    exact .ite (.noteEnd (.onLaunch (.ite (.enterEvent h) h))) (.noteEnd (.onLaunch (.ite (.enterEvent h) h)))

theorem State.MemoryOk.terminate {f c} (h : s.MemoryOk) : (s.terminate f c).MemoryOk := by
  unfold State.terminate
  dsimp only
  split
  · exact h
  · exact .foldl (.terminateTeams h) fun _ _ h => h

/-! ## CTXRD and CTXWR (R363 to R365) -/

theorem State.MemoryOk.elemWrite {target b e i ws} (h : s.MemoryOk) : (s.elemWrite target b e i ws).MemoryOk :=
  .ite (.foldl h fun _ _ h => .saveCell h) (.ite h (.putFrame h))

theorem nextOk_execCtxrd {f} (h : s.MemoryOk) : NextOk (execCtxrd f s) :=
  nextOk_atIssue h fun _ => by
    dsimp only
    split
    · trivial
    · exact h

theorem nextOk_execCtxwr {f} (h : s.MemoryOk) : NextOk (execCtxwr f s) :=
  nextOk_atIssue h fun _ => by
    dsimp only
    split
    · trivial
    · exact .elemWrite h

/-! ## The commands that freeze and resume, and migration (R280 to R294) -/

theorem State.MemoryOk.recheck {ctx} (h : s.MemoryOk) : (s.recheck ctx).MemoryOk := by
  unfold State.recheck
  split
  · exact .ite h (.endWait h)
  · exact .wakeCounters h

theorem State.MemoryOk.resumeTeam {ctx} (h : s.MemoryOk) : (s.resumeTeam ctx).MemoryOk :=
  .ite h (.recheck h)

theorem State.MemoryOk.meetBarrier {ctx} (h : s.MemoryOk) : (s.meetBarrier ctx).MemoryOk :=
  .ite (.boundary h) h

theorem State.MemoryOk.resumeTeams {f b} (h : s.MemoryOk) : (s.resumeTeams f b).MemoryOk :=
  .foldl (.foldl h fun _ _ h => .ite (.resumeTeam h) h) fun _ _ h => .meetBarrier h

theorem State.MemoryOk.moveGangs {f b col} (h : s.MemoryOk) : (s.moveGangs f b col).MemoryOk := by
  unfold State.moveGangs
  dsimp only
  split
  · exact h
  · exact .foldl h fun _ _ h => (by split <;> exact h)

theorem State.MemoryOk.due {f} (h : s.MemoryOk) : (s.due f).MemoryOk := by
  unfold State.due
  dsimp only
  split
  · exact h
  · exact .ite h h

theorem State.MemoryOk.restore {f b r} (h : s.MemoryOk) : (s.restore f b r).MemoryOk := by
  unfold State.restore
  have hm : ∀ {t : State} {c}, t.MemoryOk → ((t.saveState f c).resumeTeams f b).MemoryOk :=
    fun h => .resumeTeams (.saveState h)
  exact .ite (.requestFreeze (.wake (hm (.foldl (.moveGangs h) fun _ _ h => .ite h h))))
    (.wake (hm (.foldl (.moveGangs h) fun _ _ h => .ite h h)))

theorem nextOk_execResumePlace {die} (h : s.MemoryOk) : NextOk (execResumePlace die s) := by
  unfold execResumePlace
  dsimp only
  split
  · exact h
  · split
    · exact h
    · split
      · exact h
      · split
        · exact h
        · split
          · exact .next (.terminate h)
          · split
            · exact h
            · exact .next (.restore h)

theorem nextOk_execWindowImageWritten {frame} (h : s.MemoryOk) : NextOk (execWindowImageWritten frame s) := by
  unfold execWindowImageWritten
  split
  · exact h
  · split
    · exact h
    · exact .ite h (.ite (.next (.terminate h)) (.next (.saveWindow h)))

theorem State.MemoryOk.hostFreeze {f} (h : s.MemoryOk) : (s.hostFreeze f).MemoryOk := by
  unfold State.hostFreeze
  split
  · exact h
  · exact .ite h (.requestFreeze h)

theorem State.MemoryOk.hostResume {f} (h : s.MemoryOk) : (s.hostResume f).MemoryOk := by
  unfold State.hostResume
  split
  · exact h
  · exact .ite h (.ite h (.due h))

theorem nextOk_execFrzcmdFreezeBlock {frame} (h : s.MemoryOk) : NextOk (execFrzcmdFreezeBlock frame s) :=
  .next (.onBar h fun _ h => .hostFreeze h)

theorem nextOk_execFrzcmdResumeBlock {frame} (h : s.MemoryOk) : NextOk (execFrzcmdResumeBlock frame s) :=
  .next (.onBar h fun _ h => .hostResume h)

theorem nextOk_execFrzcmdTerminateBlock {frame} (h : s.MemoryOk) : NextOk (execFrzcmdTerminateBlock frame s) :=
  .next (.onBar h fun _ h => .ite h (.terminate h))

theorem nextOk_execFrzcmdFreezeQueue {queue} (h : s.MemoryOk) : NextOk (execFrzcmdFreezeQueue queue s) :=
  .next (.onBar h fun _ h => .foldl h fun _ _ h => .hostFreeze h)

theorem nextOk_execFrzcmdResumeQueue {queue} (h : s.MemoryOk) : NextOk (execFrzcmdResumeQueue queue s) :=
  .next (.onBar h fun _ h => .foldl h fun _ _ h => .hostResume h)

theorem nextOk_execDeadlineExpiry {frame} (h : s.MemoryOk) : NextOk (execDeadlineExpiry frame s) := by
  unfold execDeadlineExpiry
  split
  · exact h
  · exact .ite (.next (.stopDue h)) h

theorem nextOk_execMigrationTransferComplete {frame} (h : s.MemoryOk) : NextOk (execMigrationTransferComplete frame s) := by
  unfold execMigrationTransferComplete
  dsimp only
  split
  · exact h
  · split
    · exact h
    · exact .ite h (.ite (.next (.terminate h)) (.ite (.next (.due h)) (.next (.restore h))))

theorem nextOk_execMigwaitExpiry {frame} (h : s.MemoryOk) : NextOk (execMigwaitExpiry frame s) := by
  unfold execMigwaitExpiry
  dsimp only
  split
  · exact h
  · exact .ite (.next (.resumeTeams (.saveState h))) h

theorem nextOk_execShedForceTimeout {frame} (h : s.MemoryOk) : NextOk (execShedForceTimeout frame s) := by
  unfold execShedForceTimeout
  split
  · exact h
  · exact .ite (.next (.stopDue h)) h

/-! ## The debug registers (R296, R297) -/

theorem State.MemoryOk.startMonitor {col} (h : s.MemoryOk) : (s.startMonitor col).MemoryOk :=
  .ite (.startBlock h) h

theorem State.MemoryOk.stopMonitor {col} (h : s.MemoryOk) : (s.stopMonitor col).MemoryOk :=
  .ite h (.endTeam h)

theorem State.MemoryOk.onDebug {col f} (h : s.MemoryOk) (hf : ∀ s, s.MemoryOk → (f s).MemoryOk) :
    (s.onDebug col f).MemoryOk :=
  .ite h (.onBar h hf)

theorem State.MemoryOk.writeDbgEn {col val} (h : s.MemoryOk) : (s.writeDbgEn col val).MemoryOk :=
  .ite (.startMonitor h) (.stopMonitor h)

theorem nextOk_execDbgEnable {col val} (h : s.MemoryOk) : NextOk (execDbgEnable col val s) :=
  .next (.onDebug h fun _ h => .writeDbgEn h)

theorem nextOk_execDbgrunStop {col handle} (h : s.MemoryOk) : NextOk (execDbgrunStop col handle s) :=
  .next (.onDebug h fun _ h => .elim h fun _ => .requestFreeze h)

theorem nextOk_execDbgrunStep {col handle} (h : s.MemoryOk) : NextOk (execDbgrunStep col handle s) :=
  .next (.onDebug h fun _ h => by
    split
    · exact h
    · exact .ite (.due h) h)

theorem nextOk_execDbgrunResume {col handle} (h : s.MemoryOk) : NextOk (execDbgrunResume col handle s) :=
  .next (.onDebug h fun _ h => .elim h fun _ => .ite (.due h) h)

theorem nextOk_execRspseqWrite {col val} (h : s.MemoryOk) : NextOk (execRspseqWrite col val s) :=
  .next (.onDebug h fun _ h => h)

end Sys2Proof.Machine
end

section
/-! SUPPORT. Canonical memory form through the host, launches, resets and power. -/
namespace Sys2Proof.Machine
variable {s : State}

/-! ## The host and the peers (R206 to R213, R330) -/

theorem State.MemoryOk.hostMemory {hpa during op} (h : s.MemoryOk) : (s.hostMemory hpa during op).MemoryOk :=
  .ite h (.ite h (.ite h (.arrive h)))

theorem nextOk_execBirsp {line data} (h : s.MemoryOk) : NextOk (execBirsp line data s) := by
  unfold execBirsp
  split
  · exact h
  · exact .next (.answered h)

theorem State.MemoryOk.snoop {pl kind} (h : s.MemoryOk) : (s.snoop pl kind).MemoryOk :=
  .ite h (.ite h (.serve h))

theorem nextOk_execCxlCacheHostResponse {line data excl} (h : s.MemoryOk) :
    NextOk (execCxlCacheHostResponse line data excl s) := by
  unfold execCxlCacheHostResponse
  dsimp only
  split
  · exact h
  · split
    · exact h
    · exact .next (.serve (.ite h (.written h)))

theorem nextOk_execPeerRequest {off n op} (h : s.MemoryOk) : NextOk (execPeerRequest off n op s) := by
  unfold execPeerRequest
  refine .ite h (.next ?_)
  split
  · exact h
  · exact .written h

/-! ## Queues, the lottery and completion (R255 to R272) -/

theorem State.MemoryOk.seekSlot {q} (h : s.MemoryOk) : (s.seekSlot q).MemoryOk := by
  unfold State.seekSlot
  dsimp only
  split
  · exact h
  · split
    · exact h
    · exact .ite h h

theorem State.MemoryOk.freeSlotOf {q} (h : s.MemoryOk) : (s.freeSlotOf q).MemoryOk := by
  unfold State.freeSlotOf
  dsimp only
  split
  · exact h
  · split <;> exact h

theorem State.MemoryOk.noteIdle {q} (h : s.MemoryOk) : (s.noteIdle q).MemoryOk :=
  .ite h h

theorem nextOk_execQcmdEnable {queue} (h : s.MemoryOk) : NextOk (execQcmdEnable queue s) :=
  .ite h (.ite (.next (.seekSlot h)) (.next (.freeSlotOf h)))

theorem nextOk_execQcmdDisable {queue} (h : s.MemoryOk) : NextOk (execQcmdDisable queue s) :=
  .ite h (.next (.freeSlotOf h))

theorem State.MemoryOk.afterHost {wait act} (h : s.MemoryOk) (hf : ∀ s, s.MemoryOk → (act s).MemoryOk) :
    (s.afterHost wait act).MemoryOk := by
  cases wait with
  | none => exact hf s h
  | some w => exact .homeAsk h

theorem State.MemoryOk.placeNext {d q} (h : s.MemoryOk) : (s.placeNext d q).MemoryOk := by
  unfold State.placeNext
  extract_lets x
  split
  · exact h
  · split
    · exact h
    · extract_lets b b' s1 x1 s2 s3
      have h2 : s2.MemoryOk := h
      clear_value s2 b'
      have h3 : s3.MemoryOk := .noteIdle (.startBlock h2)
      clear_value s3
      exact .ite (.setCluster h3) h3

theorem State.MemoryOk.draw {die es} (h : s.MemoryOk) : (s.draw die es).MemoryOk := by
  unfold State.draw
  dsimp only
  split
  · exact h
  · exact .ite (.placeNext h) h

theorem nextOk_execLotteryDraw {die} (h : s.MemoryOk) : NextOk (execLotteryDraw die s) := by
  unfold execLotteryDraw
  split
  · exact h
  · exact .next (.ite (.draw h) h)

theorem State.MemoryOk.emptyL1 {core} (h : s.MemoryOk) : (s.emptyL1 core).MemoryOk :=
  .foldl h fun _ _ h => .forgetLine h

theorem nextOk_execClusterGatingCommit {col} (h : s.MemoryOk) : NextOk (execClusterGatingCommit col s) :=
  .ite h (.next (.noteEnd (.setCluster (.emptyL1 (.foldl h fun _ _ h => .emptyL1 h)))))

theorem State.MemoryOk.reportIfDue (h : s.MemoryOk) : s.reportIfDue.MemoryOk :=
  .ite h h

theorem State.MemoryOk.ringWrite {e} (h : s.MemoryOk) : (s.ringWrite e).MemoryOk :=
  .reportIfDue (.ite (.physWrite h) (.physWrite h))

theorem nextOk_execEvtailWrite {val} (h : s.MemoryOk) : NextOk (execEvtailWrite val s) :=
  .next (.ite h h)

theorem State.MemoryOk.storeRecord {asid va bs} (h : s.MemoryOk) : (s.storeRecord asid va bs).1.MemoryOk := by
  unfold State.storeRecord
  refine fst_ite h ?_
  have ht := h.translate (d := 0) (asid := asid) (va := va.toNat) (n := { write := true })
  generalize s.translate 0 asid va.toNat { write := true } = x at ht ⊢
  obtain ⟨s', e | e⟩ := x
  · exact ht
  · exact fst_ite (.homeWrite ht ..) (.physWrite ht)

theorem State.MemoryOk.completes {queue e} (h : s.MemoryOk) : (s.completes queue e).MemoryOk := by
  unfold State.completes
  dsimp only
  split
  · exact h
  · exact State.MemoryOk.ringWrite (fst_ite h (.storeRecord h))

theorem nextOk_execLaunchComplete {queue} (h : s.MemoryOk) : NextOk (execLaunchComplete queue s) := by
  unfold execLaunchComplete
  dsimp only
  split
  · exact h
  · exact .ite h (.ite (.next (.afterHost h (fun _ h => .completes h))) h)

theorem nextOk_execHostRingEntryWrite (h : s.MemoryOk) : NextOk (execHostRingEntryWrite s) := by
  unfold execHostRingEntryWrite
  dsimp only
  split
  · exact h
  · split
    · exact h
    · exact .next (.afterHost h fun _ h => by
        split
        · exact .completes h
        · exact .ringWrite h)

/-! ## Errors of the Well and the restitch (R141 to R143) -/

theorem State.MemoryOk.loseAsid {asid} (h : s.MemoryOk) : (s.loseAsid asid).MemoryOk :=
  .foldl h fun _ _ h => .terminate h

theorem State.MemoryOk.lineLost {d line} (h : s.MemoryOk) : (s.lineLost d line).MemoryOk := by
  unfold State.lineLost State.postHost State.l1Drop State.spoilFills State.mapL1
  exact h

theorem nextOk_execWellUe {die line} (h : s.MemoryOk) : NextOk (execWellUe die line s) := by
  unfold execWellUe
  split
  · exact h
  · refine .ite h (.next (.loseAsid ?_))
    exact h.lineLost (d := die) (line := line)

theorem State.MemoryOk.beginRestitch {d r} (h : s.MemoryOk) : (s.beginRestitch d r).MemoryOk :=
  .ite (.foldl h fun _ _ h => .dropLines h) h

theorem State.MemoryOk.nextRestitch {d l} (h : s.MemoryOk) : (s.nextRestitch d l).MemoryOk := by
  induction l generalizing s with
  | nil => exact h
  | cons r l ih =>
    unfold State.nextRestitch
    dsimp only
    split
    · exact .beginRestitch h
    · exact ih (s := s.setDie d _) h

theorem State.MemoryOk.askRestitch {d r} (h : s.MemoryOk) : (s.askRestitch d r).MemoryOk :=
  .ite h (.nextRestitch h)

theorem nextOk_execRestitchComplete {die} (h : s.MemoryOk) : NextOk (execRestitchComplete die s) := by
  unfold execRestitchComplete
  dsimp only
  split
  · exact h
  · exact .next (.nextRestitch (.pumpDie (.trim h)))

theorem nextOk_execWrestitchRetire {die bank} (h : s.MemoryOk) : NextOk (execWrestitchRetire die bank s) :=
  .next (.onBar h fun _ h => .askRestitch h)

theorem nextOk_execWrestitchRestore {die bank} (h : s.MemoryOk) : NextOk (execWrestitchRestore die bank s) :=
  .next (.onBar h fun _ h => .askRestitch h)

theorem nextOk_execWellThermalRestore {die bank} (h : s.MemoryOk) : NextOk (execWellThermalRestore die bank s) := by
  unfold execWellThermalRestore
  dsimp only
  split
  · exact h
  · split
    · exact h
    · exact .ite (.next (.askRestitch h)) h

theorem State.MemoryOk.heatRetire {d k} (h : s.MemoryOk) : (s.heatRetire d k).MemoryOk :=
  .foldl h fun _ _ h => .ite h (.askRestitch h)

/-! ## Mask instructions (R383) -/

theorem Issued.MemoryOk.maskResult {ctx f val} (h : s.MemoryOk) : (s.maskResult ctx f val).MemoryOk := .ite h h

/-! ## Resets and the start (R212, R334) -/

/-- A wipe leaves device memory empty, and host and peer memory as they are (R212, R339). -/
theorem State.MemoryOk.wiped {lost cold} (h : s.MemoryOk) : (s.wiped lost cold).MemoryOk := by
  obtain ⟨-, hh, hp⟩ := h
  exact ⟨rfl, hh, hp⟩

theorem State.MemoryOk.settleL1 {core} (h : s.MemoryOk) : (s.settleL1 core).MemoryOk :=
  .foldl h fun _ _ h => by
    split
    · exact .ite h h
    · exact h

theorem State.MemoryOk.writeManaged (h : s.MemoryOk) : s.writeManaged.MemoryOk :=
  .foldl h fun _ _ h => .foldl h fun _ _ h => .dropLine h

theorem State.MemoryOk.halted (h : s.MemoryOk) : s.halted.MemoryOk :=
  .writeManaged (.foldl h fun _ _ h => .settleL1 h)

theorem State.MemoryOk.takeBack (h : s.MemoryOk) : s.takeBack.MemoryOk :=
  .foldl (.foldl h fun _ _ h => .homeAsk h) fun _ _ h => .homeAsk h

theorem State.MemoryOk.beginWipe (h : s.MemoryOk) : s.beginWipe.MemoryOk :=
  .ite h (.ite (.wiped h) (.takeBack h))

theorem State.MemoryOk.warm (h : s.MemoryOk) : s.warm.MemoryOk :=
  .beginWipe (.halted h)

theorem State.MemoryOk.fatal {reason} (h : s.MemoryOk) : (s.fatal reason).MemoryOk := by
  have hw : (s.wiped s.lostHost false).MemoryOk := .wiped h
  exact hw

theorem nextOk_execResetctlWarmReset (h : s.MemoryOk) : NextOk (execResetctlWarmReset s) :=
  .next (.ite h (.warm h))

theorem nextOk_execPowerLoss (h : s.MemoryOk) : NextOk (execPowerLoss s) := by
  have hw : (s.wiped [] true).MemoryOk := .wiped h
  exact hw

theorem State.MemoryOk.repairBanks {faulty} (h : s.MemoryOk) : (s.repairBanks faulty).MemoryOk :=
  .foldl h fun _ _ h => .ite h h

theorem State.MemoryOk.stepDone {step} (h : s.MemoryOk) : (s.stepDone step).MemoryOk :=
  .ite h (.ite h h)

theorem nextOk_execStartUp {step reason faulty} (h : s.MemoryOk) : NextOk (execStartUp step reason faulty s) := by
  unfold execStartUp
  refine .ite h (.next ?_)
  have hr : (if step = 3 then s.repairBanks faulty else s).MemoryOk := .ite (.repairBanks h) h
  exact .ite (.ite hr (.stepDone hr)) (.ite hr hr)

theorem State.MemoryOk.trained {cxl} (h : s.MemoryOk) : (s.trained cxl).MemoryOk :=
  .ite h h

theorem nextOk_execWipeComplete (h : s.MemoryOk) : NextOk (execWipeComplete s) := by
  obtain ⟨hm, hh, hp⟩ := h
  exact .next (.ite ⟨hm, hh, hp⟩ ⟨rfl, hh, hp⟩)

/-! ## Power and heat (R299 to R321) -/

theorem State.MemoryOk.ringColumn {col c level} (h : s.MemoryOk) : (s.ringColumn col c level).MemoryOk :=
  .foldl h fun _ _ h => .foldl h fun _ _ h => .saveStatus h

theorem State.MemoryOk.noBell {ctx} (h : s.MemoryOk) : (s.noBell ctx).MemoryOk :=
  .ite (.afterEvent h) h

theorem nextOk_execBellDelivery {frame} (h : s.MemoryOk) : NextOk (execBellDelivery frame s) := by
  unfold execBellDelivery
  split
  · exact h
  · next b _ =>
    split
    · exact h
    · next ctx _ =>
      split
      · exact .next h.noBell
      · refine .ite (.next h.noBell) (.ite h (.ite h ?_))
        have ht := h.checkTarget (ctx := ctx) (pc := b.bellAddr)
        generalize s.checkTarget ctx b.bellAddr = x at ht ⊢
        cases x with
        | later => exact ht
        | bad => exact .next (.afterEvent (.preciseTrap h))
        | ok | fault => exact .next (.afterEvent (.raise h))

theorem State.MemoryOk.endRamp {die} (h : s.MemoryOk) : (s.endRamp die).MemoryOk :=
  .foldl h fun _ _ h => h

theorem State.MemoryOk.startRamp {d shares} (h : s.MemoryOk) : (s.startRamp d shares).MemoryOk :=
  .ite h (.ite (.endRamp h) h)

theorem State.MemoryOk.freezeShed (h : s.MemoryOk) : s.freezeShed.MemoryOk :=
  .foldl h fun _ _ h => .requestFreeze h

theorem State.MemoryOk.react (h : s.MemoryOk) : s.react.MemoryOk :=
  .ite h (.freezeShed h)

theorem State.MemoryOk.unshed {f} (h : s.MemoryOk) : (s.unshed f).MemoryOk := by
  unfold State.unshed
  split
  · exact h
  · exact .ite (.ite (.due h) h) (.ite (.resumeTeams (.saveState h)) h)

theorem State.MemoryOk.consider {src f} (h : s.MemoryOk) : (s.consider src f).MemoryOk := by
  unfold State.consider
  dsimp only
  split
  · exact h
  · split
    · exact h
    · split
      · exact .requestFreeze h
      · exact h

theorem State.MemoryOk.newlyHot {core} (h : s.MemoryOk) : (s.newlyHot core).MemoryOk :=
  .ite (.foldl h fun _ _ h => .consider h) (.foldl h fun _ _ h => .consider h)

theorem State.MemoryOk.sampleCore {rs core} (h : s.MemoryOk) : (s.sampleCore rs core).MemoryOk :=
  .ite h h

theorem State.MemoryOk.sampleSram {rs d k} (h : s.MemoryOk) : (s.sampleSram rs d k).MemoryOk :=
  .ite (.heatRetire h) h

theorem State.MemoryOk.trip {n t} (h : s.MemoryOk) : (s.trip n t).MemoryOk :=
  .fatal (.ite (.ringWrite h) h)

theorem nextOk_execTempSample {readings} (h : s.MemoryOk) : NextOk (execTempSample readings s) := by
  unfold execTempSample
  dsimp only
  split
  · exact h
  · split
    · exact .next (.trip h)
    · exact .next (.foldl (.foldl (.foldl h fun _ _ h => .sampleCore h) fun _ _ h => .newlyHot h) fun _ _ h => .sampleSram h)

end Sys2Proof.Machine
end

section
/-! SUPPORT. Canonical memory form through the platform, the dispatch and the schedule. -/
namespace Sys2Proof.Machine
variable {s : State}

/-! ## The register BAR and the sideband (R328 to R338) -/

theorem State.MemoryOk.writeLaunch {o v} (h : s.MemoryOk) : (s.writeLaunch o v).MemoryOk := by
  unfold State.writeLaunch
  extract_lets r seed
  have hseed : ∀ d, (seed d).MemoryOk := fun d => .ite h h
  split
  · exact h
  · exact hseed 0
  · exact hseed 1
  · exact hseed 2
  · exact hseed 3
  · exact h
  · exact .reportIfDue h
  · exact h

theorem State.MemoryOk.writeTrans {o v} (h : s.MemoryOk) : (s.writeTrans o v).MemoryOk := by
  unfold State.writeTrans
  dsimp only
  split <;> exact h

theorem State.MemoryOk.writePool {o v} (h : s.MemoryOk) : (s.writePool o v).MemoryOk := by
  unfold State.writePool
  dsimp only
  split
  · exact h
  · split <;> exact h

theorem State.MemoryOk.writeDebug {col o v} (h : s.MemoryOk) : (s.writeDebug col o v).MemoryOk :=
  .ite h (.ite h (.ite h (.ite h h)))

theorem State.MemoryOk.writePower {o v} (h : s.MemoryOk) : (s.writePower o v).MemoryOk := by
  unfold State.writePower
  dsimp only
  split
  · exact h
  · exact h
  · exact h
  · exact h
  · exact .ite h (.ite h h)

theorem State.MemoryOk.writePeers {o v} (h : s.MemoryOk) : (s.writePeers o v).MemoryOk :=
  .ite h (.ite h (.ite h h))

theorem State.MemoryOk.writeWell {d o v} (h : s.MemoryOk) : (s.writeWell d o v).MemoryOk :=
  .ite h h

theorem State.MemoryOk.writeField {off v} (h : s.MemoryOk) : (s.writeField off v).MemoryOk :=
  .ite h (.ite (.writeLaunch h) (.ite (.writeTrans h) (.ite (.writeWell h) (.ite (.writePool h) (.ite (.writeDebug h)
    (.ite (.writePower h) (.ite (.writePeers h) h)))))))

theorem nextOk_faultCommand {d v} (h : s.MemoryOk) : NextOk (s.faultCommand d v) := by
  unfold State.faultCommand
  dsimp only
  split
  · exact nextOk_execFcmdReplayRecord h
  · exact nextOk_execFcmdCancelRecord h
  · exact nextOk_execFcmdReplayAsid h
  · exact nextOk_execFcmdCancelAsid h
  · exact h

theorem nextOk_freezeCommand {v} (h : s.MemoryOk) : NextOk (s.freezeCommand v) := by
  unfold State.freezeCommand
  dsimp only
  split
  · exact nextOk_execFrzcmdFreezeBlock h
  · exact nextOk_execFrzcmdResumeBlock h
  · exact nextOk_execFrzcmdTerminateBlock h
  · exact nextOk_execFrzcmdFreezeQueue h
  · exact nextOk_execFrzcmdResumeQueue h
  · exact h

theorem nextOk_some {x d : Host.Outcome State Fault Refusal} (h : NextOk x) : NextOk ((some x).getD d) := h

theorem nextOk_command {off val d} (h : s.MemoryOk) (hd : NextOk d) : NextOk ((s.command off val).getD d) := by
  unfold State.command
  dsimp only
  split
  · exact .ite (nextOk_execResetctlWarmReset h) h
  split
  · exact .ite (nextOk_execQcmdEnable h) (.ite (nextOk_execQcmdDisable h) h)
  split
  · exact nextOk_execEvtailWrite h
  split
  · refine nextOk_some ?_
    split
    · exact nextOk_execInvcmdPage h
    · exact nextOk_execInvcmdAsid h
    · exact nextOk_execInvcmdAll h
    · exact h
  split
  · exact nextOk_faultCommand h
  split
  · refine nextOk_some ?_
    split
    · exact nextOk_execWrestitchRetire h
    · exact nextOk_execWrestitchRestore h
    · exact h
  split
  · exact nextOk_freezeCommand h
  split
  · split
    · exact nextOk_execDbgEnable h
    · refine nextOk_some ?_
      split
      · exact nextOk_execDbgrunStop h
      · exact nextOk_execDbgrunStep h
      · exact nextOk_execDbgrunResume h
      · exact h
    · exact nextOk_execRspseqWrite h
    · exact hd
  · exact hd

theorem nextOk_execRegisterWrite {off val} (h : s.MemoryOk) : NextOk (execRegisterWrite off val s) :=
  .ite h (nextOk_command h (.next (.writeField h)))

theorem State.MemoryOk.regWrite {off n val} (h : s.MemoryOk) : (s.regWrite off n val).MemoryOk := by
  unfold State.regWrite
  refine .ite h ?_
  have hr := nextOk_execRegisterWrite h (off := off) (val := val)
  generalize execRegisterWrite off val s = x at hr ⊢
  cases x with
  | next => exact hr
  | fault | refused => exact h

theorem State.MemoryOk.regPiece {d base r p} (h : s.MemoryOk) : (s.regPiece d base r p).MemoryOk :=
  .credit (.ite (.ite (.regWrite h) h) (.ite (.freeSupp (.ite (.regWrite h) h)) (.record (.ite (.regWrite h) h))))

theorem State.MemoryOk.mmio {d idx} (h : s.MemoryOk) : (s.mmio d idx).MemoryOk := by
  unfold State.mmio
  dsimp only
  split
  · exact h
  · split
    · exact h
    · exact .ite h (.finishWait (.foldl h fun _ _ h => .regPiece h))

theorem State.MemoryOk.configWrite {o on} (h : s.MemoryOk) : (s.configWrite o on).MemoryOk :=
  .ite h h

theorem State.MemoryOk.placeBar {hpa} (h : s.MemoryOk) : (s.placeBar hpa).MemoryOk :=
  .ite h h

theorem State.MemoryOk.sideband {f} (h : s.MemoryOk) (hf : ∀ s, s.MemoryOk → (f s).MemoryOk) : (s.sideband f).MemoryOk :=
  .ite h (.ite h (hf s h))

theorem State.MemoryOk.otherCommand {cmd} (h : s.MemoryOk) : (s.otherCommand cmd).MemoryOk :=
  .ite h (.sideband h fun _ h => h)

theorem State.MemoryOk.receiveImage {image} (h : s.MemoryOk) : (s.receiveImage image).MemoryOk :=
  .ite h h

theorem State.MemoryOk.mailbox {image} (h : s.MemoryOk) : (s.mailbox image).MemoryOk :=
  .ite (.receiveImage h) h

theorem State.MemoryOk.flashDone (h : s.MemoryOk) : s.flashDone.MemoryOk := by
  unfold State.flashDone
  dsimp only
  split <;> exact h

/-! ## Lanes that move (R413) -/

theorem Issued.MemoryOk.moveLanes {ctx f pos} (h : s.MemoryOk) : (s.moveLanes ctx f pos).MemoryOk := .ite trivial h

/-! ## The dispatch -/

/-- Every instruction and every event keeps the form. -/
theorem nextOk_exec {i} (h : s.MemoryOk) : NextOk (exec i s) := by
  cases i with
  | vadd | vsub | vmul | vmulh | vmad | vmin | vmax | vand | vor | vxor | vshl | vshr | vsra | vmov | vpopc | vclz | vfadd |
    vfsub | vfmul | vfma | vfmin | vfmax | vfclass | vfrnd | vrcp | vrsq | vexp2 | vlog2 | vtanh =>
    exact nextOk_atIssue h fun _ => .vecOp h
  | vcmp | vfcmp => exact nextOk_atIssue h fun _ => .cmpOp h
  | vsel | vcvt | vextr | vins | vmatch | vscan | kset | kput | shset | zclr | zrd | zwr =>
    exact nextOk_atIssue h fun _ => .results h
  | vshfl | vrot => exact nextOk_atIssue h fun _ => .moveLanes h
  | kand | kor | kxor | kandn => exact nextOk_atIssue h fun _ => .maskOp h
  | kpopc | kfirst | kget => exact nextOk_atIssue h fun _ => .maskResult h
  | sadd | saddi | ssub | smul | smulh | sand | sor | sxor | sshl | sshr | ssra | smin | smax | scmp | ssel | smov | smovi
    => exact nextOk_atIssue h fun _ => .scalarOp h
  | sdiv | srem => exact nextOk_atIssue h fun _ => .ite trivial (.scalarOp h)
  | sread | sreadV | evpop => exact nextOk_atIssue h fun _ => .ite trivial (.results h)
  | swrite => exact nextOk_execSwrite h
  | vld | vldx | vlds => exact nextOk_atIssue h fun _ => .vload h
  | vst | vstx | vsts => exact nextOk_atIssue h fun _ => .vstore h
  | sld | sst | shld | shst => exact nextOk_atIssue h fun _ => .uniform h
  | vatom | vcas | vatoms => exact nextOk_atIssue h fun _ => .vatomic h
  | pref => exact nextOk_atIssue h fun _ => .foldl h fun _ _ h => h
  | wdepth | wpin => exact nextOk_atIssue h fun _ => .wellResult h
  | wunpin | cinv => exact nextOk_atIssue h fun _ => .wellOp fun _ => h
  | wevict | wclean | cflush => exact nextOk_atIssue h fun _ => .writeBack h fun _ _ h => h
  | waitcnt => exact nextOk_atIssue h fun _ => .ite h h
  | xfence => exact nextOk_atIssue h fun _ => State.MemoryOk.ite (.flushCp h) h
  | mma => exact nextOk_execMma h
  | zdrain => exact nextOk_execZdrain h
  | cpy => exact nextOk_execCpy h
  | cpym => exact nextOk_execCpym h
  | rrot => exact nextOk_execRrot h
  | barinit => exact nextOk_execBarinit h
  | bararv => exact nextOk_execBararv h
  | barwait => exact nextOk_execBarwait h
  | gjoin | gjoinAny | gleave => exact nextOk_atIssue h fun _ => .gangChange h
  | gbar => exact nextOk_atIssue h fun _ => .ite trivial (.ite trivial h)
  | br | bcond | bany | bnone => exact nextOk_atIssue h fun _ => .branchIf h
  | call | jmp | ret => exact nextOk_atIssue h fun _ => .transfer h fun _ h => h
  | divg | dloop | dbrk | modewr => exact nextOk_atIssue h fun _ => .ite trivial (.regEffect h)
  | delse => exact nextOk_execDelse h
  | djoin => exact nextOk_execDjoin h
  | exit => exact nextOk_atIssue h fun _ => .endTeam h
  | yield => exact nextOk_execYield h
  | nop | trel => exact nextOk_atIssue h fun _ => h
  | trap => exact nextOk_atIssue h fun _ => .preciseTrap h
  | tret => exact nextOk_atIssue h fun _ => .ite trivial (.ite trivial (.resumeNow (.setTeam (.leaveHandler h))))
  | bellarm => exact nextOk_atIssue h fun _ => (by split <;> exact h)
  | ctxrd => exact nextOk_execCtxrd h
  | ctxwr => exact nextOk_execCtxwr h
  | evpush => exact nextOk_atIssue h fun _ => .ite trivial (.padIssue h)
  | evwait => exact nextOk_atIssue h fun _ => .ite trivial (.ite h h)
  | trelRelease => exact nextOk_execTrelRelease h
  | registerResultReturn => exact nextOk_execRegisterResultReturn h
  | accessComplete => exact nextOk_execAccessComplete h
  | trapDelivery => exact nextOk_execTrapDelivery h
  | fatalFaultDelivery => exact nextOk_execFatalFaultDelivery h
  | bellDelivery => exact nextOk_execBellDelivery h
  | drumAnnouncementAct => exact nextOk_execDrumAnnouncementAct h
  | wellBeatAdmit => exact .next (.pumpDie (.admitUpTo (.fillLogs h)))
  | transitArrival => exact nextOk_execTransitArrival h
  | l1Fill => exact nextOk_execL1Fill h
  | l1HoldExpiry => exact nextOk_execL1HoldExpiry h
  | wellUe => exact nextOk_execWellUe h
  | memue => exact nextOk_execMemue h
  | wrestitchRetire => exact nextOk_execWrestitchRetire h
  | wrestitchRestore => exact nextOk_execWrestitchRestore h
  | restitchComplete => exact nextOk_execRestitchComplete h
  | wellThermalRestore => exact nextOk_execWellThermalRestore h
  | pageWalkComplete => exact nextOk_execPageWalkComplete h
  | fcmdReplayRecord => exact nextOk_execFcmdReplayRecord h
  | fcmdCancelRecord => exact nextOk_execFcmdCancelRecord h
  | fcmdReplayAsid => exact nextOk_execFcmdReplayAsid h
  | fcmdCancelAsid => exact nextOk_execFcmdCancelAsid h
  | sideLogPerform => exact nextOk_execSideLogPerform h
  | invcmdPage => exact nextOk_execInvcmdPage h
  | invcmdAsid => exact nextOk_execInvcmdAsid h
  | rds | rdx | own | upg => exact .next (.homeRequest h)
  | wb | wbk => exact .next (.homeWb h)
  | cmp => exact nextOk_execCmp h
  | homeQueueServe => exact .next (.serve h)
  | gntS | gntE | gntX => exact .next (.granted h)
  | wba => exact nextOk_execWba h
  | prShr | prInv => exact .next (.probeComes h)
  | ackI => exact nextOk_execAckI h
  | ackD => exact nextOk_execAckD h
  | ackWb => exact nextOk_execAckWb h
  | ackSt => exact nextOk_execAckSt h
  | cxlMemReadShared | cxlMemReadExclusive | cxlMemReadUncached | cxlMemWrite => exact .next (.hostMemory h)
  | birsp => exact nextOk_execBirsp h
  | snpinv | snpdata | snpcur => exact .next (.snoop h)
  | peerRequest => exact nextOk_execPeerRequest h
  | peererr => exact .next (.ite (.failAway (.failStuck (.peerFail h))) h)
  | peerLinkTimeout => exact .next (.peerLate h)
  | mmaStart => exact nextOk_execMmaStart h
  | mmaCommit => exact nextOk_execMmaCommit h
  | copyElement => exact nextOk_execCopyElement h
  | countingEvent => exact nextOk_execCountingEvent h
  | eventRecordEnter => exact nextOk_execEventRecordEnter h
  | notifyWrite => exact .ite h (.ite h (.next (.seekSlot h)))
  | qcmdEnable => exact nextOk_execQcmdEnable h
  | qcmdDisable => exact nextOk_execQcmdDisable h
  | queueIdleExpiry => exact .ite h (.next (.freeSlotOf h))
  | launchPacketRead => exact .ite h (.next (.afterHost h fun _ h => .noteIdle h))
  | lotteryDraw => exact nextOk_execLotteryDraw h
  | clusterGatingCommit => exact nextOk_execClusterGatingCommit h
  | clusterWakeComplete | portLinkFailure => exact h
  | blockEnd => exact nextOk_execBlockEnd h
  | launchComplete => exact nextOk_execLaunchComplete h
  | evtailWrite => exact nextOk_execEvtailWrite h
  | frzcmdFreezeBlock => exact nextOk_execFrzcmdFreezeBlock h
  | frzcmdResumeBlock => exact nextOk_execFrzcmdResumeBlock h
  | frzcmdTerminateBlock => exact nextOk_execFrzcmdTerminateBlock h
  | frzcmdFreezeQueue => exact nextOk_execFrzcmdFreezeQueue h
  | frzcmdResumeQueue => exact nextOk_execFrzcmdResumeQueue h
  | deadlineExpiry => exact nextOk_execDeadlineExpiry h
  | windowImageWritten => exact nextOk_execWindowImageWritten h
  | resumePlace => exact nextOk_execResumePlace h
  | migrationTransferComplete => exact nextOk_execMigrationTransferComplete h
  | dbgEnable => exact nextOk_execDbgEnable h
  | dbgrunStop => exact nextOk_execDbgrunStop h
  | dbgrunStep => exact nextOk_execDbgrunStep h
  | dbgrunResume => exact nextOk_execDbgrunResume h
  | rspseqWrite => exact nextOk_execRspseqWrite h
  | ntWindow | thermalLevelTick | clampStep => exact .ite h h
  | columnLevelStep => exact .ite h (.next (.ite (.ringColumn h) (.ite (.ringColumn h) h)))
  | pumpRampStep => exact .ite h (.ite (.next (.endRamp h)) (.ite h (.next (.ite (.endRamp h) h))))
  | tempSample => exact nextOk_execTempSample h
  | migwaitExpiry => exact nextOk_execMigwaitExpiry h
  | stpFrame => exact .ite h (.ite h (.ite h (.next (.react h))))
  | shedForceTimeout => exact nextOk_execShedForceTimeout h
  | classRestore => exact .ite (.next (.foldl h fun _ _ h => .unshed h)) h
  | startUp => exact nextOk_execStartUp h
  | mctpControl | pldmSensorRead | status | reason => exact .next (.sideband h fun _ h => h)
  | firmwareUpdate => exact .next (.sideband h fun _ h => .receiveImage h)
  | attest => exact .next (.sideband h fun _ h => .ite h h)
  | transition => exact .next (.sideband h fun _ h => .ite h (.ite h (.warm h)))
  | registerWrite => exact nextOk_execRegisterWrite h
  | reservedOpcode => exact nextOk_execReservedOpcode h
  | cxlCacheHostResponse => exact nextOk_execCxlCacheHostResponse h
  | invcmdAll => exact nextOk_execInvcmdAll h
  | invalidationComplete => exact nextOk_execInvalidationComplete h
  | hostRingEntryWrite => exact nextOk_execHostRingEntryWrite h
  | msiCoalesceTimeout | stpLossTimeout | clampLower | cxlTrainTimeout => exact .next (.ite h h)
  | stpLossHoldExpiry => exact .next (.ite (.react h) h)
  | resetctlWarmReset => exact nextOk_execResetctlWarmReset h
  | cxlReset | secondaryBusReset => exact .next (.ite h (.warm h))
  | coldReset => exact .next (.wiped h)
  | fatalReset => exact .next (.ite h (.fatal h))
  | wipeComplete => exact nextOk_execWipeComplete h
  | wipe => exact .next (.sideband h fun _ h => .warm h)
  | lineChecks => exact nextOk_execLineChecks h
  | powerLoss => exact nextOk_execPowerLoss h

/-! ## The schedule -/

theorem nextOk_runSecond {ctx pc w} (h : s.MemoryOk) : NextOk (s.runSecond ctx pc w) :=
  .ite (nextOk_exec h) h

theorem nextOk_runWords {ctx w second} (h : s.MemoryOk) : NextOk (s.runWords ctx w second) := by
  unfold State.runWords
  extract_lets pc s'
  have he : NextOk (exec (decode w) s') := nextOk_exec h
  split
  · exact he
  · generalize exec (decode w) s' = x at he ⊢
    cases x with
    | next => exact .ite (nextOk_runSecond he) he
    | fault | refused => exact he

theorem nextOk_issue {ctx} (h : s.MemoryOk) : NextOk (s.issue ctx) := by
  have hl : NextOk (exec .lineChecks (s.issuingAs ctx none)) := nextOk_exec h
  unfold State.issue
  refine .ite ?_ h
  have hf := h.fetch (ctx := ctx)
  generalize s.fetch ctx = x at hf ⊢
  cases x with
  | words => exact .ite (.next (.afterIssue (.resumeWait hf))) (nextOk_runWords hf)
  | trap | hold | later => exact hl

theorem State.MemoryOk.tick {n} (h : s.MemoryOk) : (s.tick n).MemoryOk := by
  unfold State.tick
  split
  · exact h
  · exact .foldl h fun _ _ h => .draw h

theorem nextOk_act {x} (h : s.MemoryOk) : NextOk (s.act x) := by
  cases x with
  | issue => exact .ite (nextOk_issue h) h
  | event i => exact .ite h (nextOk_exec h)
  | announce => exact .next (.goItem h)
  | lane => exact .next (.goLane h)
  | tick => exact .next (.tick h)
  | operand => exact .next (.readOperand h)
  | drainCp => exact .next (.flushCore h)
  | evictL1 => exact .next (.forgetLine h)
  | shareTlb => exact .next (.elim h fun _ => h)
  | oldTlb => exact .next (.elim h fun _ => .ite h h)
  | ramp => exact .next (.startRamp h)
  | measure => exact h
  | pick => exact .next (.pick h)
  | early => exact .next (.readEarly h)
  | monitor => exact .next (.startMonitor h)
  | flashDone => exact .next (.flashDone h)
  | mailbox => exact .next (.mailbox h)
  | config => exact .next (.configWrite h)
  | placeBar => exact .next (.placeBar h)
  | regWrite => exact .next (.regWrite h)
  | link => exact .next (.trained h)
  | otherCommand => exact .next (.otherCommand h)
  | beginWipe => exact .next (.beginWipe h)
  | peerOwn dest off b =>
    obtain ⟨hm, hh, hp⟩ := h
    exact ⟨hm, hh, Memory.wf_write _ b hp⟩
  | peerUp => exact .next (.peerUp h)
  | mmio => exact .next (.mmio h)
  | evictTlb | dropFetch | charge | sideband | corrected | refetched => exact h

theorem State.firstChange_memoryOk {l : List Act} {t : State} (h : s.MemoryOk) (ht : s.firstChange l = some t) :
    t.MemoryOk := by
  induction l with
  | nil => cases ht
  | cons a l ih =>
    have ha := nextOk_act h (x := a)
    unfold State.firstChange at ht
    generalize s.act a = x at ha ht
    cases x with
    | fault | refused => exact ih ht
    | next u =>
      dsimp only at ht
      split at ht
      · exact ih ht
      · cases ht
        exact ha

theorem State.issueFirst_memoryOk {l : List Nat} {t : State} (h : s.MemoryOk) (ht : s.issueFirst l = some t) :
    t.MemoryOk := by
  induction l with
  | nil => cases ht
  | cons c l ih =>
    have hc := nextOk_issue h (ctx := c)
    unfold State.issueFirst at ht
    generalize s.issue c = x at hc ht
    cases x with
    | fault | refused => exact ih ht
    | next u =>
      dsimp only at ht
      split at ht
      · exact ih ht
      · cases ht
        exact hc

theorem nextOk_default (h : s.MemoryOk) : NextOk s.default := by
  unfold State.default
  split
  · next hs => exact State.firstChange_memoryOk h hs
  · split
    · next hs =>
      obtain ⟨_, _, hi⟩ := List.exists_of_findSome?_eq_some hs
      exact .next (.tick (State.issueFirst_memoryOk h hi))
    · exact .next (.tick h)

theorem nextOk_move (h : s.MemoryOk) : NextOk s.move := by
  unfold State.move
  split
  · exact nextOk_act h
  · exact nextOk_default h

theorem nextOk_step (h : s.MemoryOk) : NextOk (step s) :=
  nextOk_move h

end Sys2Proof.Machine
end

section
namespace Sys2Proof.Machine

/-- Settles O18: a step is a move of one agent, and each function by which a move builds its state keeps the form. -/
theorem stepKeepsMemoryForm : Obligations.StepKeepsMemoryForm := by
  unfold Obligations.StepKeepsMemoryForm
  intro s t h hstep
  have ht := nextOk_step h
  rwa [hstep] at ht

end Sys2Proof.Machine
end

section
/-! SUPPORT. Commands of the register BAR, and the pumps of a die with nothing to do. -/
namespace Sys2Proof.Machine
variable {s : State} {d : Nat}

theorem State.onBar_up {f : State → State} (h : s.up = true) : s.onBar f = f s := if_pos h

theorem State.onBar_down {f : State → State} (h : s.up = false) : s.onBar f = s := if_neg (ne_true_of_eq_false h)

/-- Nothing waits at the die, and no line of it is on its way out. -/
structure State.IdleDie (s : State) (d : Nat) : Prop where
  waits : (s.die d).waits = []
  lines : ∀ l ∈ (s.die d).lines, l.2.leaving = false

theorem State.IdleDie.pumpLine (h : s.IdleDie d) {k : Nat} {g : Bool} : s.pumpLine d k g = s :=
  State.pumpLine_idle h.waits (fun _ hl => h.lines _ (Tab.mem_of_get? hl)) g

theorem State.IdleDie.pumpDie (h : s.IdleDie d) : s.pumpDie d = s :=
  State.pumpDie_idle h.waits (List.filter_eq_nil_iff.2 fun l hl => ne_true_of_eq_false (h.lines l hl))

/-- With nothing waiting for a record either, a command of the die ends with what it has done itself. -/
theorem State.IdleDie.afterCommand (h : s.IdleDie d) (hf : (s.die d).frwait = []) : s.afterCommand d = s := by
  unfold State.afterCommand
  rw [hf]
  exact h.pumpDie

end Sys2Proof.Machine
end

section
/-! SUPPORT. What making an access fatal leaves alone: every die but its copies of lines, and the fatal faults of teams. -/
namespace Sys2Proof.Machine

/-- The dies differ in copies of lines alone, and no line has been sent on its way out. -/
structure KeepsDies (s t : State) : Prop where
  dies : ∀ d, t.die d = { s.die d with lines := (t.die d).lines, fills := (t.die d).fills, wbuf := (t.die d).wbuf }
  leaving : ∀ d, (∀ l ∈ (s.die d).lines, l.2.leaving = false) → ∀ l ∈ (t.die d).lines, l.2.leaving = false

/-- Every team has the fatal faults that it had. -/
def KeepsFatal (s t : State) : Prop := ∀ c, (t.team c).fatal = (s.team c).fatal

section
variable {s t u : State}

theorem KeepsDies.refl (s : State) : KeepsDies s s := ⟨fun _ => rfl, fun _ h => h⟩

theorem KeepsDies.of_dies (h : t.dies = s.dies) : KeepsDies s t := by
  have hd : ∀ d, t.die d = s.die d := fun d => by rw [State.die, h]; rfl
  exact ⟨fun d => by rw [hd], fun d hl => by rwa [hd]⟩

theorem KeepsDies.trans (h : KeepsDies s t) (g : KeepsDies t u) : KeepsDies s u := by
  refine ⟨fun d => ?_, fun d hl => g.leaving d (h.leaving d hl)⟩
  have hd := h.dies d
  have gd := g.dies d
  rw [hd] at gd
  exact gd

theorem KeepsDies.foldl {α : Type} {f : State → α → State} (hf : ∀ s a, KeepsDies s (f s a)) (l : List α) (s : State) :
    KeepsDies s (l.foldl f s) := by
  induction l generalizing s with
  | nil => exact .refl s
  | cons a l ih => exact (hf s a).trans (ih _)

theorem KeepsDies.idle {d : Nat} (h : KeepsDies s t) (hi : s.IdleDie d) : t.IdleDie d :=
  ⟨by rw [h.dies d]; exact hi.waits, h.leaving d hi.lines⟩

theorem KeepsFatal.refl (s : State) : KeepsFatal s s := fun _ => rfl

theorem KeepsFatal.trans (h : KeepsFatal s t) (g : KeepsFatal t u) : KeepsFatal s u := fun c => (g c).trans (h c)

theorem KeepsFatal.foldl {α : Type} {f : State → α → State} (hf : ∀ s a, KeepsFatal s (f s a)) (l : List α) (s : State) :
    KeepsFatal s (l.foldl f s) := by
  induction l generalizing s with
  | nil => exact .refl s
  | cons a l ih => exact (hf s a).trans (ih _)

theorem KeepsFatal.of_teams (h : t.teams = s.teams) : KeepsFatal s t := fun c => by rw [State.team, h]; rfl

/-- A team written with the fatal faults that it has. -/
theorem KeepsFatal.setTeam {c : Nat} {x : Team} (h : x.fatal = (s.team c).fatal) : KeepsFatal s (s.setTeam c x) := fun k => by
  by_cases hk : k = c
  · rw [hk, State.team_setTeam, h]
  · rw [State.team_setTeam_other s x hk]

theorem State.team_of_get? {c : Nat} {x : Team} (h : Tab.get? s.teams c = some x) : s.team c = x := by
  simp [State.team, Tab.getD, h]
end

variable (s : State)

theorem State.mapCopies_keepsDies (pl : Nat) (f : LineData → LineData) : KeepsDies s (s.mapCopies pl f) := by
  refine ⟨(OnlyCopies.mapCopies s pl f).dies, fun d hl e he => ?_⟩
  have hdies : (s.homeWrite pl (f (s.homeRead pl)) fullMask).dies = s.dies := by
    unfold State.homeWrite
    split_ifs <;> rfl
  unfold State.mapCopies State.die Tab.getD at he
  dsimp only at he
  rw [Tab.get?_mapVal, hdies] at he
  unfold State.die Tab.getD at hl
  cases hx : Tab.get? s.dies d with
  | none => rw [hx] at he; cases he
  | some x =>
    rw [hx] at he hl
    obtain ⟨e0, he0, rfl⟩ := List.mem_map.1 he
    dsimp only
    split
    · exact hl e0 he0
    · exact hl e0 he0

theorem State.cohWrite_keepsDies (fuel pa : Nat) (bs : List Byte) : KeepsDies s (s.cohWrite fuel pa bs) := by
  induction fuel generalizing s pa bs with
  | zero => exact .refl s
  | succ n ih =>
    unfold State.cohWrite
    split
    · exact .refl s
    · exact (s.mapCopies_keepsDies _ _).trans (ih _ _ _)

theorem State.putFrame_keepsDies (f : Nat) (l : List (Nat × List Byte)) : KeepsDies s (s.putFrame f l) :=
  .foldl (f := fun s (w : Nat × List Byte) => s.physWrite (s.framePA f w.1) w.2) (fun s _ => s.cohWrite_keepsDies _ _ _) l s

theorem State.saveStatus_keepsDies (ctx : Nat) : KeepsDies s (s.saveStatus ctx) := by
  unfold State.saveStatus
  split
  · exact .refl s
  · split
    · exact s.putFrame_keepsDies _ _
    · exact .refl s

theorem State.setTeam_keepsDies (c : Nat) (x : Team) : KeepsDies s (s.setTeam c x) := .of_dies rfl

theorem State.credit_keepsDies (ctx ent id lane : Nat) (got : List (Nat × Byte)) :
    KeepsDies s (s.credit ctx ent id lane got) := by
  unfold State.credit
  split
  · exact .refl s
  · split
    · exact .refl s
    · exact (s.setTeam_keepsDies ctx _).trans (State.saveStatus_keepsDies _ ctx)

theorem State.credit_keepsFatal (ctx ent id lane : Nat) (got : List (Nat × Byte)) :
    KeepsFatal s (s.credit ctx ent id lane got) := by
  obtain h | ⟨t, ht, hc⟩ := s.credit_eq ctx ent id lane got
  · rw [h]
    exact .refl s
  · refine (KeepsFatal.setTeam ?_).trans (.of_teams hc.teams)
    rw [t.credit_eq, State.team_of_get? ht]

theorem State.cancelPieces_keepsDies (r : Req) : KeepsDies s (s.cancelPieces r) :=
  .foldl (fun s p => by
    dsimp only
    split
    · exact s.credit_keepsDies _ _ _ _ _
    · exact (s.credit_keepsDies _ _ _ _ _).trans (.of_dies rfl)) r.pieces s

theorem State.cancelPieces_keepsFatal (r : Req) : KeepsFatal s (s.cancelPieces r) :=
  .foldl (fun s p => by
    dsimp only
    split
    · exact s.credit_keepsFatal _ _ _ _ _
    · next t ht =>
      refine (s.credit_keepsFatal _ _ _ _ _).trans (.setTeam ?_)
      rw [Team.settle_eq, State.team_of_get? ht]) r.pieces s

theorem State.fillLog_keepsDies (core : Nat) : KeepsDies s (s.fillLog core) :=
  .foldl (fun s e => by
    dsimp only
    split
    · split_ifs
      · exact .of_dies rfl
      · exact .refl s
    · exact .refl s) _ s

theorem State.fillLog_keepsFatal (core : Nat) : KeepsFatal s (s.fillLog core) :=
  .foldl (fun s e => by
    dsimp only
    split
    · split_ifs
      · exact .setTeam (s := State.setCore s core _) rfl
      · exact .refl s
    · exact .refl s) _ s

variable {s} {ctx : Nat} {i : TrapInfo}

/-- A team with room for it takes a fatal fault. -/
theorem State.addFatal_of_room (hg : (s.team ctx).gone = false) (hk : (s.team ctx).fatalKept < 2) :
    s.addFatal ctx i = s.setTeam ctx { s.team ctx with fatal := (s.team ctx).fatal ++ [{ i with deliv := 1 }] } := by
  unfold State.addFatal
  dsimp only
  rw [if_neg (ne_true_of_eq_false hg), if_pos hk]

theorem State.fatalFault_keepsDies (hg : (s.team ctx).gone = false) (hk : (s.team ctx).fatalKept < 2) :
    KeepsDies s (s.fatalFault ctx i) := by
  unfold State.fatalFault
  rw [State.addFatal_of_room hg hk]
  exact (s.setTeam_keepsDies ctx _).trans (State.saveStatus_keepsDies _ ctx)

theorem State.fatalFault_fatal (hg : (s.team ctx).gone = false) (hk : (s.team ctx).fatalKept < 2) :
    ((s.fatalFault ctx i).team ctx).fatal = (s.team ctx).fatal ++ [{ i with deliv := 1 }] := by
  unfold State.fatalFault
  rw [State.addFatal_of_room hg hk, (OnlyCopies.saveStatus _ ctx).team, State.team_setTeam]

variable {r : Req} {e : Entry} {c : Cause} {va : Nat}

/-- What a team's own access leaves when it is made fatal (R165): the dies as they were, and the team's fatal fault. -/
theorem State.fatalReq_of_room (hg : (s.team r.ctx).gone = false) (hk : (s.team r.ctx).fatalKept < 2)
    (he : (s.team r.ctx).inflight.find? (fun e => e.uid == r.ent) = some e) :
    KeepsDies s (s.fatalReq r c va) ∧ ((s.fatalReq r c va).team r.ctx).fatal = (s.team r.ctx).fatal ++
      [{ cause := c, deliv := 1, pc := e.pc, resume := 0, word := e.word, addr := BitVec.ofNat 64 va
         lanes := maskOfReq (decode e.word) r }] := by
  unfold State.fatalReq
  dsimp only
  rw [he]
  dsimp only
  generalize hu : s.setCore r.core _ = u
  have hd : KeepsDies s u := hu ▸ .of_dies rfl
  have ht : u.team r.ctx = s.team r.ctx := by rw [← hu]; rfl
  rw [← ht] at hg hk ⊢
  refine ⟨hd.trans ((State.fatalFault_keepsDies hg hk).trans (State.cancelPieces_keepsDies _ r)), ?_⟩
  rw [State.cancelPieces_keepsFatal, State.fatalFault_fatal hg hk]

end Sys2Proof.Machine
end

section
/-! SUPPORT. The side log's stores, and replay and cancel of one record (R161, R164, R165). -/
namespace Sys2Proof.Machine
variable {s : State}

/-- A replayed store of the log is sent, unless an older one of its lines stands before it. -/
theorem exec_sideLogPerform_unsent {core n : Nat} {e : SlogEnt} (h : (s.core core).slog[n]? = some e) (hr : e.replay = true)
    (hs : e.sent = false) : exec (.sideLogPerform core n) s = .next (
      if ((s.core core).slog.take n).any (fun f => f.req.lines.any e.req.lines.contains) = true then s
      else (s.setCore core { s.core core with slog := (s.core core).slog.set n { e with sent := true } }).announce
        (dieOf core) (.req { e.req with replay := true, low := (s.team e.req.ctx).lowWater })) := by
  change execSideLogPerform core n s = _
  unfold execSideLogPerform
  simp only [h, hr, hs, Bool.not_true, Bool.false_eq_true, if_false]
  split <;> rfl

/-- A store of the log that has been performed frees its entry, and the next one may take it. -/
theorem exec_sideLogPerform_sent {core n : Nat} {e : SlogEnt} (h : (s.core core).slog[n]? = some e) (hr : e.replay = true)
    (hs : e.sent = true) (ho : s.reqOwes e.req = false) (hi : s.IdleDie (dieOf core)) : exec (.sideLogPerform core n) s =
      .next ((s.setCore core { s.core core with slog := (s.core core).slog.eraseIdx n }).fillLog core) := by
  change execSideLogPerform core n s = _
  unfold execSideLogPerform
  simp only [h, hr, hs, ho, Bool.not_true, Bool.false_eq_true, if_false, if_true]
  generalize hu : s.setCore core _ = u
  have hd : KeepsDies s u := hu ▸ .of_dies rfl
  rw [((hd.trans (u.fillLog_keepsDies core)).idle hi).pumpDie]

/-- A record that is freed leaves its die's table, and its page the die's TLB. -/
theorem State.freeRecord_eq {d id : Nat} {f : FRec} (h : Tab.get? (s.die d).frecs id = some f) :
    s.freeRecord d id = (s.setDie d { s.die d with frecs := Tab.del (s.die d).frecs id }).dropTlb d f.asid f.va := by
  unfold State.freeRecord
  dsimp only
  rw [h]

theorem State.die_freeRecord {d id : Nat} {f : FRec} (h : Tab.get? (s.die d).frecs id = some f) :
    (s.freeRecord d id).die d = { s.die d with
      frecs := Tab.del (s.die d).frecs id, tlb := (s.die d).tlb.filter fun e => !e.covers f.asid f.va } := by
  rw [State.freeRecord_eq h, State.dropTlb, State.die_setDie, State.die_setDie]

theorem State.freeRecord_rest (d id : Nat) : s.freeRecord d id = { s with dies := (s.freeRecord d id).dies } := by
  unfold State.freeRecord
  dsimp only
  split <;> rfl

theorem State.team_freeRecord (d id c : Nat) : (s.freeRecord d id).team c = s.team c := by
  unfold State.team
  rw [State.freeRecord_rest]

theorem State.core_freeRecord (d id c : Nat) : (s.freeRecord d id).core c = s.core c := by
  unfold State.core
  rw [State.freeRecord_rest]

section
variable {d id : Nat} {f : FRec} {r : Req}

theorem State.IdleDie.freeRecord (h : s.IdleDie d) (hf : Tab.get? (s.die d).frecs id = some f) :
    (s.freeRecord d id).IdleDie d :=
  ⟨by rw [State.die_freeRecord hf]; exact h.waits, by rw [State.die_freeRecord hf]; exact h.lines⟩

/-- A page that a list of translations has dropped is found there no more. -/
theorem tlbHit_filter_covers (l : List TlbEnt) (asid va : Nat) :
    tlbHit (l.filter fun e => !e.covers asid va) asid va = none :=
  List.find?_eq_none.2 fun _ he hc => by simp [hc] at he

theorem frecs_del (l : Tab FRec) (id : Nat) : Tab.get? (Tab.del l id) id = none ∧
    ∀ k, k ≠ id → Tab.get? (Tab.del l id) k = Tab.get? l k :=
  ⟨by rw [Tab.get?_del, if_pos rfl], fun k hk => by rw [Tab.get?_del, if_neg (Ne.symm hk)]⟩

/-- A record with one access that has no entry in the side log sends it again, as a replay. -/
theorem State.replayRecord_req (hf : Tab.get? (s.die d).frecs id = some f) (ha : f.att = [.req r])
    (hl : ∀ e ∈ (s.core r.core).slog, e.req.uid ≠ r.uid) : s.replayRecord d id =
      (s.freeRecord d id).announce d (.req { r with replay := true, low := (s.team r.ctx).lowWater }) := by
  unfold State.replayRecord
  rw [hf]
  dsimp only
  rw [ha]
  simp only [List.foldl_cons, List.foldl_nil, State.replayAtt, State.core_freeRecord, State.team_freeRecord]
  rw [if_neg]
  simpa using hl

theorem exec_fcmdReplayRecord (hup : s.up = true) :
    exec (.fcmdReplayRecord d id) s = .next ((s.replayRecord d id).afterCommand d) := congrArg _ (State.onBar_up hup)

theorem exec_fcmdReplayAsid {asid : Nat} (hup : s.up = true) (h : (s.die d).recordsOf asid = [id]) :
    exec (.fcmdReplayAsid d asid) s = .next ((s.replayRecord d id).afterCommand d) := by
  change Host.Outcome.next (s.onBar _) = _
  rw [State.onBar_up hup, h]
  rfl

theorem exec_fcmdCancelRecord (hup : s.up = true) :
    exec (.fcmdCancelRecord d id) s = .next ((s.cancelRecord d id).afterCommand d) := congrArg _ (State.onBar_up hup)

theorem exec_fcmdCancelAsid {asid : Nat} (hup : s.up = true) (h : (s.die d).recordsOf asid = [id]) :
    exec (.fcmdCancelAsid d asid) s = .next ((s.cancelRecord d id).afterCommand d) := by
  change Host.Outcome.next (s.onBar _) = _
  rw [State.onBar_up hup, h]
  rfl

/-- Replay, once the record is freed (R164). -/
theorem State.replayRecord_afterCommand (hi : s.IdleDie d) (hw : (s.die d).frwait = [])
    (hf : Tab.get? (s.die d).frecs id = some f) (ha : f.att = [.req r])
    (hl : ∀ e ∈ (s.core r.core).slog, e.req.uid ≠ r.uid) :
    let u := (s.replayRecord d id).afterCommand d
    Tab.get? (u.die d).frecs id = none ∧ (∀ k, k ≠ id → Tab.get? (u.die d).frecs k = Tab.get? (s.die d).frecs k) ∧
      (u.die d).anns = (s.die d).anns ++ [.req { r with replay := true, low := (s.team r.ctx).lowWater }] ∧
      tlbHit (u.die d).tlb f.asid f.va = none ∧ u.teams = s.teams ∧ u.mem = s.mem := by
  have hu := State.replayRecord_req hf ha hl
  have hdie : (s.replayRecord d id).die d = { s.die d with
      frecs := Tab.del (s.die d).frecs id, tlb := (s.die d).tlb.filter fun e => !e.covers f.asid f.va
      anns := (s.die d).anns ++ [.req { r with replay := true, low := (s.team r.ctx).lowWater }] } := by
    rw [hu, State.announce, State.die_setDie, State.die_freeRecord hf]
  have hidle : (s.replayRecord d id).IdleDie d := ⟨by rw [hdie]; exact hi.waits, by rw [hdie]; exact hi.lines⟩
  intro u
  have hu' : u = s.replayRecord d id := hidle.afterCommand (by rw [hdie]; exact hw)
  rw [hu', hdie]
  obtain ⟨hid, hk⟩ := frecs_del (s.die d).frecs id
  refine ⟨hid, hk, rfl, tlbHit_filter_covers _ _ _, ?_, ?_⟩
  · rw [hu, State.freeRecord_rest]; rfl
  · rw [hu, State.freeRecord_rest]; rfl

/-- Cancel, once the record is freed (R165): the access's team takes a fatal fault. -/
theorem State.cancelRecord_afterCommand {e : Entry} (hi : s.IdleDie d) (hw : (s.die d).frwait = [])
    (hf : Tab.get? (s.die d).frecs id = some f) (ha : f.att = [.req r]) (hg : (s.team r.ctx).gone = false)
    (hk : (s.team r.ctx).fatalKept < 2) (he : (s.team r.ctx).inflight.find? (fun e => e.uid == r.ent) = some e) :
    let u := (s.cancelRecord d id).afterCommand d
    Tab.get? (u.die d).frecs id = none ∧ (u.team r.ctx).fatal = (s.team r.ctx).fatal ++
      [{ cause := cancelCause 0 f.type, deliv := 1, pc := e.pc, resume := 0, word := e.word, addr := BitVec.ofNat 64 f.va
         lanes := maskOfReq (decode e.word) r }] := by
  rw [← State.team_freeRecord d id r.ctx] at hg hk he ⊢
  obtain ⟨hd, ht⟩ := State.fatalReq_of_room (c := cancelCause 0 f.type) (va := f.va) hg hk he
  generalize hv : (s.freeRecord d id).fatalReq r (cancelCause 0 f.type) f.va = v at hd ht
  have hu : s.cancelRecord d id = (v.cores.map (·.1)).foldl (fun s c => s.fillLog c) v := by
    unfold State.cancelRecord
    rw [hf]
    dsimp only
    rw [ha]
    simp only [List.foldl_cons, List.foldl_nil, State.cancelAtt, hv]
  have hdies : KeepsDies (s.freeRecord d id) (s.cancelRecord d id) := by
    rw [hu]
    exact hd.trans (.foldl State.fillLog_keepsDies _ _)
  have hfatal : KeepsFatal v (s.cancelRecord d id) := hu ▸ .foldl State.fillLog_keepsFatal _ _
  have hdie := hdies.dies d
  rw [State.die_freeRecord hf] at hdie
  intro u
  have hu' : u = s.cancelRecord d id := (hdies.idle (hi.freeRecord hf)).afterCommand (by rw [hdie]; exact hw)
  rw [hu', hfatal, ht, hdie]
  exact ⟨(frecs_del _ id).1, rfl⟩

/-- No command of the register BAR acts while it is not served. -/
theorem exec_fcmd_down (h : s.up = false) (d id asid : Nat) : ∀ i ∈ [Instr.fcmdReplayRecord d id, .fcmdReplayAsid d asid,
    .fcmdCancelRecord d id, .fcmdCancelAsid d asid], exec i s = .next s := by
  simp only [List.forall_mem_cons, List.not_mem_nil, false_imp_iff, implies_true, and_true]
  exact ⟨congrArg _ (State.onBar_down h), congrArg _ (State.onBar_down h), congrArg _ (State.onBar_down h),
    congrArg _ (State.onBar_down h)⟩
end

end Sys2Proof.Machine
end

section
/-! SUPPORT. Accesses of a die made fatal by its memory and its peers (R274, R331). -/
namespace Sys2Proof.Machine
variable {s : State} {d pl : Nat} {w : WaitEnt} {e : Entry} {c : Cause}

/-- A request is itself. -/
theorem WaitEnt.is_self (w : WaitEnt) : w.is w = true := by simp [WaitEnt.is]

/-- A request that waits alone is the whole of its run. -/
theorem State.unwaitRun_alone (h : (s.die d).waits = [w]) :
    s.unwaitRun d w = s.setDie d { s.die d with waits := [] } := by
  have ho : (s.die d).others w = [] := by simp [Die.others, h]
  unfold State.unwaitRun State.unwait
  simp [ho, h, WaitEnt.is_self]

theorem State.lineOf_of_lines {t : State} (h : (t.die d).lines = (s.die d).lines) : t.lineOf d w = s.lineOf d w := by
  unfold State.lineOf
  rw [h]

/-- The die's only request, which has asked a home for the line, fails: it waits no more, the die's request of the home is
over, and its team has the fatal fault. -/
theorem State.failAsker_alone (hi : ∀ l ∈ (s.die d).lines, l.2.leaving = false) (hw : (s.die d).waits = [w])
    (hl : s.lineOf d w = pl) (hn : w.req.ent ≠ 0) (hg : (s.team w.req.ctx).gone = false)
    (hk : (s.team w.req.ctx).fatalKept < 2)
    (he : (s.team w.req.ctx).inflight.find? (fun e => e.uid == w.req.ent) = some e) :
    let u := s.failAsker d pl c
    u.die d = { s.die d with outst := (s.die d).outst.filter (fun o => o.2 != pl), waits := [], lines := (u.die d).lines
                             fills := (u.die d).fills, wbuf := (u.die d).wbuf } ∧
      (u.team w.req.ctx).fatal = (s.team w.req.ctx).fatal ++
        [{ cause := c, deliv := 1, pc := e.pc, resume := 0, word := e.word
           addr := BitVec.ofNat 64 (vaOfLine w.key / 4096 * 4096)
           lanes := maskOfReq (decode e.word) ((s.die d).whole w) }] := by
  unfold State.failAsker
  dsimp only
  generalize hs1 : s.setDie d { s.die d with outst := _ } = s1
  have hd1 : s1.die d = { s.die d with outst := (s.die d).outst.filter (fun o => o.2 != pl) } := by
    rw [← hs1, State.die_setDie]
  have hl1 : s1.lineOf d w = pl := by rw [State.lineOf_of_lines (s := s) (by rw [hd1]), hl]
  rw [hw, List.find?_cons_of_pos (by simp [hl1])]
  dsimp only
  rw [if_neg hn, State.unwaitRun_alone (by rw [hd1]; exact hw)]
  generalize hs2 : s1.setDie d { s1.die d with waits := [] } = s2
  have hd2 : s2.die d = { s.die d with outst := (s.die d).outst.filter (fun o => o.2 != pl), waits := [] } := by
    rw [← hs2, State.die_setDie, hd1]
  have ht2 : s2.team w.req.ctx = s.team w.req.ctx := by rw [← hs2, ← hs1]; rfl
  have hi2 : s2.IdleDie d := ⟨by rw [hd2], by rw [hd2]; exact hi⟩
  rw [← ht2] at hg hk he ⊢
  obtain ⟨hd, hf⟩ := State.fatalReq_of_room (r := (s.die d).whole w) (c := c) (va := vaOfLine w.key / 4096 * 4096) hg hk he
  rw [(hd.idle hi2).pumpLine]
  have hdie := hd.dies d
  rw [hd2] at hdie
  exact ⟨hdie, hf⟩

/-- A request of a line that has been taken back is not outstanding. -/
theorem outst_filter_ne (l : List (Nat × Nat)) (pl : Nat) : ∀ o ∈ l.filter (fun o => o.2 != pl), o.2 ≠ pl := fun o ho => by
  simpa using (List.mem_filter.1 ho).2

/-- A grant with data that memory could not correct (R274). -/
theorem exec_memue {line : Nat} {m : Msg} (h : s.msg? .gntS d line = some m) (hm : m.swm = false) :
    exec (.memue d line) s =
      .next (((s.dropMsg m).send { kind := .cmp, agent := d, line, key := m.key }).failAsker d line Cause.memue) := by
  change execMemue d line s = _
  unfold execMemue
  rw [h]
  simp only [Option.orElse_some, hm, Bool.false_eq_true, if_false]

/-- With no write-back of the line under way, a peer's failure is that of the request that asked for it. -/
theorem State.peerFail_of_wbuf (h : ∀ b ∈ (s.die d).wbuf, b.line ≠ pl) : s.peerFail d pl =
    State.failAsker (State.setDie { s with msgs := s.msgs.filter fun m => !(m.agent == d && m.line == pl) } d (s.die d))
      d pl Cause.peererr := by
  have hno : (s.die d).wbuf.filter (fun w => w.line == pl) = [] := List.filter_eq_nil_iff.2 fun b hb => by simpa using h b hb
  have hall : (s.die d).wbuf.filter (fun w => w.line != pl) = (s.die d).wbuf :=
    List.filter_eq_self.2 fun b hb => by simpa using h b hb
  unfold State.peerFail
  dsimp only
  generalize hs : ({ s with msgs := _ } : State) = u
  have hd : u.die d = s.die d := by rw [← hs]; rfl
  rw [hd, hno, hall]
  rfl

/-- No engine's access waits for the line. -/
theorem State.failStuck_idle (h : ∀ y ∈ (s.die d).stuck, y.2.2 ≠ pl) : s.failStuck d pl = s.setDie d (s.die d) := by
  have hno : (s.die d).stuck.filter (fun e => e.2.2 == pl) = [] := List.filter_eq_nil_iff.2 fun b hb => by simpa using h b hb
  have hall : (s.die d).stuck.filter (fun e => e.2.2 != pl) = (s.die d).stuck :=
    List.filter_eq_self.2 fun b hb => by simpa using h b hb
  unfold State.failStuck
  dsimp only
  rw [hno, hall]
  rfl

/-- No fetch has gone to the line's peer. -/
theorem State.failAway_idle (h : ∀ y ∈ (s.die d).away, y.2.2 ≠ pl) : s.failAway d pl = s.setDie d (s.die d) := by
  have hno : (s.die d).away.filter (fun e => e.2.2 == pl) = [] := List.filter_eq_nil_iff.2 fun b hb => by simpa using h b hb
  have hall : (s.die d).away.filter (fun e => e.2.2 != pl) = (s.die d).away :=
    List.filter_eq_self.2 fun b hb => by simpa using h b hb
  unfold State.failAway
  dsimp only
  rw [hno, hall]
  rfl

/-- A message to or from a peer is traffic with it. -/
theorem State.mem_peerTraffic {m : Msg} (h : m ∈ s.msgs) (hl : 2 ^ 45 ≤ m.line) : (m.agent, m.line) ∈ s.peerTraffic :=
  List.mem_filter.2 ⟨List.mem_append_left _ (List.mem_map_of_mem h), decide_eq_true hl⟩

theorem exec_peererr {line : Nat} (h : (d, line) ∈ s.peerTraffic) :
    exec (.peererr d line) s = .next (((s.peerFail d line).failStuck d line).failAway d line) :=
  congrArg _ (if_pos (List.contains_iff_mem.2 h))

theorem exec_peererr_none {line : Nat} (h : (d, line) ∉ s.peerTraffic) : exec (.peererr d line) s = .next s :=
  congrArg _ (if_neg fun hc => h (List.contains_iff_mem.1 hc))

/-- What MEMUE and PEERERR leave of a request that waits alone at its die (R274, R331). -/
structure Failed (s u : State) (d line : Nat) (w : WaitEnt) (e : Entry) (c : Cause) : Prop where
  outst : ∀ o ∈ (u.die d).outst, o.2 ≠ line
  waits : (u.die d).waits = []
  fatal : (u.team w.req.ctx).fatal = (s.team w.req.ctx).fatal ++
    [{ cause := c, deliv := 1, pc := e.pc, resume := 0, word := e.word
       addr := BitVec.ofNat 64 (vaOfLine w.key / 4096 * 4096), lanes := maskOfReq (decode e.word) ((s.die d).whole w) }]

section
variable {line : Nat} (hi : ∀ l ∈ (s.die d).lines, l.2.leaving = false) (hw : (s.die d).waits = [w])
  (hl : s.lineOf d w = line) (hn : w.req.ent ≠ 0) (hg : (s.team w.req.ctx).gone = false)
  (hk : (s.team w.req.ctx).fatalKept < 2) (he : (s.team w.req.ctx).inflight.find? (fun e => e.uid == w.req.ent) = some e)
include hi hw hl hn hg hk he

theorem State.memue_failed {m : Msg} (h : s.msg? .gntS d line = some m) (hm : m.swm = false) :
    ∃ u, exec (.memue d line) s = .next u ∧ Failed s u d line w e Cause.memue := by
  refine ⟨_, exec_memue h hm, ?_⟩
  obtain ⟨hdie, hf⟩ := State.failAsker_alone (s := (s.dropMsg m).send { kind := .cmp, agent := d, line, key := m.key })
    (c := Cause.memue) hi hw hl hn hg hk he
  exact ⟨by rw [hdie]; exact outst_filter_ne _ _, by rw [hdie], hf⟩

theorem State.peererr_failed {m : Msg} (hp : 2 ^ 45 ≤ line) (hm : m ∈ s.msgs) (ha : m.agent = d) (hml : m.line = line)
    (hs : ∀ y ∈ (s.die d).stuck, y.2.2 ≠ line) (hy : ∀ y ∈ (s.die d).away, y.2.2 ≠ line)
    (hb : ∀ b ∈ (s.die d).wbuf, b.line ≠ line) :
    ∃ u, exec (.peererr d line) s = .next u ∧ Failed s u d line w e Cause.peererr := by
  subst ha hml
  refine ⟨_, exec_peererr (State.mem_peerTraffic hm hp), ?_⟩
  rw [State.peerFail_of_wbuf hb]
  generalize hv : State.setDie { s with msgs := _ } m.agent (s.die m.agent) = v
  have hd : v.die m.agent = s.die m.agent := by rw [← hv, State.die_setDie]
  have ht : v.team w.req.ctx = s.team w.req.ctx := by rw [← hv]; rfl
  rw [← ht] at hg hk he
  rw [← hd] at hi hw hs hy
  rw [← State.lineOf_of_lines (congrArg Die.lines hd)] at hl
  obtain ⟨hdie, hf⟩ := State.failAsker_alone (c := Cause.peererr) hi hw hl hn hg hk he
  rw [ht, hd] at hf
  generalize v.failAsker m.agent m.line Cause.peererr = z at hdie hf
  rw [State.failStuck_idle (by rw [hdie]; exact hs), State.failAway_idle (by rw [State.die_setDie, hdie]; exact hy)]
  refine ⟨?_, ?_, hf⟩
  · rw [State.die_setDie, State.die_setDie, hdie]
    exact outst_filter_ne _ _
  · rw [State.die_setDie, State.die_setDie, hdie]
end

/-- The wait of 1 ms for another port begins (R331). -/
theorem exec_portLinkFailure (dest : Nat) : exec (.portLinkFailure dest) s = .next { s with plat := { s.plat with
    failAt := Tab.put s.plat.failAt dest s.time
    deadPeers := if dest ∈ s.plat.deadPeers then s.plat.deadPeers else s.plat.deadPeers ++ [dest] } } := by
  change execPortLinkFailure dest s = _
  unfold execPortLinkFailure
  simp only [List.contains_iff_mem]

/-- The wait for another port has begun, and what it does when it is over. -/
theorem State.peerLate_of_failAt {dest t : Nat} (h : Tab.get? s.plat.failAt dest = some t) : s.peerLate dest =
    if s.time < t + 1000000 then s
    else (s.peerTraffic.filter fun m => s.destOf m.2 == some dest).foldl
      (fun s m => ((s.peerFail m.1 m.2).failStuck m.1 m.2).failAway m.1 m.2) s := by
  unfold State.peerLate
  rw [h]

theorem exec_peerLinkTimeout_none {dest : Nat} (h : Tab.get? s.plat.failAt dest = none) :
    exec (.peerLinkTimeout dest) s = .next s := by
  change Host.Outcome.next (s.peerLate dest) = _
  unfold State.peerLate
  rw [h]

theorem exec_peerLinkTimeout_early {dest t : Nat} (h : Tab.get? s.plat.failAt dest = some t) (ht : s.time < t + 1000000) :
    exec (.peerLinkTimeout dest) s = .next s :=
  congrArg _ ((State.peerLate_of_failAt h).trans (if_pos ht))

theorem exec_peerLinkTimeout_idle {dest t : Nat} (h : Tab.get? s.plat.failAt dest = some t) (ht : t + 1000000 ≤ s.time)
    (hno : ∀ e ∈ s.peerTraffic, s.destOf e.2 ≠ some dest) : exec (.peerLinkTimeout dest) s = .next s := by
  change Host.Outcome.next (s.peerLate dest) = _
  rw [State.peerLate_of_failAt h, if_neg (not_lt.2 ht), List.filter_eq_nil_iff.2 fun e he => by simpa using hno e he]
  rfl

theorem exec_peerLinkTimeout_one {dest t a line : Nat} (h : Tab.get? s.plat.failAt dest = some t) (ht : t + 1000000 ≤ s.time)
    (hone : s.peerTraffic = [(a, line)]) (hd : s.destOf line = some dest) : exec (.peerLinkTimeout dest) s =
      .next (((s.peerFail a line).failStuck a line).failAway a line) := by
  change Host.Outcome.next (s.peerLate dest) = _
  rw [State.peerLate_of_failAt h, if_neg (not_lt.2 ht), hone, List.filter_cons_of_pos (by simp [hd])]
  rfl

end Sys2Proof.Machine
end

section
/-! SUPPORT. Invalidation (R167). -/
namespace Sys2Proof.Machine
variable {s : State} {r : Nat × Option Nat × Option (Nat × Nat)} {rest : List (Nat × Option Nat × Option (Nat × Nat))}

/-- How an invalidation begins: it is noted, and what the TLBs hold of its range is gone before the sweep. -/
structure Begun (s w : State) (r : Nat × Option Nat × Option (Nat × Nat)) : Prop where
  inval : w.trans.inval = s.trans.inval ++ [r]
  dies : ∀ k, (w.die k).lines = (s.die k).lines ∧ (w.die k).tlb = (s.die k).tlb.filter fun e => !invTlb r e
  mem : w.mem = s.mem
  teams : w.teams = s.teams

theorem State.invalidate_begun (s : State) (r : Nat × Option Nat × Option (Nat × Nat)) :
    ∃ w : State, s.invalidate r = w.sweep r ∧ Begun s w r := by
  refine ⟨_, rfl, rfl, fun k => ?_, rfl, rfl⟩
  unfold State.die Tab.getD
  dsimp only
  rw [Tab.get?_mapVal]
  cases Tab.get? s.dies k with
  | none => exact ⟨rfl, rfl⟩
  | some x => exact ⟨rfl, rfl⟩

/-- The commands of the register BAR that begin an invalidation: their page or address space. -/
theorem exec_invcmd {i : Instr} (h : (i = .invcmdAll ∧ r = (3, none, none)) ∨
      (∃ a v n, i = .invcmdPage a v n ∧ r = (1, some a, some (va57 (bitsAt v 12 45 * 4096), invSize n))) ∨
      (∃ a, i = .invcmdAsid a ∧ r = (2, some a, none))) :
    (s.up = false → exec i s = .next s) ∧ (s.up = true → ∃ w : State, exec i s = .next (w.sweep r) ∧ Begun s w r) := by
  obtain ⟨rfl, rfl⟩ | ⟨a, v, n, rfl, rfl⟩ | ⟨a, rfl, rfl⟩ := h
  · refine ⟨fun h => congrArg _ (State.onBar_down h), fun h => ?_⟩
    obtain ⟨w, hw, hb⟩ := s.invalidate_begun (3, none, none)
    exact ⟨w, congrArg _ ((State.onBar_up h).trans hw), hb⟩
  · refine ⟨fun h => congrArg _ (State.onBar_down h), fun h => ?_⟩
    obtain ⟨w, hw, ⟨hi, hd, hm, ht⟩⟩ :=
      (s.setInvva v).invalidate_begun (1, some a, some (va57 (bitsAt v 12 45 * 4096), invSize n))
    exact ⟨w, congrArg _ ((State.onBar_up h).trans hw), hi, hd, hm, ht⟩
  · refine ⟨fun h => congrArg _ (State.onBar_down h), fun h => ?_⟩
    obtain ⟨w, hw, hb⟩ := s.invalidate_begun (2, some a, none)
    exact ⟨w, congrArg _ ((State.onBar_up h).trans hw), hb⟩

/-- Nothing of an invalidation's range is left at a die. -/
def Die.clearOf (y : Die) (r : Nat × Option Nat × Option (Nat × Nat)) : Prop :=
  (∀ l ∈ y.lines, invLine r l.1 = false) ∧ (∀ o ∈ y.outst, invLine r o.1 = false) ∧
    (∀ w ∈ y.waits, w.tr = none ∨ invLine r w.key = false) ∧ (∀ w ∈ y.wbuf, invLine r w.key = false) ∧
    (∀ f ∈ y.fills, f.keep = false ∨ invLine r f.key = false) ∧
    (∀ e ∈ y.tlb, invTlb r e = false) ∧ ∀ t ∈ y.tiles, t.2.attr = none ∨ invTile r t.1 = false

/-- An invalidation is over once nothing of its range is left at a die, at a core or with a home. -/
theorem exec_invalidationComplete_clear (h : s.trans.inval = r :: rest) (hd : ∀ y ∈ s.dies, y.2.clearOf r)
    (hc : ∀ c ∈ s.cores, (∀ e ∈ c.2.fbuf, invFetch r e.1 = false) ∧ ∀ e ∈ c.2.l1, invLine r e.1 = false)
    (hh : ∀ e ∈ s.dir, (∀ q, e.2.cur = some q → q.op ≠ .reclaim) ∧
      ∀ q ∈ e.2.queue ++ e.2.cur.toList, q.merges = false ∨ invLine r q.key = false) :
    exec .invalidationComplete s =
      .next { s with trans := { s.trans with inval := rest, old := s.trans.old.filter fun e => !invTlb r e.2 } } := by
  change execInvalidationComplete s = _
  unfold execInvalidationComplete
  rw [h]
  dsimp only
  rw [if_neg]
  simp only [Bool.not_eq_true, Bool.or_eq_false_iff, List.any_eq_false, Bool.and_eq_false_iff, Option.isSome_eq_false_iff,
    Option.isNone_iff_eq_none, beq_eq_false_iff_ne, Option.any_eq_false]
  refine ⟨⟨⟨⟨fun y hy => ?_, fun y hy => ?_⟩, fun y hy => ?_⟩, hc⟩, hh⟩
  all_goals obtain ⟨hlines, houtst, hwaits, hwbuf, hfills, htlb, htiles⟩ := hd y hy
  · exact ⟨⟨⟨hlines, houtst⟩, hwaits⟩, hwbuf⟩
  · exact hfills
  · exact ⟨htlb, htiles⟩

/-- What has come back is swept again. -/
theorem exec_invalidationComplete_left (h : s.trans.inval = r :: rest)
    (hl : ∃ y ∈ s.dies, ∃ l ∈ y.2.lines, invLine r l.1 = true) : exec .invalidationComplete s = .next (s.sweep r) := by
  obtain ⟨y, hy, l, hly, hr⟩ := hl
  change execInvalidationComplete s = _
  unfold execInvalidationComplete
  rw [h]
  dsimp only
  rw [if_pos]
  simp only [Bool.or_eq_true, List.any_eq_true]
  exact .inl (.inl (.inl (.inl ⟨y, hy, .inl (.inl (.inl ⟨l, hly, hr⟩))⟩)))

end Sys2Proof.Machine
end

section
/-! SUPPORT. The end of a page walk (R157, R161). -/
namespace Sys2Proof.Machine
variable {s : State} {d n : Nat} {w : Walk} {v : WaitEnt}

theorem Req.need_of_ne {r : Req} (h : r.op ≠ .wdepth) : r.need = { write := r.op.writes, user := r.user } := by
  unfold Req.need
  split
  · next hop => exact absurd hop h
  · rfl

section
variable (hw : (s.die d).walks[n]? = some w) (hr : w.recheck = false)
include hw hr

/-- A walk whose tables' lines the host owns asks for them first (R156). -/
theorem exec_pageWalkComplete_waits {pl : Nat} (hpl : s.walkWaits d w.req.asid (vaOfLine w.key) w.req.need = some pl) :
    exec (.pageWalkComplete d n) s = .next (s.homeAsk pl .pull) := by
  change execPageWalkComplete d n s = _
  unfold execPageWalkComplete
  dsimp only
  rw [hw]
  dsimp only
  rw [hr, if_neg Bool.false_ne_true, hpl]

/-- An access's walk ends with what its translation gives. -/
theorem exec_pageWalkComplete_translate (hd : w.req.op ≠ .wdepth) (hp : w.req.op ≠ .wpin)
    (hv : (s.die d).waits.find? (fun v => v.key == w.key && v.req.uid == w.req.uid) = some v)
    (hn : s.walkWaits d w.req.asid (vaOfLine w.key) w.req.need = none) {u : State} {t : Except (Nat × Nat) TlbEnt}
    (hu : (s.setDie d { s.die d with walks := (s.die d).walks.eraseIdx n }).translate d w.req.asid (vaOfLine w.key)
      w.req.need = (u, t)) :
    (∀ e, t = .ok e → e.attr.nowell = false → exec (.pageWalkComplete d n) s = .next
      (((u.keepAttr d (tileOfLine w.key) e.attr).rewait d
        { v with tr := some (e.paOf (vaOfLine w.key) / 128, e.attr) }).pumpLine d w.key false)) ∧
    ∀ f, t = .error f → exec (.pageWalkComplete d n) s = .next ((u.walkFailed d v f.1 f.2).pumpLine d w.key false) := by
  change (∀ e, _ → _ → execPageWalkComplete d n s = _) ∧ ∀ f, _ → execPageWalkComplete d n s = _
  unfold execPageWalkComplete
  dsimp only
  rw [hw]
  dsimp only
  rw [hr, if_neg Bool.false_ne_true, hn]
  dsimp only
  rw [hu, State.die_setDie]
  split
  · next hop => exact absurd hop hd
  · next hop => exact absurd hop hp
  · rw [hv]
    dsimp only
    refine ⟨?_, ?_⟩
    · rintro e rfl he
      simp only [he, Bool.false_eq_true, false_and, if_false]
    · rintro f rfl
      rfl
end

/-- A weakly ordered request is the whole of its run. -/
theorem State.whole_of_weak (h : v.req.strong = false) : (s.die d).whole v = v.req ∧ s.unwaitRun d v = s.unwait d v := by
  have ho : (s.die d).others v = [] := by simp [Die.others, h]
  unfold Die.whole State.unwaitRun
  rw [ho]
  simp

/-- A weakly ordered load of a team that still runs attaches to the record of its page's fault. -/
theorem State.walkFailed_load {ty lv : Nat} (hop : v.req.op = .load) (hs : v.req.strong = false)
    (hf : (s.team v.req.ctx).sched ≠ .frozen) (he : ∃ e ∈ (s.team v.req.ctx).inflight, e.uid = v.req.ent) :
    s.walkFailed d v ty lv = (s.unwait d v).attach d v.req
      { va := vaOfLine v.key / 4096 * 4096, asid := v.req.asid, type := ty, level := lv, rep := v.req.replay, write := false
        path := 0, pcore := v.req.core % 1024, time := s.time, att := [] } := by
  obtain ⟨hwhole, hrun⟩ := State.whole_of_weak (s := s) (d := d) hs
  have hall : ((s.team v.req.ctx).inflight.all fun e => e.uid != v.req.ent) = false := by
    obtain ⟨e, hm, hu⟩ := he
    exact List.all_eq_false.2 ⟨e, hm, by simp [hu]⟩
  have hw : v.req.op.writes = false := by rw [hop]; rfl
  have ht : (s.unwait d v).team v.req.ctx = s.team v.req.ctx := rfl
  unfold State.walkFailed
  dsimp only
  rw [hwhole, hrun, ht]
  split
  · next hpref => rw [hop] at hpref; cases hpref
  · simp only [hf, hall, hw, Bool.false_eq_true, or_self, and_false, if_false]
    rfl

/-- A translation leaves the teams and the time as they are. -/
theorem State.translate_keepsTeam {asid va c : Nat} {need : Need} : (s.translate d asid va need).1.team c = s.team c ∧
    (s.translate d asid va need).1.time = s.time := by
  have h := (s.translate_only d asid va need).rest
  exact ⟨by unfold State.team; rw [h], by rw [h]⟩

end Sys2Proof.Machine
end

section
/-! PROOF of O49. -/
namespace Sys2Proof.Machine

/-- Settles O49: every clause is what its event's command does, and a command that ends by pumping a die leaves it so where
nothing waits there. -/
theorem faultsAndInvalidation : Obligations.FaultsAndInvalidation := by
  unfold Obligations.FaultsAndInvalidation
  intro s d x frecs
  refine ⟨?walk, ?unsent, ?sent, ?record, ?down, ?error, ?quiet, ?command, ?complete, ?peer⟩
  case walk =>
    intro n w v hw hr hd hp hv va need s1
    have hneed : w.req.need = need := Req.need_of_ne hd
    refine ⟨fun pl hpl => exec_pageWalkComplete_waits hw hr (hneed ▸ hpl), fun hn => ?_⟩
    cases ht : s1.translate d w.req.asid va need with
    | mk u t =>
      obtain ⟨hteam, htime⟩ := s1.translate_keepsTeam (d := d) (asid := w.req.asid) (va := va) (c := v.req.ctx) (need := need)
      rw [ht] at hteam htime
      rw [← hneed] at hn ht
      obtain ⟨hok, herr⟩ := exec_pageWalkComplete_translate hw hr hd hp hv hn ht
      cases t with
      | ok e => exact hok e rfl
      | error f =>
        intro hop hs hf he
        have hkey : v.key = w.key := by
          have hb := List.find?_some hv
          simp only [Bool.and_eq_true, beq_iff_eq] at hb
          exact hb.1
        replace hteam : u.team v.req.ctx = s.team v.req.ctx := hteam
        replace htime : u.time = s.time := htime
        rw [← hteam] at hf he
        rw [herr f rfl, State.walkFailed_load hop hs hf he, hkey, htime]
  case unsent => exact fun core n e h hr hs => exec_sideLogPerform_unsent h hr hs
  case sent =>
    exact fun core n e h hr hs ho hw hl => exec_sideLogPerform_sent h hr hs ho ⟨hw _, hl _⟩
  case record =>
    intro id f r hf ha hfw hw hl hup
    have hi : s.IdleDie d := ⟨hw, hl⟩
    refine ⟨fun i hm hone hlog => ?_, fun i hm hone t e ht hfr hex hk he => ?_⟩
    · refine ⟨(s.replayRecord d id).afterCommand d, ?_, State.replayRecord_afterCommand hi hfw hf ha hlog⟩
      simp only [List.mem_cons, List.not_mem_nil, or_false] at hm
      obtain rfl | rfl := hm
      · exact exec_fcmdReplayRecord hup
      · exact exec_fcmdReplayAsid hup (hone.resolve_left Instr.noConfusion)
    · obtain rfl := State.team_of_get? ht
      refine ⟨(s.cancelRecord d id).afterCommand d, ?_, State.cancelRecord_afterCommand hi hfw hf ha ?_ hk he⟩
      · simp only [List.mem_cons, List.not_mem_nil, or_false] at hm
        obtain rfl | rfl := hm
        · exact exec_fcmdCancelRecord hup
        · exact exec_fcmdCancelAsid hup (hone.resolve_left Instr.noConfusion)
      · simp [Team.gone, hfr, hex]
  case down => exact fun h id asid => exec_fcmd_down h d id asid
  case error =>
    intro w t e m line hw hline hn ht hl hs hy hg hk he hb i c hi
    obtain rfl := State.team_of_get? ht
    obtain ⟨rfl, rfl, hm, hswm⟩ | ⟨rfl, rfl, hp, hm, ha, hml⟩ := hi
    · obtain ⟨u, hu, ho, hwaits, hf⟩ := State.memue_failed hl hw hline hn hg hk he hm hswm
      exact ⟨u, hu, ho, hwaits, hf⟩
    · obtain ⟨u, hu, ho, hwaits, hf⟩ := State.peererr_failed hl hw hline hn hg hk he hp hm ha hml hs hy hb
      exact ⟨u, hu, ho, hwaits, hf⟩
  case quiet => exact fun line h => exec_peererr_none h
  case command =>
    intro i r hi
    refine ⟨(exec_invcmd hi).1, fun hup => ?_⟩
    obtain ⟨w, hw, hinval, hdies, hmem, hteams⟩ := (exec_invcmd hi).2 hup
    exact ⟨w, hw, hinval, hdies, hmem, hteams⟩
  case complete =>
    exact fun r rest h => ⟨fun hd hc hh => exec_invalidationComplete_clear h hd hc hh,
      fun hl => exec_invalidationComplete_left h hl⟩
  case peer =>
    exact fun dest => ⟨exec_portLinkFailure dest, fun h => exec_peerLinkTimeout_none h, fun t h =>
      ⟨fun ht => exec_peerLinkTimeout_early h ht, fun ht =>
        ⟨fun hno => exec_peerLinkTimeout_idle h ht hno, fun a line hone hd => exec_peerLinkTimeout_one h ht hone hd⟩⟩⟩

end Sys2Proof.Machine
end

section
/-! SUPPORT. Bytes of numbers and of lines (spec/00_scope.md R5; spec/01_device.md R11): what a field of a line reads after it or
another has been written. -/

namespace Sys2Proof.Machine

/-! ## Fields of a number -/

/-- A field taken out of a field. -/
theorem field_of_field (x a : Nat) {b c e : Nat} (h : c + e ≤ b) : x / 2 ^ a % 2 ^ b / 2 ^ c % 2 ^ e = x / 2 ^ (a + c) % 2 ^ e := by
  refine Nat.eq_of_testBit_eq fun i => ?_
  simp only [Nat.testBit_mod_two_pow, Nat.testBit_div_two_pow]
  by_cases hi : i < e
  · rw [decide_eq_true (show i + c < b by omega), Bool.true_and, show i + c + a = i + (a + c) by omega]
  · rw [decide_eq_false hi, Bool.false_and, Bool.false_and]

/-- A number is what lies above a field, the field, and what lies below it. -/
theorem eq_around_field (x a b : Nat) : x = x / 2 ^ (a + b) * 2 ^ (a + b) + x / 2 ^ a % 2 ^ b * 2 ^ a + x % 2 ^ a := by
  have hlow := Nat.div_add_mod x (2 ^ a)
  have hmid := Nat.div_add_mod (x / 2 ^ a) (2 ^ b)
  rw [Nat.div_div_eq_div_mul, ← pow_add] at hmid
  calc x = 2 ^ a * (2 ^ b * (x / 2 ^ (a + b)) + x / 2 ^ a % 2 ^ b) + x % 2 ^ a := by rw [hmid, hlow]
    _ = _ := by ring

/-- What lies below a field, the field, and what lies above it, of a number put together from them. -/
theorem parts_around_field {h m l a b : Nat} (hm : m < 2 ^ b) (hl : l < 2 ^ a) :
    (h * 2 ^ (a + b) + m * 2 ^ a + l) % 2 ^ a = l ∧ (h * 2 ^ (a + b) + m * 2 ^ a + l) / 2 ^ a % 2 ^ b = m ∧
      (h * 2 ^ (a + b) + m * 2 ^ a + l) / 2 ^ (a + b) = h := by
  have hsum : h * 2 ^ (a + b) + m * 2 ^ a + l = l + 2 ^ a * (m + 2 ^ b * h) := by ring
  have hup : (h * 2 ^ (a + b) + m * 2 ^ a + l) / 2 ^ a = m + 2 ^ b * h := by
    rw [hsum, Nat.add_mul_div_left _ _ (by positivity), Nat.div_eq_of_lt hl, Nat.zero_add]
  refine ⟨?_, ?_, ?_⟩
  · rw [hsum, Nat.add_mul_mod_self_left, Nat.mod_eq_of_lt hl]
  · rw [hup, Nat.add_mul_mod_self_left, Nat.mod_eq_of_lt hm]
  · rw [pow_add, ← Nat.div_div_eq_div_mul, ← pow_add, hup, Nat.add_mul_div_left _ _ (by positivity), Nat.div_eq_of_lt hm,
      Nat.zero_add]

/-- A number of `w` bits keeps to them when a field of it is replaced. -/
theorem replaced_field_lt {x m a b w : Nat} (hx : x < 2 ^ w) (hw : a + b ≤ w) (hm : m < 2 ^ b) :
    x / 2 ^ (a + b) * 2 ^ (a + b) + m * 2 ^ a + x % 2 ^ a < 2 ^ w := by
  have hsplit : 2 ^ w = 2 ^ (a + b) * 2 ^ (w - (a + b)) := by rw [← pow_add, Nat.add_sub_cancel' hw]
  have hup : x / 2 ^ (a + b) + 1 ≤ 2 ^ (w - (a + b)) := Nat.div_lt_of_lt_mul (hsplit ▸ hx)
  have hlow : x % 2 ^ a < 2 ^ a := Nat.mod_lt _ (by positivity)
  have hfield : m * 2 ^ a + 2 ^ a ≤ 2 ^ (a + b) :=
    calc m * 2 ^ a + 2 ^ a = 2 ^ a * (m + 1) := by ring
      _ ≤ 2 ^ a * 2 ^ b := Nat.mul_le_mul_left _ hm
      _ = 2 ^ (a + b) := (pow_add 2 a b).symm
  calc _ < x / 2 ^ (a + b) * 2 ^ (a + b) + 2 ^ (a + b) := by omega
    _ = 2 ^ (a + b) * (x / 2 ^ (a + b) + 1) := by ring
    _ ≤ 2 ^ w := hsplit ▸ Nat.mul_le_mul_left _ hup

theorem toNat_replaced_field {w : Nat} (d : BitVec w) (x : Nat) {a b : Nat} (hw : a + b ≤ w) :
    (BitVec.ofNat w (d.toNat - d.toNat / 2 ^ a % 2 ^ b * 2 ^ a + x % 2 ^ b * 2 ^ a)).toNat =
      d.toNat / 2 ^ (a + b) * 2 ^ (a + b) + x % 2 ^ b * 2 ^ a + d.toNat % 2 ^ a := by
  have hd := eq_around_field d.toNat a b
  have hfit := replaced_field_lt (a := a) d.isLt hw (Nat.mod_lt x (Nat.two_pow_pos b))
  rw [BitVec.toNat_ofNat, ← Nat.mod_eq_of_lt hfit]
  congr 1
  omega

/-! ## Bytes -/

@[simp] theorem length_toBytes (n x : Nat) : (toBytes n x).length = n := by
  induction n generalizing x with
  | zero => rfl
  | succ n ih => rw [toBytes, List.length_cons, ih]

theorem getElem_toBytes (n x i : Nat) (h : i < (toBytes n x).length) : (toBytes n x)[i] = BitVec.ofNat 8 (x / 2 ^ (8 * i)) := by
  induction n generalizing x i with
  | zero => simp at h
  | succ n ih =>
    cases i with
    | zero => simp [toBytes]
    | succ i =>
      simp only [toBytes, List.getElem_cons_succ]
      rw [ih, Nat.div_div_eq_div_mul, show 8 * (i + 1) = 8 + 8 * i by ring, pow_add, show (2 : Nat) ^ 8 = 256 from rfl]

theorem toBytes_eq_map (n x : Nat) : toBytes n x = (List.range n).map fun i => BitVec.ofNat 8 (x / 2 ^ (8 * i)) :=
  List.ext_getElem (by simp) fun i h _ => by rw [getElem_toBytes, List.getElem_map, List.getElem_range]

theorem ofBytes_toBytes (n x : Nat) : ofBytes (toBytes n x) = x % 2 ^ (8 * n) := by
  induction n generalizing x with
  | zero => simp [toBytes, ofBytes, Nat.mod_one]
  | succ n ih =>
    rw [toBytes, ofBytes, ih, BitVec.toNat_ofNat, show 8 * (n + 1) = 8 + 8 * n by ring, pow_add, Nat.mod_mul,
      show (2 : Nat) ^ 8 = 256 from rfl]

theorem ofNat_ofBytes_div (bs : List Byte) (i : Nat) : BitVec.ofNat 8 (ofBytes bs / 2 ^ (8 * i)) = bs[i]?.getD 0 := by
  induction bs generalizing i with
  | nil => simp [ofBytes]
  | cons b bs ih =>
    cases i with
    | zero =>
      refine BitVec.eq_of_toNat_eq ?_
      simp [ofBytes, Nat.add_mul_mod_self_left, Nat.mod_eq_of_lt b.isLt]
    | succ i =>
      rw [List.getElem?_cons_succ, ← ih, ofBytes, show 8 * (i + 1) = 8 + 8 * i by ring, pow_add, ← Nat.div_div_eq_div_mul,
        show (2 : Nat) ^ 8 = 256 from rfl, Nat.add_mul_div_left _ _ (by decide), Nat.div_eq_of_lt b.isLt, Nat.zero_add]

/-! ## Lines -/

theorem linePut_toNat (d : LineData) (x : Nat) {off n : Nat} (h : off + n ≤ 128) : (linePut d off n x).toNat =
    d.toNat / 2 ^ (8 * off + 8 * n) * 2 ^ (8 * off + 8 * n) + x % 2 ^ (8 * n) * 2 ^ (8 * off) + d.toNat % 2 ^ (8 * off) :=
  toNat_replaced_field d x (by omega)

theorem lineGet_linePut_same (d : LineData) (x : Nat) {off n : Nat} (h : off + n ≤ 128) :
    lineGet (linePut d off n x) off n = x % 2 ^ (8 * n) := by
  unfold lineGet
  rw [linePut_toNat d x h]
  exact (parts_around_field (Nat.mod_lt _ (by positivity)) (Nat.mod_lt _ (by positivity))).2.1

theorem lineGet_linePut_other (d : LineData) (x : Nat) {off n j m : Nat} (h : off + n ≤ 128) (hj : j + m ≤ off ∨ off + n ≤ j) :
    lineGet (linePut d off n x) j m = lineGet d j m := by
  obtain ⟨hlow, -, hup⟩ := parts_around_field (h := d.toNat / 2 ^ (8 * off + 8 * n)) (a := 8 * off) (b := 8 * n)
    (Nat.mod_lt x (by positivity)) (Nat.mod_lt d.toNat (by positivity))
  rw [← linePut_toNat d x h] at hlow hup
  unfold lineGet
  obtain hj | hj := hj
  · have hbelow (y : Nat) : y / 2 ^ (8 * j) % 2 ^ (8 * m) = y % 2 ^ (8 * off) / 2 ^ (8 * j) % 2 ^ (8 * m) := by
      have := field_of_field y 0 (b := 8 * off) (c := 8 * j) (e := 8 * m) (by omega)
      rw [pow_zero, Nat.div_one, Nat.zero_add] at this
      exact this.symm
    rw [hbelow, hlow, ← hbelow]
  · have habove (y : Nat) : y / 2 ^ (8 * j) = y / 2 ^ (8 * off + 8 * n) / 2 ^ (8 * j - (8 * off + 8 * n)) := by
      rw [Nat.div_div_eq_div_mul, ← pow_add]
      congr 2
      omega
    rw [habove, hup, ← habove]

end Sys2Proof.Machine
end

section
/-! SUPPORT. Coherent memory byte by byte: what its home's memory and its newest copies hold after a write of a line, and what a
range reads after a range has been written (spec/08_ordering.md R174; spec/09_coherence.md R191, R196). -/

namespace Sys2Proof.Machine

/-! ## Memory -/

theorem lineByte_eq (d : LineData) (i : Nat) : lineByte d i = BitVec.ofNat 8 (d.toNat / 2 ^ (8 * i)) := by
  refine BitVec.eq_of_toNat_eq ?_
  simp [lineByte, Nat.shiftRight_eq_div_pow]

theorem ofNat_lineGet (d : LineData) (off : Nat) {i n : Nat} (h : i < n) :
    BitVec.ofNat 8 (lineGet d off n / 2 ^ (8 * i)) = lineByte d (off + i) := by
  refine BitVec.eq_of_toNat_eq ?_
  rw [lineByte_eq, BitVec.toNat_ofNat, BitVec.toNat_ofNat, lineGet, field_of_field _ _ (by omega), Nat.mul_add]

theorem lineByte_linePut (d : LineData) (x : Nat) {off n : Nat} (h : off + n ≤ 128) (j : Nat) : lineByte (linePut d off n x) j =
    if off ≤ j ∧ j < off + n then BitVec.ofNat 8 (x / 2 ^ (8 * (j - off))) else lineByte d j := by
  by_cases hj : off ≤ j ∧ j < off + n
  · rw [if_pos hj]
    obtain ⟨i, rfl⟩ := Nat.exists_eq_add_of_le hj.1
    have hi : i < n := by omega
    have hfield := field_of_field x 0 (show 8 * i + 8 ≤ 8 * n by omega)
    rw [pow_zero, Nat.div_one, Nat.zero_add] at hfield
    rw [← ofNat_lineGet _ _ hi, lineGet_linePut_same d x h, Nat.add_sub_cancel_left]
    refine BitVec.eq_of_toNat_eq ?_
    rw [BitVec.toNat_ofNat, BitVec.toNat_ofNat, hfield]
  · rw [if_neg hj, ← Nat.add_zero j, ← ofNat_lineGet _ _ Nat.one_pos, ← ofNat_lineGet _ _ Nat.one_pos,
      lineGet_linePut_other d x h (by omega)]

theorem Memory.readN_eq_map (m : Memory) (a n : Nat) : m.readN a n = (List.range n).map fun i => m.read (a + i) := by
  induction n generalizing a with
  | zero => rfl
  | succ n ih =>
    rw [Memory.readN, ih, List.range_succ_eq_map, List.map_cons, List.map_map]
    refine congrArg _ (List.map_congr_left fun i _ => ?_)
    rw [Function.comp, Nat.add_assoc, Nat.add_comm 1]

theorem writeMasked_read (m : Memory) (a : Nat) (d : LineData) (mask : BitVec 128) (x : Nat) :
    (writeMasked m a d mask).read x =
      if a ≤ x ∧ x < a + 128 ∧ mask.getLsbD (x - a) = true then lineByte d (x - a) else m.read x := by
  have upTo (n : Nat) : Memory.read ((List.range n).foldl (fun m i => if mask.getLsbD i then m.write (a + i) (lineByte d i) else m) m) x
      = if a ≤ x ∧ x < a + n ∧ mask.getLsbD (x - a) = true then lineByte d (x - a) else m.read x := by
    induction n with
    | zero => rw [List.range_zero, List.foldl_nil, if_neg (by omega)]
    | succ n ih =>
      rw [List.range_succ, List.foldl_append, List.foldl_cons, List.foldl_nil]
      by_cases hx : x = a + n
      · subst hx
        rw [if_neg (by omega)] at ih
        by_cases hm : mask.getLsbD n = true
        · rw [if_pos hm, Memory.read_write, if_pos rfl, Nat.add_sub_cancel_left, if_pos ⟨by omega, by omega, hm⟩]
        · rw [if_neg hm, ih, Nat.add_sub_cancel_left, if_neg (fun h => hm h.2.2)]
      · have hsame : (a ≤ x ∧ x < a + (n + 1) ∧ mask.getLsbD (x - a) = true) ↔ (a ≤ x ∧ x < a + n ∧ mask.getLsbD (x - a) = true) :=
          ⟨fun ⟨hl, hu, hm⟩ => ⟨hl, by omega, hm⟩, fun ⟨hl, hu, hm⟩ => ⟨hl, by omega, hm⟩⟩
        rw [if_congr hsame rfl rfl, ← ih]
        split_ifs
        · rw [Memory.read_write, if_neg (by omega)]
        · rfl
  exact upTo 128

theorem lineOfBytes_lineByte (d : LineData) : lineOfBytes ((List.range 128).map (lineByte d)) = d := by
  have hbytes : (List.range 128).map (lineByte d) = toBytes 128 d.toNat := by
    rw [toBytes_eq_map]
    exact List.map_congr_left fun i _ => lineByte_eq d i
  have hwhole {w : Nat} (x : BitVec w) : BitVec.ofNat w (x.toNat % 2 ^ w) = x := by simp
  rw [lineOfBytes, hbytes, ofBytes_toBytes]
  exact hwhole (w := 8 * 128) d

/-! ## A line's home (R196) -/

theorem State.homeRead_homeWrite_same (s : State) {pl : Nat} (d : LineData) (h : pl < 2 ^ 45) :
    (s.homeWrite pl d fullMask).homeRead pl = d := by
  have hread (m : Memory) (a : Nat) : (writeMasked m a d fullMask).readN a 128 = (List.range 128).map (lineByte d) := by
    rw [Memory.readN_eq_map]
    refine List.map_congr_left fun i hi => ?_
    have hi := List.mem_range.1 hi
    rw [writeMasked_read, Nat.add_sub_cancel_left, if_pos ⟨by omega, by omega, by rw [fullMask, BitVec.getLsbD_allOnes, decide_eq_true hi]⟩]
  unfold State.homeRead State.homeWrite
  by_cases hd : pl < 2 ^ 44
  · rw [if_pos hd, if_pos hd, hread, lineOfBytes_lineByte]
  · rw [if_neg hd, if_pos h, if_neg hd, if_pos h, hread, lineOfBytes_lineByte]

theorem State.homeRead_homeWrite_other (s : State) {pl k : Nat} (d : LineData) (h : pl < 2 ^ 45) (hk : k < 2 ^ 45) (hne : k ≠ pl) :
    (s.homeWrite pl d fullMask).homeRead k = s.homeRead k := by
  have hread (m : Memory) {a b : Nat} (hab : b * 128 + 128 ≤ a * 128 ∨ a * 128 + 128 ≤ b * 128) :
      (writeMasked m (a * 128) d fullMask).readN (b * 128) 128 = m.readN (b * 128) 128 := by
    rw [Memory.readN_eq_map, Memory.readN_eq_map]
    refine List.map_congr_left fun i hi => ?_
    have hi := List.mem_range.1 hi
    rw [writeMasked_read, if_neg (by omega)]
  unfold State.homeRead State.homeWrite
  by_cases hd : pl < 2 ^ 44
  · rw [if_pos hd]
    by_cases hkd : k < 2 ^ 44
    · rw [if_pos hkd, if_pos hkd, hread _ (by omega)]
    · rw [if_neg hkd, if_neg hkd, if_pos hk, if_pos hk]
  · rw [if_neg hd, if_pos h]
    by_cases hkd : k < 2 ^ 44
    · rw [if_pos hkd, if_pos hkd]
    · rw [if_neg hkd, if_neg hkd, if_pos hk, if_pos hk, hread _ (by omega)]

/-! ## The newest copy of a line (R174, R191, R205) -/

/-- The copies of a line on dies that hold it dirty. -/
def State.dirtyCopies (s : State) (pl : Nat) : List (Nat × DLine) :=
  (s.dies.map fun d => d.2.lines).flatten.filter fun e => e.2.line == pl && !e.2.swm && (e.2.st == .m || e.2.st == .o)

/-- Messages that bring a line's newest data to its home. -/
def State.dataOnWay (s : State) (pl : Nat) : List Msg :=
  s.msgs.filter fun m => m.line == pl && !m.swm && (m.kind == .ackD || ((m.kind == .wb || m.kind == .wbk) &&
    (s.dirEnt pl).owner == m.agent))

theorem State.lineNow_eq (s : State) (pl : Nat) : s.lineNow pl =
    (((s.dirtyCopies pl).head?.map (·.2.data)).or ((s.dirEnt pl).dirty.or ((s.dataOnWay pl).head?.map (·.data)))).getD
      (s.homeRead pl) := by
  unfold State.lineNow State.dirtyCopies State.dataOnWay
  dsimp only
  split
  · next e l h => rw [h]; rfl
  · next h =>
    rw [h]
    split
    · next d hd => rw [hd]; rfl
    · next hd =>
      rw [hd]
      split
      · next m l hm => rw [hm]; rfl
      · next hm => rw [hm]; rfl

/-- A copy with its data changed, as a change of line `pl` leaves it. -/
def DLine.changed (pl : Nat) (f : LineData → LineData) (e : DLine) : DLine :=
  if e.line == pl && !e.swm then { e with data := f e.data } else e

def Msg.changed (pl : Nat) (f : LineData → LineData) (m : Msg) : Msg :=
  if m.line == pl && !m.swm then { m with data := f m.data } else m

section
variable (s : State) (pl : Nat) (f : LineData → LineData)

/-- A change of a line goes over every copy of it, and finds each line's copies where they were. -/
theorem State.dirtyCopies_mapCopies (k : Nat) :
    (s.mapCopies pl f).dirtyCopies k = (s.dirtyCopies k).map fun e => (e.1, e.2.changed pl f) := by
  have hlines : ((s.mapCopies pl f).dies.map fun d => d.2.lines).flatten =
      ((s.dies.map fun d => d.2.lines).flatten).map fun e => (e.1, e.2.changed pl f) := by
    have hdies : (s.homeWrite pl (f (s.homeRead pl)) fullMask).dies = s.dies := by
      unfold State.homeWrite
      split_ifs <;> rfl
    unfold State.mapCopies Tab.mapVal
    dsimp only
    rw [hdies, List.map_map, List.map_flatten, List.map_map]
    rfl
  unfold State.dirtyCopies
  rw [hlines, List.filter_map]
  congr 2
  funext e
  simp only [Function.comp, DLine.changed]
  split <;> rfl

theorem State.dirEnt_mapCopies (k : Nat) : (s.mapCopies pl f).dirEnt k =
    { s.dirEnt k with dirty := (s.dirEnt k).dirty.map (if k = pl then f else id) } := by
  have hdir : (s.homeWrite pl (f (s.homeRead pl)) fullMask).dir = s.dir := by
    unfold State.homeWrite
    split_ifs <;> rfl
  unfold State.mapCopies State.dirEnt Tab.getD
  dsimp only
  rw [Tab.get?_mapVal, hdir]
  by_cases h : k = pl
  · cases Tab.get? s.dir k <;> simp [h]
  · cases Tab.get? s.dir k <;> simp [h]

theorem State.dataOnWay_mapCopies (k : Nat) : (s.mapCopies pl f).dataOnWay k = (s.dataOnWay k).map fun m => m.changed pl f := by
  have hmsgs : (s.mapCopies pl f).msgs = s.msgs.map fun m => m.changed pl f := by
    have hsame : (s.homeWrite pl (f (s.homeRead pl)) fullMask).msgs = s.msgs := by
      unfold State.homeWrite
      split_ifs <;> rfl
    unfold State.mapCopies
    dsimp only
    rw [hsame]
    rfl
  unfold State.dataOnWay
  rw [hmsgs, List.filter_map, s.dirEnt_mapCopies pl f k]
  congr 2
  funext m
  simp only [Function.comp, Msg.changed]
  split <;> rfl

variable {pl}

theorem State.homeRead_mapCopies {k : Nat} (h : pl < 2 ^ 45) (hk : k < 2 ^ 45) :
    (s.mapCopies pl f).homeRead k = (if k = pl then f else id) (s.homeRead k) := by
  change (s.homeWrite pl (f (s.homeRead pl)) fullMask).homeRead k = _
  by_cases hne : k = pl
  · rw [if_pos hne, hne, s.homeRead_homeWrite_same _ h]
  · rw [if_neg hne, s.homeRead_homeWrite_other _ h hk hne, id]

/-- A line's newest data after a change of a line, whichever copy of it is the newest (R174, R191, R196). -/
theorem State.lineNow_mapCopies {k : Nat} (h : pl < 2 ^ 45) (hk : k < 2 ^ 45) :
    (s.mapCopies pl f).lineNow k = (if k = pl then f else id) (s.lineNow k) := by
  have hcopy : ∀ e ∈ s.dirtyCopies k, (e.2.changed pl f).data = (if k = pl then f else id) e.2.data := fun e he => by
    obtain ⟨-, he⟩ := List.mem_filter.1 he
    simp only [Bool.and_eq_true, beq_iff_eq, Bool.not_eq_true'] at he
    unfold DLine.changed
    rw [he.1.1, he.1.2]
    by_cases hne : k = pl <;> simp [hne]
  have hmsg : ∀ m ∈ s.dataOnWay k, (m.changed pl f).data = (if k = pl then f else id) m.data := fun m hm => by
    obtain ⟨-, hm⟩ := List.mem_filter.1 hm
    simp only [Bool.and_eq_true, beq_iff_eq, Bool.not_eq_true'] at hm
    unfold Msg.changed
    rw [hm.1.1, hm.1.2]
    by_cases hne : k = pl <;> simp [hne]
  rw [State.lineNow_eq, State.lineNow_eq, s.homeRead_mapCopies f h hk, s.dirEnt_mapCopies, s.dirtyCopies_mapCopies,
    s.dataOnWay_mapCopies]
  refine Eq.trans ?_ (Option.getD_map _ _ _)
  rw [Option.map_or, Option.map_or]
  simp only [← List.head?_map, List.map_map, Function.comp_def]
  rw [List.map_congr_left hcopy, List.map_congr_left hmsg]

end

/-! ## Ranges of bytes -/

/-- A byte of coherent memory, of the newest copy of its line. -/
def State.byteNow (s : State) (q : Nat) : Byte := lineByte (s.lineNow (q / 128)) (q % 128)

theorem State.cohRead_zero (s : State) (fuel pa : Nat) : s.cohRead fuel pa 0 = [] := by
  cases fuel <;> simp [State.cohRead]

theorem State.cohRead_eq_map (s : State) {fuel pa n : Nat} (h : pa % 128 + n ≤ 128 * fuel) :
    s.cohRead fuel pa n = (List.range n).map fun i => s.byteNow (pa + i) := by
  induction fuel generalizing pa n with
  | zero => rw [show n = 0 by omega]; rfl
  | succ fuel ih =>
    by_cases hn : n = 0
    · rw [hn]; rfl
    · unfold State.cohRead
      rw [if_neg hn]
      dsimp only
      have hfit : min n (128 - pa % 128) ≤ 128 - pa % 128 := Nat.min_le_right _ _
      have hall : n = min n (128 - pa % 128) + (n - min n (128 - pa % 128)) := by omega
      have hnext : n - min n (128 - pa % 128) = 0 ∨ (pa + min n (128 - pa % 128)) % 128 + (n - min n (128 - pa % 128)) ≤ 128 * fuel := by
        omega
      generalize min n (128 - pa % 128) = m at *
      have hline : toBytes m (lineGet (s.lineNow (pa / 128)) (pa % 128) m) = (List.range m).map fun i => s.byteNow (pa + i) := by
        rw [toBytes_eq_map]
        refine List.map_congr_left fun i hi => ?_
        have hi := List.mem_range.1 hi
        rw [ofNat_lineGet _ _ hi, State.byteNow, show (pa + i) / 128 = pa / 128 by omega, show (pa + i) % 128 = pa % 128 + i by omega]
      have hrest : s.cohRead fuel (pa + m) (n - m) = (List.range (n - m)).map fun i => s.byteNow (pa + m + i) := by
        obtain hnext | hnext := hnext
        · rw [hnext, s.cohRead_zero]; rfl
        · exact ih hnext
      rw [hline, hrest]
      conv_rhs => rw [hall, List.range_add, List.map_append, List.map_map]
      simp only [Function.comp_def, Nat.add_assoc]

theorem State.physRead_eq_map (s : State) (pa n : Nat) : s.physRead pa n = (List.range n).map fun i => s.byteNow (pa + i) :=
  s.cohRead_eq_map (by omega)

theorem State.byteNow_mapCopies (s : State) {pl q off n : Nat} (x : Nat) (hpl : pl < 2 ^ 45) (hq : q < 2 ^ 52) (h : off + n ≤ 128) :
    (s.mapCopies pl fun d => linePut d off n x).byteNow q = if pl * 128 + off ≤ q ∧ q < pl * 128 + off + n
      then BitVec.ofNat 8 (x / 2 ^ (8 * (q - (pl * 128 + off)))) else s.byteNow q := by
  unfold State.byteNow
  rw [s.lineNow_mapCopies _ hpl (show q / 128 < 2 ^ 45 by omega)]
  by_cases hline : q / 128 = pl
  · rw [if_pos hline, lineByte_linePut _ _ h]
    have hin : (off ≤ q % 128 ∧ q % 128 < off + n) ↔ (pl * 128 + off ≤ q ∧ q < pl * 128 + off + n) := by omega
    rw [if_congr hin rfl rfl, show q % 128 - off = q - (pl * 128 + off) by omega]
  · rw [if_neg hline, if_neg (by omega), id]

theorem State.byteNow_cohWrite (s : State) {fuel pa q : Nat} {bs : List Byte} (h : bs = [] ∨ pa % 128 + bs.length ≤ 128 * fuel)
    (hpa : pa + bs.length ≤ 2 ^ 52) (hq : q < 2 ^ 52) :
    (s.cohWrite fuel pa bs).byteNow q = if pa ≤ q ∧ q < pa + bs.length then bs[q - pa]?.getD 0 else s.byteNow q := by
  induction fuel generalizing s pa bs with
  | zero =>
    obtain rfl : bs = [] := h.elim id fun h => List.length_eq_zero_iff.1 (by omega)
    rw [if_neg (by simp)]
    rfl
  | succ fuel ih =>
    unfold State.cohWrite
    by_cases hbs : bs = []
    · rw [if_pos (List.isEmpty_iff.2 hbs), if_neg (by simp [hbs])]
    · rw [if_neg (by simpa using hbs)]
      dsimp only
      have hlen : bs.length ≠ 0 := mt List.length_eq_zero_iff.1 hbs
      have hfuel := h.resolve_left hbs
      have hfit : min bs.length (128 - pa % 128) ≤ 128 - pa % 128 := Nat.min_le_right _ _
      have hall : min bs.length (128 - pa % 128) ≤ bs.length := Nat.min_le_left _ _
      have hnext : min bs.length (128 - pa % 128) = bs.length ∨
          (pa + min bs.length (128 - pa % 128)) % 128 + (bs.length - min bs.length (128 - pa % 128)) ≤ 128 * fuel := by
        omega
      generalize min bs.length (128 - pa % 128) = m at *
      rw [ih _ (hnext.imp (fun hm => by rw [hm, List.drop_length]) fun hm => by rwa [List.length_drop])
        (by rw [List.length_drop]; omega), s.byteNow_mapCopies _ (by omega) hq (by omega), List.length_drop,
        show pa / 128 * 128 + pa % 128 = pa by omega]
      by_cases hlate : pa + m ≤ q ∧ q < pa + m + (bs.length - m)
      · rw [if_pos hlate, if_pos (by omega), List.getElem?_drop, show m + (q - (pa + m)) = q - pa by omega]
      · rw [if_neg hlate]
        by_cases hhere : pa ≤ q ∧ q < pa + m
        · rw [if_pos hhere, if_pos (by omega), ofNat_ofBytes_div, List.getElem?_take_of_lt (by omega)]
        · rw [if_neg hhere, if_neg (by omega)]

/-- A range written reads as it was written, and no other byte changes (R174). -/
theorem State.physRead_physWrite (s : State) {pa : Nat} {bs : List Byte} (h : pa + bs.length ≤ 2 ^ 52) :
    (s.physWrite pa bs).physRead pa bs.length = bs ∧
      ∀ q, q < 2 ^ 52 → (q < pa ∨ pa + bs.length ≤ q) → (s.physWrite pa bs).physRead q 1 = s.physRead q 1 := by
  have hbyte {q : Nat} (hq : q < 2 ^ 52) := s.byteNow_cohWrite (fuel := bs.length / 128 + 2) (.inr (by omega)) h hq
  refine ⟨?_, fun q hq hout => ?_⟩
  · rw [State.physRead_eq_map]
    refine List.ext_getElem (by simp) fun i hi hb => ?_
    rw [List.getElem_map, List.getElem_range, State.physWrite, hbyte (by omega), if_pos (by omega), Nat.add_sub_cancel_left,
      List.getElem?_eq_getElem hb, Option.getD_some]
  · rw [State.physRead_eq_map, State.physRead_eq_map]
    refine List.map_congr_left fun i hi => ?_
    obtain rfl : i = 0 := by simpa using hi
    rw [Nat.add_zero, State.physWrite, hbyte hq, if_neg (by omega)]

end Sys2Proof.Machine
end

section
/-! SUPPORT. An access performed on a line, and the bytes that come back to its instruction (spec/08_ordering.md R184, R185;
spec/16_ref_bany_dloop.md R393; spec/18_ref_trap_vmul.md R419, R421). -/

namespace Sys2Proof.Machine

/-! ## One piece on a line -/

theorem ReqOp.update_of_not_writes {o : ReqOp} (h : o.writes = false) (n old : Nat) (p : Piece) : o.update n old p = none := by
  cases o with
  | store | atomic | cas | commit => cases h
  | _ => rfl

section
variable (a : LineAcc) (r : Req) (pt : Point) (p : Piece)

/-- Whether a piece is a duplicate, which only answers (R290). -/
def LineAcc.repeats : Bool := r.op.writes && a.s.isDup r.ctx r.tag p.id

/-- What a piece's operation is made on: what its bytes hold, or what the read of an atomic's commit has found. -/
def LineAcc.before : Nat := if r.op = .commit then p.cmp.toNat else lineGet a.data (p.va % 128) p.n

/-- The state with a piece recorded at its point and credited to its instruction. -/
def LineAcc.credited : State :=
  (if r.op.writes then a.s.record pt r.ctx r.tag r.low p.id (if r.op.isAtomic then some (BitVec.ofNat 512 (a.before r p)) else none)
    else a.s).credit r.ctx r.ent p.id p.lane (if r.op.reads then p.got (a.before r p) else [])

variable {a r p}

theorem LineAcc.piece_repeats (h : a.repeats r p = true) : (a.piece r pt p).data = a.data := by
  unfold LineAcc.piece
  rw [if_pos (show (r.op.writes && a.s.isDup r.ctx r.tag p.id) = true from h)]

theorem LineAcc.piece_writes {x : Nat} (h : a.repeats r p = false) (hx : r.op.update p.n (a.before r p) p = some x) :
    a.piece r pt p = { s := a.credited r pt p, data := linePut a.data (p.va % 128) p.n x
                       mask := a.mask ||| byteMask (p.va % 128) p.n, wrote := true } := by
  unfold LineAcc.before at hx
  unfold LineAcc.piece
  rw [if_neg (show ¬ (r.op.writes && a.s.isDup r.ctx r.tag p.id) = true from ne_true_of_eq_false h)]
  dsimp only
  rw [hx]
  rfl

theorem LineAcc.piece_reads (h : a.repeats r p = false) (hx : r.op.update p.n (a.before r p) p = none) :
    a.piece r pt p = { a with s := a.credited r pt p } := by
  unfold LineAcc.before at hx
  unfold LineAcc.piece
  rw [if_neg (show ¬ (r.op.writes && a.s.isDup r.ctx r.tag p.id) = true from ne_true_of_eq_false h)]
  dsimp only
  rw [hx]
  rfl

/-- A piece writes its bytes or nothing. -/
theorem LineAcc.piece_data : (a.piece r pt p).data = a.data ∨
    ∃ x, (a.piece r pt p).data = linePut a.data (p.va % 128) p.n x := by
  cases h : a.repeats r p with
  | true => exact .inl (LineAcc.piece_repeats pt h)
  | false =>
    cases hx : r.op.update p.n (a.before r p) p with
    | none => exact .inl (by rw [LineAcc.piece_reads pt h hx])
    | some x => exact .inr ⟨x, by rw [LineAcc.piece_writes pt h hx]⟩

theorem LineAcc.piece_dup (h : a.s.isDup r.ctx r.tag p.id = true) : (a.piece r pt p).data = a.data := by
  cases hw : r.op.writes with
  | true => exact LineAcc.piece_repeats pt (by rw [LineAcc.repeats, hw, h]; rfl)
  | false => rw [LineAcc.piece_reads pt (by rw [LineAcc.repeats, hw]; rfl) (ReqOp.update_of_not_writes hw _ _ _)]

theorem LineAcc.piece_load (h : r.op = .load) : (a.piece r pt p).data = a.data ∧
    (a.piece r pt p).s = a.s.credit r.ctx r.ent p.id p.lane (p.got (lineGet a.data (p.va % 128) p.n)) := by
  have hpiece := LineAcc.piece_reads (a := a) (r := r) (p := p) pt (by rw [LineAcc.repeats, h]; rfl) (by rw [h]; rfl)
  rw [hpiece]
  refine ⟨rfl, ?_⟩
  simp [LineAcc.credited, LineAcc.before, h, ReqOp.writes, ReqOp.isAtomic, ReqOp.reads]

variable (hfit : p.va % 128 + p.n ≤ 128) (hd : a.s.isDup r.ctx r.tag p.id = false)
include hfit hd

theorem LineAcc.piece_store (h : r.op = .store) :
    lineGet (a.piece r pt p).data (p.va % 128) p.n = p.data.toNat % 2 ^ (8 * p.n) ∧ (a.piece r pt p).wrote = true := by
  rw [LineAcc.piece_writes pt (x := p.data.toNat % 2 ^ (8 * p.n)) (by rw [LineAcc.repeats, hd, Bool.and_false]) (by rw [h]; rfl)]
  exact ⟨by rw [lineGet_linePut_same _ _ hfit, Nat.mod_mod], rfl⟩

theorem LineAcc.piece_atomic {op : Nat} (h : r.op = .atomic op) :
    let old := lineGet a.data (p.va % 128) p.n
    lineGet (a.piece r pt p).data (p.va % 128) p.n = aop op p.n old (p.data.toNat % 2 ^ (8 * p.n)) % 2 ^ (8 * p.n) ∧
      (a.piece r pt p).s = (a.s.record pt r.ctx r.tag r.low p.id (some (BitVec.ofNat 512 old))).credit r.ctx r.ent p.id p.lane
        (p.got old) := by
  intro old
  have hold : a.before r p = old := by rw [LineAcc.before, if_neg (by rw [h]; exact ReqOp.noConfusion)]
  rw [LineAcc.piece_writes pt (x := aop op p.n old (p.data.toNat % 2 ^ (8 * p.n))) (by rw [LineAcc.repeats, hd, Bool.and_false])
    (by rw [h, hold]; rfl)]
  refine ⟨lineGet_linePut_same _ _ hfit, ?_⟩
  simp [LineAcc.credited, hold, h, ReqOp.writes, ReqOp.isAtomic, ReqOp.reads]

theorem LineAcc.piece_cas (h : r.op = .cas) :
    let old := lineGet a.data (p.va % 128) p.n
    lineGet (a.piece r pt p).data (p.va % 128) p.n =
      if old = p.cmp.toNat % 2 ^ (8 * p.n) then p.data.toNat % 2 ^ (8 * p.n) else old := by
  intro old
  have hold : a.before r p = old := by rw [LineAcc.before, if_neg (by rw [h]; exact ReqOp.noConfusion)]
  have hfresh : a.repeats r p = false := by rw [LineAcc.repeats, hd, Bool.and_false]
  by_cases heq : old = p.cmp.toNat % 2 ^ (8 * p.n)
  · rw [if_pos heq, LineAcc.piece_writes pt (x := p.data.toNat % 2 ^ (8 * p.n)) hfresh (by rw [h, hold]; exact if_pos heq),
      lineGet_linePut_same _ _ hfit, Nat.mod_mod]
  · rw [if_neg heq, LineAcc.piece_reads pt hfresh (by rw [h, hold]; exact if_neg heq)]
end

/-! ## The bytes of a lane -/

theorem Piece.got_eq_map (p : Piece) (x : Nat) :
    p.got x = (List.range p.n).map fun i => (p.lane * 64 + p.off + i, BitVec.ofNat 8 (x / 2 ^ (8 * i))) := by
  refine List.ext_getElem (by simp [Piece.got]) fun i h _ => ?_
  simp [Piece.got, getElem_toBytes]

theorem laneValue_got {p : Piece} {x : Nat} (hoff : p.off = 0) (hx : x < 2 ^ (8 * p.n)) : laneValue (p.got x) p.lane p.n = some x := by
  have hfind : ∀ i ∈ List.range p.n, ((p.got x).find? fun e => e.1 == p.lane * 64 + i).map (·.2) =
      some (BitVec.ofNat 8 (x / 2 ^ (8 * i))) := fun i hi => by
    have hplace : (List.range p.n).find? (fun k => p.lane * 64 + k == p.lane * 64 + i) = some i :=
      List.find?_range_eq_some.2 ⟨beq_self_eq_true _, hi, fun j hj => by simp; omega⟩
    rw [Piece.got_eq_map, hoff, List.find?_map]
    simp only [Function.comp_def, Nat.add_zero, hplace, Option.map_some]
  unfold laneValue
  rw [List.map_congr_left hfind, if_pos (by simp)]
  simp only [List.map_map, Function.comp_def, Option.getD_some]
  rw [← toBytes_eq_map, ofBytes_toBytes, Nat.mod_eq_of_lt hx]

/-! ## Values for outstanding cells (R293) -/

theorem Team.mem_answer_other {t : Team} {u : Nat} {c : Cell} {x : Nat} {r : Result} (hr : r ∈ t.pend)
    (h : r.cell ≠ c ∨ r.val.isNone = false) : r ∈ (t.answer u c x).pend :=
  List.mem_map.2 ⟨r, hr, if_neg fun ⟨_, hc, hv⟩ => h.elim (· hc) fun hn => absurd hv (ne_true_of_eq_false hn)⟩

theorem Team.mem_answers_valued {u : Nat} (l : List (Cell × Nat)) {t : Team} {r : Result} (hr : r ∈ t.pend)
    (h : r.val.isNone = false) : r ∈ (l.foldl (fun t c => t.answer u c.1 c.2) t).pend := by
  induction l generalizing t with
  | nil => exact hr
  | cons d l ih => exact ih (Team.mem_answer_other hr (.inr h))

/-- A result without a value takes the one value that is answered for its cell. -/
theorem Team.mem_answers {u : Nat} {c : Cell} {v : Nat} {l : List (Cell × Nat)} (hm : (c, v) ∈ l) (hone : ∀ w, (c, w) ∈ l → w = v)
    {t : Team} {r : Result} (hr : r ∈ t.pend) (hu : r.uid = u) (hc : r.cell = c) (hv : r.val = none) :
    { r with val := some (BitVec.ofNat 1024 v) } ∈ (l.foldl (fun t c => t.answer u c.1 c.2) t).pend := by
  induction l generalizing t with
  | nil => cases hm
  | cons d l ih =>
    by_cases hd : d.1 = c
    · obtain rfl : d.2 = v := hone d.2 (hd ▸ List.mem_cons_self)
      exact Team.mem_answers_valued l (List.mem_map.2 ⟨r, hr, if_pos ⟨hu, hc.trans hd.symm, by rw [hv]; rfl⟩⟩) rfl
    · have hlater : (c, v) ∈ l := (List.mem_cons.1 hm).resolve_left fun he => hd (by rw [← he])
      exact ih hlater (fun w hw => hone w (List.mem_cons_of_mem _ hw)) (Team.mem_answer_other hr (.inl fun he => hd (he.symm.trans hc)))

/-! ## A lane's value goes to the cells of its instruction (R393, R419, R421) -/

/-- With the last bytes of a lane, the cells that the instruction owes for it take their values. -/
theorem Team.mem_credit {t : Team} {e : Entry} {id lane x : Nat} {got : List (Nat × Byte)} (hs : t.sched ≠ .frozen)
    (hf : t.inflight.find? (fun y => y.uid == e.uid) = some e) (hid : id ∉ e.perf) (hgot : got ≠ [])
    (hx : laneValue (e.got ++ got) lane (accessBytes (decode e.word)) = some x) {c : Cell} {v : Nat}
    (hm : (c, v) ∈ loadCells (decode e.word) lane x) (hone : ∀ w, (c, w) ∈ loadCells (decode e.word) lane x → w = v) {r : Result}
    (hr : r ∈ t.pend) (hu : r.uid = e.resUid) (hc : r.cell = c) (hv : r.val = none) :
    { r with val := some (BitVec.ofNat 1024 v) } ∈ (t.credit e.uid id lane got).pend := by
  unfold Team.credit
  rw [hf]
  dsimp only
  rw [if_neg (by simp [hid, hs]), if_neg (mt And.left hs), if_neg (by simpa using hgot)]
  dsimp only
  rw [hx]
  exact Team.mem_answers hm hone hr hu hc hv

theorem mem_vCells_narrow {r l n x : Nat} (sx : Bool) (hn : n < 4) :
    (Cell.v r l, if sx = true then wrapN 32 (signed (8 * n) x) else x) ∈ vCells r l n sx x ∧
      ∀ w, (Cell.v r l, w) ∈ vCells r l n sx x → w = if sx = true then wrapN 32 (signed (8 * n) x) else x := by
  unfold vCells
  rw [if_pos hn]
  exact ⟨List.mem_cons_self, fun w hw => (Prod.mk.inj (List.mem_singleton.1 hw)).2⟩

theorem mem_vCells_word {r l n k x : Nat} (sx : Bool) (hk : k < n / 4) :
    (Cell.v (r + k) l, x / 2 ^ (32 * k) % 2 ^ 32) ∈ vCells r l n sx x ∧
      ∀ w, (Cell.v (r + k) l, w) ∈ vCells r l n sx x → w = x / 2 ^ (32 * k) % 2 ^ 32 := by
  unfold vCells
  rw [if_neg (by omega)]
  refine ⟨List.mem_map.2 ⟨k, List.mem_range.2 hk, rfl⟩, fun w hw => ?_⟩
  obtain ⟨j, -, hj⟩ := List.mem_map.1 hw
  simp only [Prod.mk.injEq, Cell.v.injEq] at hj
  obtain rfl : j = k := by omega
  exact hj.2.symm

end Sys2Proof.Machine
end

section
/-! PROOF of O20. -/
namespace Sys2Proof.Machine

/-- Settles O20: a write changes every copy of a line alike, so the newest copy reads as written; a performed piece replaces its
own bytes of the line alone; and a lane's value is answered once for each of its cells. -/
theorem coherentReadAfterWrite : Obligations.CoherentReadAfterWrite := by
  unfold Obligations.CoherentReadAfterWrite
  refine ⟨fun s pa bs h => s.physRead_physWrite h, ?piece, fun p x hoff _ hx => laneValue_got hoff hx, ?credit⟩
  case piece =>
    intro a r pt p hfit off old u x
    refine ⟨fun q hq hout => ?_, LineAcc.piece_load pt, LineAcc.piece_dup pt, fun hd => ⟨LineAcc.piece_store pt hfit hd,
      fun op => LineAcc.piece_atomic pt hfit hd, LineAcc.piece_cas pt hfit hd⟩⟩
    obtain hsame | ⟨y, hput⟩ := LineAcc.piece_data (a := a) (r := r) (p := p) pt
    · rw [hsame]
    · rw [hput, lineGet_linePut_other _ _ hfit (by omega)]
  case credit =>
    intro t e id lane x got hs hf hid hgot hx gets
    have gives {c : Cell} {v : Nat} (hm : (c, v) ∈ loadCells (decode e.word) lane x ∧
        ∀ w, (c, w) ∈ loadCells (decode e.word) lane x → w = v) : gets c v := fun r hr hu hc hv =>
      Team.mem_credit hs hf hid hgot hx hm.1 hm.2 hr hu hc hv
    refine ⟨fun f hi => ?vld, fun f hi k hk => gives ?_, fun f hi => gives ?_⟩
    case vld =>
      intro n
      refine ⟨fun hn => gives ?_, fun k hk => gives ?_⟩
      · rw [hi]
        exact mem_vCells_narrow f.sx hn
      · rw [hi]
        exact mem_vCells_word f.sx hk
    · rw [hi]
      exact mem_vCells_word false hk
    · rw [hi]
      exact ⟨List.mem_cons_self, fun w hw => (Prod.mk.inj (List.mem_singleton.1 hw)).2⟩

end Sys2Proof.Machine
end

section
/-! PROOF of O30's negation, and the clauses of it that hold (spec/08_ordering.md R179, R187; spec/19_ref_vmulh_zwr.md R433, R437). -/
namespace Sys2Proof.Machine

section
variable {s : State} {ctx : Nat} {f : MF}

/-! ## What holds -/

theorem Team.countersMet_waitBounds (t : Team) (d : Nat) : t.countersMet (waitBounds d) = true ↔
    (bitAt d 24 = true ∨ t.ldcnt ≤ d % 256) ∧ (bitAt d 25 = true ∨ t.stcnt ≤ d / 256 % 256) ∧
      (bitAt d 26 = true ∨ t.cpcnt ≤ d / 65536 % 256) := by
  have hbound (b : Bool) (n k : Nat) : ((if b = true then none else some k : Option Nat).all fun x => decide (n ≤ x)) = true ↔
      (b = true ∨ n ≤ k) := by
    cases b <;> simp
  unfold waitBounds Team.countersMet
  simp only [Bool.and_eq_true, hbound, and_assoc]
  simp [bitsAt]

/-- WAITCNT passes where each bound that it names is met and waits for them elsewhere (R433): O30's first clause. -/
theorem State.waitcnt_issues (hr : s.Runs ctx) (hp : s.Passes ctx (.waitcnt f)) :
    let t := s.team ctx
    let d := f.disp.toNat
    let met := (bitAt d 24 = true ∨ t.ldcnt ≤ d % 256) ∧ (bitAt d 25 = true ∨ t.stcnt ≤ d / 256 % 256) ∧
      (bitAt d 26 = true ∨ t.cpcnt ≤ d / 65536 % 256)
    (met → s.GoesOn ctx (.waitcnt f) s t) ∧ (¬ met → s.Stays ctx (.waitcnt f) s (t.waitsFor (waitBounds d) (.waitcnt f))) := by
  intro t d met
  have he : exec (.waitcnt f) s = execWaitcnt f s := rfl
  have hmet : t.countersMet (waitBounds d) = true ↔ met := t.countersMet_waitBounds d
  refine ⟨fun hm => State.goesOn_of_body he hr hp (if_pos (hmet.2 hm)) (.refl s ctx) rfl, fun hm => ?_⟩
  have hstays := State.stays_of_body he hr hp (if_neg (mt hmet.1 hm)) (OnlyTeam.setTeam s ctx _) rfl
  unfold State.waitAt at hstays
  rwa [State.team_setTeam] at hstays

/-- XFENCE names its paths where the writes that it makes visible let the team and its block be (R437): O30's second clause, in
the machine `s'` with those writes visible. -/
theorem State.xfence_issues {s' : State} (hs : s' = if f.disp.getLsbD 1 = true then s.flushCp (s.colOfCtx ctx) else s)
    (hteam : s'.team ctx = s.team ctx) (hblock : s'.blockOf? ctx = s.blockOf? ctx) (huid : s'.uid = s.uid)
    (hmarks : s'.marks (.xfence f) = s.marks (.xfence f)) (hr : s.Runs ctx) (hp : s.Passes ctx (.xfence f)) :
    s.GoesOn ctx (.xfence f) s' { s.team ctx with
      fences := (s.team ctx).fences ++ [{ first := f.disp.extractLsb' 0 4, second := f.disp.extractLsb' 4 4, uid := s.uid }] } := by
  have he : exec (.xfence f) s = execXfence f s := rfl
  unfold execXfence at he
  have hbit : (f.disp.extractLsb' 0 4).getLsbD 1 = f.disp.getLsbD 1 := by simp
  simp only [hbit] at he
  have hgoes := State.goesOn_of_done he hr hp (by rw [← hs]) hblock ((OnlyTeam.setTeam s' ctx _).trans (OnlyTeam.bumpUid _ ctx)) hmarks
  rwa [State.bumpUid_team, State.team_setTeam, hteam, huid] at hgoes

end

/-! ## A block of 33 teams -/

/-- A block on core 0 whose teams have a handler. -/
def coreBlock (teams : Nat) : Block :=
  { asid := 0, queue := 0, seq := 0, index := 0, teams, width := 16, span := 0, vregs := 0, acc := 0, scratch := 64, spbase := 0
    core := 0, lcore := 0, slots := [], cls := 0, clsEff := 0, deadline := 0, deadlineLeft := 0, params := 0, handler := 64 }

/-- Team 32 issues, team 0 of the block in frame 1, which begins where host memory does.  The block of frame 0, which lies in no
memory, counts that team as its 33rd; its team 0 waits on the object at offset 0, whose fault flag is set with BAROVF, and a write
of the copy engine is still to be made visible. -/
def crowded : State :=
  { cur := some 32
    teams := [(0, { sched := .waiting (.bar 0 true) }), (32, {})]
    blocks := [(0, coreBlock 33), (1, coreBlock 1)]
    cores := [(0, { sp := [(25, (0xC8 : Byte))], cpbuf := [(32, (1 : Byte))] })]
    pool := { base := 2 ^ 51 - frameSize } }

/-- An XFENCE of CP in its first set, LS in its second. -/
def cpFence : MF := { idx := 1023, disp := 0x12 }

/-- The scheduling state that an instruction leaves a team in. -/
def schedAfter (i : Instr) (s : State) (ctx : Nat) : Option Sched :=
  match exec i s with
  | .next u => some (u.team ctx).sched
  | _ => none

/-- Refutes O30: the writes that an XFENCE makes visible can end the team that issues it.  A team of another block that waits on a
barrier object takes its trap, and as that block's frame cannot be written, every team that the block counts ends with SAVEFLT
(R280); a block of 33 teams counts team 0 of the next frame.  Launches give 1 to 32 teams (R261), but the statement is about every
state; `State.waitcnt_issues` and `State.xfence_issues` are its clauses where the issuing team is let be. -/
theorem not_waitsAndFences : ¬ Obligations.WaitsAndFences := by
  unfold Obligations.WaitsAndFences
  intro h
  have hruns : crowded.Runs 32 := ⟨rfl, by decide +kernel, coreBlock 1, rfl, rfl, rfl⟩
  have hpasses : crowded.issueTrap 32 (.xfence cpFence) = none := by decide +kernel
  have hframe : crowded.frameOk (frameOf 32) = true := by decide +kernel
  have hends : schedAfter (.xfence cpFence) crowded 32 = some .exited := by decide +kernel
  obtain ⟨u, hu, -, hteam⟩ := (h crowded 32 cpFence hruns).2 hpasses fun _ => hframe
  rw [schedAfter, hu] at hends
  dsimp only at hends
  rw [hteam] at hends
  exact absurd hends (by decide +kernel)

end Sys2Proof.Machine
end

section
/-! SUPPORT. What comes back to a team whose block runs: completed accesses, fatal faults and bells (spec/08_ordering.md R178, R179,
R187; spec/07_translation.md R166; spec/14_power.md R306, R307; spec/13_preemption.md R276). -/
namespace Sys2Proof.Machine

section
variable {s : State} {ctx : Nat} {t : Team} {b : Block}

/-! ## Counters that fall (R178, R179) -/

/-- A team after its counters have fallen: it goes on where they meet the bounds that it waits for and no fatal fault comes first. -/
def Team.woken (t : Team) : Team :=
  match t.sched with
  | .waiting w => if t.countersMet w = true ∧ t.fatal = [] then t.released else t
  | _ => t

theorem Team.woken_eq (t : Team) : t.woken = { t with pc := t.woken.pc, sched := t.woken.sched, waitWord := t.woken.waitWord } := by
  unfold Team.woken
  split
  · split_ifs
    · unfold Team.released
      rw [Team.mark_eq]
    · rfl
  · rfl

theorem Team.woken_of_waiting {w : WaitFor} (hw : t.sched = .waiting w) :
    t.woken = if t.countersMet w = true ∧ t.fatal = [] then t.released else t := by
  unfold Team.woken
  rw [hw]

theorem Team.woken_of_not_met (h : ∀ w, t.sched = .waiting w → t.countersMet w = false) : t.woken = t := by
  unfold Team.woken
  split
  · next w hw => exact if_neg fun hm => absurd hm.1 (ne_true_of_eq_false (h w hw))
  · rfl

theorem Team.released_sched (t : Team) : t.released.sched = .ready ∨ t.released.sched = .parked := by
  unfold Team.released Team.mark Team.settle
  split_ifs <;> simp

theorem Team.woken_of_met {w : WaitFor} (hw : t.sched = .waiting w) (hm : t.countersMet w = true) (hf : t.fatal = []) :
    t.woken.pc = nextPc t.pc ∧ ∀ w', t.woken.sched ≠ .waiting w' := by
  rw [Team.woken_of_waiting hw, if_pos ⟨hm, hf⟩]
  refine ⟨by unfold Team.released; rw [Team.mark_eq], fun w' => ?_⟩
  obtain h | h := t.released_sched <;> rw [h] <;> exact Sched.noConfusion

theorem State.wakeCounters_running (hb : s.blockOf? ctx = some b) (hp : b.place = .running) (hs : b.stepping = none) :
    OnlyTeam s (s.wakeCounters ctx) ctx ∧ (s.wakeCounters ctx).team ctx = (s.team ctx).woken := by
  unfold State.wakeCounters
  dsimp only
  split
  · next w hw =>
    rw [Team.woken_of_waiting hw]
    by_cases hm : (s.team ctx).countersMet w = true
    · rw [if_pos hm]
      by_cases hf : (s.team ctx).fatal = []
      · have hgoes : (s.endWait ctx false).afterEvent ctx = s.setTeam ctx (s.team ctx).released := by
          rw [State.endWait_running hb hp hf]
          exact State.afterEvent_running (s := s.setTeam ctx (s.team ctx).released) hb hp hs
        rw [if_pos ⟨hm, hf⟩, hgoes, State.team_setTeam]
        exact ⟨.setTeam s ctx _, rfl⟩
      · have hstays : s.endWait ctx false = s := by
          unfold State.endWait
          rw [if_pos (by simpa using hf), hw]
          cases w with
          | counters => rfl
          | _ => cases hm
        rw [if_neg (fun h => hf h.2), hstays, State.afterEvent_running hb hp hs]
        exact ⟨.refl s ctx, rfl⟩
    · rw [if_neg hm, if_neg (fun h => hm h.1)]
      exact ⟨.refl s ctx, rfl⟩
  · next hno => exact ⟨.refl s ctx, (Team.woken_of_not_met fun w hw => absurd hw (hno w)).symm⟩

/-! ## ACCESS_COMPLETE (R178, R187, R234) -/

/-- The team whose entry leaves its record, with the fences that are not over. -/
def Team.completed (t : Team) (e : Entry) (bare : List Req) : Team :=
  { t with
    inflight := t.inflight.filter fun x => x.uid != e.uid
    ldcnt := t.ldcnt - b2n e.ld, stcnt := t.stcnt - b2n e.st, cpcnt := t.cpcnt - b2n e.cp, fhold := (t.fall e true).fhold
    fences := t.fences.filter fun f => (t.inflight.filter fun x => x.uid != e.uid).any (fun x => decide (x.uid < f.uid)) ||
      bare.any fun r => decide (r.uid < f.uid) }

variable {e : Entry}

theorem Team.completed_eq_fall (bare : List Req) :
    t.completed e bare = { t.fall e true with fences := (t.completed e bare).fences } := by
  unfold Team.completed Team.fall
  rw [Bool.and_true, Bool.and_true]
  rfl

theorem State.dropFences_fall (ht : s.team ctx = t) :
    (s.setTeam ctx (t.fall e true)).dropFences ctx =
      (s.setTeam ctx (t.fall e true)).setTeam ctx (t.completed e (s.bareOut ctx)) := by
  have hbare : (s.setTeam ctx (t.fall e true)).bareOut ctx = s.bareOut ctx := by
    unfold State.bareOut
    rw [State.team_setTeam, ht]
    rfl
  unfold State.dropFences
  dsimp only
  rw [hbare, State.team_setTeam, Team.completed_eq_fall]
  rfl

/-- What a completed entry leaves of its team is as it was but for the record, the counters, the fences, and the wait that is over. -/
theorem Team.completed_woken (t : Team) (e : Entry) (bare : List Req) :
    let v := (t.completed e bare).woken
    v = { t.completed e bare with pc := v.pc, sched := v.sched, waitWord := v.waitWord } ∧
      ((∀ w, t.sched = .waiting w → v.countersMet w = false) → v.pc = t.pc ∧ v.sched = t.sched) ∧
      ∀ w, t.sched = .waiting w → v.countersMet w = true → t.fatal = [] → v.pc = nextPc t.pc ∧ ∀ w', v.sched ≠ .waiting w' := by
  intro v
  have hv : v = { t.completed e bare with pc := v.pc, sched := v.sched, waitWord := v.waitWord } := (t.completed e bare).woken_eq
  have hmet (w : WaitFor) : v.countersMet w = (t.completed e bare).countersMet w := congrArg (·.countersMet w) hv
  refine ⟨hv, fun hno => ?_, fun w hw hm hfatal => Team.woken_of_met hw (hmet w ▸ hm) hfatal⟩
  have hsame : v = t.completed e bare := Team.woken_of_not_met fun w hw => hmet w ▸ hno w hw
  rw [hsame]
  exact ⟨rfl, rfl⟩

variable (ht : Tab.get? s.teams ctx = some t) (hf : t.inflight.find? (fun x => x.uid == e.uid) = some e) (hz : t.sched ≠ .frozen)
  (hb : s.blockOf? ctx = some b) (hp : b.place = .running) (hs : b.stepping = none)
include ht hf hz hb hp hs

theorem exec_accessComplete (hl : e.left = 0) (hd : e.ld = true → ∀ r ∈ t.pend, r.uid ≠ e.resUid) :
    ∃ u, exec (.accessComplete ctx e.uid) s = .next u ∧ OnlyTeam s u ctx ∧ u.team ctx = (t.completed e (s.bareOut ctx)).woken := by
  have hdone : t.complete e = true := by
    simp only [Team.complete, Bool.and_eq_true, Bool.or_eq_true, Bool.not_eq_true', beq_iff_eq, List.all_eq_true, bne_iff_ne]
    refine ⟨hl, ?_⟩
    cases hld : e.ld with
    | false => exact .inl rfl
    | true => exact .inr (hd hld)
  have hexec : exec (.accessComplete ctx e.uid) s = .next (((s.setTeam ctx (t.fall e true)).dropFences ctx).wakeCounters ctx) := by
    change execAccessComplete ctx e.uid s = _
    unfold execAccessComplete
    rw [ht]
    dsimp only
    rw [hf]
    dsimp only
    rw [if_neg hz, if_pos hdone]
  rw [State.dropFences_fall (State.team_of_get? ht)] at hexec
  obtain ⟨honly, hteam⟩ := State.wakeCounters_running (s := (s.setTeam ctx (t.fall e true)).setTeam ctx (t.completed e (s.bareOut ctx)))
    (b := b) hb hp hs
  exact ⟨_, hexec, ((OnlyTeam.setTeam s ctx _).trans (.setTeam _ ctx _)).trans honly, by rw [hteam, State.team_setTeam]⟩

theorem exec_accessComplete_copy (hl : e.left ≠ 0) (hk : e.kind = 9) (hcp : e.cp = true) (hperf : e.perf.contains 1 = true)
    (hw : ∀ w, t.sched ≠ .waiting w) :
    ∃ u, exec (.accessComplete ctx e.uid) s = .next u ∧ OnlyTeam s u ctx ∧ u.team ctx = t.fall e false := by
  have hexec : exec (.accessComplete ctx e.uid) s = .next ((s.setTeam ctx (t.fall e false)).wakeCounters ctx) := by
    change execAccessComplete ctx e.uid s = _
    unfold execAccessComplete
    rw [ht]
    dsimp only
    rw [hf]
    dsimp only
    rw [if_neg hz, if_neg (by simp [Team.complete, hl]), if_pos ⟨hk, hcp, hperf⟩]
  obtain ⟨honly, hteam⟩ := State.wakeCounters_running (s := s.setTeam ctx (t.fall e false)) (b := b) hb hp hs
  refine ⟨_, hexec, (OnlyTeam.setTeam s ctx _).trans honly, ?_⟩
  rw [hteam, State.team_setTeam]
  exact Team.woken_of_not_met fun w h => absurd h (hw w)

end
end Sys2Proof.Machine
end

section
/-! SUPPORT. A fatal fault or a bell that a team takes in its handler (spec/13_preemption.md R275, R276, R280; spec/07_translation.md
R166; spec/14_power.md R307). -/
namespace Sys2Proof.Machine

theorem length_trapRecord (i : TrapInfo) (time : Nat) : (trapRecord i time).length = 64 := by
  simp [trapRecord]

/-- A team's trap area lies within its frame (R281). -/
theorem trapArea_lt (ctx : Nat) : trapArea (teamIx ctx) + 320 ≤ 0x3FFFFF := by
  unfold trapArea stateArea teamIx
  omega

theorem State.physRead_congr {s u : State} (h : ∀ pl, u.lineNow pl = s.lineNow pl) (pa n : Nat) :
    u.physRead pa n = s.physRead pa n := by
  simp only [State.physRead_eq_map, State.byteNow, h]

/-- What taking a trap of record `r` leaves outside its team: the trap area with the two mask images, the rest of memory, and the
other teams. -/
def State.TookTrap (s u : State) (ctx : Nat) (r : TrapInfo) (exec : Mask) : Prop :=
  u.physRead (s.framePA (frameOf ctx) (trapArea (teamIx ctx))) 320 =
    trapRecord r s.time ++ toBytes 128 (r.lanes.getD 0).toNat ++ toBytes 128 exec.toNat ∧
  (∀ q, q < 2 ^ 52 → (q < s.framePA (frameOf ctx) (trapArea (teamIx ctx)) ∨
    s.framePA (frameOf ctx) (trapArea (teamIx ctx)) + 320 ≤ q) → u.physRead q 1 = s.physRead q 1) ∧
  ∀ c, c ≠ ctx → Tab.get? u.teams c = Tab.get? s.teams c

/-- The team in its handler at `h`, with all its lanes (R276). -/
def Team.inHandler (t : Team) (i : TrapInfo) (width : Nat) (h : Word64) : Team :=
  { t with
    faultpc := i.pc, handler := true, exec := lanesBelow width, pc := h, sched := .ready, trap := none, fresh := true, entryTgt := true
    fetchRep := false, waitWord := 0, rewait := false, fatalRun := decide (i.deliv = 1) }

section
variable {s : State} {ctx : Nat} {b : Block} {i : TrapInfo} {h : Word64}

/-- A trap of a team that owes no result is taken at once, and nothing follows it in a block that runs. -/
theorem State.raise_running (hb : s.blockOf? ctx = some b) (hp : b.place = .running) (hs : b.stepping = none)
    (hpend : (s.team ctx).pend = []) (hn : (s.team ctx).handler = false) (hh : s.handlerFor ctx i = some h)
    (hf : s.frameOk (frameOf ctx) = true) (hpool : s.framePA (frameOf ctx) 0x3FFFFF < 0x18000000000) :
    s.TookTrap ((s.raise ctx i).afterEvent ctx) ctx ((s.team ctx).keepWait i) (s.team ctx).exec ∧
      ((s.raise ctx i).afterEvent ctx).blocks = s.blocks ∧
      ((s.raise ctx i).afterEvent ctx).team ctx = (s.team ctx).inHandler i b.width h := by
  obtain ⟨w, hw, hwrite, hdeliver⟩ := State.deliver_handler hn hh hf
  have hraise : s.raise ctx i = w.setTeam ctx ((s.team ctx).inHandler i b.width h) := by
    have hwidth : s.widthOf ctx = b.width := by rw [State.widthOf, hb]; rfl
    unfold State.raise
    rw [if_pos (by rw [hpend]; rfl), hdeliver, hwidth]
    rfl
  have hafter : (s.raise ctx i).afterEvent ctx = s.raise ctx i := by
    rw [hraise]
    exact State.afterEvent_running (s := w.setTeam ctx _) ((hw.blockOf ctx).trans hb) hp hs
  rw [hafter, hraise]
  have hlen : (trapRecord ((s.team ctx).keepWait i) s.time ++ toBytes 128 (i.lanes.getD 0).toNat ++
      toBytes 128 (s.team ctx).exec.toNat).length = 320 := by
    simp [length_trapRecord]
  have hfit : s.framePA (frameOf ctx) (trapArea (teamIx ctx)) + 320 ≤ 2 ^ 52 := by
    have hin := trapArea_lt ctx
    unfold State.framePA at *
    omega
  rw [← hlen] at hfit
  obtain ⟨hrec, hrest⟩ := s.physRead_physWrite hfit
  rw [hlen, ← hwrite] at hrec hrest
  refine ⟨⟨?_, fun q hq hout => ?_, fun c hc => ?_⟩, hw.blocks, State.team_setTeam ..⟩
  · exact (State.physRead_congr (fun _ => rfl) _ _).trans hrec
  · exact (State.physRead_congr (fun _ => rfl) _ _).trans (hrest q hq hout)
  · exact (Tab.get?_put_other _ _ _ hc).trans (by rw [hw.teams])

theorem State.TookTrap.congr {v u : State} {r : TrapInfo} {m : Mask} (h : v.TookTrap u ctx r m) (hpool : v.pool = s.pool)
    (htime : v.time = s.time) (hline : ∀ pl, v.lineNow pl = s.lineNow pl)
    (hteams : ∀ c, c ≠ ctx → Tab.get? v.teams c = Tab.get? s.teams c) : s.TookTrap u ctx r m := by
  have harea : v.framePA (frameOf ctx) (trapArea (teamIx ctx)) = s.framePA (frameOf ctx) (trapArea (teamIx ctx)) := by
    rw [State.framePA, hpool]; rfl
  obtain ⟨hrec, hrest, hothers⟩ := h
  rw [harea] at hrec hrest
  rw [htime] at hrec
  exact ⟨hrec, fun q hq hout => (hrest q hq hout).trans (State.physRead_congr hline q 1),
    fun c hc => (hothers c hc).trans (hteams c hc)⟩

variable {t : Team}

theorem State.handlerFor_trap (hb : s.blockOf? ctx = some b) (hd : i.deliv ≠ 2) (hh : b.handler ≠ 0) :
    s.handlerFor ctx i = some b.handler := by
  unfold State.handlerFor
  rw [hb]
  dsimp only
  rw [if_neg hd, if_neg hh]

theorem State.handlerFor_bell (hb : s.blockOf? ctx = some b) (hd : i.deliv = 2) (hh : b.bellAddr ≠ 0) :
    s.handlerFor ctx i = some b.bellAddr := by
  unfold State.handlerFor
  rw [hb]
  dsimp only
  rw [if_pos hd, if_neg hh]

/-- A trap taken at the team's own program counter keeps the wait that its instruction is to resume (R406). -/
theorem Team.keepWait_here (hr : i.resume = t.pc) : t.keepWait i = { i with rewait := i.rewait || t.rewait } := by
  simp [Team.keepWait, hr]

/-! ## FATAL_FAULT_DELIVERY (R166) -/

/-- The team as a fatal fault is taken from its pending ones, its examination of a barrier object withdrawn. -/
def Team.fatalTaken (t : Team) (rest : List TrapInfo) : Team :=
  { t with
    fatal := rest, waitWord := 0, sched := .ready
    lsq := t.lsq.filter fun x => match x.work with
      | .barexam _ _ => false
      | _ => true }

theorem State.takeFatal_of_not_gbar (ht : s.team ctx = t) (hg : ∀ g x, t.sched ≠ .waiting (.gbar g x)) (rest : List TrapInfo) :
    s.takeFatal ctx t i rest = (s.setTeam ctx (t.fatalTaken rest)).raise ctx { i with deliv := 1, resume := t.pc } := by
  unfold State.takeFatal
  dsimp only
  rw [ht]
  split
  · next g x h => exact absurd h (hg g x)
  · rfl

theorem exec_fatalFaultDelivery {rest : List TrapInfo} (ht : Tab.get? s.teams ctx = some t) (hi : t.fatal = i :: rest)
    (htake : t.takesFatal = true) (hg : ∀ g x, t.sched ≠ .waiting (.gbar g x)) (hpend : t.pend = []) (hobjs : i.objs = []) :
    exec (.fatalFaultDelivery ctx) s =
      .next (((s.setTeam ctx (t.fatalTaken rest)).raise ctx { i with deliv := 1, resume := t.pc }).afterEvent ctx) := by
  have hlive : t.sched ≠ .exited := fun h => by
    rw [Team.takesFatal, h] at htake
    cases htake
  change execFatalFaultDelivery ctx s = _
  unfold execFatalFaultDelivery
  rw [ht]
  dsimp only
  rw [hi]
  dsimp only
  have hflags (v : State) : v.flagObjects i.cause i.objs = v := by rw [hobjs]; rfl
  rw [if_neg hlive, if_neg (by simp [htake]), if_pos (by rw [hpend]; rfl), hflags,
    State.takeFatal_of_not_gbar (State.team_of_get? ht) hg]

/-! ## BELL_DELIVERY (R306, R307) -/

variable {c : Cause} {level : Nat}

/-- The machine in which a bell is no longer pending and its team's BELL names it. -/
def State.rung (s : State) (ctx : Nat) (b : Block) (c : Cause) (level : Nat) : State :=
  (s.setBlock (frameOf ctx) { b with bellPend := none, bellLast := c }).setTeam ctx
    { s.team ctx with bell := BitVec.ofNat 16 (level % 256 * 256 + c.toNat) }

theorem exec_bellDelivery (hb : s.blockOf? ctx = some b) (hp : b.place = .running) (hbell : b.bellPend = some (c, level))
    (hfind : (ctxsOf (frameOf ctx) b).find? s.bellTakes = some ctx) (haddr : b.bellAddr ≠ 0) (hpend : (s.team ctx).pend = []) :
    (∀ s', s.checkTarget ctx b.bellAddr = .later s' → exec (.bellDelivery (frameOf ctx)) s = .next s') ∧
    ((∀ e, s.checkTarget ctx b.bellAddr ≠ .bad e) → (∀ s', s.checkTarget ctx b.bellAddr ≠ .later s') →
      exec (.bellDelivery (frameOf ctx)) s = .next (((s.rung ctx b c level).raise ctx
        { cause := c, deliv := 2, level := BitVec.ofNat 8 level, pc := (s.team ctx).pc, resume := (s.team ctx).pc }).afterEvent ctx)) := by
  have hexec : exec (.bellDelivery (frameOf ctx)) s = execBellDelivery (frameOf ctx) s := rfl
  unfold execBellDelivery at hexec
  rw [show s.block? (frameOf ctx) = some b from hb] at hexec
  dsimp only at hexec
  rw [hfind] at hexec
  dsimp only at hexec
  rw [hbell] at hexec
  dsimp only at hexec
  rw [if_neg haddr, if_neg (by rw [hp]; decide), if_neg (by rw [hpend]; decide)] at hexec
  rw [hexec]
  refine ⟨fun s' h => by rw [h], fun hgood hnow => ?_⟩
  split
  · next s' h => exact absurd h (hnow s')
  · next e h => exact absurd h (hgood e)
  · rfl

end
end Sys2Proof.Machine
end

section
/-! PROOF of O45. -/
namespace Sys2Proof.Machine

/-- Settles O45: each event's answer is the team with its entry gone and its wait perhaps over, or the team in its handler, and the
trap area is written as any range of coherent memory is (O20). -/
theorem completionsFaultsAndBells : Obligations.CompletionsFaultsAndBells := by
  unfold Obligations.CompletionsFaultsAndBells
  intro s ctx t b ht hb hp hs hpool f area takes
  obtain rfl := State.team_of_get? ht
  refine ⟨fun e hz hf => ⟨fun hl hd => ?entry, fun hl hk hcp hperf hw => ?copy⟩, ?fatal, ?bell⟩
  case entry =>
    obtain ⟨u, hu, honly, hteam⟩ := exec_accessComplete ht hf hz hb hp hs hl hd
    refine ⟨u, hu, honly, ?_⟩
    rw [hteam]
    intro v
    obtain ⟨hv, hstays, hgoes⟩ := (s.team ctx).completed_woken e (s.bareOut ctx)
    have same {α : Type} (p : Team → α) := congrArg p hv
    have hleft : v.inflight = (s.team ctx).inflight.filter fun x => x.uid != e.uid := same Team.inflight
    refine ⟨hleft, same Team.ldcnt, same Team.stcnt, same Team.cpcnt, same Team.pend, same Team.s, same Team.v, same Team.k,
      same Team.h, same Team.z, same Team.exec, same Team.mode, same Team.handler, same Team.gangs, ?_, hstays, hgoes⟩
    rw [hleft]
    exact same Team.fences
  case copy =>
    obtain ⟨u, hu, honly, hteam⟩ := exec_accessComplete_copy ht hf hz hb hp hs hl hk hcp hperf hw
    exact ⟨u, hu, honly, by rw [hteam, Team.fall, hcp]; rfl, by rw [hteam]; rfl⟩
  case fatal =>
    intro i rest hi htake hg hpend hn hh hframe hobjs
    have hexec := exec_fatalFaultDelivery ht hi htake hg hpend hobjs
    have hin : (s.setTeam ctx ((s.team ctx).fatalTaken rest)).team ctx = (s.team ctx).fatalTaken rest := State.team_setTeam ..
    obtain ⟨htook, hblocks, hteam⟩ := State.raise_running (s := s.setTeam ctx ((s.team ctx).fatalTaken rest)) (b := b)
      (i := { i with deliv := 1, resume := (s.team ctx).pc }) hb hp hs (by rw [hin]; exact hpend) (by rw [hin]; exact hn)
      (State.handlerFor_trap (b := b) hb (show (1 : Nat) ≠ 2 by decide) hh) hframe hpool
    rw [hin] at htook hteam
    rw [Team.keepWait_here rfl] at htook
    exact ⟨_, hexec, htook.congr rfl rfl (fun _ => rfl) (fun c hc => Tab.get?_put_other _ _ _ hc), hblocks, _, hteam⟩
  case bell =>
    intro c level hbell hfind haddr hpend hframe
    obtain ⟨hlater, hrings⟩ := exec_bellDelivery hb hp hbell hfind haddr hpend
    refine ⟨hlater, fun hgood hnow => ?_⟩
    have hexec := hrings hgood hnow
    have hnot : (s.team ctx).handler = false := by
      have htakes := List.find?_some hfind
      simp only [State.bellTakes, Bool.and_eq_true, Bool.not_eq_true'] at htakes
      exact htakes.1
    have hblock : (s.rung ctx b c level).blockOf? ctx = some { b with bellPend := none, bellLast := c } := State.block_setBlock ..
    have hin : (s.rung ctx b c level).team ctx = { s.team ctx with bell := BitVec.ofNat 16 (level % 256 * 256 + c.toNat) } :=
      State.team_setTeam ..
    obtain ⟨htook, hblocks, hteam⟩ := State.raise_running
      (i := { cause := c, deliv := 2, level := BitVec.ofNat 8 level, pc := (s.team ctx).pc, resume := (s.team ctx).pc })
      hblock hp hs (by rw [hin]; exact hpend) (by rw [hin]; exact hnot)
      (State.handlerFor_bell (b := { b with bellPend := none, bellLast := c }) hblock rfl haddr) hframe hpool
    rw [hin] at htook hteam
    rw [Team.keepWait_here rfl, Bool.false_or] at htook
    exact ⟨_, hexec, htook.congr rfl rfl (fun _ => rfl) (fun c hc => Tab.get?_put_other _ _ _ hc), hblocks, hteam⟩

end Sys2Proof.Machine
end

section
/-! SUPPORT. The homes: messages that come to them, requests that join a queue, and requests that are served (spec/09_coherence.md
R197 to R204). -/
namespace Sys2Proof.Machine

/-! ## Tables and lists -/

theorem Tab.put_put {α : Type} (t : Tab α) (x : Nat) (a b : α) : Tab.put (Tab.put t x a) x b = Tab.put t x b := by
  induction t with
  | nil => simp [Tab.put]
  | cons e t ih =>
    obtain ⟨k, c⟩ := e
    by_cases h1 : x < k
    · simp [Tab.put, h1]
    · by_cases h2 : x = k
      · simp [Tab.put, h2]
      · simp [Tab.put, h1, h2, ih]

/-- A predicate that an element fails does not see it go. -/
theorem filter_dropFirst {α : Type} [BEq α] [LawfulBEq α] {p : α → Bool} {a : α} (h : p a = false) (l : List α) :
    (dropFirst (· == a) l).filter p = l.filter p := by
  induction l with
  | nil => rfl
  | cons b l ih =>
    by_cases hb : b = a
    · subst hb
      simp [dropFirst, h]
    · simp [dropFirst, hb, List.filter_cons, ih]

section
variable (s : State) (pl : Nat)

@[simp] theorem State.setDir_setDir (e f : DirEnt) : (s.setDir pl e).setDir pl f = s.setDir pl f := by
  simp only [State.setDir, Tab.put_put]

/-! ## Messages -/

@[simp] theorem State.dropMsg_dirEnt (m : Msg) : (s.dropMsg m).dirEnt pl = s.dirEnt pl := rfl
@[simp] theorem State.dropMsg_die (m : Msg) (d : Nat) : (s.dropMsg m).die d = s.die d := rfl
@[simp] theorem State.dropMsg_homeRead (m : Msg) : (s.dropMsg m).homeRead pl = s.homeRead pl := rfl
@[simp] theorem State.setDir_homeRead (l : Nat) (e : DirEnt) : (s.setDir l e).homeRead pl = s.homeRead pl := rfl

section
variable (l : Nat) (data : LineData) (mask : BitVec 128)

@[simp] theorem State.homeWrite_msgs : (s.homeWrite l data mask).msgs = s.msgs := by
  unfold State.homeWrite
  split_ifs <;> rfl

@[simp] theorem State.homeWrite_plat : (s.homeWrite l data mask).plat = s.plat := by
  unfold State.homeWrite
  split_ifs <;> rfl

@[simp] theorem State.homeWrite_uid : (s.homeWrite l data mask).uid = s.uid := by
  unfold State.homeWrite
  split_ifs <;> rfl

@[simp] theorem State.homeWrite_out : (s.homeWrite l data mask).out = s.out := by
  unfold State.homeWrite
  split_ifs <;> rfl

@[simp] theorem State.homeWrite_dirEnt : (s.homeWrite l data mask).dirEnt pl = s.dirEnt pl := by
  unfold State.homeWrite
  split_ifs <;> rfl
end
end

variable {s : State} {k : MsgKind} {a pl : Nat} {m : Msg}

/-- What a message that is found says of itself. -/
theorem State.msg?_found (h : s.msg? k a pl = some m) : m.kind = k ∧ m.agent = a ∧ m.line = pl := by
  have hm := List.find?_some h
  simp only [Bool.and_eq_true, beq_iff_eq] at hm
  exact ⟨hm.1.1, hm.1.2, hm.2⟩

theorem isHostLine_device (h : pl < 2 ^ 44) : isHostLine pl = false := by
  rw [isHostLine, decide_eq_false (by omega), Bool.false_and]

theorem State.peerDown_near (h : pl < 2 ^ 45) : s.peerDown pl = false := by
  rw [State.peerDown, decide_eq_false (by omega), Bool.false_and]

/-- Only a probe's arrival changes which probes are under way. -/
theorem State.probeOld_dropMsg (hs : m.kind ≠ .prShr) (hi : m.kind ≠ .prInv) : (s.dropMsg m).probeOld pl = s.probeOld pl := by
  have hmsgs := filter_dropFirst (a := m) (p := fun m => m.line == pl && (m.kind == .prShr || m.kind == .prInv))
    (by simp [hs, hi]) s.msgs
  have hout : (s.dropMsg m).probesOut pl = s.probesOut pl := by
    unfold State.probesOut
    rw [show (s.dropMsg m).msgs = dropFirst (· == m) s.msgs from rfl, hmsgs]
    rfl
  unfold State.probeOld
  rw [hout]
  rfl

theorem State.probeOld_setDir {e : DirEnt} (h : e.stamp = (s.dirEnt pl).stamp) : (s.setDir pl e).probeOld pl = s.probeOld pl := by
  unfold State.probeOld
  rw [State.dirEnt_setDir, h]
  rfl

/-! ## Entries -/

theorem DirEnt.holders_unheld {e : DirEnt} (hb : e.base = .uncached) (hs : e.sharers = 0) : e.holders = [] := by
  simp [DirEnt.holders, hb, hs]

theorem DirEnt.owned?_of_base {e : DirEnt} (ho : e.base ≠ .owned) (hx : e.base ≠ .exclusive) : e.owned? = none := by
  simp [DirEnt.owned?, ho, hx]

theorem DirEnt.holders_one {e : DirEnt} {o : Nat} (hb : e.base = .shared) (ho : o < 5) (hs : e.sharers = agentBit o) :
    e.holders = [o] := by
  have hall : ∀ o < 5, ((List.range 5).filter fun a => (agentBit o).getLsbD a) = [o] := by decide
  rw [← hall o ho, DirEnt.holders, hb, hs]
  exact List.filter_congr fun a _ => Bool.or_false _

theorem DirEnt.synonym_of_key {e : DirEnt} {r : HomeReq} (h : e.key = r.key) : e.synonym r = false := by
  unfold DirEnt.synonym
  split <;> simp [h]

theorem DirEnt.synonym_unheld {e : DirEnt} {r : HomeReq} (h : e.holders = []) : e.synonym r = false := by
  unfold DirEnt.synonym
  split <;> simp [h]

theorem DirEnt.next_one {e : DirEnt} {r : HomeReq} (h : e.queue = [r]) : e.next = some (r, []) := by
  unfold DirEnt.next
  rw [h]
  dsimp only
  split
  · next q hq =>
    obtain rfl := List.mem_singleton.1 (List.mem_of_find?_eq_some hq)
    simp [dropFirst]
  · rfl

theorem State.hostNeeds_device {r : HomeReq} (h : pl < 2 ^ 44) : s.hostNeeds pl r = none := by
  simp [State.hostNeeds, isHostLine_device h]

/-! ## Service (R197, R199) -/

/-- An entry whose home has taken a request from its queue and waits for nothing yet. -/
def DirEnt.serving (e : DirEnt) (r : HomeReq) (rest : List HomeReq) : DirEnt :=
  { e with queue := rest, cur := some r, st := transientOf r, waitAck := [], waitWb := [], dirty := none, again := false }

/-- A home with nothing to do, and no probe so old that it must wait for it. -/
structure State.HomeIdle (s : State) (pl : Nat) : Prop where
  cur : (s.dirEnt pl).cur = none
  queue : (s.dirEnt pl).queue = []
  young : s.probeOld pl = false

section
variable {r : HomeReq} {rest : List HomeReq}

/-- The home takes its next request: it sends the request's probes, and concludes where there are none to wait for. -/
theorem State.serve_next (hc : (s.dirEnt pl).cur = none) (ho : s.probeOld pl = false) (hn : (s.dirEnt pl).next = some (r, rest))
    (hsyn : (s.dirEnt pl).synonym r = false) (hh : s.hostNeeds pl r = none) :
    s.serve pl = (s.setDir pl { s.dirEnt pl with queue := rest }).begin pl r := by
  unfold State.serve
  simp [hc, ho, hn, hsyn, hh]

theorem State.begin_unprobed (hp : (probesFor (s.dirEnt pl) r).1 = []) :
    s.begin pl r = (s.setDir pl ((s.dirEnt pl).serving r (s.dirEnt pl).queue)).conclude' pl r := by
  unfold State.begin
  simp [hp, DirEnt.serving]

theorem State.serve_unprobed (hc : (s.dirEnt pl).cur = none) (ho : s.probeOld pl = false)
    (hn : (s.dirEnt pl).next = some (r, rest)) (hsyn : (s.dirEnt pl).synonym r = false) (hh : s.hostNeeds pl r = none)
    (hp : (probesFor (s.dirEnt pl) r).1 = []) : s.serve pl = (s.setDir pl ((s.dirEnt pl).serving r rest)).conclude' pl r := by
  have hp' : (probesFor { s.dirEnt pl with queue := rest } r).1 = [] := hp
  rw [State.serve_next hc ho hn hsyn hh, State.begin_unprobed (by rw [State.dirEnt_setDir]; exact hp')]
  simp [DirEnt.serving]

/-- A request joins the queue of a home that does not wait for an invalidating probe of another. -/
theorem State.arrive_joins (h : ∀ c, (s.dirEnt pl).cur = some c → (probesFor (s.dirEnt pl) c).2 = false) :
    s.arrive pl r = (s.setDir pl { s.dirEnt pl with queue := (s.dirEnt pl).queue ++ [r] }).serve pl := by
  have hinv : (((s.dirEnt pl).cur.map fun c => (probesFor (s.dirEnt pl) c).2).getD false) = false := by
    cases hc : (s.dirEnt pl).cur with
    | none => rfl
    | some c => exact h c hc
  unfold State.arrive
  simp [hinv]

/-- A request that comes to an idle home is taken at once. -/
theorem State.HomeIdle.arrive (hi : s.HomeIdle pl) (hsyn : (s.dirEnt pl).synonym r = false) (hh : s.hostNeeds pl r = none) :
    s.arrive pl r = (s.setDir pl (s.dirEnt pl)).begin pl r := by
  obtain ⟨hc, hq, ho⟩ := hi
  have hne : (s.setDir pl { s.dirEnt pl with queue := [r] }).hostNeeds pl r = none := by
    rw [← hh, State.hostNeeds, State.hostNeeds, State.dirEnt_setDir]
    rfl
  rw [State.arrive_joins (fun c h => by rw [hc] at h; cases h), hq, List.nil_append,
    State.serve_next (r := r) (rest := []) _ _ _ _ hne]
  · rw [State.dirEnt_setDir, State.setDir_setDir, ← hq]
  · rw [State.dirEnt_setDir, hc]
  · rw [State.probeOld_setDir (e := { s.dirEnt pl with queue := [r] }) rfl, ho]
  · rw [State.dirEnt_setDir]
    exact DirEnt.next_one rfl
  · rw [State.dirEnt_setDir]
    exact hsyn

theorem State.HomeIdle.arrive_unprobed (hi : s.HomeIdle pl) (hsyn : (s.dirEnt pl).synonym r = false)
    (hh : s.hostNeeds pl r = none) (hp : (probesFor (s.dirEnt pl) r).1 = []) :
    s.arrive pl r = (s.setDir pl ((s.dirEnt pl).serving r [])).conclude' pl r := by
  rw [hi.arrive hsyn hh, State.begin_unprobed (by rwa [State.dirEnt_setDir]), State.dirEnt_setDir, State.setDir_setDir, hi.queue]
end

end Sys2Proof.Machine
end

section
/-! SUPPORT. Grants, write-backs and completions at the homes of device memory and at the dies (spec/09_coherence.md R198, R199,
R203, R205). -/
namespace Sys2Proof.Machine
variable {s : State} {k g : MsgKind} {a pl : Nat} {m : Msg} {r : HomeReq} {rest : List HomeReq} {op : HomeOp}

/-! ## Grants of a line to one die -/

/-- What a die that asks for a line that no agent holds is granted (R199). -/
def HomeOp.firstGrant : HomeOp → Option MsgKind
  | .rds | .rdx | .upg => some .gntE
  | .own => some .gntX
  | _ => none

theorem HomeOp.firstGrant_cases (h : op.firstGrant = some g) : (op = .rds ∧ g = .gntE) ∨ (op = .rdx ∧ g = .gntE) ∨
    (op = .upg ∧ g = .gntE) ∨ (op = .own ∧ g = .gntX) := by
  unfold HomeOp.firstGrant at h
  split at h <;> simp_all

/-- The entry of a line that is being granted to one die alone. -/
def DirEnt.granting (e : DirEnt) (r : HomeReq) : DirEnt := { (e.exclusiveTo r.agent).bump with st := .granting, key := r.key }

/-- The grant that a request is answered with. -/
def HomeReq.grantMsg (r : HomeReq) (kind : MsgKind) (pl stamp : Nat) (data : LineData) : Msg :=
  { kind, agent := r.agent, line := pl, key := r.key, stamp, data := if kind = .gntX then 0 else data, atomic := r.atomic }

theorem State.grant_exclusive (s : State) (pl : Nat) (r : HomeReq) (kind : MsgKind) (data : LineData) :
    s.grant pl r kind data (fun e => e.exclusiveTo r.agent) = (s.setDir pl ((s.dirEnt pl).granting r)).send
      (r.grantMsg kind pl (((s.dirEnt pl).stamp + 1) % 65536) data) := rfl

theorem State.storeDirty_none (h : (s.dirEnt pl).dirty = none) : s.storeDirty pl = s := by
  unfold State.storeDirty
  rw [h]

theorem State.takeDirty_none (h : (s.dirEnt pl).dirty = none) : s.takeDirty pl = s := by
  unfold State.takeDirty
  rw [h]

/-- A request of a die for a line that no agent holds is granted the line. -/
theorem State.conclude_unheld (hpl : pl < 2 ^ 44) (ha : r.agent < 4) (hb : (s.dirEnt pl).base = .uncached)
    (hs : (s.dirEnt pl).sharers = 0) (hd : (s.dirEnt pl).dirty = none) (hg : r.op.firstGrant = some g) :
    s.conclude' pl r = s.grant pl r g (s.homeRead pl) fun e => e.exclusiveTo r.agent := by
  have hhost : isHostLine pl = false := isHostLine_device hpl
  have hown : (s.dirEnt pl).owned? = none := DirEnt.owned?_of_base (by simp [hb]) (by simp [hb])
  have hnone : (s.dirEnt pl).holders = [] := DirEnt.holders_unheld hb hs
  have ha4 : r.agent ≠ 4 := by omega
  unfold State.conclude'
  obtain ⟨hop, rfl⟩ | ⟨hop, rfl⟩ | ⟨hop, rfl⟩ | ⟨hop, rfl⟩ := HomeOp.firstGrant_cases hg <;>
    simp [hop, hhost, hown, hb, hd, hnone, ha4, State.storeDirty_none hd]

theorem probesFor_unheld {e : DirEnt} (hb : e.base = .uncached) (hs : e.sharers = 0) : (probesFor e r).1 = [] := by
  have hown : e.owned? = none := DirEnt.owned?_of_base (by simp [hb]) (by simp [hb])
  have hnone : e.holders = [] := DirEnt.holders_unheld hb hs
  unfold probesFor
  split <;> simp [hown, hnone, DirEnt.hostOwned, hb]
  split <;> rfl

theorem DirEnt.synonym_of_unheld {e : DirEnt} (hb : e.base = .uncached) (hs : e.sharers = 0) : e.synonym r = false :=
  DirEnt.synonym_unheld (DirEnt.holders_unheld hb hs)

/-- The same, from the moment at which the home takes the request. -/
theorem State.grant_served (hpl : pl < 2 ^ 44) (ha : r.agent < 4) (hb : (s.dirEnt pl).base = .uncached)
    (hs : (s.dirEnt pl).sharers = 0) (hg : r.op.firstGrant = some g) :
    (s.setDir pl ((s.dirEnt pl).serving r rest)).conclude' pl r =
      (s.setDir pl (((s.dirEnt pl).serving r rest).granting r)).send
        (r.grantMsg g pl (((s.dirEnt pl).stamp + 1) % 65536) (s.homeRead pl)) := by
  have hent : (s.setDir pl ((s.dirEnt pl).serving r rest)).dirEnt pl = (s.dirEnt pl).serving r rest := State.dirEnt_setDir ..
  rw [State.conclude_unheld hpl ha (by rw [hent]; exact hb) (by rw [hent]; exact hs) (by rw [hent]; rfl) hg,
    State.grant_exclusive, hent, State.setDir_setDir, State.setDir_homeRead]
  rfl

theorem State.HomeIdle.arrive_unheld (hi : s.HomeIdle pl) (hpl : pl < 2 ^ 44) (ha : r.agent < 4)
    (hb : (s.dirEnt pl).base = .uncached) (hs : (s.dirEnt pl).sharers = 0) (hg : r.op.firstGrant = some g) :
    s.arrive pl r = (s.setDir pl (((s.dirEnt pl).serving r []).granting r)).send
      (r.grantMsg g pl (((s.dirEnt pl).stamp + 1) % 65536) (s.homeRead pl)) := by
  rw [hi.arrive_unprobed (DirEnt.synonym_of_unheld hb hs) (State.hostNeeds_device hpl) (probesFor_unheld hb hs),
    State.grant_served hpl ha hb hs hg]

/-- The head of a queue without snoops is served the same way (R197, R208). -/
theorem DirEnt.next_head {e : DirEnt} (hq : e.queue = r :: rest) (hr : ∀ i, r.op ≠ .snoop i)
    (hrest : ∀ y ∈ rest, ∀ i, y.op ≠ .snoop i) : e.next = some (r, rest) := by
  have hop : ∀ y ∈ e.queue, ∀ i, y.op ≠ .snoop i := by
    rw [hq]
    exact List.forall_mem_cons.2 ⟨hr, hrest⟩
  unfold DirEnt.next
  dsimp only
  split
  · next q h =>
    have hsnoop := List.find?_some h
    split at hsnoop
    · next i hi => exact absurd hi (hop q (List.mem_of_find?_eq_some h) i)
    · cases hsnoop
  · rw [hq]

theorem HomeOp.not_snoop_of_firstGrant (hg : op.firstGrant = some g) (i : Nat) : op ≠ .snoop i := by
  rintro rfl
  cases hg

theorem State.serve_unheld (hc : (s.dirEnt pl).cur = none) (ho : s.probeOld pl = false) (hq : (s.dirEnt pl).queue = r :: rest)
    (hrest : ∀ y ∈ rest, ∀ i, y.op ≠ .snoop i) (hpl : pl < 2 ^ 44) (ha : r.agent < 4) (hb : (s.dirEnt pl).base = .uncached)
    (hs : (s.dirEnt pl).sharers = 0) (hg : r.op.firstGrant = some g) :
    s.serve pl = (s.setDir pl (((s.dirEnt pl).serving r rest).granting r)).send
      (r.grantMsg g pl (((s.dirEnt pl).stamp + 1) % 65536) (s.homeRead pl)) := by
  rw [State.serve_unprobed hc ho (DirEnt.next_head hq (HomeOp.not_snoop_of_firstGrant hg) hrest) (DirEnt.synonym_of_unheld hb hs)
    (State.hostNeeds_device hpl) (probesFor_unheld hb hs), State.grant_served hpl ha hb hs hg]

/-! ## Requests of a line that others share -/

theorem State.HomeIdle.dropMsg (hi : s.HomeIdle pl) (hs : m.kind ≠ .prShr) (hv : m.kind ≠ .prInv) : (s.dropMsg m).HomeIdle pl :=
  ⟨hi.cur, hi.queue, (State.probeOld_dropMsg hs hv).trans hi.young⟩

/-- A die's request of a line that one other die shares waits for the probe that invalidates that one (R199). -/
theorem State.begin_invalidates {o : Nat} (hp : probesFor (s.dirEnt pl) r = ([o], true)) (ho : o < 4)
    (hq : (s.dirEnt pl).queue = []) (hclean : r.cleans = false) :
    s.begin pl r = (s.setDir pl { (s.dirEnt pl).serving r [] with
        stamp := ((s.dirEnt pl).stamp + 1) % 65536, waitAck := [(o, ((s.dirEnt pl).stamp + 1) % 65536)] }).send
      { kind := .prInv, agent := o, line := pl, key := (s.dirEnt pl).key, stamp := ((s.dirEnt pl).stamp + 1) % 65536 } := by
  have ho4 : o ≠ 4 := by omega
  unfold State.begin
  simp [hp, hq, hclean, State.probe, DirEnt.bump, DirEnt.hasRequest, DirEnt.serving, ho4]

/-- The only sharer's UPG is granted at once, without data (R198, R199). -/
theorem State.conclude_upg (hop : r.op = .upg) (ha : r.agent < 4) (hd : (s.dirEnt pl).dirty = none)
    (hh : r.agent ∈ (s.dirEnt pl).holders) :
    s.conclude' pl r = s.grant pl r .gntX (s.homeRead pl) fun e => e.exclusiveTo r.agent := by
  have ha4 : r.agent ≠ 4 := by omega
  unfold State.conclude'
  simp [hop, ha4, hh, State.storeDirty_none hd]

/-! ## What comes to a home -/

/-- A die's request of a coherent line joins the home's queue. -/
theorem State.homeRequest_coherent (hm : s.msg? k a pl = some m) (hpl : pl < 2 ^ 45) (hsw : m.swm = false) :
    s.homeRequest k op a pl = (s.dropMsg m).arrive pl { agent := a, op, asid := asidOfLine m.key, key := m.key, atomic := m.atomic } := by
  unfold State.homeRequest
  simp [hm, State.peerDown_near hpl, hsw]

/-- A software-managed line's home answers at once (R210). -/
theorem State.homeRequest_managed (hm : s.msg? k a pl = some m) (hpl : pl < 2 ^ 44) (hsw : m.swm = true) :
    s.homeRequest k op a pl = (s.dropMsg m).send
      { kind := .gntE, agent := a, line := pl, key := m.key, data := s.homeRead pl, swm := true } := by
  unfold State.homeRequest
  simp [hm, State.peerDown_near (show pl < 2 ^ 45 by omega), hsw, isHostLine_device hpl]

/-- An entry after a write-back of a die, while nothing is served (R199, R205). -/
def DirEnt.wroteBack (e : DirEnt) (k : MsgKind) (a : Nat) : DirEnt :=
  let f := if e.owned? ≠ some a then e else if k = .wbk then { e with base := if e.base = .owned then .shared else e.base } else e.remove a
  { f with waitWb := f.waitWb.filter fun b => b != a, st := f.base }

theorem DirEnt.wroteBack_base (e : DirEnt) (k : MsgKind) (a : Nat) : (e.wroteBack k a).base =
    if e.owned? ≠ some a then e.base
    else if k = .wbk then (if e.base = .owned then .shared else e.base)
    else if e.sharers &&& ~~~ agentBit a = 0 then .uncached else .shared := by
  unfold DirEnt.wroteBack
  by_cases ho : e.owned? = some a
  · by_cases hk : k = .wbk
    · simp [ho, hk]
    · simp [ho, hk, DirEnt.remove]
  · simp [ho]

/-- A write-back at the home of a device line that serves nothing. -/
theorem State.homeWb_unserved (hm : s.msg? k a pl = some m) (hmask : m.mask = none) (hc : (s.dirEnt pl).cur = none)
    (hpl : pl < 2 ^ 44) :
    let t := (s.dropMsg m).send { kind := .wba, agent := a, line := pl, key := m.key, swm := m.swm }
    s.homeWb k a pl = (if (s.dirEnt pl).owned? = some a then t.homeWrite pl m.data fullMask else t).setDir pl
      ((s.dirEnt pl).wroteBack k a) := by
  intro t
  have hdown : s.peerDown pl = false := State.peerDown_near (by omega)
  unfold State.homeWb State.proceed DirEnt.wroteBack
  by_cases ho : (s.dirEnt pl).owned? = some a
  · by_cases hk : k = .wbk
    · subst hk
      simp [hm, hmask, hc, ho, hdown, isHostLine_device hpl, t]
      rfl
    · simp [hm, hmask, hc, ho, hk, hdown, isHostLine_device hpl, DirEnt.remove, t]
      rfl
  · simp [hm, hmask, hc, ho, hdown, isHostLine_device hpl, t]

/-- What a write-back leaves of the home's memory: the owner's data, and no other's. -/
theorem State.homeRead_wroteBack {c : Prop} [Decidable c] (t : State) (d : LineData) (e : DirEnt) (hpl : pl < 2 ^ 44) :
    ((if c then t.homeWrite pl d fullMask else t).setDir pl e).homeRead pl = if c then d else t.homeRead pl := by
  split_ifs
  · exact State.homeRead_homeWrite_same t d (by omega)
  · rfl

/-- A grant's CMP ends the service that it was granted in (R199). -/
theorem exec_cmp (hm : s.msg? .cmp a pl = some m) : exec (.cmp a pl) s = .next (
    if (s.dirEnt pl).st = .granting ∧ (s.dirEnt pl).cur.any (·.agent == a) = true then (s.dropMsg m).setDir pl (s.dirEnt pl).settle
    else s.dropMsg m) := by
  change execCmp a pl s = _
  unfold execCmp
  rw [hm]
  rfl

/-- WBA frees the write-back's buffer entry, where nothing waits for it. -/
theorem exec_wba {w : WbEnt} (hm : s.msg? .wba a pl = some m)
    (hw : (s.die a).wbuf.find? (fun w => w.line == pl) = some w) (hwait : w.waits = []) (hi : s.IdleDie a) :
    exec (.wba a pl) s =
      .next ((s.dropMsg m).setDie a { s.die a with wbuf := dropFirst (· == w) (s.die a).wbuf }) := by
  have hidle : ((s.dropMsg m).setDie a { s.die a with wbuf := dropFirst (· == w) (s.die a).wbuf }).IdleDie a :=
    ⟨by rw [State.die_setDie]; exact hi.waits, by rw [State.die_setDie]; exact hi.lines⟩
  change execWba a pl s = _
  unfold execWba
  rw [hm]
  dsimp only
  rw [State.dropMsg_die, hw]
  dsimp only
  rw [hwait, List.foldl_nil, hidle.pumpDie]

/-! ## Grants at a die (R198, R203) -/

/-- A die with a granted line in its place, and its CMP sent. -/
def State.takeGrant (s : State) (d : Nat) (m : Msg) (l : DLine) : State :=
  (s.setDie d { s.die d with lines := Tab.put (s.die d).lines m.key l, outst := (s.die d).outst.filter fun o => o.2 != m.line }).send
    { kind := .cmp, agent := d, line := m.line, key := m.key }

variable {d : Nat} {l : DLine}

theorem State.takeGrant_pumped (hw : (s.die d).waits = []) (hl : l.leaving = false) :
    (s.takeGrant d m l).pumpLine d m.key true = s.takeGrant d m l := by
  have hdie : (s.takeGrant d m l).die d = { s.die d with
      lines := Tab.put (s.die d).lines m.key l, outst := (s.die d).outst.filter fun o => o.2 != m.line } :=
    (State.send_die ..).trans (State.die_setDie ..)
  refine State.pumpLine_idle (by rw [hdie]; exact hw) (fun f hf => ?_) true
  rw [hdie] at hf
  obtain rfl := Option.some.inj ((Tab.get?_put_same _ _ _).symm.trans hf)
  exact hl

/-- A grant with data of a line that the die does not hold. -/
theorem State.install_new (hk : m.kind = .gntS ∨ m.kind = .gntE) (hn : Tab.get? (s.die d).lines m.key = none)
    (hw : (s.die d).waits = []) (hsw : m.swm = false) : s.install d m = s.takeGrant d m
      { line := m.line, st := if m.kind = .gntS then .s else .e, stamp := m.stamp, data := m.data, inWell := false } := by
  rw [← State.takeGrant_pumped hw rfl]
  unfold State.install
  obtain hk | hk := hk
  · simp only [hk, hn, hsw]
    rfl
  · simp only [hk, hn, hsw]
    rfl

/-- GNT-X of a clean line that the die holds: it has the line in E with its own data. -/
theorem State.install_kept (hk : m.kind = .gntX) (hl : Tab.get? (s.die d).lines m.key = some l) (hline : l.line = m.line)
    (hd : l.dirty = false) (hgo : l.leaving = false) (hw : (s.die d).waits = []) (hsw : m.swm = false) :
    s.install d m = s.takeGrant d m { l with st := .e, stamp := m.stamp } := by
  rw [← State.takeGrant_pumped (l := { l with st := .e, stamp := m.stamp }) hw hgo]
  have hold : (Tab.get? (s.die d).lines m.key).filter (fun l => l.line == m.line) = some l := by simp [hl, hline]
  unfold State.install
  simp only [hk, hold, hd, hsw, Bool.false_eq_true, if_false]
  rfl

theorem State.granted_eq (hm : s.msg? k d pl = some m) (hr : (s.die d).restitch = none) :
    s.granted k d pl = (s.dropMsg m).install d m := by
  unfold State.granted
  simp [hm, hr]

end Sys2Proof.Machine
end

section
/-! PROOF of O50. -/
namespace Sys2Proof.Machine
variable {s : State} {k g : MsgKind} {a pl : Nat} {m : Msg} {op : HomeOp} {i : Instr}

/-- A die's request message, what it asks of the home, and what it is granted where no agent holds the line. -/
structure DieRequest (i : Instr) (k : MsgKind) (op : HomeOp) (g : MsgKind) (a pl : Nat) : Prop where
  runs : ∀ s, exec i s = .next (s.homeRequest k op a pl)
  grant : op.firstGrant = some g
  notShr : k ≠ .prShr
  notInv : k ≠ .prInv

theorem dieRequest_of_mem (h : (i, k, op, g) ∈ ([(.rds a pl, .rds, .rds, .gntE), (.rdx a pl, .rdx, .rdx, .gntE),
    (.own a pl, .own, .own, .gntX), (.upg a pl, .upg, .upg, .gntE)] : List (Instr × MsgKind × HomeOp × MsgKind))) :
    DieRequest i k op g a pl := by
  simp only [List.mem_cons, Prod.mk.injEq, List.not_mem_nil, or_false] at h
  obtain ⟨rfl, rfl, rfl, rfl⟩ | ⟨rfl, rfl, rfl, rfl⟩ | ⟨rfl, rfl, rfl, rfl⟩ | ⟨rfl, rfl, rfl, rfl⟩ := h <;>
    exact ⟨fun _ => rfl, rfl, nofun, nofun⟩

theorem DieRequest.idle (h : DieRequest i k op g a pl) (hm : s.msg? k a pl = some m) (hi : s.HomeIdle pl) :
    (s.dropMsg m).HomeIdle pl := by
  obtain ⟨hk, -, -⟩ := State.msg?_found hm
  exact hi.dropMsg (hk ▸ h.notShr) (hk ▸ h.notInv)

/-- The request of a line that no agent holds is granted at once. -/
theorem DieRequest.unheld (h : DieRequest i k op g a pl) (hm : s.msg? k a pl = some m) (hsw : m.swm = false) (hi : s.HomeIdle pl)
    (ha : a < 4) (hpl : pl < 2 ^ 44) (hb : (s.dirEnt pl).base = .uncached) (hs : (s.dirEnt pl).sharers = 0) :
    let r : HomeReq := { agent := a, op, asid := asidOfLine m.key, key := m.key, atomic := m.atomic }
    exec i s = .next (((s.dropMsg m).setDir pl (((s.dirEnt pl).serving r []).granting r)).send
      (r.grantMsg g pl (((s.dirEnt pl).stamp + 1) % 65536) (s.homeRead pl))) := by
  rw [h.runs, State.homeRequest_coherent hm (by omega) hsw]
  exact congrArg _ ((h.idle hm hi).arrive_unheld hpl ha hb hs h.grant)

/-- A request that comes while another is served joins the queue. -/
theorem DieRequest.queued (h : DieRequest i k op g a pl) (hm : s.msg? k a pl = some m) (hsw : m.swm = false) (hpl : pl < 2 ^ 44)
    {c : HomeReq} (hc : (s.dirEnt pl).cur = some c) (hp : (probesFor (s.dirEnt pl) c).2 = false) :
    exec i s = .next ((s.dropMsg m).setDir pl { s.dirEnt pl with queue := (s.dirEnt pl).queue ++
      [{ agent := a, op, asid := asidOfLine m.key, key := m.key, atomic := m.atomic }] }) := by
  rw [h.runs, State.homeRequest_coherent hm (by omega) hsw, State.arrive_joins]
  · unfold State.serve
    simp [hc]
  · intro b hb
    obtain rfl := Option.some.inj (hc.symm.trans hb)
    exact hp

/-- A grant's message of a given kind that a die installs, and the state of the line afterwards. -/
structure DieGrant (i : Instr) (k : MsgKind) (st : DSt) (a pl : Nat) : Prop where
  runs : ∀ s, exec i s = .next (s.granted k a pl)
  kind : k = .gntS ∨ k = .gntE ∨ k = .gntX
  state : st = if k = .gntS then .s else .e

theorem dieGrant_of_mem {st : DSt} (h : (i, k, st) ∈ ([(.gntS a pl, .gntS, .s), (.gntE a pl, .gntE, .e), (.gntX a pl, .gntX, .e)] :
    List (Instr × MsgKind × DSt))) : DieGrant i k st a pl := by
  simp only [List.mem_cons, Prod.mk.injEq, List.not_mem_nil, or_false] at h
  obtain ⟨rfl, rfl, rfl⟩ | ⟨rfl, rfl, rfl⟩ | ⟨rfl, rfl, rfl⟩ := h <;> exact ⟨fun _ => rfl, by simp, rfl⟩

/-- A grant is installed at a die on which nothing waits, where it brings a new line or finds a clean copy. -/
theorem DieGrant.installed {st : DSt} (h : DieGrant i k st a pl) (hm : s.msg? k a pl = some m) (hsw : m.swm = false)
    (hr : (s.die a).restitch = none) (hw : (s.die a).waits = [])
    (hold : ∀ l, Tab.get? (s.die a).lines m.key = some l → l.line = pl ∧ l.dirty = false ∧ l.leaving = false ∧ k = .gntX)
    (hheld : k = .gntX → (Tab.get? (s.die a).lines m.key).isSome = true) :
    ∃ l, exec i s = .next ((s.dropMsg m).takeGrant a m l) ∧ l.line = pl ∧ l.st = st ∧ l.stamp = m.stamp ∧
      l.data = (Tab.get? (s.die a).lines m.key).elim m.data (·.data) := by
  obtain ⟨hk, -, hline⟩ := State.msg?_found hm
  rw [h.runs, State.granted_eq hm hr]
  cases hl : Tab.get? (s.die a).lines m.key with
  | some l =>
    obtain ⟨hpl, hd, hgo, rfl⟩ := hold l hl
    refine ⟨{ l with st := .e, stamp := m.stamp }, congrArg _ ?_, hpl, ?_, rfl, rfl⟩
    · exact State.install_kept (s := s.dropMsg m) hk hl (hpl.trans hline.symm) hd hgo hw hsw
    · exact h.state.symm
  | none =>
    have hne : k ≠ .gntX := fun hx => by simpa [hl] using hheld hx
    refine ⟨_, congrArg _ (State.install_new (s := s.dropMsg m) ?_ hl hw hsw), hline, ?_, rfl, rfl⟩
    · rw [hk]
      exact h.kind.imp_right fun h => h.resolve_right hne
    · rw [hk]
      exact h.state.symm

/-- Settles O50: a request is granted, waits for one probe or joins the queue by what the line's entry holds; a grant and a
write-back by what the die and the home do with them where nothing else waits. -/
theorem homeRequests : Obligations.HomeRequests := by
  unfold Obligations.HomeRequests
  intro s a pl ha hpl e idle
  have hnear : pl < 2 ^ 45 := by omega
  refine ⟨fun ⟨i, k, op, g⟩ hr => ?request, ?rdx, ?upg, fun ⟨i, k, st⟩ hr => ?grant, fun m hm => exec_cmp hm, fun ⟨i, k⟩ hr => ?wb, ?wba⟩
  case request =>
    have h := dieRequest_of_mem hr
    refine ⟨?unheld, ?managed, ?queued, ?head⟩
    case unheld =>
      intro m hm hsw ⟨hc, hq, ho⟩ hb hs
      refine ⟨_, h.unheld hm hsw ⟨hc, hq, ho⟩ ha hpl hb hs, rfl, ?_⟩
      simp only [State.send_dirEnt, State.dirEnt_setDir]
      exact ⟨rfl, rfl, rfl, rfl, rfl, rfl, rfl, fun q hq => State.dirEnt_setDir_other _ _ hq⟩
    case managed => exact fun m hm hsw => by rw [h.runs, State.homeRequest_managed hm hpl hsw]
    case queued =>
      intro m hm hsw c hc hp
      exact ⟨_, h.queued hm hsw hpl hc hp, State.dirEnt_setDir .., rfl⟩
    case head =>
      intro q rest hc ho hq hqa hqo hrest hb hs
      refine ⟨_, congrArg Host.Outcome.next
        (State.serve_unheld hc ho hq hrest hpl (hqa ▸ ha) hb hs ((congrArg _ hqo).trans h.grant)), ?_⟩
      simp only [State.send_dirEnt, State.dirEnt_setDir]
      exact ⟨rfl, rfl, hqa, by rw [← hqa]; rfl⟩
  case rdx =>
    intro m o hm hsw ⟨hc, hq, ho⟩ hb ho4 hoa hs hkey
    have h : DieRequest (.rdx a pl) .rdx .rdx .gntE a pl := dieRequest_of_mem (by simp)
    have hone : (s.dirEnt pl).holders = [o] := DirEnt.holders_one hb (by omega) hs
    have hi := h.idle hm ⟨hc, hq, ho⟩
    refine ⟨_, (h.runs s).trans (congrArg _ ((State.homeRequest_coherent hm hnear hsw).trans ((hi.arrive
      (DirEnt.synonym_of_key (e := e) hkey) (State.hostNeeds_device hpl)).trans
      (State.begin_invalidates (o := o) ?_ ho4 ((congrArg _ (State.dirEnt_setDir ..)).trans hq) rfl)))), ?_⟩
    · rw [State.dirEnt_setDir]
      simp [probesFor, hone, hoa]
    · simp only [State.send_dirEnt, State.dirEnt_setDir, State.setDir_setDir]
      exact ⟨rfl, rfl, rfl⟩
  case upg =>
    intro m hm hsw ⟨hc, hq, ho⟩ hb hs hkey
    have h : DieRequest (.upg a pl) .upg .upg .gntE a pl := dieRequest_of_mem (by simp)
    have hone : (s.dirEnt pl).holders = [a] := DirEnt.holders_one hb (by omega) hs
    have hi := h.idle hm ⟨hc, hq, ho⟩
    refine ⟨_, (h.runs s).trans (congrArg _ ((State.homeRequest_coherent hm hnear hsw).trans ((hi.arrive_unprobed
      (DirEnt.synonym_of_key (e := e) hkey) (State.hostNeeds_device hpl) ?_).trans
      ((State.conclude_upg rfl ha ?_ ?_).trans (State.grant_exclusive ..))))), ?_⟩
    · simp [probesFor, hone]
    · rw [State.dirEnt_setDir]
      rfl
    · rw [State.dirEnt_setDir]
      exact hone ▸ List.mem_singleton_self a
    · simp only [State.send_dirEnt, State.dirEnt_setDir]
      exact ⟨rfl, rfl, _, rfl, rfl, rfl⟩
  case grant =>
    intro m hm hsw hr' hw hold hheld
    obtain ⟨l, hexec, hline, hst, hstamp, hdata⟩ := (dieGrant_of_mem hr).installed hm hsw hr' hw hold hheld
    obtain ⟨-, -, hml⟩ := State.msg?_found hm
    refine ⟨_, l, hexec, ?_⟩
    unfold State.takeGrant
    simp only [State.send_die, State.die_setDie, Tab.get?_put_same, hml, State.dropMsg_die]
    refine ⟨trivial, hline, hst, hstamp, hdata, fun o ho => ?_, fun k hk => Tab.get?_put_other _ _ _ hk, rfl⟩
    simpa using (List.mem_filter.1 ho).2
  case wb =>
    intro m hm hmask hc
    have hk : exec i s = .next (s.homeWb k a pl) := by
      simp only [List.mem_cons, Prod.mk.injEq, List.not_mem_nil, or_false] at hr
      obtain ⟨rfl, rfl⟩ | ⟨rfl, rfl⟩ := hr <;> rfl
    refine ⟨_, hk.trans (congrArg _ (State.homeWb_unserved hm hmask hc hpl)), ?_, State.homeRead_wroteBack _ _ _ hpl, ?_⟩
    · rw [State.setDir_msgs]
      split_ifs
      · exact State.homeWrite_msgs ..
      · rfl
    · rw [State.dirEnt_setDir, DirEnt.wroteBack_base]
  case wba =>
    exact fun m w hm hf hw hi hl => exec_wba hm hf hw ⟨hi, hl⟩

end Sys2Proof.Machine
end

section
/-! SUPPORT. Probes at a die, and answers at a home (spec/09_coherence.md R192, R199 to R206). -/
namespace Sys2Proof.Machine
variable {s : State} {d k pl stamp : Nat} {inv clean : Bool}

/-! ## What changes at the L1s leave alone -/

section
variable (s d k) (e : Nat) (p : Fill → Bool)

/-- At a die the fills alone may change. -/
theorem State.spoilFills_die : (s.spoilFills d p).die e = { s.die e with fills := ((s.spoilFills d p).die e).fills } := by
  unfold State.spoilFills
  by_cases h : e = d
  · subst h
    rw [State.die_setDie]
  · rw [State.die_setDie_other _ _ h]

theorem State.l1Drop_die : (s.l1Drop d k).die e = { s.die e with fills := ((s.l1Drop d k).die e).fills } := State.spoilFills_die _ _ _ _

theorem State.l1Share_die : (s.l1Share d k).die e = { s.die e with fills := ((s.l1Share d k).die e).fills } := State.spoilFills_die _ _ _ _

@[simp] theorem State.l1Drop_lines : ((s.l1Drop d k).die e).lines = (s.die e).lines := by rw [State.l1Drop_die]
@[simp] theorem State.l1Share_lines : ((s.l1Share d k).die e).lines = (s.die e).lines := by rw [State.l1Share_die]
@[simp] theorem State.delLine_die : (s.delLine d k).die d = { s.die d with lines := Tab.del (s.die d).lines k } := State.die_setDie ..
@[simp] theorem State.setLine_die (l : DLine) : (s.setLine d k l).die d = { s.die d with lines := Tab.put (s.die d).lines k l } :=
  State.die_setDie ..
@[simp] theorem State.send_msgs (m : Msg) : (s.send m).msgs = s.msgs ++ [m] := rfl
end

/-! ## A probe at a die (R200, R202, R205) -/

/-- The answer to a probe, but for its kind and what it carries. -/
def probeAnswer (d k pl stamp : Nat) : Msg := { kind := .ackI, agent := d, line := pl, key := k, stamp }

/-- What a probe that shares a line leaves of a die's state (R200, R208). -/
def DSt.afterShare (st : DSt) (clean : Bool) : DSt := if st = .m ∨ st = .o then (if clean then .s else .o) else .s

/-- What a probe does to the L1s of a die that does not hold the line. -/
def State.probeL1 (s : State) (d k : Nat) (inv : Bool) : State := if inv then s.l1Drop d k else s.l1Share d k

theorem State.probed_stale (h : (s.die d).stale k pl stamp = true) :
    s.probed d k pl stamp inv clean = s.send { probeAnswer d k pl stamp with kind := .ackSt } := by
  unfold State.probed
  simp only [h, if_true]
  rfl

section
variable (h : (s.die d).stale k pl stamp = false)
include h

theorem State.probed_inv {l : DLine} (hc : (s.die d).copyOf k pl = some l) :
    s.probed d k pl stamp true clean = ((s.delLine d k).l1Drop d k).send
      { probeAnswer d k pl stamp with kind := if l.dirty then .ackD else .ackI, data := l.data } := by
  unfold State.probed
  simp only [h, hc, Bool.false_eq_true, if_false, if_true]
  rfl

theorem State.probed_shr {l : DLine} (hc : (s.die d).copyOf k pl = some l) :
    s.probed d k pl stamp false clean = ((s.setLine d k { l with st := l.st.afterShare clean }).l1Share d k).send
      { probeAnswer d k pl stamp with kind := if l.dirty then .ackD else .ackI, data := l.data } := by
  unfold State.probed
  simp only [h, hc, Bool.false_eq_true, if_false]
  cases hst : l.st <;> rfl

theorem State.probed_none (hc : (s.die d).copyOf k pl = none) :
    s.probed d k pl stamp inv clean = (s.probeL1 d k inv).send (((s.die d).wbOf pl).elim (probeAnswer d k pl stamp) fun w =>
      { probeAnswer d k pl stamp with kind := .ackWb, wb := w.stamp }) := by
  unfold State.probed
  simp only [h, hc, Bool.false_eq_true, if_false]
  cases (s.die d).wbOf pl <;> rfl
end

theorem State.probeL1_die (e : Nat) : (s.probeL1 d k inv).die e = { s.die e with fills := ((s.probeL1 d k inv).die e).fills } := by
  unfold State.probeL1
  split_ifs
  · exact State.l1Drop_die ..
  · exact State.l1Share_die ..

theorem State.probeL1_msgs : (s.probeL1 d k inv).msgs = s.msgs := by
  unfold State.probeL1
  split_ifs <;> rfl

theorem State.probed_mouthq : ((s.probed d k pl stamp inv clean).die d).mouthq = (s.die d).mouthq := by
  cases h : (s.die d).stale k pl stamp with
  | true => rw [State.probed_stale h, State.send_die]
  | false =>
    cases hc : (s.die d).copyOf k pl with
    | some l =>
      cases inv
      · rw [State.probed_shr h hc, State.send_die, State.l1Share_die, State.setLine_die]
      · rw [State.probed_inv h hc, State.send_die, State.l1Drop_die, State.delLine_die]
    | none => rw [State.probed_none h hc, State.send_die, State.probeL1_die]

/-- A probe of a copy that the die holds. -/
theorem State.probed_copy {l : DLine} (h : Tab.get? (s.die d).lines k = some l) (hl : l.line = pl) (hs : l.swm = false) :
    let u := s.probed d k pl stamp inv clean
    if staleProbe l.stamp stamp = true then
      (u.die d).lines = (s.die d).lines ∧ u.msgs = s.msgs ++ [{ probeAnswer d k pl stamp with kind := .ackSt }]
    else u.msgs = s.msgs ++ [{ probeAnswer d k pl stamp with kind := if l.dirty then .ackD else .ackI, data := l.data }] ∧
      Tab.get? (u.die d).lines k = if inv then none else some { l with st := l.st.afterShare clean } := by
  have hcopy : (s.die d).copyOf k pl = some l := by simp [Die.copyOf, h, hl, hs]
  have hstale : (s.die d).stale k pl stamp = staleProbe l.stamp stamp := by simp [Die.stale, hcopy]
  intro u
  by_cases hst : staleProbe l.stamp stamp = true
  · rw [if_pos hst, show u = _ from State.probed_stale (hstale.trans hst)]
    exact ⟨rfl, rfl⟩
  · rw [if_neg hst]
    replace hstale := hstale.trans (eq_false_of_ne_true hst)
    cases inv with
    | true =>
      rw [show u = _ from State.probed_inv hstale hcopy]
      exact ⟨rfl, by rw [State.send_die, State.l1Drop_lines, State.delLine_die, Tab.get?_del, if_pos rfl, if_pos rfl]⟩
    | false =>
      rw [show u = _ from State.probed_shr hstale hcopy]
      exact ⟨rfl, by rw [State.send_die, State.l1Share_lines, State.setLine_die, Tab.get?_put_same, if_neg Bool.false_ne_true]⟩

/-- A probe of a line that the die does not hold. -/
theorem State.probed_absent (h : Tab.get? (s.die d).lines k = none) :
    let u := s.probed d k pl stamp inv clean
    (u.die d).lines = (s.die d).lines ∧ u.msgs = s.msgs ++ [((s.die d).wbOf pl).elim (probeAnswer d k pl stamp) fun w =>
      if staleProbe w.stamp stamp then { probeAnswer d k pl stamp with kind := .ackSt }
      else { probeAnswer d k pl stamp with kind := .ackWb, wb := w.stamp }] := by
  have hcopy : (s.die d).copyOf k pl = none := by simp [Die.copyOf, h]
  have hanswered (h : (s.die d).stale k pl stamp = false) {m : Msg} (hm : ((s.die d).wbOf pl).elim (probeAnswer d k pl stamp)
      (fun w => { probeAnswer d k pl stamp with kind := .ackWb, wb := w.stamp }) = m) :
      let u := s.probed d k pl stamp inv clean
      (u.die d).lines = (s.die d).lines ∧ u.msgs = s.msgs ++ [m] := by
    intro u
    rw [show u = _ from State.probed_none h hcopy, hm, State.send_die, State.probeL1_die, State.send_msgs, State.probeL1_msgs]
    exact ⟨rfl, rfl⟩
  cases hw : (s.die d).wbOf pl with
  | none => exact hanswered (by simp [Die.stale, hcopy, hw]) (by rw [hw]; rfl)
  | some w =>
    intro u
    rw [Option.elim_some]
    by_cases hst : staleProbe w.stamp stamp = true
    · rw [if_pos hst, show u = _ from State.probed_stale (by simp [Die.stale, hcopy, hw, hst])]
      exact ⟨rfl, rfl⟩
    · rw [if_neg hst]
      exact hanswered (by simp [Die.stale, hcopy, hw, hst]) (by rw [hw]; rfl)

/-! ## A probe at the mouth (R192, R194) -/

theorem State.fillLog_dies (core : Nat) : (s.fillLog core).dies = s.dies := by
  unfold State.fillLog
  refine List.foldlRecOn (motive := fun t : State => t.dies = s.dies) _ _ rfl fun t ht a _ => ?_
  cases a with
  | req r =>
    dsimp only
    split_ifs
    · exact ht
    · exact ht
  | _ => exact ht

theorem State.fillLogs_die (e : Nat) : (s.fillLogs d).die e = s.die e := by
  have hdies : (s.fillLogs d).dies = s.dies := by
    unfold State.fillLogs
    exact List.foldlRecOn (motive := fun t : State => t.dies = s.dies) _ _ rfl fun t ht c _ => (State.fillLog_dies _).trans ht
  unfold State.die
  rw [hdies]

theorem State.admitUpTo_nil {n : Nat} (h : (s.die d).mouthq = []) : s.admitUpTo d n = s := by
  cases n with
  | zero => rfl
  | succ n =>
    unfold State.admitUpTo
    dsimp only
    rw [h]

theorem State.admitUpTo_cons {r : Req} {rest : List Req} {n : Nat} (h : (s.die d).mouthq = r :: rest) :
    s.admitUpTo d (n + 1) = if s.carried d r = true then s
      else ((s.setDie d { s.die d with mouthq := rest }).admitReq d r).admitUpTo d n := by
  conv => lhs; unfold State.admitUpTo
  dsimp only
  rw [h]

/-- A probe is answered at its admission, where its tile is at rest (R126, R200). -/
theorem State.admitReq_probe {r : Req} (hop : r.op = .probe inv clean pl stamp)
    (ht : ∀ t, Tab.get? (s.die d).tiles (tileKey r.asid r.va) = some t → t.transit = false) :
    s.admitReq d r = s.probed d (lineKey r.asid r.va) pl stamp inv clean := by
  have happly : s.applyReq d r = s.probed d (lineKey r.asid r.va) pl stamp inv clean := by
    unfold State.applyReq
    rw [hop]
  have htouch (t : Option Tile) : r.touch t = false := by
    unfold Req.touch
    rw [hop]
  unfold State.admitReq
  dsimp only
  rw [htouch, if_neg Bool.false_ne_true]
  split
  · next t hget =>
    rw [ht t hget, Bool.false_and, if_neg Bool.false_ne_true, happly]
  · exact happly

/-- A probe that is alone at the mouth and is not carried. -/
theorem State.admitUpTo_probe {r : Req} {n : Nat} (hq : (s.die d).mouthq = [r]) (hop : r.op = .probe inv clean pl stamp)
    (hc : s.carried d r = false) (ht : ∀ t, Tab.get? (s.die d).tiles (tileKey r.asid r.va) = some t → t.transit = false) :
    s.admitUpTo d (n + 1) =
      (s.setDie d { s.die d with mouthq := [] }).probed d (lineKey r.asid r.va) pl stamp inv clean := by
  rw [State.admitUpTo_cons hq, hc, if_neg Bool.false_ne_true, State.admitReq_probe hop (by rw [State.die_setDie]; exact ht),
    State.admitUpTo_nil]
  rw [State.probed_mouthq, State.die_setDie]

/-- A probe that comes to a die is announced at its Drum. -/
theorem State.probeComes_eq {kind : MsgKind} {m : Msg} (h : s.msg? kind d pl = some m) : s.probeComes kind d pl =
    (s.dropMsg m).setDie d { s.die d with anns := (s.die d).anns ++ [.req
      { uid := 0, ent := 0, ctx := 0, core := d * 192, asid := asidOfLine m.key
        op := .probe (kind == .prInv) m.clean pl m.stamp, va := vaOfLine m.key }] } := by
  unfold State.probeComes
  rw [h]
  rfl

/-! ## Answers at a home (R199, R204 to R206) -/

section
variable {agent : Nat} {c : HomeReq} {data : Option LineData}

theorem State.storeDirty_dirEnt (l : Nat) : (s.storeDirty pl).dirEnt l = s.dirEnt l := by
  unfold State.storeDirty
  split
  · rfl
  · split_ifs
    · exact State.homeWrite_dirEnt ..
    · exact State.homeWrite_dirEnt ..

theorem State.storeDirty_msgs : (s.storeDirty pl).msgs = s.msgs := by
  unfold State.storeDirty
  split
  · rfl
  · split_ifs
    · exact State.homeWrite_msgs ..
    · exact State.homeWrite_msgs ..

theorem State.storeDirty_homeRead (hpl : pl < 2 ^ 45) : (s.storeDirty pl).homeRead pl = (s.dirEnt pl).dirty.getD (s.homeRead pl) := by
  unfold State.storeDirty
  split
  · next h => rw [h]; rfl
  · next d h =>
    rw [h, Option.getD_some]
    split_ifs
    · exact State.homeRead_homeWrite_same s d hpl
    · exact State.homeRead_homeWrite_same s d hpl

/-- RDX with no answer to wait for any more: the data that an answer brought goes into memory, and the line is granted. -/
theorem State.conclude_rdx (hop : c.op = .rdx) (hc : c.agent < 4) : s.conclude' pl c =
    (s.storeDirty pl).grant pl c .gntE ((s.storeDirty pl).homeRead pl) fun e => e.exclusiveTo c.agent := by
  have hc4 : c.agent ≠ 4 := by omega
  unfold State.conclude'
  simp [hop, hc4]

/-- A line granted to the die whose RDX the home serves, with the data that the last answer brought, or else memory's. -/
structure State.GrantsRdx (s u : State) (pl : Nat) (c : HomeReq) (data : Option LineData) : Prop where
  base : (u.dirEnt pl).base = .exclusive
  owner : (u.dirEnt pl).owner = c.agent
  st : (u.dirEnt pl).st = .granting
  mem : u.homeRead pl = data.getD (s.homeRead pl)
  msgs : u.msgs = s.msgs ++ [{ kind := .gntE, agent := c.agent, line := pl, key := c.key
                               stamp := ((s.dirEnt pl).stamp + 1) % 65536, data := data.getD (s.homeRead pl), atomic := c.atomic }]

/-- An answer that nobody waits for changes nothing. -/
theorem State.answered_unawaited (h : (agent, stamp) ∉ (s.dirEnt pl).waitAck) : s.answered pl agent stamp data = s := by
  unfold State.answered
  simp [h]

/-- The last answer that the home of a device line waits for on behalf of an RDX. -/
theorem State.answered_last (hcur : (s.dirEnt pl).cur = some c) (hop : c.op = .rdx) (hc : c.agent < 4) (hpl : pl < 2 ^ 44)
    (hst : (s.dirEnt pl).st = .probing) (hack : (s.dirEnt pl).waitAck = [(agent, stamp)]) (hwb : (s.dirEnt pl).waitWb = [])
    (hagain : (s.dirEnt pl).again = false) (hdirty : (s.dirEnt pl).dirty = none) :
    s.GrantsRdx (s.answered pl agent stamp data) pl c data := by
  have hanswer : s.answered pl agent stamp data =
      (s.setDir pl { s.dirEnt pl with waitAck := [], dirty := data }).conclude' pl c := by
    unfold State.answered State.proceed
    simp [hcur, hst, hack, hwb, hagain, hdirty]
  rw [hanswer, State.conclude_rdx hop hc, State.grant_exclusive]
  have hread : ((s.setDir pl { s.dirEnt pl with waitAck := [], dirty := data }).storeDirty pl).homeRead pl =
      data.getD (s.homeRead pl) := by
    rw [State.storeDirty_homeRead (by omega), State.dirEnt_setDir, State.setDir_homeRead]
  refine ⟨?_, ?_, ?_, hread, ?_⟩
  · rw [State.send_dirEnt, State.dirEnt_setDir]
    rfl
  · rw [State.send_dirEnt, State.dirEnt_setDir]
    rfl
  · rw [State.send_dirEnt, State.dirEnt_setDir]
    rfl
  · rw [State.send_msgs, State.setDir_msgs, State.storeDirty_msgs, State.setDir_msgs, hread, State.storeDirty_dirEnt,
      State.dirEnt_setDir]
    rfl

theorem State.proceed_waits (h : (s.dirEnt pl).waitWb ≠ []) : s.proceed pl = s := by
  unfold State.proceed
  dsimp only
  split
  · rfl
  · rw [if_pos (by simp [h])]
end

/-- An element that differs from the one taken is in the list before if and only if it is afterwards. -/
theorem mem_dropFirst_of_ne {α : Type} [BEq α] [LawfulBEq α] {a b : α} (h : b ≠ a) (l : List α) :
    b ∈ dropFirst (· == a) l ↔ b ∈ l := by
  have hfilter := filter_dropFirst (p := (· == b)) (a := a) (beq_eq_false_iff_ne.2 h.symm) l
  have hmem (l : List α) : b ∈ l.filter (· == b) ↔ b ∈ l := by simp
  rw [← hmem, hfilter, hmem]

end Sys2Proof.Machine
end

section
/-! PROOF of O51. -/
namespace Sys2Proof.Machine
variable {s : State} {k : MsgKind} {a pl : Nat} {m : Msg} {i : Instr} {data : Option LineData}

/-- An answer of a die to a probe, with the data that it brings the home. -/
structure DieAnswer (i : Instr) (k : MsgKind) (data : Option LineData) (m : Msg) (a pl : Nat) : Prop where
  behind : ∀ s : State, (s.msg? .wbk a pl).isSome = true → exec i s = .next s
  taken : ∀ s : State, s.msg? .wbk a pl = none → s.msg? k a pl = some m →
    exec i s = .next ((s.dropMsg m).answered pl a m.stamp data)

theorem dieAnswer_of_mem (h : (i, k, data) ∈ ([(.ackI a pl, .ackI, none), (.ackSt a pl, .ackSt, none),
    (.ackD a pl, .ackD, some m.data)] : List (Instr × MsgKind × Option LineData))) : DieAnswer i k data m a pl := by
  have hbehind (s : State) (k : MsgKind) (h : (s.msg? .wbk a pl).isSome = true) : s.answer? k a pl = none := if_pos h
  have htaken (s : State) (k : MsgKind) (h : s.msg? .wbk a pl = none) : s.answer? k a pl = s.msg? k a pl :=
    if_neg (by simp [h])
  simp only [List.mem_cons, Prod.mk.injEq, List.not_mem_nil, or_false] at h
  obtain ⟨rfl, rfl, rfl⟩ | ⟨rfl, rfl, rfl⟩ | ⟨rfl, rfl, rfl⟩ := h
  · refine ⟨fun s hw => ?_, fun s hw hm => ?_⟩ <;> change execAckI a pl s = _ <;> unfold execAckI
    · rw [hbehind s _ hw]
    · rw [htaken s _ hw, hm]
  · refine ⟨fun s hw => ?_, fun s hw hm => ?_⟩ <;> change execAckSt a pl s = _ <;> unfold execAckSt
    · rw [hbehind s _ hw]
    · rw [htaken s _ hw, hm]
  · refine ⟨fun s hw => ?_, fun s hw hm => ?_⟩ <;> change execAckD a pl s = _ <;> unfold execAckD
    · rw [hbehind s _ hw]
    · rw [htaken s _ hw, hm]

section
variable (hm : s.msg? .ackWb a pl = some m) (hw : s.msg? .wbk a pl = none)
include hm hw

/-- ACK-WB that no WBK of its die stands before: the home waits for the write-back that it names where that is on its way, and
else removes the agent. -/
theorem exec_ackWb (hin : (a, m.stamp) ∈ (s.dirEnt pl).waitAck) {coming : Bool}
    (hc : ((s.dropMsg m).msgs.any fun w => w.kind == .wb && w.agent == a && w.line == pl && w.stamp == m.wb) = coming) :
    exec (.ackWb a pl) s = .next (((s.dropMsg m).setDir pl
      { (if coming then { s.dirEnt pl with waitWb := (s.dirEnt pl).waitWb ++ [a] } else (s.dirEnt pl).remove a) with
        waitAck := (s.dirEnt pl).waitAck.filter (· != (a, m.stamp)), again := true }).proceed pl) := by
  have hanswer : s.answer? .ackWb a pl = some m := (if_neg (by simp [hw])).trans hm
  have hremove : ((s.dirEnt pl).remove a).waitAck = (s.dirEnt pl).waitAck := by
    unfold DirEnt.remove
    split_ifs <;> rfl
  have htaken : ¬ (!(s.dirEnt pl).waitAck.contains (a, m.stamp)) = true := by simp [hin]
  change execAckWb a pl s = _
  unfold execAckWb
  rw [hanswer]
  simp only [State.dropMsg_dirEnt, if_neg htaken, hc]
  cases coming
  · simp only [Bool.false_eq_true, if_false, hremove]
  · rfl

theorem exec_ackWb_unawaited (hno : (a, m.stamp) ∉ (s.dirEnt pl).waitAck) : exec (.ackWb a pl) s = .next (s.dropMsg m) := by
  have hanswer : s.answer? .ackWb a pl = some m := (if_neg (by simp [hw])).trans hm
  change execAckWb a pl s = _
  unfold execAckWb
  rw [hanswer]
  simp [hno]

variable (hin : (a, m.stamp) ∈ (s.dirEnt pl).waitAck)
include hin

theorem exec_ackWb_coming (hc : ∃ w ∈ s.msgs, w.kind = .wb ∧ w.agent = a ∧ w.line = pl ∧ w.stamp = m.wb) :
    exec (.ackWb a pl) s = .next ((s.dropMsg m).setDir pl { s.dirEnt pl with
      waitAck := (s.dirEnt pl).waitAck.filter (· != (a, m.stamp)), again := true, waitWb := (s.dirEnt pl).waitWb ++ [a] }) := by
  obtain ⟨w, hmem, hkind, hagent, hline, hstamp⟩ := hc
  have hne : w ≠ m := by
    rintro rfl
    exact absurd (hkind.symm.trans (State.msg?_found hm).1) (by decide)
  have hany : ((s.dropMsg m).msgs.any fun w => w.kind == .wb && w.agent == a && w.line == pl && w.stamp == m.wb) = true :=
    List.any_eq_true.2 ⟨w, (mem_dropFirst_of_ne hne _).2 hmem, by simp [hkind, hagent, hline, hstamp]⟩
  rw [exec_ackWb hm hw hin hany, if_pos rfl, State.proceed_waits]
  rw [State.dirEnt_setDir]
  simp

theorem exec_ackWb_came (hc : ∀ w ∈ s.msgs, w.kind = .wb → w.agent = a → w.line = pl → w.stamp ≠ m.wb) :
    exec (.ackWb a pl) s = .next (((s.dropMsg m).setDir pl { (s.dirEnt pl).remove a with
      waitAck := (s.dirEnt pl).waitAck.filter (· != (a, m.stamp)), again := true }).proceed pl) := by
  have hany : ¬ ((s.dropMsg m).msgs.any fun w => w.kind == .wb && w.agent == a && w.line == pl && w.stamp == m.wb) = true := by
    rw [List.any_eq_true]
    rintro ⟨w, hmem, hw⟩
    simp only [Bool.and_eq_true, beq_iff_eq] at hw
    obtain ⟨⟨⟨hkind, hagent⟩, hline⟩, hstamp⟩ := hw
    have hne : w ≠ m := by
      rintro rfl
      exact absurd (hkind.symm.trans (State.msg?_found hm).1) (by decide)
    exact hc w ((mem_dropFirst_of_ne hne _).1 hmem) hkind hagent hline hstamp
  rw [exec_ackWb hm hw hin (eq_false_of_ne_true hany), if_neg Bool.false_ne_true]
end

/-- BIRSP answers the probe that the host's line has in flight (R206). -/
theorem exec_birsp {stamp : Nat} (h : (s.dirEnt pl).waitAck = [(4, stamp)]) :
    exec (.birsp pl data) s = .next (s.answered pl 4 stamp data) := by
  change execBirsp pl data s = _
  unfold execBirsp
  rw [h]
  rfl

theorem exec_birsp_none (h : ∀ w ∈ (s.dirEnt pl).waitAck, w.1 ≠ 4) : exec (.birsp pl data) s = .next s := by
  have hnone : (s.dirEnt pl).waitAck.find? (fun w => w.1 == 4) = none := List.find?_eq_none.2 fun w hw => by simp [h w hw]
  change execBirsp pl data s = _
  unfold execBirsp
  rw [hnone]

/-- Settles O51: what a probe finds at the die decides its answer; an answer is taken, discarded or waits behind the die's
write-back, and the last one concludes what the home serves. -/
theorem probesAndAnswers : Obligations.ProbesAndAnswers := by
  unfold Obligations.ProbesAndAnswers
  intro s a pl e x
  refine ⟨fun m ⟨i, k, inv⟩ hr => ?probe, ?mouth, ?die, fun m ⟨i, k, data⟩ hr => ?answer, ?ackWb, ?birsp⟩
  case probe =>
    intro hm
    simp only [List.mem_cons, Prod.mk.injEq, List.not_mem_nil, or_false] at hr
    obtain ⟨rfl, rfl, rfl⟩ | ⟨rfl, rfl, rfl⟩ := hr
    · exact congrArg _ (State.probeComes_eq hm)
    · exact congrArg _ (State.probeComes_eq hm)
  case mouth =>
    intro r inv clean stamp s0 hq hop hc ht
    have hdie : s0.die a = x := State.fillLogs_die a
    refine ⟨hdie, ?_⟩
    change Host.Outcome.next ((s0.admitUpTo a 8).pumpDie a) = _
    rw [State.admitUpTo_probe (hdie ▸ hq) hop hc (hdie ▸ ht), hdie]
  case die =>
    intro k stamp inv clean u answer
    refine ⟨fun l hl hline hs => State.probed_copy hl hline hs, fun hn => ?_⟩
    obtain ⟨hlines, hmsgs⟩ := State.probed_absent (pl := pl) (stamp := stamp) (inv := inv) (clean := clean) hn
    refine ⟨hlines, fun hno => ?_, fun w hw hline hmask => ?_⟩
    · have hwb : x.wbOf pl = none := List.find?_eq_none.2 fun w hw => by simp [hno w hw]
      rw [hwb] at hmsgs
      exact hmsgs
    · have hwb : x.wbOf pl = some w := by simp [Die.wbOf, hw, hline, hmask]
      rw [hwb] at hmsgs
      exact hmsgs
  case answer =>
    intro hm
    obtain ⟨hbehind, htaken⟩ := dieAnswer_of_mem hr
    refine ⟨hbehind s, fun hw hno => ?_, fun c hw hcur hop hc hpl hst hack hwb hagain hdirty => ?_⟩
    · rw [htaken s hw hm, State.answered_unawaited (s := s.dropMsg m) hno]
    · obtain ⟨hbase, howner, hgst, hmem, hmsgs⟩ :=
        State.answered_last (s := s.dropMsg m) (data := data) hcur hop hc hpl hst hack hwb hagain hdirty
      exact ⟨_, htaken s hw hm, hbase, howner, hgst, hmem, hmsgs⟩
  case ackWb =>
    intro m hm hw taken
    exact ⟨exec_ackWb_unawaited hm hw, exec_ackWb_coming hm hw, exec_ackWb_came hm hw⟩
  case birsp =>
    intro data
    refine ⟨exec_birsp_none, fun c st hcur hop hc hpl hst hack hwb hagain hdirty => ?_⟩
    obtain ⟨hbase, howner, -, hmem, hmsgs⟩ :=
      State.answered_last (data := data) hcur hop hc hpl hst hack hwb hagain hdirty
    exact ⟨_, exec_birsp hack, hbase, howner, hmem, hmsgs⟩

end Sys2Proof.Machine
end

section
/-! SUPPORT. Requests of the host, snoops of its lines, and requests of peers (spec/09_coherence.md R206 to R208, R212;
spec/15_platform.md R325, R327, R330, R334). -/
namespace Sys2Proof.Machine
variable {s : State} {hpa pl : Nat} {op : HomeOp} {during : Nat → OutMsg} {r : HomeReq}

/-! ## The host's requests of device memory -/

theorem State.hostMemory_closed (h : s.plat.minimal = true ∨ s.plat.cxl = false) : s.hostMemory hpa during op = s := by
  unfold State.hostMemory
  obtain h | h := h <;> simp [h]

section
variable (hm : s.plat.minimal = false) (hx : s.plat.cxl = true)
include hm hx

theorem State.hostMemory_unmapped (h : hpa < s.plat.hdmbase ∨ s.plat.hdmbase + 0x18000000000 ≤ hpa) :
    s.hostMemory hpa during op = s.emit (.memUnmapped hpa) := by
  unfold State.hostMemory
  rw [if_neg (by simp [hm, hx]), if_pos (by unfold deviceBytes; exact h)]

variable (hlo : s.plat.hdmbase ≤ hpa) (hhi : hpa < s.plat.hdmbase + 0x18000000000)
include hlo hhi

theorem State.hostMemory_mapped : s.hostMemory hpa during op = if s.plat.wiping = true
    then s.emit (during ((hpa - s.plat.hdmbase) / 128)) else s.arrive ((hpa - s.plat.hdmbase) / 128) { agent := 4, op } := by
  unfold State.hostMemory
  rw [if_neg (by simp [hm, hx]), if_neg (by unfold deviceBytes; omega)]
end

/-- A line that no agent holds, at a home with nothing to do. -/
structure State.Unheld (s : State) (pl : Nat) : Prop where
  idle : s.HomeIdle pl
  base : (s.dirEnt pl).base = .uncached
  sharers : (s.dirEnt pl).sharers = 0

/-- A request that is no die's comes to the home of a line that no agent holds, and is concluded at once. -/
theorem State.Unheld.arrive (h : s.Unheld pl) (hsyn : (s.dirEnt pl).synonym r = false) (hh : s.hostNeeds pl r = none) :
    s.arrive pl r = (s.setDir pl ((s.dirEnt pl).serving r [])).conclude' pl r :=
  h.idle.arrive_unprobed hsyn hh (probesFor_unheld h.base h.sharers)

section
variable {e : DirEnt} (hb : e.base = .uncached) (hs : e.sharers = 0) (he : s.dirEnt pl = e.serving r [])
include hb hs he

theorem State.serving_unheld : (s.dirEnt pl).base = .uncached ∧ (s.dirEnt pl).owned? = none ∧ (s.dirEnt pl).holders = [] ∧
    (s.dirEnt pl).dirty = none := by
  rw [he]
  exact ⟨hb, DirEnt.owned?_of_base (e := e.serving r []) (by simp [DirEnt.serving, hb]) (by simp [DirEnt.serving, hb]),
    DirEnt.holders_unheld hb hs, rfl⟩

/-- The host's shared and exclusive reads leave it the line's exclusive holder. -/
theorem State.conclude_hostTakes (hpl : pl < 2 ^ 44) (ha : r.agent = 4) (hop : r.op = .hostShared ∨ r.op = .hostExcl) :
    s.conclude' pl r = (s.setDir pl ((s.dirEnt pl).exclusiveTo 4).settle).emit (.memData pl (s.homeRead pl)) := by
  obtain ⟨hbase, howned, hnone, hdirty⟩ := State.serving_unheld hb hs he
  unfold State.conclude'
  obtain hop | hop := hop
  · simp [hop, ha, hbase, howned, hdirty, isHostLine_device hpl]
  · simp [hop, ha, State.storeDirty_none hdirty]

/-- Its uncached read leaves the line as it is. -/
theorem State.conclude_hostReads (hop : r.op = .hostRead) :
    s.conclude' pl r = (s.emit (.memData pl (s.homeRead pl))).setDir pl (s.dirEnt pl).settle := by
  obtain ⟨hbase, howned, hnone, hdirty⟩ := State.serving_unheld hb hs he
  unfold State.conclude'
  simp [hop, howned, hdirty]

/-- Its write goes into memory. -/
theorem State.conclude_hostWrites {d : LineData} (hop : r.op = .hostWrite d) :
    s.conclude' pl r = ((s.homeWrite pl d fullMask).setDir pl (s.dirEnt pl).clear.settle).emit (.memDone pl) := by
  obtain ⟨hbase, howned, hnone, hdirty⟩ := State.serving_unheld hb hs he
  unfold State.conclude'
  simp [hop, hnone, State.takeDirty_none hdirty]
end

/-! ## Snoops of host lines (R208) -/

theorem State.snoop_closed {kind : Nat} (h : s.plat.minimal = true ∨ s.plat.cxl = false) : s.snoop pl kind = s := by
  unfold State.snoop
  obtain h | h := h <;> simp [h]

section
variable {kind : Nat} (hm : s.plat.minimal = false) (hx : s.plat.cxl = true)
include hm hx

theorem State.snoop_unfiltered (h : Tab.get? s.filter pl = none) : s.snoop pl kind =
    s.emit (if pl ∈ s.plat.lostLines then .snpError pl else .snpResp pl "RspIHitI" none) := by
  unfold State.snoop
  simp [hm, hx, h]

/-- A snoop of a line that the filter holds and no die: it is answered at once. -/
theorem State.Unheld.snoop (h : s.Unheld pl) {g : FiltEnt} (hg : Tab.get? s.filter pl = some g) : s.snoop pl kind =
    (s.setDir pl ((s.dirEnt pl).serving { agent := 5, op := .snoop kind } [])).answerSnoop pl kind := by
  have hneeds : s.hostNeeds pl { agent := 5, op := .snoop kind } = none := by simp [State.hostNeeds]
  have harrive : s.snoop pl kind = s.arrive pl { agent := 5, op := .snoop kind } := by
    rw [State.arrive_joins (fun c hc => by rw [h.idle.cur] at hc; cases hc)]
    unfold State.snoop
    simp [hm, hx, hg]
  exact harrive.trans (h.arrive rfl hneeds)
end

section
variable {g : FiltEnt} (hg : Tab.get? s.filter pl = some g) (hd : (s.dirEnt pl).dirty = none)
include hg hd

theorem State.answerSnoop_inv : s.answerSnoop pl 0 =
    { (s.emit (.snpResp pl "RspIHitSE" none)).setDir pl (s.dirEnt pl).clear.settle with filter := Tab.del s.filter pl } := by
  unfold State.answerSnoop
  simp [hg, hd, State.takeDirty_none hd]

theorem State.answerSnoop_data : ∃ e, s.answerSnoop pl 1 =
    { (s.emit (.snpResp pl "RspSHitSE" none)).setDir pl e with filter := Tab.put s.filter pl { g with excl := false } } := by
  unfold State.answerSnoop
  simp [hg, hd, State.takeDirty_none hd]
  exact ⟨_, rfl⟩

omit hd in
theorem State.answerSnoop_cur (hc : s.dirtyAnywhere pl = false) : s.answerSnoop pl 2 =
    (s.emit (.snpResp pl "RspVHitV" none)).setDir pl (s.dirEnt pl).settle := by
  unfold State.answerSnoop
  simp [hg, hc]
end

theorem State.dirtyAnywhere_clean (hd : ∀ y ∈ s.dies, ∀ l ∈ y.2.lines, l.2.line = pl → l.2.dirty = false)
    (hm : ∀ m ∈ s.msgs, m.line = pl → m.kind ≠ .ackD) (ho : (s.dirEnt pl).owned? = none) : s.dirtyAnywhere pl = false := by
  unfold State.dirtyAnywhere
  simp only [Bool.or_eq_false_iff, List.any_eq_false]
  refine ⟨fun y hy hl => ?_, fun m hmem hmsg => ?_⟩
  · obtain ⟨l, hl, hdirty⟩ := List.any_eq_true.1 hl
    simp only [Bool.and_eq_true, beq_iff_eq] at hdirty
    exact absurd hdirty.2 (by simp [hd y hy l hl hdirty.1.1])
  · rw [ho] at hmsg
    simp only [Bool.and_eq_true, Bool.or_eq_true, beq_iff_eq, reduceCtorEq, and_false, or_false] at hmsg
    exact hm m hmem hmsg.1.1 hmsg.2

/-! ## The host's answer (R207) -/

theorem exec_cxlCacheHostResponse_idle {data : LineData} {x : Bool} (h : (s.dirEnt pl).asked = false ∨ s.plat.cxl = false) :
    exec (.cxlCacheHostResponse pl data x) s = .next s := by
  change execCxlCacheHostResponse pl data x s = _
  unfold execCxlCacheHostResponse
  obtain h | h := h <;> simp [h]

/-- The host's answer to what the cache agent asked it for: the line enters the filter, and its data, where it brings any, its
home's memory. -/
def State.hostGrants (s : State) (line : Nat) (data : LineData) (x : Bool) (need : Option OutMsg) : State :=
  let t := if need = some (.rdOwnNoData line) then s else s.homeWrite line data fullMask
  ({ t with filter := Tab.put t.filter line { excl := x || need != some (.rdShared line), order := t.uid }, uid := t.uid + 1
            plat := { t.plat with lostLines := t.plat.lostLines.filter (· != line) } } : State).setDir line
    { s.dirEnt line with asked := false }

theorem exec_cxlCacheHostResponse {data : LineData} {x : Bool} {rest : List HomeReq} (hx : s.plat.cxl = true)
    (ha : (s.dirEnt pl).asked = true) (hn : (s.dirEnt pl).next = some (r, rest)) : exec (.cxlCacheHostResponse pl data x) s =
      .next ((s.hostGrants pl data x (s.hostNeeds pl r)).serve pl) := by
  have hbare : ((s.hostNeeds pl r == some (.rdOwnNoData pl)) = true) = (s.hostNeeds pl r = some (.rdOwnNoData pl)) := by simp
  change execCxlCacheHostResponse pl data x s = _
  unfold execCxlCacheHostResponse State.hostGrants
  simp only [ha, hx, hn, hbare]
  rfl

/-- What a line of device or host memory holds depends on those memories alone. -/
theorem State.homeRead_congr {t : State} (h : pl < 2 ^ 45) (hmem : t.mem = s.mem) (hhost : t.hostMem = s.hostMem) :
    t.homeRead pl = s.homeRead pl := by
  unfold State.homeRead
  rw [if_pos h, if_pos h, hmem, hhost]

theorem State.homeRead_peer_congr {t : State} (h : ¬ pl < 2 ^ 45) (hpeer : t.peerMem = s.peerMem) (hplat : t.plat = s.plat) :
    t.homeRead pl = s.homeRead pl := by
  unfold State.homeRead State.peerSpot
  rw [if_neg (by omega), if_neg h, if_neg (by omega), if_neg h, hpeer, hplat]

/-- A write of one line of device memory leaves every other line as it was. -/
theorem State.homeRead_deviceWrite_other {q : Nat} {data : LineData} (hpl : pl < 2 ^ 44) (hq : q ≠ pl) :
    (s.homeWrite pl data fullMask).homeRead q = s.homeRead q := by
  by_cases hnear : q < 2 ^ 45
  · exact s.homeRead_homeWrite_other data (by omega) hnear hq
  · have hpeer : (s.homeWrite pl data fullMask).peerMem = s.peerMem := by
      unfold State.homeWrite
      rw [if_pos hpl]
    exact State.homeRead_peer_congr hnear hpeer (State.homeWrite_plat ..)

theorem DirEnt.holders_hostExclusive (e : DirEnt) : (e.exclusiveTo 4).settle.holders = [4] := by
  change ((List.range 5).filter fun a => (agentBit 4).getLsbD a || (DirSt.exclusive == .owned || DirSt.exclusive == .exclusive) &&
    4 == a) = [4]
  decide

section
variable {data : LineData} {x : Bool} {need : Option OutMsg}

theorem State.hostGrants_homeRead (h : pl < 2 ^ 45) :
    (s.hostGrants pl data x need).homeRead pl = if need = some (.rdOwnNoData pl) then s.homeRead pl else data := by
  unfold State.hostGrants
  split_ifs
  · exact State.homeRead_congr h rfl rfl
  · exact (State.homeRead_congr h rfl rfl).trans (s.homeRead_homeWrite_same data h)

theorem State.hostGrants_filter : Tab.get? (s.hostGrants pl data x need).filter pl =
    some { excl := x || need != some (.rdShared pl), order := s.uid } := by
  unfold State.hostGrants
  split_ifs <;> simp

theorem State.hostGrants_msgs : (s.hostGrants pl data x need).msgs = s.msgs := by
  unfold State.hostGrants
  split_ifs <;> simp
end

/-! ## Peers (R329, R330) -/

theorem exec_peerRequest_refused {off n : Nat} {o : PeerOp}
    (h : s.plat.peerEn = false ∨ s.plat.peerSize * 2 ^ 30 ≤ off ∨ s.plat.wiping = true) :
    exec (.peerRequest off n o) s = .next (s.emit (.peerError off)) := by
  change execPeerRequest off n o s = _
  unfold execPeerRequest
  dsimp only
  rw [if_pos]
  obtain h | h | h := h
  exacts [.inl (by simp [h]), .inr (.inl h), .inr (.inr (.inr (.inl h)))]

/-- A peer's request within the export: what it writes goes into its home's memory, and the answer goes back. -/
theorem exec_peerRequest {off n : Nat} {o : PeerOp} (hen : s.plat.peerEn = true) (hoff : off < s.plat.peerSize * 2 ^ 30)
    (hdev : s.plat.peerBase + off < 0x18000000000) (hw : s.plat.wiping = false) (hb : s.plat.booting = false)
    (hm : s.plat.minimal = false) :
    let pa := s.plat.peerBase + off
    let old := lineGet (s.homeRead (pa / 128)) (pa % 128) n
    exec (.peerRequest off n o) s = .next (((peerUpdate o n old).elim s fun x =>
        s.homeWrite (pa / 128) (linePut 0 (pa % 128) n x) (byteMask (pa % 128) n)).emit
      (match o with
        | .write _ => .peerDone off
        | _ => .peerData off (BitVec.ofNat 1024 old))) := by
  intro pa old
  have hopen : ¬ (!s.plat.peerEn ∨ s.plat.peerSize * 2 ^ 30 ≤ off ∨ deviceBytes ≤ s.plat.peerBase + off ∨ s.plat.wiping ∨
      s.plat.booting ∨ s.plat.minimal) := by
    simp [hen, hw, hb, hm, deviceBytes]
    omega
  change execPeerRequest off n o s = _
  unfold execPeerRequest
  dsimp only
  rw [if_neg hopen]
  cases peerUpdate o n old <;> cases o <;> rfl

end Sys2Proof.Machine
end

section
/-! PROOF of O52. -/
namespace Sys2Proof.Machine
variable {s : State} {hpa : Nat} {data : LineData} {i : Instr}

/-- A read of the host, and what it asks the home for. -/
theorem exec_hostRead (h : i ∈ [Instr.cxlMemReadShared hpa, .cxlMemReadExclusive hpa, .cxlMemReadUncached hpa]) :
    ∃ op, (∀ s, exec i s = .next (s.hostMemory hpa .memPoison op)) ∧
      ((op = .hostShared ∨ op = .hostExcl) ∧ i ≠ .cxlMemReadUncached hpa ∨ op = .hostRead ∧ i = .cxlMemReadUncached hpa) := by
  simp only [List.mem_cons, List.not_mem_nil, or_false] at h
  obtain rfl | rfl | rfl := h
  · exact ⟨.hostShared, fun _ => rfl, .inl ⟨.inl rfl, nofun⟩⟩
  · exact ⟨.hostExcl, fun _ => rfl, .inl ⟨.inr rfl, nofun⟩⟩
  · exact ⟨.hostRead, fun _ => rfl, .inr ⟨rfl, rfl⟩⟩

theorem exec_hostWrite (s : State) : exec (.cxlMemWrite hpa data) s = .next (s.hostMemory hpa .memDone (.hostWrite data)) := rfl

/-- A snoop of the host, by its kind. -/
theorem exec_snoop {line : Nat} (h : i ∈ [Instr.snpinv line, .snpdata line, .snpcur line]) :
    ∃ kind, ∀ s, exec i s = .next (s.snoop line kind) := by
  simp only [List.mem_cons, List.not_mem_nil, or_false] at h
  obtain rfl | rfl | rfl := h
  exacts [⟨0, fun _ => rfl⟩, ⟨1, fun _ => rfl⟩, ⟨2, fun _ => rfl⟩]

/-- Settles O52: a request or snoop is refused, or is concluded at once by the home of a line that no agent holds; the host's
answer and a peer's request by what they write. -/
theorem hostAndPeerRequests : Obligations.HostAndPeerRequests := by
  unfold Obligations.HostAndPeerRequests
  intro s hpa data pl e reads
  refine ⟨fun i hi => ?unmapped, fun hm hx hlo hhi => ?mapped, fun line => ?lines, fun off n => ?peers⟩
  case unmapped =>
    have hany : ∃ during op, ∀ s, exec i s = .next (s.hostMemory hpa during op) := by
      obtain hi | hi := List.mem_append.1 hi
      · obtain ⟨op, hop, -⟩ := exec_hostRead hi
        exact ⟨_, op, hop⟩
      · obtain rfl := List.mem_singleton.1 hi
        exact ⟨_, _, exec_hostWrite⟩
    obtain ⟨during, op, hexec⟩ := hany
    exact ⟨fun h => by rw [hexec, State.hostMemory_closed h], fun hm hx h => by rw [hexec, State.hostMemory_unmapped hm hx h]⟩
  case mapped =>
    have hpl : pl < 2 ^ 44 := by omega
    refine ⟨fun hw => ⟨fun i hi => ?_, ?_⟩, fun hw hc hq ho hb hs => ⟨fun i hi => ?read, ?write⟩⟩
    · obtain ⟨op, hop, -⟩ := exec_hostRead hi
      rw [hop, State.hostMemory_mapped hm hx hlo hhi, if_pos hw]
    · rw [exec_hostWrite, State.hostMemory_mapped hm hx hlo hhi, if_pos hw]
    case read =>
      have hun : s.Unheld pl := ⟨⟨hc, hq, ho⟩, hb, hs⟩
      obtain ⟨op, hop, hkind⟩ := exec_hostRead hi
      have hserved : exec i s = .next ((s.setDir pl (e.serving { agent := 4, op } [])).conclude' pl { agent := 4, op }) := by
        rw [hop, State.hostMemory_mapped hm hx hlo hhi, if_neg (by simp [hw]), hun.arrive _ (State.hostNeeds_device hpl)]
        obtain ⟨rfl | rfl, -⟩ | ⟨rfl, -⟩ := hkind <;> rfl
      rw [hserved]
      obtain ⟨hop, hi⟩ | ⟨rfl, rfl⟩ := hkind
      · refine ⟨_, congrArg _ (State.conclude_hostTakes hb hs (State.dirEnt_setDir ..) hpl rfl hop), rfl, rfl, rfl, ?_⟩
        rw [if_neg hi, State.emit_dirEnt, State.dirEnt_setDir]
        exact ⟨rfl, rfl, DirEnt.holders_hostExclusive e⟩
      · refine ⟨_, congrArg _ (State.conclude_hostReads hb hs (State.dirEnt_setDir ..) rfl), rfl, rfl, rfl, ?_⟩
        rw [if_pos rfl, State.dirEnt_setDir, State.dirEnt_setDir]
        exact ⟨rfl, rfl, DirEnt.holders_unheld hb hs⟩
    case write =>
      have hun : s.Unheld pl := ⟨⟨hc, hq, ho⟩, hb, hs⟩
      rw [exec_hostWrite, State.hostMemory_mapped hm hx hlo hhi, if_neg (by simp [hw]),
        hun.arrive rfl (State.hostNeeds_device hpl)]
      refine ⟨_, congrArg _ (State.conclude_hostWrites hb hs (State.dirEnt_setDir ..) rfl), ?_, ?_, fun q hq => ?_, ?_, ?_⟩
      · exact congrArg _ (State.homeWrite_out ..)
      · exact State.homeRead_homeWrite_same _ data (by omega)
      · exact State.homeRead_deviceWrite_other hpl hq
      · rw [State.emit_dirEnt, State.dirEnt_setDir]
        exact DirEnt.holders_unheld rfl rfl
      · exact State.homeWrite_msgs ..
  case lines =>
    intro f
    refine ⟨fun hx i hi => ?pcie, fun hm i hi => ?minimal, fun hm hx hf i hi => ?unfiltered, fun g hm hx hg hc hq ho hb hs => ?snoop,
      fun ha x => exec_cxlCacheHostResponse_idle (.inl ha), fun r rest x hx ha hn hlo hhi hneed => ?granted⟩
    case pcie =>
      obtain hi | hi := List.mem_append.1 (show i ∈ [Instr.snpinv line, .snpdata line, .snpcur line] ++
        [.cxlCacheHostResponse line data true] from hi)
      · obtain ⟨kind, hkind⟩ := exec_snoop hi
        rw [hkind, State.snoop_closed (.inr hx)]
      · obtain rfl := List.mem_singleton.1 hi
        exact exec_cxlCacheHostResponse_idle (.inr hx)
    case minimal =>
      obtain ⟨kind, hkind⟩ := exec_snoop hi
      rw [hkind, State.snoop_closed (.inl hm)]
    case unfiltered =>
      obtain ⟨kind, hkind⟩ := exec_snoop hi
      rw [hkind, State.snoop_unfiltered hm hx hf]
    case snoop =>
      have hun : s.Unheld line := ⟨⟨hc, hq, ho⟩, hb, hs⟩
      have hserved (kind : Nat) := hun.snoop hm hx hg (kind := kind)
      have hclean (kind : Nat) : ((s.setDir line (f.serving { agent := 5, op := .snoop kind } [])).dirEnt line).dirty = none := by
        rw [State.dirEnt_setDir]
        rfl
      refine ⟨⟨_, congrArg Host.Outcome.next ((hserved 0).trans (State.answerSnoop_inv hg (hclean 0))), rfl, ?_, rfl⟩, ?_, fun hd hmsg => ?_⟩
      · exact (Tab.get?_del ..).trans (if_pos rfl)
      · obtain ⟨e, he⟩ := State.answerSnoop_data (s := s.setDir line (f.serving { agent := 5, op := .snoop 1 } [])) hg (hclean 1)
        exact ⟨_, congrArg Host.Outcome.next ((hserved 1).trans he), rfl, Tab.get?_put_same .., rfl⟩
      · refine ⟨_, congrArg Host.Outcome.next ((hserved 2).trans (State.answerSnoop_cur hg (State.dirtyAnywhere_clean hd hmsg ?_))), rfl, rfl⟩
        rw [State.dirEnt_setDir]
        exact DirEnt.owned?_of_base (by simp [DirEnt.serving, f, hb]) (by simp [DirEnt.serving, f, hb])
    case granted =>
      refine ⟨_, exec_cxlCacheHostResponse hx ha hn, State.dirEnt_setDir .., State.hostGrants_filter, State.hostGrants_homeRead hhi,
        State.hostGrants_msgs⟩
  case peers =>
    intro p pa
    refine ⟨fun h op => exec_peerRequest_refused h, fun hen hoff hdev hw hb hm => ?_⟩
    have hserved (o : PeerOp) := exec_peerRequest (o := o) (n := n) hen hoff hdev hw hb hm
    refine ⟨hserved .read, fun x => hserved (.write x), fun a v => hserved (.atomic a v), fun c v => ?_⟩
    refine (hserved (.cas c v)).trans ?_
    simp only [peerUpdate]
    split_ifs <;> rfl

end Sys2Proof.Machine
end

section
/-! SUPPORT. Announcements at the Drum, admission at the mouth, tiles in transit and the L1s (spec/06_well.md R122 to R127;
spec/09_coherence.md R192 to R194). -/
namespace Sys2Proof.Machine
variable {s t u : State} {d : Nat}

/-! ## An announcement at a die (R192) -/

/-- What the announcement of a request may change: the L1s of cores, and the fills of its own die. -/
structure Hears (d : Nat) (s t : State) : Prop where
  teams : t.teams = s.teams
  mem : t.mem = s.mem
  die : t.die d = { s.die d with fills := (t.die d).fills }
  others : ∀ e, e ≠ d → t.die e = s.die e

theorem Hears.refl (d : Nat) (s : State) : Hears d s s := ⟨rfl, rfl, rfl, fun _ _ => rfl⟩

theorem Hears.trans (h : Hears d s t) (g : Hears d t u) : Hears d s u := by
  refine ⟨g.teams.trans h.teams, g.mem.trans h.mem, ?_, fun e he => (g.others e he).trans (h.others e he)⟩
  have hd := h.die
  have gd := g.die
  rw [hd] at gd
  exact gd

theorem Hears.foldl {α : Type} {f : State → α → State} (hf : ∀ s a, Hears d s (f s a)) (l : List α) (s : State) :
    Hears d s (l.foldl f s) := by
  induction l generalizing s with
  | nil => exact .refl d s
  | cons a l ih => exact (hf s a).trans (ih _)

theorem Hears.fills (s : State) (d : Nat) (fills : List Fill) : Hears d s (s.setDie d { s.die d with fills }) :=
  ⟨rfl, rfl, by rw [State.die_setDie], fun _ he => State.die_setDie_other _ _ he⟩

theorem Hears.mapL1 (s : State) (d : Nat) (f : Nat → Tab L1Line → Tab L1Line) : Hears d s (s.mapL1 d f) :=
  ⟨rfl, rfl, rfl, fun _ _ => rfl⟩

theorem Hears.spoilFills (s : State) (d : Nat) (p : Fill → Bool) : Hears d s (s.spoilFills d p) := .fills s d _

theorem Hears.l1Drop (s : State) (d k : Nat) : Hears d s (s.l1Drop d k) := (Hears.mapL1 s d _).trans (.spoilFills _ d _)

theorem Hears.l1Share (s : State) (d k : Nat) : Hears d s (s.l1Share d k) := (Hears.mapL1 s d _).trans (.spoilFills _ d _)

theorem Hears.l1Own (s : State) (d c k uid ctx : Nat) : Hears d s (s.l1Own d c k uid ctx) :=
  ((Hears.mapL1 s d _).trans (.spoilFills _ d _)).trans (.fills _ d _)

theorem Hears.l1Store (s : State) (d c k : Nat) (p : Piece) (resent : Bool) : Hears d s (s.l1Store d c k p resent) :=
  (Hears.mapL1 s d _).trans (.spoilFills _ d _)

theorem Hears.l1Atomic (s : State) (d k : Nat) (r : Req) :
    Hears d s (if r.scope ≤ 1 then s.l1Own d r.core k r.uid r.ctx else s.l1Drop d k) := by
  split_ifs
  · exact .l1Own s d _ _ _ _
  · exact .l1Drop s d k

/-- A request's announcement acts on the L1s of its die, and on what is on its way to them. -/
theorem State.heard_hears (s : State) (d : Nat) (r : Req) : Hears d s (s.heard d r) := by
  unfold State.heard
  dsimp only
  split
  · exact .fills s d _
  · exact .foldl (fun s p => .l1Store s d _ _ p _) _ s
  · exact .foldl (fun s k => .l1Atomic s d k r) _ s
  · exact .foldl (fun s k => .l1Atomic s d k r) _ s
  · exact .foldl (fun s k => .l1Atomic s d k r) _ s
  · exact (Hears.foldl (fun s k => .l1Drop s d k) _ s).trans (.spoilFills _ d _)
  · exact .l1Drop s d _
  · split_ifs
    · exact .refl d s
    · exact .l1Drop s d _
    · exact .l1Share s d _
  · exact .refl d s

/-- What a store of another core does to an L1 (R192, R210). -/
def otherStore (l1 : Tab L1Line) (k : Nat) : Tab L1Line :=
  match Tab.get? l1 k with
  | none => l1
  | some e => if e.attr.swm then l1 else toI l1 k

/-- A copy of a line that is there goes at once: it is coherent, and no atomic holds it. -/
def GoesAtOnce (l1 : Tab L1Line) (k : Nat) : Prop := ∀ l, Tab.get? l1 k = some l → l.attr.swm = false ∧ l.held = false

theorem get?_toI_other {l1 : Tab L1Line} {k j : Nat} (h : j ≠ k) : Tab.get? (toI l1 k) j = Tab.get? l1 j := by
  unfold toI
  split
  · rfl
  · split_ifs
    · exact Tab.get?_put_other _ _ _ h
    · rw [Tab.get?_del, if_neg h.symm]

theorem get?_otherStore_other {l1 : Tab L1Line} {k j : Nat} (h : j ≠ k) : Tab.get? (otherStore l1 k) j = Tab.get? l1 j := by
  unfold otherStore
  split
  · rfl
  · split_ifs
    · rfl
    · exact get?_toI_other h

theorem get?_otherStore_same {l1 : Tab L1Line} {k : Nat} (h : GoesAtOnce l1 k) : Tab.get? (otherStore l1 k) k = none := by
  unfold otherStore
  split
  · assumption
  · next e he =>
    obtain ⟨hs, hh⟩ := h e he
    simp [hs, hh, he, toI, Tab.get?_del]

theorem GoesAtOnce.of_none {l1 : Tab L1Line} {k : Nat} (h : Tab.get? l1 k = none) : GoesAtOnce l1 k := fun l hl => by
  rw [h] at hl
  cases hl

theorem GoesAtOnce.otherStore {l1 : Tab L1Line} {k j : Nat} (h : GoesAtOnce l1 j) : GoesAtOnce (otherStore l1 k) j := by
  by_cases hj : j = k
  · subst hj
    exact .of_none (get?_otherStore_same h)
  · intro l hl
    rw [get?_otherStore_other hj] at hl
    exact h l hl

section
variable {c : Nat} (hd : dieOf c = d)
include hd

theorem State.core_mapL1 {f : Nat → Tab L1Line → Tab L1Line} (hf : f c [] = []) :
    ((s.mapL1 d f).core c).l1 = f c (s.core c).l1 := by
  unfold State.mapL1 State.core Tab.getD
  dsimp only
  rw [Tab.get?_mapVal]
  cases Tab.get? s.cores c with
  | none => exact hf.symm
  | some x => simp [hd]

theorem State.core_l1Store {own k : Nat} {p : Piece} {resent : Bool} (hc : c ≠ own) :
    ((s.l1Store d own k p resent).core c).l1 = otherStore (s.core c).l1 k := by
  unfold State.l1Store State.spoilFills otherStore
  rw [State.setDie_core, State.core_mapL1 hd rfl]
  cases Tab.get? (s.core c).l1 k with
  | none => rfl
  | some e => exact if_neg hc

/-- A store's announcement takes every line's copy that goes at once out of the L1s of the die's other cores. -/
theorem State.heardStores_take {own asid k : Nat} {resent : Bool} (hc : c ≠ own) (ps : List Piece)
    (hg : GoesAtOnce (s.core c).l1 k) (hk : Tab.get? (s.core c).l1 k = none ∨ ∃ p ∈ ps, lineKey asid p.va = k) :
    Tab.get? ((ps.foldl (fun s p => s.l1Store d own (lineKey asid p.va) p resent) s).core c).l1 k = none := by
  induction ps generalizing s with
  | nil => exact hk.resolve_right (by simp)
  | cons p ps ih =>
    have hcore := State.core_l1Store (s := s) hd (k := lineKey asid p.va) (p := p) (resent := resent) hc
    refine ih (by rw [hcore]; exact hg.otherStore) ?_
    rw [hcore]
    by_cases hp : lineKey asid p.va = k
    · subst hp
      exact .inl (get?_otherStore_same hg)
    · rw [get?_otherStore_other (Ne.symm hp)]
      refine hk.imp_right fun ⟨q, hq, hqk⟩ => ?_
      obtain rfl | hq := List.mem_cons.1 hq
      · exact absurd hqk hp
      · exact ⟨q, hq, hqk⟩
end

/-- A request's announcement acts on the L1s of its die, and the request goes on to the mouth. -/
theorem exec_drumAnnouncementAct_req {r : Req} {rest : List Ann} (h : (s.die d).anns = .req r :: rest) :
    let w := (s.setDie d { s.die d with anns := rest }).heard d r
    exec (.drumAnnouncementAct d) s = .next (w.setDie d { w.die d with mouthq := (w.die d).mouthq ++ [r] }) := by
  change execDrumAnnouncementAct d s = _
  unfold execDrumAnnouncementAct
  dsimp only
  rw [h]

/-- The announcements of a gang act on its record (R51, R52). -/
theorem exec_drumAnnouncementAct_gang {a : Ann} {rest : List Ann} (h : (s.die d).anns = a :: rest) :
    let w := s.setDie d { s.die d with anns := rest }
    (∀ c g any sd, a = .gjoin c g any sd → exec (.drumAnnouncementAct d) s = .next (w.gjoinAct c g any sd)) ∧
    (∀ c g, a = .gleave c g → exec (.drumAnnouncementAct d) s = .next (w.gleaveAct c g)) ∧
    (∀ c g, a = .gbar c g → exec (.drumAnnouncementAct d) s = .next (w.gbarAct c g)) := by
  change (∀ c g any sd, _ → execDrumAnnouncementAct d s = _) ∧ (∀ c g, _ → execDrumAnnouncementAct d s = _) ∧
    ∀ c g, _ → execDrumAnnouncementAct d s = _
  unfold execDrumAnnouncementAct
  dsimp only
  rw [h]
  exact ⟨by rintro c g any sd rfl; rfl, by rintro c g rfl; rfl, by rintro c g rfl; rfl⟩

/-! ## The mouth (R122, R123, R125) -/

/-- When a request cannot be admitted. -/
theorem State.carried_iff {r : Req} : s.carried d r = true ↔ (s.die d).restitch.isSome = true ∨
    ((s.die d).needsEntry r = true ∧ 512 ≤ (s.die d).transitUsed) ∨ (s.die d).deepTransit = true ∨
      ∃ inv clean pl st, r.op = .probe inv clean pl st ∧ s.l1Held d (lineKey r.asid r.va) = true := by
  have hprobe : (match r.op with
      | .probe _ _ _ _ => s.l1Held d (lineKey r.asid r.va)
      | _ => false) = true ↔ ∃ inv clean pl st, r.op = .probe inv clean pl st ∧ s.l1Held d (lineKey r.asid r.va) = true := by
    split
    · next inv clean pl st hop => exact ⟨fun h => ⟨inv, clean, pl, st, hop, h⟩, fun ⟨_, _, _, _, _, h⟩ => h⟩
    · next hno => exact ⟨nofun, fun ⟨_, _, _, _, hop, _⟩ => absurd hop (hno _ _ _ _)⟩
  unfold State.carried
  simp only [Bool.or_eq_true, Bool.and_eq_true, decide_eq_true_eq, or_assoc]
  exact or_congr_right (or_congr_right (or_congr_right hprobe))

theorem dropFirst_length_le {α : Type} (p : α → Bool) (l : List α) : (dropFirst p l).length ≤ l.length := by
  induction l with
  | nil => exact Nat.le_refl _
  | cons a l ih =>
    unfold dropFirst
    split_ifs
    · exact Nat.le_succ _
    · exact Nat.succ_le_succ ih

theorem State.trim_fits (h : (s.die d).chain.length ≤ (s.die d).slots) : s.trim d = s := by
  unfold State.trim
  exact if_pos h

/-- A touch of an absent tile, with a live slot free: it comes to depth 0. -/
theorem State.touchTile_absent {tile uid : Nat} (hn : Tab.get? (s.die d).tiles tile = none)
    (hroom : (s.die d).chain.length < (s.die d).slots) :
    ((s.touchTile d tile uid).die d).chain = some tile :: dropFirst (·.isNone) (s.die d).chain := by
  have hshort := dropFirst_length_le (·.isNone) (s.die d).chain
  unfold State.touchTile
  dsimp only
  rw [hn]
  dsimp only
  rw [State.trim_fits]
  · rw [State.die_setDie]
    rfl
  · rw [State.die_setDie]
    exact Nat.succ_le_of_lt (Nat.lt_of_le_of_lt hshort hroom)

/-- A touch of a tile in the chain: it comes to depth 0, in transit from course 1 or deeper. -/
theorem State.touchTile_present {tile uid dep : Nat} {t : Tile} (ht : Tab.get? (s.die d).tiles tile = some t)
    (hp : t.pinned = false) (hdep : (s.die d).depth? tile = some dep) :
    s.touchTile d tile uid = s.setDie d { s.die d with
      chain := some tile :: (s.die d).chain.eraseIdx dep
      tiles := Tab.put (s.die d).tiles tile
        { t with transit := t.transit || decide (1 ≤ course (slotPos (s.die d).retired dep)) } } := by
  unfold State.touchTile
  dsimp only
  rw [ht]
  dsimp only
  rw [hp, hdep]
  rfl

/-! ## Arrival (R126, R127) -/

theorem exec_transitArrival {tile : Nat} {t : Tile} (ht : Tab.get? (s.die d).tiles tile = some t) (hmove : t.transit = true)
    (hr : (s.die d).restitch = none) : exec (.transitArrival d tile) s =
      .next ((t.held.foldl (fun s r => s.applyHeld d r)
        (s.setDie d { s.die d with tiles := Tab.put (s.die d).tiles tile { t with held := [] } })).landTile d tile) := by
  change execTransitArrival d tile s = _
  unfold execTransitArrival
  dsimp only
  rw [ht]
  dsimp only
  rw [if_neg (by simp [hmove, hr])]

theorem State.landTile_eq {tile : Nat} {t : Tile} (ht : Tab.get? (s.die d).tiles tile = some t) : s.landTile d tile =
    if (s.die d).placed tile = true then
      s.setDie d { s.die d with tiles := Tab.put (s.die d).tiles tile { t with transit := false } }
    else ((s.dropLines d tile []).1).forgetTile d tile := by
  unfold State.landTile
  dsimp only
  rw [ht]

theorem State.applyHeld_placeOnly {r : Req} (h : r.op = .wpin ∨ r.op = .wunpin) : s.applyHeld d r = s := by
  unfold State.applyHeld
  obtain h | h := h <;> simp [Req.placeOnly, h]

theorem State.applyHeld_eq {r : Req} (hp : r.op ≠ .wpin) (hu : r.op ≠ .wunpin) : s.applyHeld d r =
    if (Tab.get? (s.die d).tiles (tileKey r.asid r.va)).isNone = true ∧ r.touch none = true
      then (s.touchTile d (tileKey r.asid r.va) r.uid).applyReq d r else s.applyReq d r := by
  unfold State.applyHeld
  simp only [Req.placeOnly, beq_eq_false_iff_ne.2 hp, beq_eq_false_iff_ne.2 hu, Bool.or_self, Bool.false_eq_true, if_false,
    Bool.and_eq_true]
  split_ifs <;> rfl

/-! ## The L1s (R150, R193, R194) -/

theorem exec_l1Fill {core line : Nat} {f : Fill} (hd : dieOf core = d)
    (hf : (s.die d).fills.find? (fun f => f.core == core && f.key == line && f.data.isSome) = some f) :
    let w := s.setDie d { s.die d with fills := dropFirst (· == f) (s.die d).fills }
    exec (.l1Fill core line) s = .next (
      if f.keep = true ∧ Tab.get? (s.core core).l1 line = none ∧ (s.cluster (colOf core)).gated = false then
        w.setCore core { s.core core with l1 := Tab.put (s.core core).l1 line { st := .s, data := f.data.getD 0, attr := f.attr } }
      else match Tab.get? (s.core core).l1 line with
        | some e => w.setCore core { s.core core with
            l1 := Tab.put (s.core core).l1 line { e with attr := if f.keep then f.attr else e.attr } }
        | none => w.forgetLine d line) := by
  subst hd
  have hkept : (f.keep = true ∧ (Tab.get? (s.core core).l1 line).isNone = true ∧ (!(s.cluster (colOf core)).gated) = true) ↔
      f.keep = true ∧ Tab.get? (s.core core).l1 line = none ∧ (s.cluster (colOf core)).gated = false := by simp
  change execL1Fill core line s = _
  unfold execL1Fill
  simp only [hf, State.setDie_core, State.setDie_cluster, hkept]
  by_cases hkeep : f.keep = true ∧ Tab.get? (s.core core).l1 line = none ∧ (s.cluster (colOf core)).gated = false
  · rw [if_pos hkeep, if_pos hkeep]
  · rw [if_neg hkeep, if_neg hkeep]
    cases Tab.get? (s.core core).l1 line <;> rfl

theorem exec_l1HoldExpiry {core line : Nat} {l : L1Line} (hl : Tab.get? (s.core core).l1 line = some l) (hh : l.held = true) :
    exec (.l1HoldExpiry core line) s = .next (s.setCore core { s.core core with
      l1 := if l.queued.contains true then Tab.del (s.core core).l1 line
        else Tab.put (s.core core).l1 line { l with
          st := if l.queued.contains false then .s else l.st
          held := false, queued := [] } }) := by
  change execL1HoldExpiry core line s = _
  unfold execL1HoldExpiry State.releaseHold
  dsimp only
  rw [hl]
  dsimp only
  rw [if_pos hh]
  split_ifs <;> rfl

end Sys2Proof.Machine
end

section
/-! PROOF of O47. -/
namespace Sys2Proof.Machine

/-- Settles O47: what an announcement changes, and that a store takes the copies that go at once; the mouth, touches, arrivals and
the L1s' own steps by their equations. -/
theorem drumMouthAndL1 : Obligations.DrumMouthAndL1 := by
  unfold Obligations.DrumMouthAndL1
  intro s d x
  refine ⟨fun a rest hanns => ?announcement, rfl, fun n => ⟨fun h => State.admitUpTo_nil h, fun r rest h =>
      ⟨State.carried_iff, State.admitUpTo_cons h⟩⟩, fun tile uid => ⟨State.touchTile_absent, fun t dep ht hp hdep => ?touch⟩,
    fun tile t ht hmove hr => exec_transitArrival ht hmove hr,
    fun tile t ht => ⟨fun hp => (State.landTile_eq ht).trans (if_pos hp), fun hp => (State.landTile_eq ht).trans (if_neg (ne_true_of_eq_false hp))⟩,
    fun r h => State.applyHeld_placeOnly h, fun r hp hu => State.applyHeld_eq hp hu,
    fun core line f hd hf => exec_l1Fill hd hf, fun core line l hl hh => exec_l1HoldExpiry hl hh⟩
  case announcement =>
    intro s1
    refine ⟨fun r ha => ?_, exec_drumAnnouncementAct_gang hanns⟩
    subst ha
    obtain ⟨hteams, hmem, hdie, hothers⟩ := s1.heard_hears d r
    rw [State.die_setDie] at hdie
    refine ⟨_, exec_drumAnnouncementAct_req hanns, ?_, ?_, hteams, hmem, fun e he => ?_, fun hop p hp c l hc hd hl hs hh => ?_⟩
    · rw [State.die_setDie, hdie]
    · rw [State.die_setDie, hdie]
    · rw [State.die_setDie_other _ _ he, hothers e he]
      exact State.die_setDie_other _ _ he
    · have hheard : s1.heard d r = r.pieces.foldl (fun s p => s.l1Store d r.core (lineKey r.asid p.va) p r.resent) s1 := by
        unfold State.heard
        dsimp only
        rw [hop]
      have hgoes : GoesAtOnce (s1.core c).l1 (lineKey r.asid p.va) := fun m hm => by
        obtain rfl := Option.some.inj (hl.symm.trans hm)
        exact ⟨hs, hh⟩
      rw [State.setDie_core, hheard]
      exact State.heardStores_take hd hc r.pieces hgoes (.inr ⟨p, hp, rfl⟩)
  case touch =>
    rw [State.touchTile_present ht hp hdep, State.die_setDie]
    exact ⟨rfl, Tab.get?_put_same ..⟩

end Sys2Proof.Machine
end

section
/-! SUPPORT. Resets: what a halt keeps of the dies, what a wipe leaves, and what a warm reset asks for before its wipe
(spec/09_coherence.md R212, R213; spec/15_platform.md R334 to R336, R339). -/
namespace Sys2Proof.Machine
variable {s t u : State}

/-! ## Repairs outlast a halt (R144) -/

/-- Every die has the repaired banks that it had. -/
def KeepsRepairs (s t : State) : Prop := ∀ d, (t.die d).repair = (s.die d).repair

theorem KeepsRepairs.refl (s : State) : KeepsRepairs s s := fun _ => rfl

theorem KeepsRepairs.trans (h : KeepsRepairs s t) (g : KeepsRepairs t u) : KeepsRepairs s u := fun d => (g d).trans (h d)

theorem KeepsRepairs.foldl {α : Type} {f : State → α → State} (hf : ∀ s a, KeepsRepairs s (f s a)) (l : List α) (s : State) :
    KeepsRepairs s (l.foldl f s) := by
  induction l generalizing s with
  | nil => exact .refl s
  | cons a l ih => exact (hf s a).trans (ih _)

theorem KeepsRepairs.setDie {d : Nat} {x : Die} (h : x.repair = (s.die d).repair) : KeepsRepairs s (s.setDie d x) := fun e => by
  by_cases he : e = d
  · subst he
    rw [State.die_setDie, h]
  · rw [State.die_setDie_other _ _ he]

theorem State.dropLine_keepsRepairs (s : State) (d k : Nat) (ws : List (Nat × Nat)) : KeepsRepairs s (s.dropLine d k ws).1 := by
  have wb (s : State) (l : DLine) (b : Bool) (ws : List (Nat × Nat)) : KeepsRepairs s (s.sendWb d k l b ws) := .setDie rfl
  have gone (s : State) : KeepsRepairs s (s.delLine d k) := .setDie rfl
  have put (s : State) (l : DLine) : KeepsRepairs s (s.setLine d k l) := .setDie rfl
  have off (s : State) : KeepsRepairs s (s.l1Drop d k) := fun e => by rw [State.l1Drop_die]
  unfold State.dropLine
  split
  · exact .refl s
  · split_ifs
    · exact ((wb s _ _ _).trans (gone _)).trans (off _)
    · exact (put s _).trans (off _)
    · exact put s _
    · exact gone s

theorem State.settleL1_keepsRepairs (s : State) (core : Nat) : KeepsRepairs s (s.settleL1 core) := by
  unfold State.settleL1
  refine (show KeepsRepairs s (s.setCore core _) from fun _ => rfl).trans (.foldl (fun s e => ?_) _ _)
  split
  · split_ifs
    · exact .setDie rfl
    · exact .refl s
  · exact .refl s

theorem State.halted_keepsRepairs (s : State) : KeepsRepairs s s.halted := by
  have hcores := KeepsRepairs.foldl (f := fun (s : State) (c : Nat × Core) => s.settleL1 c.1)
    (fun s c => s.settleL1_keepsRepairs c.1) s.cores s
  have hmanaged (s : State) : KeepsRepairs s s.writeManaged := by
    unfold State.writeManaged
    exact .foldl (fun s _ => .foldl (fun s _ => s.dropLine_keepsRepairs _ _ _) _ s) _ s
  unfold State.halted
  refine (hcores.trans fun d => ?_).trans (hmanaged _)
  generalize List.foldl _ s s.cores = w
  unfold State.die Tab.getD
  dsimp only
  rw [Tab.get?_mapVal]
  cases Tab.get? w.dies d <;> rfl

/-! ## The wipe (R212, R339) -/

theorem State.wiped_die {d : Nat} {lost : List Nat} {cold : Bool} (h : d < 4) :
    (s.wiped lost cold).die d = (s.die d).wiped d cold := by
  interval_cases d <;> rfl

/-- The device after a wipe has begun, as what it was before leaves it. -/
def State.WipedFrom (s u : State) : Prop :=
  u.queues = [] ∧ u.teams = [] ∧ u.blocks = [] ∧ u.msgs = [] ∧ u.mem = [] ∧ u.dir = [] ∧
    u.filter = [] ∧ u.cores = [] ∧ u.copies = [] ∧ u.launchRegs = State.reset.launchRegs ∧ u.trans = State.reset.trans ∧
    u.pool = State.reset.pool ∧ u.power = State.reset.power ∧ u.clusters = [] ∧ u.time = 0 ∧
    (∀ d < 4, (u.die d).chain = [] ∧ (u.die d).tiles = [] ∧ (u.die d).lines = [] ∧ (u.die d).frecs = [] ∧
      (u.die d).retired = (s.die d).repair ∧ (u.die d).repair = (s.die d).repair ∧ (u.die d).seed = BitVec.ofNat 64 (d + 1)) ∧
    u.plat.lc = s.plat.lc ∧ u.plat.sigIndex = s.plat.sigIndex ∧ u.plat.wiping = true ∧ u.plat.booting = true ∧ u.plat.hdmbase = 0 ∧
    u.plat.minimal = false ∧ u.plat.peertab = [] ∧ u.plat.peerEn = false ∧ u.plat.warming = false ∧ u.plat.incoming = none ∧
    u.plat.flash = (if s.plat.incoming.isSome then none else s.plat.flash) ∧ u.plat.boot = u.plat.flash ∧ u.hostMem = s.hostMem ∧
    u.peerMem = s.peerMem

/-- A wipe leaves nothing but what fuses, flash and the outside hold, whether or not a halt has come before it. -/
theorem State.wiped_from {w : Bool} (hp : t.plat = { s.plat with warming := w }) (hr : KeepsRepairs s t)
    (hh : t.hostMem = s.hostMem) (hm : t.peerMem = s.peerMem) (lost : List Nat) (cold : Bool) :
    s.WipedFrom (t.wiped lost cold) := by
  have hkept : t.plat.kept = if s.plat.incoming.isSome then none else s.plat.flash := by
    rw [hp]
    rfl
  have hlc : t.plat.lc = s.plat.lc := by rw [hp]
  have hsig : t.plat.sigIndex = s.plat.sigIndex := by rw [hp]
  refine ⟨rfl, rfl, rfl, rfl, rfl, rfl, rfl, rfl, rfl, rfl, rfl, rfl, rfl, rfl, rfl, fun d hd => ?_, hlc, hsig, rfl, rfl, rfl, rfl,
    rfl, rfl, rfl, rfl, hkept, rfl, hh, hm⟩
  rw [State.wiped_die hd]
  exact ⟨rfl, rfl, rfl, rfl, hr d, hr d, rfl⟩

theorem State.wiped_self (s : State) (lost : List Nat) (cold : Bool) : s.WipedFrom (s.wiped lost cold) :=
  State.wiped_from (w := s.plat.warming) rfl (.refl s) rfl rfl lost cold

/-! ## A warm reset (R212) -/

theorem State.warm_wipes (h : s.halted.mayWipe = true) : s.warm = s.halted.wiped [] false := by
  obtain ⟨-, -, -, hplat, -⟩ := s.halted_frame
  unfold State.warm State.beginWipe
  simp [hplat, h]

theorem State.warm_asks (h : s.halted.mayWipe = false) : s.warm = s.halted.takeBack := by
  obtain ⟨-, -, -, hplat, -⟩ := s.halted_frame
  unfold State.warm State.beginWipe
  simp [hplat, h]

/-- A request stands at a line's home, or is served there. -/
def State.Asks (s : State) (l : Nat) (op : HomeOp) : Prop :=
  ∃ r, (r ∈ (s.dirEnt l).queue ∨ (s.dirEnt l).cur = some r) ∧ r.op = op

section
variable {pl l : Nat} {op op' : HomeOp}

/-- What a home asks of itself changes its own queue alone. -/
theorem State.homeAsk_dir (s : State) (pl : Nat) (op : HomeOp) : s.homeAsk pl op = { s with dir := (s.homeAsk pl op).dir } := by
  unfold State.homeAsk
  dsimp only
  split_ifs <;> rfl

theorem State.homeAsk_dirEnt (s : State) (pl l : Nat) (op : HomeOp) : ∃ q : List HomeReq, (∀ r ∈ q, r.op = op) ∧
    (s.homeAsk pl op).dirEnt l = { s.dirEnt l with queue := (s.dirEnt l).queue ++ q } := by
  have hsame : s.dirEnt l = { s.dirEnt l with queue := (s.dirEnt l).queue ++ [] } := by simp
  unfold State.homeAsk
  dsimp only
  split_ifs
  · exact ⟨[], by simp, hsame⟩
  · by_cases hl : l = pl
    · subst hl
      exact ⟨[{ agent := 5, op }], by simp, State.dirEnt_setDir ..⟩
    · exact ⟨[], by simp, (State.dirEnt_setDir_other _ _ hl).trans hsame⟩

theorem State.homeAsk_asks (s : State) (pl : Nat) (op : HomeOp) : (s.homeAsk pl op).Asks pl op := by
  unfold State.homeAsk
  dsimp only
  split_ifs with h
  · simp only [Bool.or_eq_true, List.any_eq_true, Option.any_eq_true, beq_iff_eq] at h
    obtain ⟨r, hr, hop⟩ | ⟨r, hr, hop⟩ := h
    · exact ⟨r, .inl hr, hop⟩
    · exact ⟨r, .inr hr, hop⟩
  · refine ⟨{ agent := 5, op }, .inl ?_, rfl⟩
    rw [State.dirEnt_setDir]
    simp

theorem State.Asks.homeAsk (h : s.Asks l op) : (s.homeAsk pl op').Asks l op := by
  obtain ⟨r, hr, hop⟩ := h
  obtain ⟨q, -, hq⟩ := s.homeAsk_dirEnt pl l op'
  refine ⟨r, ?_, hop⟩
  rw [hq]
  exact hr.imp_left fun h => List.mem_append_left q h

theorem State.Asks.foldl (ls : List Nat) (h : s.Asks l op) : (ls.foldl (fun s pl => s.homeAsk pl op') s).Asks l op := by
  induction ls generalizing s with
  | nil => exact h
  | cons k ls ih => exact ih h.homeAsk

/-- Every line of a list is asked for. -/
theorem State.asks_foldl (ls : List Nat) (s : State) (hl : l ∈ ls) : (ls.foldl (fun s pl => s.homeAsk pl op) s).Asks l op := by
  induction ls generalizing s with
  | nil => cases hl
  | cons k ls ih =>
    obtain rfl | hl := List.mem_cons.1 hl
    · exact (s.homeAsk_asks l op).foldl ls
    · exact ih _ hl

theorem State.homeAsks_dir (ls : List Nat) (op : HomeOp) (s : State) :
    ls.foldl (fun s pl => s.homeAsk pl op) s = { s with dir := (ls.foldl (fun s pl => s.homeAsk pl op) s).dir } := by
  induction ls generalizing s with
  | nil => rfl
  | cons k ls ih =>
    rw [List.foldl_cons, ih, s.homeAsk_dir]

/-- What a home asks of itself, but for a merge, makes no line's data newer on the device. -/
theorem State.dirtyHost_homeAsk (hop : ∀ d m, op ≠ .merge d m) : (s.homeAsk pl op).dirtyHost = s.dirtyHost := by
  have hfilter : (s.homeAsk pl op).filter = s.filter := by rw [s.homeAsk_dir]
  have hdies : (s.homeAsk pl op).dies = s.dies := by rw [s.homeAsk_dir]
  have hmsgs : (s.homeAsk pl op).msgs = s.msgs := by rw [s.homeAsk_dir]
  unfold State.dirtyHost
  rw [hfilter]
  refine List.filter_congr fun l _ => ?_
  obtain ⟨q, hq, hent⟩ := s.homeAsk_dirEnt pl l op
  have hmerge : q.any HomeReq.merges = false := List.any_eq_false.2 fun r hr => by
    unfold HomeReq.merges
    split
    · next d m h => exact absurd ((hq r hr).symm.trans h) (hop d m)
    · exact Bool.false_ne_true
  have hqueue : (((s.dirEnt l).queue ++ q) ++ (s.dirEnt l).cur.toList).any HomeReq.merges =
      ((s.dirEnt l).queue ++ (s.dirEnt l).cur.toList).any HomeReq.merges := by
    simp [List.any_append, hmerge]
  unfold State.dirtyAnywhere State.managedDirty
  rw [hdies, hmsgs, hent]
  dsimp only
  rw [hqueue]
  rfl

theorem State.dirtyHost_homeAsks (hop : ∀ d m, op ≠ .merge d m) (ls : List Nat) (s : State) :
    (ls.foldl (fun s pl => s.homeAsk pl op) s).dirtyHost = s.dirtyHost := by
  induction ls generalizing s with
  | nil => rfl
  | cons k ls ih => exact (ih _).trans (State.dirtyHost_homeAsk hop)
end

/-- Before its wipe, a warm reset asks for every line of the device of which the host has a copy, and for the dirty lines of the
host. -/
theorem State.takeBack_asks (s : State) : s.takeBack = { s with dir := s.takeBack.dir } ∧
    (∀ l ∈ s.hostHeld, s.takeBack.Asks l .recall) ∧ ∀ l ∈ s.dirtyHost, s.takeBack.Asks l .reclaim := by
  have hdirty : (s.hostHeld.foldl (fun s pl => s.homeAsk pl .recall) s).dirtyHost = s.dirtyHost :=
    State.dirtyHost_homeAsks (fun _ _ => by simp) _ s
  unfold State.takeBack
  dsimp only
  rw [hdirty]
  refine ⟨?_, fun l hl => (State.asks_foldl _ s hl).foldl _, fun l hl => State.asks_foldl _ _ hl⟩
  rw [State.homeAsks_dir, State.homeAsks_dir _ _ s]

end Sys2Proof.Machine
end

section
/-! SUPPORT. The steps of a start (spec/15_platform.md R334, R335; spec/06_well.md R144). -/
namespace Sys2Proof.Machine
variable {s : State} {step reason : Nat} {faulty : List (Nat × Nat)}

/-- What a step of a start comes to, with the reason for which it would stop, or 0. -/
def State.startOutcome (s : State) (step why : Nat) : State :=
  if why = 0 then (if step = 4 ∧ s.plat.wiping = true then s else s.stepDone step)
  else if s.mayStop step why = true then s.startFails step why else s

theorem State.startOutcome_stops {why : Nat} (hw : why ≠ 0) (hm : s.mayStop step why = true) :
    s.startOutcome step why = s.startFails step why := by
  unfold State.startOutcome
  rw [if_neg hw, if_pos hm]

theorem State.startOutcome_idle {why : Nat} (hw : why ≠ 0) (hm : s.mayStop step why = false) : s.startOutcome step why = s := by
  unfold State.startOutcome
  rw [if_neg hw, if_neg (ne_true_of_eq_false hm)]

theorem State.startOutcome_done (h : step ≠ 4 ∨ s.plat.wiping = false) : s.startOutcome step 0 = s.stepDone step := by
  unfold State.startOutcome
  obtain h | h := h <;> simp [h]

theorem State.startOutcome_wiping (h : s.plat.wiping = true) : s.startOutcome 4 0 = s := by
  unfold State.startOutcome
  simp [h]

/-! ## Repairs (R144) -/

theorem State.repairBanks_one {d bank : Nat} (hd : d < 4) (hb : bank < 1024) (hr : bank ∉ (s.die d).repair)
    (ht : bank ∉ (s.die d).retired) : s.repairBanks [(d, bank)] = s.setDie d
      { s.die d with repair := (s.die d).repair ++ [bank], retired := (s.die d).retired ++ [bank] } := by
  have hin : ¬ (4 ≤ d ∨ 1024 ≤ bank ∨ (s.die d).repair.contains bank = true) := by
    simp [hr]
    omega
  unfold State.repairBanks
  simp only [List.foldl_cons, List.foldl_nil]
  rw [if_neg hin]
  simp [ht]

theorem State.banksShort_iff : s.banksShort = true ↔ ∃ d < 4, (s.die d).liveBanks < 896 := by
  unfold State.banksShort
  simp [List.any_eq_true]

theorem State.banksShort_eq_false (h : ∀ d < 4, 896 ≤ (s.die d).liveBanks) : s.banksShort = false := by
  refine eq_false_of_ne_true fun hs => ?_
  obtain ⟨d, hd, hlive⟩ := State.banksShort_iff.1 hs
  have := h d hd
  omega

/-! ## START_UP (R334, R335) -/

section
variable (hb : s.plat.booting = true) (ho : s.plat.off = false) (hs : step = s.plat.step + 1)
include hb ho hs

theorem exec_startUp (h3 : step ≠ 3) :
    exec (.startUp step reason faulty) s = .next (s.startOutcome step (s.stopReason step reason)) := by
  change execStartUp step reason faulty s = _
  unfold execStartUp State.startOutcome
  simp [hb, ho, h3, ← hs]

theorem exec_startUp_banks (h3 : step = 3) : exec (.startUp step reason faulty) s =
    .next ((s.repairBanks faulty).startOutcome 3 (if reason ≠ 4 ∧ (s.repairBanks faulty).banksShort = true then 5 else reason)) := by
  subst h3
  change execStartUp 3 reason faulty s = _
  unfold execStartUp State.startOutcome State.stopReason
  simp [hb, ho, ← hs]
end

end Sys2Proof.Machine
end

section
/-! PROOF of O59. -/
namespace Sys2Proof.Machine
variable {s : State} {i : Instr}

/-! ## Warm resets -/

/-- The instructions that ask for a warm reset, where the device listens to them. -/
def State.ResetsWarm (s : State) (i : Instr) : Prop :=
  i = .resetctlWarmReset ∧ s.plat.minimal = false ∨ i = .cxlReset ∨ i = .secondaryBusReset ∨ i = .wipe ∧ s.plat.sbBusy = false

/-- What a warm reset starts from: WIPE answers before it. -/
def State.warmOrigin (s : State) (i : Instr) : State := if i = .wipe then s.emit (.sideband [0]) else s

theorem exec_resetsWarm_off (hi : s.ResetsWarm i) (ho : s.plat.off = true) : exec i s = .next s := by
  obtain ⟨rfl, -⟩ | rfl | rfl | ⟨rfl, -⟩ := hi
  · change execResetctlWarmReset s = _
    simp [execResetctlWarmReset, ho]
  · change execCxlReset s = _
    simp [execCxlReset, ho]
  · change execSecondaryBusReset s = _
    simp [execSecondaryBusReset, ho]
  · change execWipe s = _
    simp [execWipe, State.sideband, ho]

theorem exec_resetsWarm (hi : s.ResetsWarm i) (ho : s.plat.off = false) : exec i s = .next (s.warmOrigin i).warm := by
  obtain ⟨rfl, hm⟩ | rfl | rfl | ⟨rfl, hb⟩ := hi
  · change execResetctlWarmReset s = _
    simp [execResetctlWarmReset, State.warmOrigin, ho, hm]
  · change execCxlReset s = _
    simp [execCxlReset, State.warmOrigin, ho]
  · change execSecondaryBusReset s = _
    simp [execSecondaryBusReset, State.warmOrigin, ho]
  · change execWipe s = _
    simp [execWipe, State.sideband, State.warmOrigin, ho, hb]

theorem State.warmOrigin_frame (s : State) (i : Instr) : (s.warmOrigin i).plat = s.plat ∧ (s.warmOrigin i).hostMem = s.hostMem ∧
    (s.warmOrigin i).peerMem = s.peerMem ∧ KeepsRepairs s (s.warmOrigin i) := by
  unfold State.warmOrigin
  split_ifs
  · exact ⟨rfl, rfl, rfl, fun _ => rfl⟩
  · exact ⟨rfl, rfl, rfl, .refl s⟩

/-- What the wipe of a warm reset leaves. -/
theorem State.warm_leaves (h : (s.warmOrigin i).halted.mayWipe = true) : let u := (s.warmOrigin i).warm
    s.WipedFrom u ∧ u.plat.lostLines = [] ∧ u.plat.reason = s.plat.reason ∧ u.plat.fails = s.plat.fails ∧
      u.plat.lcNext = s.plat.lcNext ∧ u.out = (s.warmOrigin i).out := by
  obtain ⟨hplat, hhost, hpeer, hrep⟩ := s.warmOrigin_frame i
  obtain ⟨-, -, -, hplat', hout, -, hhost', hpeer', -⟩ := (s.warmOrigin i).halted_frame
  have hp : (s.warmOrigin i).halted.plat = { s.plat with warming := true } := by rw [hplat', hplat]
  dsimp only
  rw [State.warm_wipes h]
  refine ⟨State.wiped_from hp (hrep.trans (State.halted_keepsRepairs _)) (hhost'.trans hhost) (hpeer'.trans hpeer) [] false, rfl,
    congrArg (·.reason) hp, congrArg (·.fails) hp, congrArg (·.lcNext) hp, hout⟩

/-- What a warm reset that may not wipe yet comes to. -/
theorem State.warm_waits (h : (s.warmOrigin i).halted.mayWipe = false) : let s0 := s.warmOrigin i
    let u := s0.warm
    u = { s0.halted with dir := u.dir } ∧ u.teams = [] ∧ u.blocks = [] ∧ u.queues = [] ∧ u.plat.warming = true ∧
      u.plat.wiping = s.plat.wiping ∧ (∀ l ∈ s0.halted.hostHeld, u.Asks l .recall) ∧
      ∀ l ∈ s0.halted.dirtyHost, u.Asks l .reclaim := by
  obtain ⟨hplat, -⟩ := s.warmOrigin_frame i
  obtain ⟨hteams, hblocks, hqueues, hplat', -⟩ := (s.warmOrigin i).halted_frame
  obtain ⟨hdir, hrecall, hreclaim⟩ := (s.warmOrigin i).halted.takeBack_asks
  dsimp only
  rw [State.warm_asks h]
  refine ⟨hdir, ?_, ?_, ?_, ?_, ?_, hrecall, hreclaim⟩ <;> rw [hdir]
  · exact hteams
  · exact hblocks
  · exact hqueues
  · rw [hplat']
  · rw [hplat', hplat]

/-! ## The steps of a start -/

section
variable {step reason : Nat} {faulty : List (Nat × Nat)}

theorem State.trainLate_iff : s.trainLate = true ↔ s.plat.trainFrom + 1000000000 ≤ s.time := decide_eq_true_iff

theorem State.stopReason_keeps (h2 : step = 2 → s.plat.imageValid = true) (h5 : step = 5 → s.trainLate = false) :
    s.stopReason step reason = reason := by
  have hn2 : ¬ (step = 2 ∧ (!s.plat.imageValid) = true) := fun ⟨hs, hv⟩ => by simp [h2 hs] at hv
  have hn5 : ¬ (step = 5 ∧ s.trainLate = true) := fun ⟨hs, hl⟩ => by simp [h5 hs] at hl
  unfold State.stopReason
  rw [if_neg hn2, if_neg hn5]

theorem Platform.imageValid_iff (p : Platform) :
    p.imageValid = true ↔ ∃ image, p.boot = some image ∧ Config.imageVerifies image = true := by
  unfold Platform.imageValid
  simp [Option.any_eq_true]

theorem State.startFails_records (s : State) (step reason : Nat) : let u := s.startFails step reason
    u.plat.fails = min (s.plat.fails + 1) 255 ∧ u.plat.reason = reason ∧ u.plat.stopped = step ∧ u.plat.wiping = true ∧
      (u.plat.minimal = true ↔ 2 ≤ s.plat.fails) ∧ (u.plat.booting = true ↔ s.plat.fails < 2) ∧
      u = { s with plat := u.plat } := by
  refine ⟨rfl, rfl, rfl, rfl, decide_eq_true_iff.trans ?_, decide_eq_true_iff.trans ?_, rfl⟩ <;> omega

variable (hb : s.plat.booting = true) (ho : s.plat.off = false) (hs : step = s.plat.step + 1)
include hb ho hs

/-- The repair of one bank keeps enough of them where no die is short and fewer than 127 are retired. -/
theorem exec_startUp_oneBank {d bank : Nat} (h3 : step = 3) (hd : d < 4) (hbank : bank < 1024) (hr : bank ∉ (s.die d).repair)
    (ht : bank ∉ (s.die d).retired) (hn : (s.die d).retired.length < 127) (hlive : ∀ e < 4, 896 ≤ (s.die e).liveBanks) :
    ∃ u, exec (.startUp step 0 [(d, bank)]) s = .next u ∧ (u.die d).retired = (s.die d).retired ++ [bank] ∧ u.plat.step = 3 := by
  have hshort : (s.repairBanks [(d, bank)]).banksShort = false := by
    refine State.banksShort_eq_false fun e he => ?_
    rw [State.repairBanks_one hd hbank hr ht]
    by_cases hed : e = d
    · subst hed
      rw [State.die_setDie]
      unfold Die.liveBanks
      simp only [List.length_append, List.length_cons, List.length_nil]
      omega
    · rw [State.die_setDie_other _ _ hed]
      exact hlive e he
  refine ⟨_, exec_startUp_banks hb ho hs h3, ?_, ?_⟩ <;>
    rw [hshort, if_neg (fun h => Bool.false_ne_true h.2), State.startOutcome_done (.inl (by decide))]
  · change ((s.repairBanks [(d, bank)]).die d).retired = _
    rw [State.repairBanks_one hd hbank hr ht, State.die_setDie]
  · rfl

/-- A step of a start with nothing to stop it. -/
theorem exec_startUp_done (h3 : step ≠ 3) (h2 : step = 2 → s.plat.imageValid = true) (h5 : step = 5 → s.trainLate = false)
    (h4 : step ≠ 4 ∨ s.plat.wiping = false) : exec (.startUp step 0 faulty) s = .next (s.stepDone step) := by
  rw [exec_startUp hb ho hs h3, State.stopReason_keeps h2 h5, State.startOutcome_done h4]

/-- A step of a start that something may stop. -/
theorem exec_startUp_stops {why : Nat} (h3 : step ≠ 3) (hwhy : s.stopReason step reason = why) (hn : why ≠ 0)
    (hm : s.mayStop step why = true) : exec (.startUp step reason faulty) s = .next (s.startFails step why) := by
  rw [exec_startUp hb ho hs h3, hwhy, State.startOutcome_stops hn hm]

/-- A step of a start stops for no reason that is not its own. -/
theorem exec_startUp_idle (h3 : step ≠ 3) (h2 : step = 2 → s.plat.imageValid = true) (h5 : step = 5 → s.trainLate = false)
    (hr : reason ≠ 0) (hm : s.mayStop step reason = false) : exec (.startUp step reason faulty) s = .next s := by
  rw [exec_startUp hb ho hs h3, State.stopReason_keeps h2 h5, State.startOutcome_idle hr hm]

/-- The third step stops short of banks. -/
theorem exec_startUp_short (h3 : step = 3) (hr : reason ≠ 4) (hshort : s.banksShort = true) :
    exec (.startUp step reason []) s = .next (s.startFails 3 5) := by
  rw [exec_startUp_banks hb ho hs h3]
  change Host.Outcome.next (s.startOutcome 3 (if reason ≠ 4 ∧ s.banksShort = true then 5 else reason)) = _
  rw [if_pos ⟨hr, hshort⟩, State.startOutcome_stops (by decide)]
  simp [State.mayStop, hshort]

/-- The third step with its banks at hand goes by the reason given. -/
theorem exec_startUp_enough (h3 : step = 3) (h : reason = 4 ∨ s.banksShort = false) :
    exec (.startUp step reason []) s = .next (s.startOutcome 3 reason) := by
  rw [exec_startUp_banks hb ho hs h3]
  change Host.Outcome.next (s.startOutcome 3 (if reason ≠ 4 ∧ s.banksShort = true then 5 else reason)) = _
  rw [if_neg]
  rintro ⟨hr, hshort⟩
  obtain h | h := h
  · exact hr h
  · rw [h] at hshort
    cases hshort
end

/-- Settles O59: the warm resets by what a halt and a wipe leave of the state (the repaired banks outlast both), the steps of a
start by the reason for which each may stop. -/
theorem resetsAndStart : Obligations.ResetsAndStart := by
  unfold Obligations.ResetsAndStart
  intro s p w bare
  refine ⟨?warm, fun hm => ?minimal, fun ho => ?fatalOff, fun ho => ?fatal, ⟨_, rfl, s.wiped_self [] true, rfl, rfl, rfl, rfl⟩,
    ⟨_, rfl, s.wiped_self [] true, rfl⟩, ?wipeComplete, ?start⟩
  case warm =>
    intro i hi s0
    exact ⟨exec_resetsWarm_off hi, fun ho hm => ⟨_, exec_resetsWarm hi ho, State.warm_leaves hm⟩,
      fun ho hm => ⟨_, exec_resetsWarm hi ho, State.warm_waits hm⟩⟩
  case minimal =>
    change execResetctlWarmReset s = _
    simp [execResetctlWarmReset, show s.plat.minimal = true from hm]
  case fatalOff =>
    change execFatalReset s = _
    simp [execFatalReset, show s.plat.off = true from ho]
  case fatal =>
    refine ⟨s.fatal s.plat.reason, ?_, s.wiped_self s.lostHost false, rfl, rfl, rfl⟩
    change execFatalReset s = _
    simp [execFatalReset, show s.plat.off = false from ho]
  case wipeComplete =>
    change execWipeComplete s = _
    simp [execWipeComplete, p]
  intro late
  refine ⟨fun hb ho step reason faulty hs => ⟨fun h2 hv => ?badImage, fun h5 hl => ?late, fun h3 hr hf hd => ?short, fun h => ?stops,
    fun hr h => ?idle, fun hr h12 hv => ?early, fun hr h4 hw => ?wiping, fun hr h4 hw => ?wiped, fun hr h5 hl => ?last,
    fun hr h3 hf hlive => ?enough, fun d bank hr h3 hf hd hbank hrep hret hn hlive => ?oneBank⟩, s.plat.imageValid_iff, ?timeout,
    s.startFails_records⟩
  case badImage =>
    subst h2
    have hbad : s.plat.imageValid = false := hv
    exact exec_startUp_stops hb ho hs (by decide) (by simp [State.stopReason, hbad]) (by decide) (by simp [State.mayStop, hbad])
  case late =>
    subst h5
    have hlate : s.trainLate = true := State.trainLate_iff.2 hl
    exact exec_startUp_stops hb ho hs (by decide) (by simp [State.stopReason, hlate]) (by decide) (by simp [State.mayStop, hlate])
  case short =>
    subst h3 hf
    exact exec_startUp_short hb ho hs rfl hr (State.banksShort_iff.2 hd)
  case stops =>
    obtain ⟨rfl, hr⟩ | ⟨rfl, hv, rfl⟩ | ⟨rfl, rfl, rfl⟩ | ⟨rfl, hw, rfl⟩ := h
    · exact exec_startUp_stops hb ho hs (by decide) (State.stopReason_keeps (by simp) (by simp)) (by omega)
        (by simpa [State.mayStop] using hr)
    · exact exec_startUp_stops hb ho hs (by decide) (State.stopReason_keeps (fun _ => hv) (by simp)) (by decide)
        (by simp [State.mayStop, show s.plat.imageValid = true from hv])
    · rw [exec_startUp_enough hb ho hs rfl (.inl rfl), State.startOutcome_stops (by decide) rfl]
    · exact exec_startUp_stops hb ho hs (by decide) (State.stopReason_keeps (by simp) (by simp)) (by decide)
        (by simp [State.mayStop, show s.plat.wiping = true from hw])
  case idle =>
    obtain ⟨rfl, h1, h9⟩ | ⟨rfl, hv, h3⟩ | ⟨rfl, h⟩ | ⟨rfl, hl⟩ := h
    · exact exec_startUp_idle hb ho hs (by decide) (by simp) (by simp) hr (by simp [State.mayStop, h1, h9])
    · exact exec_startUp_idle hb ho hs (by decide) (fun _ => hv) (by simp) hr
        (by simp [State.mayStop, show s.plat.imageValid = true from hv, h3])
    · refine exec_startUp_idle hb ho hs (by decide) (by simp) (by simp) hr ?_
      obtain hw | hr := h
      · simp [State.mayStop, show s.plat.wiping = false from hw]
      · simp [State.mayStop, hr]
    · have hlate : s.trainLate = false := eq_false_of_ne_true fun h => hl (State.trainLate_iff.1 h)
      exact exec_startUp_idle hb ho hs (by decide) (by simp) (fun _ => hlate) hr (by simp [State.mayStop, hlate])
  case early =>
    subst hr
    obtain rfl | rfl : step = 1 ∨ step = 2 := by simpa using h12
    · exact exec_startUp_done hb ho hs (by decide) (by simp) (by simp) (.inl (by decide))
    · exact exec_startUp_done hb ho hs (by decide) hv (by simp) (.inl (by decide))
  case wiping =>
    subst hr h4
    rw [exec_startUp hb ho hs (by decide), State.stopReason_keeps (by simp) (by simp), State.startOutcome_wiping hw]
  case wiped =>
    subst hr h4
    exact exec_startUp_done hb ho hs (by decide) (by simp) (by simp) (.inr hw)
  case last =>
    subst hr h5
    have hlate : s.trainLate = false := eq_false_of_ne_true fun h => hl (State.trainLate_iff.1 h)
    exact exec_startUp_done hb ho hs (by decide) (by simp) (fun _ => hlate) (.inl (by decide))
  case enough =>
    subst hr h3 hf
    rw [exec_startUp_enough hb ho hs rfl (.inr (State.banksShort_eq_false hlive)), State.startOutcome_done (.inl (by decide))]
    rfl
  case oneBank =>
    subst hr hf
    exact exec_startUp_oneBank hb ho hs h3 hd hbank hrep hret hn hlive
  case timeout =>
    change execCxlTrainTimeout s = _
    unfold execCxlTrainTimeout
    simp only [State.trainLate_iff]
    rfl

end Sys2Proof.Machine
end

section
/-! SUPPORT. The engine instructions at issue (spec/10_matrix.md R220, R221, R237; spec/13_preemption.md R284, R444): record
checks, then room, then an entry with the work that it counts. -/

namespace Sys2Proof.Machine

/-! ## Checks in their order -/

@[simp] theorem failIf_false (c : Cause) : failIf false c = none := rfl

@[simp] theorem failIf_true (c : Cause) : failIf true c = some c := rfl

@[simp] theorem firstCause_none_cons (cs : List (Option Cause)) : firstCause (none :: cs) = firstCause cs := rfl

@[simp] theorem firstCause_some_cons (c : Cause) (cs : List (Option Cause)) : firstCause (some c :: cs) = some c := rfl

@[simp] theorem firstCause_singleton (c : Option Cause) : firstCause [c] = c := by cases c <;> rfl

/-! ## The entry taken (R237, R284) -/

theorem State.engEntry_isFor (s : State) (ctx : Nat) (i : Instr) (kind reserve left : Nat) (clsT cp : Bool) :
    (s.engEntry ctx i kind reserve left clsT cp).isFor s ctx i kind left clsT cp :=
  ⟨rfl, rfl, rfl, rfl, rfl, rfl, rfl, rfl, rfl, rfl⟩

theorem State.takeEntry_only (s : State) (ctx : Nat) (e : Entry) : OnlyTeam s (s.takeEntry ctx e) ctx :=
  .trans (.setTeam s ctx _) (.bumpUid _ ctx)

theorem State.takeEntry_team (s : State) (ctx : Nat) (e : Entry) :
    (s.takeEntry ctx e).team ctx = (s.team ctx).entersEngine e (s.team ctx).pend := by
  change (s.setTeam ctx _).team ctx = _
  rw [State.team_setTeam]
  cases h : e.clsT <;> simp [Team.entersEngine, h, b2n]

/-! ## An engine instruction's own part -/

/-- Record checks, then room, then the work: the shape that the engine instructions share. -/
def Issued.gate (cs : List (Option Cause)) (full : Bool) (v : State) : Issued :=
  match firstCause cs with
  | some c => .trap c 0
  | none => if full then .hold else .done v

section
variable {s s' v : State} {ctx : Nat} {i : Instr} {body : Nat → Issued} {cs : List (Option Cause)} {full : Bool}

theorem Issued.gate_trap {c : Cause} (h : firstCause cs = some c) : Issued.gate cs full v = .trap c 0 := by
  simp [Issued.gate, h]

theorem Issued.gate_hold (h : firstCause cs = none) : Issued.gate cs true v = .hold := by
  simp [Issued.gate, h]

theorem Issued.gate_done (h : firstCause cs = none) : Issued.gate cs false v = .done v := by
  simp [Issued.gate, h]

theorem State.trapsWith_of_gate {c : Cause} (he : exec i s = s.atIssue i body) (hr : s.Runs ctx) (hp : s.Passes ctx i)
    (hb : body ctx = .gate cs full v) (hc : firstCause cs = some c) : s.TrapsWith ctx i c 0 :=
  State.trapsWith_of_body he hr hp (hb.trans (Issued.gate_trap hc))

theorem State.holds_of_gate (he : exec i s = s.atIssue i body) (hr : s.Runs ctx) (hp : s.Passes ctx i)
    (hb : body ctx = .gate cs full v) (hc : firstCause cs = none) (hf : full = true) : s.Holds i := by
  subst hf
  exact State.holds_of_body he hr hp (hb.trans (Issued.gate_hold hc))

/-- An engine instruction with room: outside its team the machine is as `s'`, where the engine has the work. -/
theorem State.goesOn_of_gate (he : exec i s = s.atIssue i body) (hr : s.Runs ctx) (hp : s.Passes ctx i)
    (hb : body ctx = .gate cs full v) (hc : firstCause cs = none) (hf : full = false)
    (honly : OnlyTeam s' v ctx) (hblock : s'.blockOf? ctx = s.blockOf? ctx) (hmarks : v.marks i = s.marks i) :
    s.GoesOn ctx i s' (v.team ctx) := by
  subst hf
  exact State.goesOn_of_done he hr hp (hb.trans (Issued.gate_done hc)) hblock honly hmarks

/-- An engine instruction with room that owes no result: its team differs by the entry. -/
theorem State.goesOn_of_gate_takeEntry {e : Entry} (he : exec i s = s.atIssue i body) (hr : s.Runs ctx) (hp : s.Passes ctx i)
    (hb : body ctx = .gate cs full (s'.takeEntry ctx e)) (hc : firstCause cs = none) (hf : full = false)
    (hblock : s'.blockOf? ctx = s.blockOf? ctx) (hmarks : s'.marks i = s.marks i) (hteam : s'.team ctx = s.team ctx) :
    s.GoesOn ctx i s' ((s.team ctx).entersEngine e (s.team ctx).pend) := by
  rw [← hteam, ← State.takeEntry_team]
  exact State.goesOn_of_gate he hr hp hb hc hf (s'.takeEntry_only ctx e) hblock hmarks
end

end Sys2Proof.Machine
end

section
/-! PROOF of O40. MMA at issue (spec/10_matrix.md R216 to R221, R225, R226; spec/17_ref_evpop_sxor.md R384). -/

namespace Sys2Proof.Machine

section
variable (s : State) (ctx : Nat) (f : XF)

/-- The job of an MMA at issue. -/
def State.mmaJob : MmaJob :=
  let a := (s.team ctx).hreg f.ha.toNat
  let b := (s.team ctx).hreg f.hb.toNat
  { uid := s.uid, ent := s.uid, ctx, zd := f.zd.toNat, ra := a, rb := b, nega := f.nega, negb := f.negb, acd := f.acd
    sat := xSat f, wins := s.winsOf ctx (mmaWindows a b), user := !s.isHandler ctx }

/-- The checks of an MMA, in their order. -/
def State.mmaGate : List (Option Cause) :=
  let a := (s.team ctx).hreg f.ha.toNat
  let b := (s.team ctx).hreg f.hb.toNat
  mmaChecks a b (xSat f) ++ [s.windowCheck ctx (mmaWindows a b) none]

/-- The machine with an MMA's job and entry, and with the commit that is owed (R226). -/
def State.withMma : State :=
  let v := (s.queueMma ctx (s.mmaJob ctx f)).takeEntry ctx (s.engEntry ctx (.mma f) 10 4480 1 false false)
  v.setTeam ctx ((v.team ctx).post s.uid (.commit f.zd.toNat s.uid) none)

theorem State.withMma_only : OnlyTeam (s.queueMma ctx (s.mmaJob ctx f)) (s.withMma ctx f) ctx :=
  .trans (State.takeEntry_only _ ctx _) (.setTeam _ ctx _)

theorem State.withMma_team : (s.withMma ctx f).team ctx =
    (s.team ctx).entersEngine (s.engEntry ctx (.mma f) 10 4480 1 false false)
      ((s.team ctx).post s.uid (.commit f.zd.toNat s.uid) none).pend := by
  unfold State.withMma
  rw [State.team_setTeam, State.takeEntry_team]
  rfl

/-- MMA's own part: its checks, then room in the queue and in the record, then the job and the commit owed. -/
theorem exec_mma : exec (.mma f) s = s.atIssue (.mma f) fun ctx =>
    .gate (s.mmaGate ctx f) (s.arrayFull ctx || !s.room ctx 4480 0) (s.withMma ctx f) := by
  rfl
end

theorem State.arrayOrRecordFull_iff {s : State} {ctx reserve : Nat} : (s.arrayFull ctx || !s.room ctx reserve 0) = true ↔
    8 ≤ (s.core (s.coreOf ctx)).arrq.length ∨ s.room ctx reserve 0 = false := by
  simp [State.arrayFull]

/-- An MMA's checks fail with BADSHAPE, then with RSVFLD, then with what the windows give (R220, R221, R225, R384). -/
theorem firstCause_mmaChecks (a b : Record) (sat : Bool) (w : Option Cause) :
    firstCause (mmaChecks a b sat ++ [w]) =
      if badRecord a mmaUse || badRecord b mmaUse || badMma a b then some Cause.badshape
      else if sat && mmaFloat (Shape.fmt a) then some Cause.rsvfld else w := by
  unfold mmaChecks
  cases badRecord a mmaUse
  case true => rfl
  cases badRecord b mmaUse
  case true => rfl
  cases badMma a b
  case true => rfl
  cases sat && mmaFloat (Shape.fmt a) <;> simp

/-- Settles O40: an MMA's own part is a gate of its checks and of room, behind which its job and its entry are taken. -/
theorem mmaIssue : Obligations.MmaIssue := by
  unfold Obligations.MmaIssue
  intro s ctx f hr hp t a b k windows bad
  have hcheck : firstCause (s.mmaGate ctx f) = if bad then some Cause.badshape
      else if xSat f && mmaFloat (Shape.fmt a) then some Cause.rsvfld else s.windowCheck ctx windows none :=
    firstCause_mmaChecks a b (xSat f) (s.windowCheck ctx windows none)
  have hsat_iff : (xSat f && mmaFloat (Shape.fmt a)) = true ↔ f.sub.getLsbD 0 = true ∧ Shape.fmt a < 13 := by
    simp [xSat, mmaFloat]
  refine ⟨fun hbad => ?_, fun hbad hsat => ?_, fun hbad hsat => ?_⟩
  · exact State.trapsWith_of_gate (exec_mma s f) hr hp rfl (hcheck.trans (if_pos hbad))
  · rw [hbad, if_neg Bool.false_ne_true, if_pos (hsat_iff.2 hsat)] at hcheck
    exact State.trapsWith_of_gate (exec_mma s f) hr hp rfl hcheck
  · rw [hbad, if_neg Bool.false_ne_true, if_neg (mt hsat_iff.1 hsat)] at hcheck
    split
    next c hw => exact State.trapsWith_of_gate (exec_mma s f) hr hp rfl (hcheck.trans hw)
    next hw =>
      split_ifs with hfull
      · exact State.holds_of_gate (exec_mma s f) hr hp rfl (hcheck.trans hw) (State.arrayOrRecordFull_iff.2 hfull)
      · have hroom := eq_false_of_ne_true (mt State.arrayOrRecordFull_iff.1 hfull)
        have hgo := State.goesOn_of_gate (exec_mma s f) hr hp rfl (hcheck.trans hw) hroom (s.withMma_only ctx f) rfl rfl
        rw [State.withMma_team] at hgo
        exact ⟨_, s.mmaJob ctx f, s.engEntry_isFor .., rfl, rfl, rfl, rfl, rfl, rfl, rfl, rfl, rfl, rfl, rfl, rfl, rfl, hgo⟩

end Sys2Proof.Machine
end

section
/-! PROOF of O41 and O42. CPY, ZDRAIN, CPYM and RROT at issue (spec/10_matrix.md R228 to R237; spec/16_ref_bany_dloop.md R358,
R361; spec/17_ref_evpop_sxor.md R388; spec/19_ref_vmulh_zwr.md R441). -/

namespace Sys2Proof.Machine

/-! ## A copy or a drain (R229, R235, R358, R441) -/

theorem extentN_eq (x : Word64) : extentN x = x.toNat % 2 ^ 20 := by simp [extentN, bitsAt]

/-- An accumulator as a drain's snapshot keeps it, row by row (R235). -/
def Team.snapshot (t : Team) (j : Nat) : List Word32 := (List.range 1024).map fun e => t.zelem j (e / 32) (e % 32)

theorem Team.snapshot_length (t : Team) (j : Nat) : (t.snapshot j).length = 1024 := by
  rw [Team.snapshot, List.length_map, List.length_range]

theorem Team.snapshot_getElem? (t : Team) (j : Nat) {r k : Nat} (hr : r < 32) (hk : k < 32) :
    (t.snapshot j)[r * 32 + k]? = some (t.zelem j r k) := by
  have hrow : (r * 32 + k) / 32 = r := by omega
  have hcol : (r * 32 + k) % 32 = k := by omega
  rw [Team.snapshot, List.getElem?_map, List.getElem?_range (by omega), Option.map_some, hrow, hcol]

/-- A copy with the engine. -/
def State.withCopy (s : State) (c : Copy) : State := { s with copies := s.copies ++ [c] }

section
variable (s : State) (ctx : Nat) (f : XF)

/-- A copy as its issue gives it to the engine, with the identity and the tag of its entry. -/
def State.ownCopy (e : Entry) (c : Copy) : Copy :=
  { c with uid := e.uid, ent := e.uid, ctx, col := s.colOfCtx ctx, tag := if e.clsT && c.kind != .cpym then e.tag else 0
           user := !s.isHandler ctx }

/-- The windows of a copy's source and destination (R224). -/
def copyWindows (src dst : Record) (x : Word64) : List Window :=
  [{ rc := src, n := extentN x, m := extentM x }, { rc := dst, n := extentN x, m := extentM x, dst := true }]

/-- The barrier object that a copy or a drain names, and the destination in whose windows it lies (R232). -/
def Team.objectOf (t : Team) (dst : Record) : Option (Nat × Record) :=
  if xBe f then some ((t.sreg f.bar.toNat).toNat, dst) else none

/-- A CPY's entry: class N into a scratchpad without reduction, else class T (R237). -/
def State.cpyEntry : Entry :=
  let dst := (s.team ctx).hreg f.hb.toNat
  s.engEntry ctx (.cpy f) 8 144 1 (!((Shape.space dst == 1 || Shape.space dst == 2) && xRed f == 0)) true

/-- The copy of a CPY at issue. -/
def State.cpyCopy : Copy :=
  let t := s.team ctx
  let src := t.hreg f.ha.toNat
  let dst := t.hreg f.hb.toNat
  let x := t.sreg f.s1.toNat
  s.ownCopy ctx (s.cpyEntry ctx f)
    { uid := 0, ent := 0, ctx, col := 0, kind := .cpy, src, dst, n := extentN x, m := extentM x, red := xRed f, be := xBe f
      bar := (t.sreg f.bar.toNat).toNat, evt := xEvt f, wins := s.winsOf ctx (copyWindows src dst x) }

/-- The checks of a CPY, in their order. -/
def State.cpyGate : List (Option Cause) :=
  let t := s.team ctx
  let src := t.hreg f.ha.toNat
  let dst := t.hreg f.hb.toNat
  copyChecks src dst false (xRed f) ++ [s.windowCheck ctx (copyWindows src dst (t.sreg f.s1.toNat)) (t.objectOf f dst)]

theorem exec_cpy : exec (.cpy f) s = s.atIssue (.cpy f) fun ctx =>
    .gate (s.cpyGate ctx f) (!s.room ctx 144 0) ((s.withCopy (s.cpyCopy ctx f)).takeEntry ctx (s.cpyEntry ctx f)) := by
  rfl

/-- The copy of a drain at issue, with its snapshot. -/
def State.drainCopy : Copy :=
  let t := s.team ctx
  let dst := t.hreg f.ha.toNat
  s.ownCopy ctx (s.engEntry ctx (.zdrain f) 11 4160 1 true true)
    { uid := 0, ent := 0, ctx, col := 0, kind := .drain, src := 0, dst, n := 32, m := 32, red := xRed f, sat := xSat f
      be := xBe f, bar := (t.sreg f.bar.toNat).toNat, evt := xEvt f
      wins := s.winsOf ctx [{ rc := dst, n := 32, m := 32, dst := true }]
      snap := t.snapshot f.zd.toNat }

theorem State.drainCopy_snap : (s.drainCopy ctx f).snap = (s.team ctx).snapshot f.zd.toNat := by
  simp only [State.drainCopy, State.ownCopy]

/-- The checks of a drain, in their order (R441). -/
def State.drainGate : List (Option Cause) :=
  let dst := (s.team ctx).hreg f.ha.toNat
  [failIf (decide (1 < xRed f) || (!xBe f && f.bar != 0)) Cause.rsvfld, failIf (badRecord dst { dst := true }) Cause.badshape,
   failIf (badDrain (Shape.fmt dst) (xSat f) (xRed f)) Cause.badshape,
   s.windowCheck ctx [{ rc := dst, n := 32, m := 32, dst := true }] ((s.team ctx).objectOf f dst)]

theorem exec_zdrain : exec (.zdrain f) s = s.atIssue (.zdrain f) fun ctx =>
    .gate (s.drainGate ctx f) (decide (4 ≤ s.drains (s.coreOf ctx)) || !s.room ctx 4160 0)
      ((s.withCopy (s.drainCopy ctx f)).takeEntry ctx (s.engEntry ctx (.zdrain f) 11 4160 1 true true)) := by
  rfl
end

/-- Settles O41: a copy's and a drain's own parts are gates of their checks and of room, behind which the engine has the copy. -/
theorem copyAndDrainIssue : Obligations.CopyAndDrainIssue := by
  unfold Obligations.CopyAndDrainIssue
  intro s ctx f hr t bar be red
  constructor
  · intro hp src dst n m ws
    have hn : extentN (t.sreg f.s1.toNat) = n := extentN_eq _
    have hws : copyWindows src dst (t.sreg f.s1.toNat) = ws := by simp only [copyWindows, hn]; rfl
    have hcheck : s.cpyGate ctx f = copyChecks src dst false red ++
        [s.windowCheck ctx ws (if be then some (bar, dst) else none)] := by
      rw [← hws]
      rfl
    rw [← hcheck]
    split
    next c hc => exact State.trapsWith_of_gate (exec_cpy s f) hr hp rfl hc
    next hc =>
      split_ifs with hroom
      · exact ⟨_, s.cpyCopy ctx f, s.engEntry_isFor .., rfl, rfl, rfl, rfl, rfl, rfl, hn, rfl, rfl, rfl, rfl, rfl, rfl,
          State.goesOn_of_gate_takeEntry (exec_cpy s f) hr hp rfl hc (by simp [hroom]) rfl rfl rfl⟩
      · exact State.holds_of_gate (exec_cpy s f) hr hp rfl hc (by simp [hroom])
  · intro hp dst ws
    split
    next c hc => exact State.trapsWith_of_gate (exec_zdrain s f) hr hp rfl hc
    next hc =>
      split_ifs with hroom
      · exact ⟨_, s.drainCopy ctx f, s.engEntry_isFor .., rfl, rfl, rfl, rfl, rfl, rfl, rfl, rfl, rfl, rfl,
          s.drainCopy_snap ctx f ▸ t.snapshot_length _, fun r k => s.drainCopy_snap ctx f ▸ t.snapshot_getElem? _,
          State.goesOn_of_gate_takeEntry (exec_zdrain s f) hr hp rfl hc (by simp [hroom]) rfl rfl rfl⟩
      · exact State.holds_of_gate (exec_zdrain s f) hr hp rfl hc (by simpa [imp_iff_not_or, not_and_or] using hroom)

/-! ## A copy and its MMA (R233, R361) -/

section
variable (s : State) (ctx : Nat) (f : XF)

/-- A CPYM's entry: class T when it counts on a barrier object. -/
def State.cpymEntry : Entry := s.engEntry ctx (.cpym f) 9 4624 2 (xBe f) true

/-- The copy of a CPYM at issue. -/
def State.cpymCopy : Copy :=
  let t := s.team ctx
  let src := t.hreg f.hc.toNat
  let dst := t.hreg (xHd f)
  let x := t.sreg f.s1.toNat
  s.ownCopy ctx (s.cpymEntry ctx f)
    { uid := 0, ent := 0, ctx, col := 0, kind := .cpym, src, dst, n := extentN x, m := extentM x, be := xBe f
      bar := (t.sreg f.bar.toNat).toNat, evt := xEvt f, wins := s.winsOf ctx (copyWindows src dst x) }

/-- The job of a CPYM's MMA, which waits for the copy. -/
def State.cpymJob : MmaJob :=
  { s.mmaJob ctx f with after := s.uid, be := xBe f, bar := ((s.team ctx).sreg f.bar.toNat).toNat
                        tag := if xBe f then (s.cpymEntry ctx f).tag else 0 }

/-- The checks of a CPYM, in their order: records, the copy's, the MMA's, and the windows of both in one pass, which is the
model's choice (log entry 120). -/
def State.cpymGate : List (Option Cause) :=
  let t := s.team ctx
  let a := t.hreg f.ha.toNat
  let b := t.hreg f.hb.toNat
  let src := t.hreg f.hc.toNat
  let dst := t.hreg (xHd f)
  [failIf (badRecord src {}) Cause.badshape, failIf (badRecord dst { dst := true }) Cause.badshape,
    failIf (badRecord a mmaUse) Cause.badshape, failIf (badRecord b mmaUse) Cause.badshape] ++
  copyChecks src dst true 0 ++ mmaChecks a b (xSat f) ++
  [s.windowCheck ctx (copyWindows src dst (t.sreg f.s1.toNat) ++ mmaWindows a b) (t.objectOf f dst)]

theorem exec_cpym : exec (.cpym f) s = s.atIssue (.cpym f) fun ctx =>
    .gate (s.cpymGate ctx f) (s.arrayFull ctx || !s.room ctx 4624 0)
      (((s.withCopy (s.cpymCopy ctx f)).queueMma ctx (s.cpymJob ctx f)).takeEntry ctx (s.cpymEntry ctx f)) := by
  rfl

/-! ## A share of a rotation's round (R236, R388) -/

/-- A team may rotate with a gang: it is a member, and the gang has a team on each core of its cluster (R236). -/
def State.ringMember (g : Nat) : Bool :=
  match s.gang? (s.colOfCtx ctx) g with
  | some x => x.members.contains ctx && s.ringGang x
  | none => false

/-- A share that joins the open rounds of a cluster. -/
def State.withShare (col : Nat) (r : Rrot) : State :=
  s.setCluster col { s.cluster col with rrots := (s.cluster col).rrots ++ [r] }

/-- The copy of an RROT at issue. -/
def State.rrotCopy : Copy :=
  let t := s.team ctx
  s.ownCopy ctx (s.engEntry ctx (.rrot f) 12 144 1 true true)
    { uid := 0, ent := 0, ctx, col := 0, kind := .rrot, src := t.hreg f.ha.toNat, dst := t.hreg f.hb.toNat, n := 32, m := 32
      be := xBe f, bar := (t.sreg f.bar.toNat).toNat, gang := t.gangOf f.s1 }

/-- The share of an RROT at issue. -/
def State.rrotShare : Rrot :=
  let t := s.team ctx
  { ctx, gang := t.gangOf f.s1, ent := s.uid, src := t.hreg f.ha.toNat, dst := t.hreg f.hb.toNat, dir := f.sub.getLsbD 0
    be := xBe f, bar := (t.sreg f.bar.toNat).toNat }

/-- The checks of an RROT behind that of its gang, in their order. -/
def State.rrotGate : List (Option Cause) :=
  let t := s.team ctx
  let src := t.hreg f.ha.toNat
  let dst := t.hreg f.hb.toNat
  [failIf (badRecord src { own := true }) Cause.badshape, failIf (badRecord dst { own := true, dst := true }) Cause.badshape,
   failIf (Shape.fmt src != Shape.fmt dst) Cause.badshape,
   s.windowCheck ctx [{ rc := src, n := 32, m := 32 }, { rc := dst, n := 32, m := 32, dst := true }] (t.objectOf f dst)]

theorem exec_rrot : exec (.rrot f) s = s.atIssue (.rrot f) fun ctx =>
    .gate (failIf (!s.ringMember ctx ((s.team ctx).gangOf f.s1)) Cause.gangnot :: s.rrotGate ctx f) (!s.room ctx 144 0)
      (((s.withCopy (s.rrotCopy ctx f)).withShare (s.colOfCtx ctx) (s.rrotShare ctx f)).takeEntry ctx
        (s.engEntry ctx (.rrot f) 12 144 1 true true)) := by
  rfl
end

section
variable {s : State} {ctx g : Nat}

theorem State.ringMember_eq_true {x : Gang} (hx : s.gang? (s.colOfCtx ctx) g = some x) (hmem : x.members.contains ctx = true)
    (hring : s.ringGang x = true) : s.ringMember ctx g = true := by
  simp only [State.ringMember, hx, hmem, hring, Bool.and_self]

theorem State.ringMember_eq_false
    (h : ((s.gang? (s.colOfCtx ctx) g).all fun x => !(x.members.contains ctx && s.ringGang x)) = true) :
    s.ringMember ctx g = false := by
  unfold State.ringMember
  cases hx : s.gang? (s.colOfCtx ctx) g with
  | none => rfl
  | some x => simpa only [hx, Option.all_some, Bool.not_eq_true'] using h
end

/-- Settles O42: a CPYM's gate lets a copy and a job pass under one entry, an RROT's a copy and a share of a round. -/
theorem cpymAndRrotIssue : Obligations.CpymAndRrotIssue := by
  unfold Obligations.CpymAndRrotIssue
  intro s ctx f hr t bar be a b
  constructor
  · intro hp src dst n m ws records
    have hn : extentN (t.sreg f.s1.toNat) = n := extentN_eq _
    have hws : copyWindows src dst (t.sreg f.s1.toNat) ++ mmaWindows a b = ws := by simp only [copyWindows, hn]; rfl
    have hcheck : s.cpymGate ctx f = records ++ copyChecks src dst true 0 ++ mmaChecks a b (f.sub.getLsbD 0) ++
        [s.windowCheck ctx ws (if be then some (bar, dst) else none)] := by
      rw [← hws]
      rfl
    rw [← hcheck]
    split
    next c hc => exact State.trapsWith_of_gate (exec_cpym s f) hr hp rfl hc
    next hc =>
      split_ifs with hfull
      · exact State.holds_of_gate (exec_cpym s f) hr hp rfl hc (State.arrayOrRecordFull_iff.2 hfull)
      · have hroom := eq_false_of_ne_true (mt State.arrayOrRecordFull_iff.1 hfull)
        exact ⟨_, s.cpymCopy ctx f, s.cpymJob ctx f, s.engEntry_isFor .., rfl, rfl, rfl, rfl, rfl, hn, rfl, rfl, rfl, rfl, rfl,
          rfl, rfl, rfl, rfl, rfl, rfl, rfl, rfl, rfl, rfl,
          State.goesOn_of_gate_takeEntry (exec_cpym s f) hr hp rfl hc hroom rfl rfl rfl⟩
  · intro hp col g ws
    refine ⟨fun hno => ?_, fun x hx hmem hring => ?_⟩
    · have hout : s.ringMember ctx (t.gangOf f.s1) = false := State.ringMember_eq_false hno
      exact State.trapsWith_of_gate (exec_rrot s f) hr hp rfl (by rw [hout]; rfl)
    · have hin : s.ringMember ctx (t.gangOf f.s1) = true := State.ringMember_eq_true hx hmem hring
      have hcheck : firstCause (failIf (!s.ringMember ctx (t.gangOf f.s1)) Cause.gangnot :: s.rrotGate ctx f) =
          firstCause (s.rrotGate ctx f) := by
        rw [hin]
        rfl
      split
      next c hc => exact State.trapsWith_of_gate (exec_rrot s f) hr hp rfl (hcheck.trans hc)
      next hc =>
        split_ifs with hroom
        · exact ⟨_, s.rrotCopy ctx f, s.engEntry_isFor .., rfl, rfl, rfl, rfl, rfl, rfl,
            State.goesOn_of_gate_takeEntry (exec_rrot s f) hr hp rfl (hcheck.trans hc) (by simp [hroom]) rfl rfl rfl⟩
        · exact State.holds_of_gate (exec_rrot s f) hr hp rfl (hcheck.trans hc) (by simp [hroom])

end Sys2Proof.Machine
end

section
/-! SUPPORT. Counted window requests and event records at issue (spec/13_preemption.md R284; spec/16_ref_bany_dloop.md R345, R346;
spec/17_ref_evpop_sxor.md R376), and an instruction at which its team begins to wait (spec/03_execution.md R43). -/

namespace Sys2Proof.Machine

section
variable (s : State) (ctx : Nat) (i : Instr) (kind reserve path : Nat) (rel : Bool) (w : LsWork) (addr : Word64)

/-- The queued item of a counted window request or event record. -/
def State.padItem : LsItem := { uid := s.uid + 1, ent := s.uid, tag := (s.team ctx).nextTag, work := w, rel }

/-- The in-flight entry of a counted window request or event record, KIND 5, 6 or 7 (R284). -/
def State.padEntry : Entry :=
  { uid := s.uid, tag := (s.team ctx).nextTag, kind, clsT := true, st := true, path, rel, pc := (s.team ctx).pc
    word := wordOf i, addr, left := 1, reserve, works := [s.padItem ctx rel w] }

/-- The team of a counted window request or event record that has issued. -/
def State.padTeam : Team :=
  (s.team ctx).enters (s.padEntry ctx i kind reserve path rel w addr) [s.padItem ctx rel w] (s.team ctx).pend

variable {s ctx i kind reserve path rel w addr}

theorem State.padIssue_hold (h : s.room ctx reserve 0 = false) : s.padIssue ctx i kind reserve path rel w addr = .hold :=
  if_pos (by simp [h])

theorem State.padIssue_sends (h : s.room ctx reserve 0 = true) : s.padIssue ctx i kind reserve path rel w addr =
    .done { s.setTeam ctx (s.padTeam ctx i kind reserve path rel w addr) with uid := s.uid + 2 } :=
  if_neg (by simp [h])

variable {body : Nat → Issued}

/-- A counted request whose checks have passed and for which there is room: it is entered and queued. -/
theorem State.goesOn_of_padIssue (he : exec i s = s.atIssue i body) (hr : s.Runs ctx) (hp : s.Passes ctx i)
    (hb : body ctx = s.padIssue ctx i kind reserve path rel w addr) (h : s.room ctx reserve 0 = true) :
    s.GoesOn ctx i s (s.padTeam ctx i kind reserve path rel w addr) := by
  have honly : OnlyTeam s { s.setTeam ctx (s.padTeam ctx i kind reserve path rel w addr) with uid := s.uid + 2 } ctx :=
    .trans (.setTeam s ctx _) ⟨fun _ _ => rfl, fun _ => rfl, rfl⟩
  have hgoes := State.goesOn_of_body he hr hp (hb.trans (State.padIssue_sends h)) honly rfl
  rwa [show State.team { s.setTeam ctx _ with uid := s.uid + 2 } ctx = _ from State.team_setTeam s ctx _] at hgoes

/-- An instruction at which its team begins to wait: `v` is the machine with what its own part has changed before. -/
theorem State.stays_of_waitAt {s' v : State} {c : WaitFor} (he : exec i s = s.atIssue i body) (hr : s.Runs ctx)
    (hp : s.Passes ctx i) (hb : body ctx = .stay (v.waitAt ctx c (wordOf i))) (ho : OnlyTeam s' v ctx)
    (hs : s'.blockOf? ctx = s.blockOf? ctx) : s.Stays ctx i s' ((v.team ctx).waitsFor c i) := by
  have hstays := State.stays_of_body he hr hp hb (ho.trans (OnlyTeam.setTeam v ctx _)) hs
  unfold State.waitAt at hstays
  rwa [State.team_setTeam] at hstays
end

end Sys2Proof.Machine
end

section
/-! PROOF of O31. EVPOP, EVWAIT and EVPUSH at issue (spec/11_completion.md R250, R253; spec/17_ref_evpop_sxor.md R374 to R376). -/

namespace Sys2Proof.Machine

theorem SameRegs.postAll (t : Team) (u : Nat) (rs : List (Cell × Option (BitVec 1024))) : SameRegs t (t.postAll u rs) := by
  unfold SameRegs
  rw [Team.postAll_eq]

/-- Two results made outstanding by one instruction: the second stands where both name one cell (R45). -/
theorem Team.due_postAll_pair (t : Team) (u : Nat) (a b : Cell) (x y : Option (BitVec 1024)) (c : Cell) :
    (t.postAll u [(a, x), (b, y)]).due c = if c = b then y else if c = a then x else t.due c := by
  change ((t.post u a x).post u b y).due c = _
  by_cases hb : c = b
  · rw [if_pos hb, hb, Team.due_post_same]
  · rw [if_neg hb, Team.due_post_other _ _ _ hb]
    by_cases ha : c = a
    · rw [if_pos ha, ha, Team.due_post_same]
    · rw [if_neg ha, Team.due_post_other _ _ _ ha]

/-- The cluster's queue without its oldest record. -/
def State.withoutRecord (s : State) (col : Nat) : State :=
  s.setCluster col { s.cluster col with evq := (s.cluster col).evq.drop 1 }

section
variable {s : State} {ctx : Nat} {f : YF} (hr : s.Runs ctx)
include hr

/-- EVPOP with no fence in force: the oldest record leaves the queue and its two words are owed (R374). -/
theorem State.evpop_issues (hp : s.Passes ctx (.evpop f)) (hf : s.fenced ctx s.uid 3 = false) :
    let r := (s.cluster (s.colOfCtx ctx)).evq.head?.getD (0, 0)
    s.GoesOn ctx (.evpop f) (s.withoutRecord (s.colOfCtx ctx)) ((s.team ctx).postAll s.uid
      [(.s f.sa.toNat, some (r.1.setWidth 1024)), (.s f.sb.toNat, some (r.2.setWidth 1024))]) := by
  intro r
  have he : exec (.evpop f) s = execEvpop f s := rfl
  have hopen : ¬ s.fenced ctx s.uid 3 = true := by simp [hf]
  have hgoes := State.goesOn_of_done he hr hp (if_neg hopen) (s' := s.withoutRecord (s.colOfCtx ctx)) rfl
    ((OnlyTeam.setTeam _ ctx _).trans (.bumpUid _ ctx)) rfl
  rwa [State.bumpUid_team, State.team_setTeam] at hgoes

/-- EVWAIT with no fence in force waits while the queue is empty (R375). -/
theorem State.evwait_issues (hp : s.Passes ctx (.evwait f)) (hf : s.fenced ctx s.uid 3 = false) :
    if (s.cluster (s.colOfCtx ctx)).evq = [] then s.Stays ctx (.evwait f) s ((s.team ctx).waitsFor .events (.evwait f))
    else s.GoesOn ctx (.evwait f) s (s.team ctx) := by
  have he : exec (.evwait f) s = execEvwait f s := rfl
  have hopen : ¬ s.fenced ctx s.uid 3 = true := by simp [hf]
  split_ifs with hempty
  · exact State.stays_of_waitAt he hr hp ((if_neg hopen).trans (if_pos (by simp [hempty]))) (.refl s ctx) rfl
  · exact State.goesOn_of_body he hr hp ((if_neg hopen).trans (if_neg (by simp [hempty]))) (.refl s ctx) rfl
end

/-- Settles O31: EVPOP makes two results outstanding, EVWAIT waits or goes on, and EVPUSH is a counted request behind the check of
BADCTL. -/
theorem eventInstructions : Obligations.EventInstructions := by
  unfold Obligations.EventInstructions
  intro s ctx f hr t col x r
  refine ⟨fun hp hf => ?_, fun hp hf => State.evwait_issues hr hp hf,
    fun hp hctl => State.trapsWith_of_body rfl hr hp (if_pos hctl), fun hp hctl hroom => ?_⟩
  · obtain ⟨u, hu, honly, hteam⟩ := State.evpop_issues hr hp hf
    refine ⟨u, hu, honly, ?_, ?_, fun c => ?_⟩
    · rw [hteam]
      exact (SameRegs.postAll t s.uid _).passed _ _
    · rw [hteam, Team.passed_pc]
    · rw [hteam, Team.passed_due, Team.due_postAll_pair]
  · exact ⟨_, _, State.goesOn_of_padIssue rfl hr hp (if_neg (by simp [hctl])) hroom, rfl, rfl, rfl, rfl, rfl, rfl, rfl, rfl⟩

end Sys2Proof.Machine
end

section
/-! PROOF of O43. BARINIT, BARARV and BARWAIT at issue (spec/11_completion.md R241 to R243; spec/16_ref_bany_dloop.md R345 to R347). -/

namespace Sys2Proof.Machine

/-! ## What an object shows (R239, R242) -/

theorem Bar.fault_iff (o : Nat) : Bar.fault o = true ↔ o / 2 ^ 207 % 2 = 1 := by
  unfold Bar.fault bitAt
  rw [Nat.testBit_eq_decide_div_mod_eq, decide_eq_true_iff]

theorem Bar.fault_eq_false_iff (o : Nat) : Bar.fault o = false ↔ o / 2 ^ 207 % 2 = 0 := by
  rw [← Bool.not_eq_true, Bar.fault_iff]
  omega

theorem Bar.cause_eq (o : Nat) : Bar.cause o = BitVec.ofNat 7 (o / 2 ^ 200) := by
  refine BitVec.eq_of_toNat_eq ?_
  rw [Bar.cause, bitsAt, BitVec.toNat_ofNat, BitVec.toNat_ofNat, Nat.mod_mod]

section
variable {o : Nat} {wanted : Bool}

theorem examine_fault (h : o / 2 ^ 207 % 2 = 1) : examine o wanted = .trap (BitVec.ofNat 7 (o / 2 ^ 200)) := by
  rw [← Bar.cause_eq]
  exact if_pos ((Bar.fault_iff o).2 h)

theorem examine_wait (h : o / 2 ^ 207 % 2 = 0) (hphase : o.testBit 192 = wanted) : examine o wanted = .wait := by
  have hfault := (Bar.fault_eq_false_iff o).2 h
  unfold examine
  rw [if_neg (by simp [hfault]), if_neg (by simpa [Bar.phase, bitAt] using hphase)]

theorem examine_pass (h : o / 2 ^ 207 % 2 = 0) (hphase : o.testBit 192 ≠ wanted) : examine o wanted = .pass := by
  have hfault := (Bar.fault_eq_false_iff o).2 h
  unfold examine
  rw [if_neg (by simp [hfault]), if_pos (by simpa [Bar.phase, bitAt] using hphase)]
end

/-! ## The object's own checks (R243) -/

section
variable {s : State} {ctx : Nat} {b : Block} {off : Word64} (hb : s.blockOf? ctx = some b)
include hb

theorem State.objectCheck_outside (h : b.scratch < off.toNat + 32) : s.objectCheck ctx off = some Cause.spbound := by
  unfold State.objectCheck
  rw [hb]
  exact if_pos h

theorem State.objectCheck_unaligned (hin : off.toNat + 32 ≤ b.scratch) (h : off.toNat % 32 ≠ 0) :
    s.objectCheck ctx off = some Cause.misalign := by
  unfold State.objectCheck
  rw [hb]
  exact (if_neg (Nat.not_lt.2 hin)).trans (if_pos h)

theorem State.objectCheck_ok (hin : off.toNat + 32 ≤ b.scratch) (h : off.toNat % 32 = 0) : s.objectCheck ctx off = none := by
  unfold State.objectCheck
  rw [hb]
  exact (if_neg (Nat.not_lt.2 hin)).trans (if_neg (not_not.2 h))

/-- An instruction that traps with what the check of its object finds traps with SPBOUND first and MISALIGN next. -/
theorem State.traps_of_objectCheck {i : Instr} {addr : Word64}
    (htrap : ∀ c, s.objectCheck ctx off = some c → s.TrapsWith ctx i c addr) :
    (b.scratch < off.toNat + 32 → s.TrapsWith ctx i Cause.spbound addr) ∧
      (off.toNat + 32 ≤ b.scratch → off.toNat % 32 ≠ 0 → s.TrapsWith ctx i Cause.misalign addr) :=
  ⟨fun h => htrap _ (State.objectCheck_outside hb h), fun hin h => htrap _ (State.objectCheck_unaligned hb hin h)⟩
end

/-! ## Requests to the bank (R241, R345, R346) -/

/-- A request to the bank behind the check of its object. -/
def State.objectIssue (s : State) (ctx : Nat) (off : Word64) (issued : Issued) : Issued :=
  match s.objectCheck ctx off with
  | some c => .trap c 0
  | none => issued

theorem exec_barinit (f : XF) (s : State) : exec (.barinit f) s = s.atIssue (.barinit f) fun ctx =>
    let t := s.team ctx
    let off := t.sreg f.bar.toNat
    s.objectIssue ctx off (s.padIssue ctx (.barinit f) 5 16 0 false
      (.barinit off.toNat ((t.sreg f.s1.toNat).toNat % 2 ^ 32) (t.sreg (f.sub.extractLsb' 42 6).toNat).toNat) off) := by
  rfl

theorem exec_bararv (f : XF) (s : State) : exec (.bararv f) s = s.atIssue (.bararv f) fun ctx =>
    let off := (s.team ctx).sreg f.bar.toNat
    s.objectIssue ctx off (s.padIssue ctx (.bararv f) 6 0 0 true (.bararv off.toNat) off) := by
  rfl

section
variable {s : State} {ctx : Nat} {i : Instr} {body : Nat → Issued} {off : Word64} {x : Issued}
  (he : exec i s = s.atIssue i body) (hr : s.Runs ctx) (hp : s.Passes ctx i) (hb : body ctx = s.objectIssue ctx off x)
include he hr hp hb

theorem State.trapsWith_of_objectIssue {c : Cause} (hc : s.objectCheck ctx off = some c) : s.TrapsWith ctx i c 0 := by
  refine State.trapsWith_of_body he hr hp (hb.trans ?_)
  unfold State.objectIssue
  rw [hc]

/-- A request whose object passes: entered and queued where there is room for it, else passed over. -/
theorem State.issues_of_objectIssue {kind reserve path : Nat} {rel : Bool} {w : LsWork} {addr : Word64}
    (hx : x = s.padIssue ctx i kind reserve path rel w addr) (hc : s.objectCheck ctx off = none) :
    if s.room ctx reserve 0 = true then ∃ (e : Entry) (item : LsItem), e.uid = s.uid ∧ e.kind = kind ∧ e.left = 1 ∧
      e.clsT = true ∧ e.st = true ∧ e.ld = false ∧ e.tag = (s.team ctx).nextTag ∧ e.works = [item] ∧ item.work = w ∧ item.ent = s.uid ∧
      item.rel = rel ∧ s.GoesOn ctx i s ((s.team ctx).enters e [item] (s.team ctx).pend)
    else s.Holds i := by
  have hbody : body ctx = s.padIssue ctx i kind reserve path rel w addr := by
    rw [hb, hx]
    unfold State.objectIssue
    rw [hc]
  split_ifs with hroom
  · exact ⟨_, _, rfl, rfl, rfl, rfl, rfl, rfl, rfl, rfl, rfl, rfl, rfl, State.goesOn_of_padIssue he hr hp hbody hroom⟩
  · exact State.holds_of_body he hr hp (hbody.trans (State.padIssue_hold (eq_false_of_ne_true hroom)))
end

/-! ## BARWAIT (R242, R347) -/

/-- An instruction that its team passes as a barrier boundary of a block that goes on running: the block's class takes effect
(R54, R56). -/
theorem State.stays_of_boundary {s v : State} {ctx : Nat} {i : Instr} {body : Nat → Issued} {b : Block}
    (he : exec i s = s.atIssue i body) (hr : s.Runs ctx) (hp : s.Passes ctx i) (hb : body ctx = .stay (v.boundary ctx true))
    (ho : OnlyTeam s v ctx) (hbk : s.blockOf? ctx = some b) (hcalm : v.Calm ctx) :
    s.Stays ctx i (s.setBlock (frameOf ctx) { b with clsEff := b.cls }) (v.team ctx) := by
  obtain ⟨d, hd, hboundary⟩ := hcalm.boundary
  obtain rfl : b = d := Option.some.inj (hbk.symm.trans ((ho.blockOf ctx).symm.trans hd))
  obtain ⟨-, -, c, hc, hplace, hstep⟩ := id hr
  obtain rfl : b = c := Option.some.inj (hbk.symm.trans hc)
  have hnext := State.atIssue_next body hr hp
  rw [hb, hboundary] at hnext
  refine ⟨_, he.trans hnext, ?_⟩
  have hblock : ({ v.setBlock (frameOf ctx) { b with clsEff := b.cls } with pairSecond := none, pairMark := false } :
      State).blockOf? ctx = some { b with clsEff := b.cls } := State.block_setBlock v (frameOf ctx) _
  have honly : OnlyTeam (s.setBlock (frameOf ctx) { b with clsEff := b.cls })
      (v.setBlock (frameOf ctx) { b with clsEff := b.cls }) ctx :=
    ⟨ho.others, ho.cores, by rw [ho.rest]; rfl⟩
  change OnlyTeam _ (State.afterIssue { v.setBlock (frameOf ctx) { b with clsEff := b.cls } with
    pairSecond := none, pairMark := false } ctx) ctx ∧ (State.afterIssue { v.setBlock (frameOf ctx) { b with clsEff := b.cls } with
    pairSecond := none, pairMark := false } ctx).team ctx = v.team ctx
  rw [State.afterIssue_running hblock hplace hstep]
  exact ⟨(honly.trans (OnlyTeam.pair _ ctx none false)).trans (OnlyTeam.noteLast _ ctx _ _), rfl⟩

/-- The examination that a BARWAIT asks for. -/
def State.barexam (s : State) (off : Nat) (wanted : Bool) : LsItem := { uid := s.uid, ent := 0, work := .barexam off wanted }

section
variable (s : State) (ctx : Nat) (f : XF)

/-- What a BARWAIT comes to when its object is examined at issue. -/
def State.barwaitExamined : Exam → Issued
  | .trap c => .trap c ((s.team ctx).sreg f.bar.toNat)
  | .pass => .stay ((s.setTeam ctx ((s.team ctx).passed (nextPc (s.team ctx).pc) f.sw)).boundary ctx true)
  | .wait =>
    .stay (s.waitAt ctx (.bar ((s.team ctx).sreg f.bar.toNat).toNat (((s.team ctx).sreg f.s1.toNat).getLsbD 0)) (wordOf (.barwait f)))

/-- A BARWAIT's own part once its object passes: the first examination, or its place behind the team's earlier accesses. -/
def State.barwaitPlaced (b : Block) : Issued :=
  let t := s.team ctx
  let off := (t.sreg f.bar.toNat).toNat
  let wanted := (t.sreg f.s1.toNat).getLsbD 0
  if s.mayGo ctx (s.barexam off wanted) then s.barwaitExamined ctx f (examine (s.object (frameOf ctx) b off) wanted)
  else .stay ((s.setTeam ctx (t.queues [s.barexam off wanted])).bumpUid.waitAt ctx (.bar off wanted) (wordOf (.barwait f)))

/-- A BARWAIT's own part. -/
def State.barwaitIssue : Issued :=
  match s.objectCheck ctx ((s.team ctx).sreg f.bar.toNat), s.blockOf? ctx with
  | some c, _ => .trap c ((s.team ctx).sreg f.bar.toNat)
  | none, none => .done s
  | none, some b => s.barwaitPlaced ctx f b

theorem exec_barwait : exec (.barwait f) s = s.atIssue (.barwait f) fun ctx => s.barwaitIssue ctx f := by
  rfl
end

section
variable {s : State} {ctx : Nat} {f : XF} {b : Block} (hr : s.Runs ctx) (hb : s.blockOf? ctx = some b)
  (hp : s.Passes ctx (.barwait f))
include hr hp

theorem State.trapsWith_barwait {c : Cause} (hc : s.objectCheck ctx ((s.team ctx).sreg f.bar.toNat) = some c) :
    s.TrapsWith ctx (.barwait f) c ((s.team ctx).sreg f.bar.toNat) := by
  refine State.trapsWith_of_body (exec_barwait s f) hr hp ?_
  unfold State.barwaitIssue
  rw [hc]

include hb

/-- What a BARWAIT of an object that passes comes to: the first examination's outcome, or the wait for it. -/
theorem State.barwait_issues (hc : s.objectCheck ctx ((s.team ctx).sreg f.bar.toNat) = none) :
    let t := s.team ctx
    let off := t.sreg f.bar.toNat
    let wanted := (t.sreg f.s1.toNat).getLsbD 0
    let o := s.object (frameOf ctx) b off.toNat
    (s.mayGo ctx (s.barexam off.toNat wanted) = true →
      (∀ c, examine o wanted = .trap c → s.TrapsWith ctx (.barwait f) c off) ∧
      (examine o wanted = .wait → s.Stays ctx (.barwait f) s (t.waitsFor (.bar off.toNat wanted) (.barwait f))) ∧
      (examine o wanted = .pass → s.Calm ctx →
        s.Stays ctx (.barwait f) (s.setBlock (frameOf ctx) { b with clsEff := b.cls }) (t.passed (nextPc t.pc) f.sw))) ∧
    (s.mayGo ctx (s.barexam off.toNat wanted) = false →
      s.Stays ctx (.barwait f) s ((t.queues [s.barexam off.toNat wanted]).waitsFor (.bar off.toNat wanted) (.barwait f))) := by
  intro t off wanted o
  have he := exec_barwait s f
  have hplaced : s.barwaitIssue ctx f = s.barwaitPlaced ctx f b := by
    unfold State.barwaitIssue
    rw [hc, hb]
  refine ⟨fun hgo => ?_, fun hgo => ?_⟩
  · have hexam : s.barwaitIssue ctx f = s.barwaitExamined ctx f (examine o wanted) := hplaced.trans (if_pos hgo)
    refine ⟨fun c hx => ?_, fun hx => ?_, fun hx hcalm => ?_⟩ <;> rw [hx] at hexam
    · exact State.trapsWith_of_body he hr hp hexam
    · exact State.stays_of_waitAt he hr hp hexam (.refl s ctx) rfl
    · have hstays := State.stays_of_boundary he hr hp hexam (.setTeam s ctx _) hb (hcalm.congr rfl rfl)
      rwa [State.team_setTeam] at hstays
  · have hstays := State.stays_of_waitAt he hr hp (hplaced.trans (if_neg (ne_true_of_eq_false hgo)))
      ((OnlyTeam.setTeam s ctx _).trans (.bumpUid _ ctx)) rfl
    rwa [State.bumpUid_team, State.team_setTeam] at hstays
end

/-- Settles O43: BARINIT and BARARV are counted requests behind the check of their object; behind the same check a BARWAIT's outcome
is that of its examination, where the team's earlier accesses let it be made at issue. -/
theorem barrierIssue : Obligations.BarrierIssue := by
  unfold Obligations.BarrierIssue
  intro s ctx f b hr hb t off
  constructor
  · simp only [List.forall_mem_cons]
    exact ⟨fun hp => State.traps_of_objectCheck hb fun c hc => State.trapsWith_of_objectIssue (exec_barinit f s) hr hp rfl hc,
      fun hp => State.traps_of_objectCheck hb fun c hc => State.trapsWith_of_objectIssue (exec_bararv f s) hr hp rfl hc,
      fun hp => State.traps_of_objectCheck hb fun c hc => State.trapsWith_barwait hr hp hc, fun _ h => absurd h List.not_mem_nil⟩
  · intro hin halign
    have hc : s.objectCheck ctx off = none := State.objectCheck_ok hb hin halign
    constructor
    · simp only [List.forall_mem_cons]
      exact ⟨fun hp => State.issues_of_objectIssue (exec_barinit f s) hr hp rfl rfl hc,
        fun hp => State.issues_of_objectIssue (exec_bararv f s) hr hp rfl rfl hc, fun _ h => absurd h List.not_mem_nil⟩
    · intro hp wanted item o
      obtain ⟨hgoes, hlater⟩ := State.barwait_issues hr hb hp hc
      refine ⟨fun hgo => ?_, hlater⟩
      obtain ⟨htrap, hwait, hpass⟩ := hgoes hgo
      refine ⟨fun hfault => htrap _ (examine_fault hfault), fun hfault hphase => hwait (examine_wait hfault hphase),
        fun hfault hphase hshed => hpass (examine_pass hfault hphase) ?_⟩
      obtain ⟨-, -, c, hcb, hplace, hstep⟩ := hr
      obtain rfl : b = c := Option.some.inj (hb.symm.trans hcb)
      exact ⟨b, hb, hplace, hstep, hshed⟩

end Sys2Proof.Machine
end

section
/-! SUPPORT. A barrier object's fields after a counting event (spec/11_completion.md R239, R240). -/

namespace Sys2Proof.Machine

/-! ## A field replaced -/

theorem setBits_eq (x lo n v : Nat) :
    setBits x lo n v = x / 2 ^ (lo + n) * 2 ^ (lo + n) + v % 2 ^ n * 2 ^ lo + x % 2 ^ lo := by
  have hx := eq_around_field x lo n
  unfold setBits bitsAt
  omega

theorem testBit_setBits (x lo n v i : Nat) :
    (setBits x lo n v).testBit i = if lo ≤ i ∧ i < lo + n then (v % 2 ^ n).testBit (i - lo) else x.testBit i := by
  obtain ⟨hlow, hfield, hup⟩ := parts_around_field (h := x / 2 ^ (lo + n)) (Nat.mod_lt v (Nat.two_pow_pos n))
    (Nat.mod_lt x (Nat.two_pow_pos lo))
  rw [← setBits_eq] at hlow hfield hup
  split_ifs with hin
  · rw [← hfield, Nat.testBit_mod_two_pow, Nat.testBit_div_two_pow, Nat.sub_add_cancel hin.1,
      decide_eq_true (show i - lo < n by omega), Bool.true_and]
  · by_cases hi : i < lo
    · have hbit (y : Nat) : y.testBit i = (y % 2 ^ lo).testBit i := by
        rw [Nat.testBit_mod_two_pow, decide_eq_true hi, Bool.true_and]
      rw [hbit, hlow, ← hbit]
    · have hbit (y : Nat) : y.testBit i = (y / 2 ^ (lo + n)).testBit (i - (lo + n)) := by
        rw [Nat.testBit_div_two_pow, Nat.sub_add_cancel (by omega)]
      rw [hbit, hup, ← hbit]

theorem testBit_bitsAt (x lo n i : Nat) : (bitsAt x lo n).testBit i = (decide (i < n) && x.testBit (lo + i)) := by
  rw [bitsAt, Nat.testBit_mod_two_pow, Nat.testBit_div_two_pow, Nat.add_comm]

theorem bitsAt_setBits_same (x lo n v : Nat) : bitsAt (setBits x lo n v) lo n = v % 2 ^ n := by
  refine Nat.eq_of_testBit_eq fun i => ?_
  rw [testBit_bitsAt, testBit_setBits, Nat.add_sub_cancel_left, Nat.testBit_mod_two_pow]
  by_cases hi : i < n
  · simp [hi]
  · simp [hi]

theorem bitsAt_setBits_other (x v : Nat) {lo n j m : Nat} (h : j + m ≤ lo ∨ lo + n ≤ j) :
    bitsAt (setBits x lo n v) j m = bitsAt x j m := by
  refine Nat.eq_of_testBit_eq fun i => ?_
  rw [testBit_bitsAt, testBit_bitsAt, testBit_setBits]
  by_cases hi : i < m
  · rw [if_neg (by omega)]
  · simp [hi]

theorem bitAt_setBits_other (x v : Nat) {lo n i : Nat} (h : i < lo ∨ lo + n ≤ i) : bitAt (setBits x lo n v) i = bitAt x i := by
  unfold bitAt
  rw [testBit_setBits, if_neg (by omega)]

/-! ## The fields of an object (R239) -/

namespace Bar

section
variable (o v : Nat)

/-- What the fields of an object read once GOT has been replaced. -/
theorem fields_setGot : target (setBits o 128 64 v) = target o ∧ expect (setBits o 128 64 v) = expect o ∧
    arrived (setBits o 128 64 v) = arrived o ∧ got (setBits o 128 64 v) = v % 2 ^ 64 ∧
    phase (setBits o 128 64 v) = phase o ∧ fault (setBits o 128 64 v) = fault o :=
  ⟨bitsAt_setBits_other _ _ (by decide), bitsAt_setBits_other _ _ (by decide), bitsAt_setBits_other _ _ (by decide),
    bitsAt_setBits_same .., bitAt_setBits_other _ _ (by decide), bitAt_setBits_other _ _ (by decide)⟩

/-- What the fields of an object read once ARRIVED has been replaced. -/
theorem fields_setArrived : target (setBits o 32 32 v) = target o ∧ expect (setBits o 32 32 v) = expect o ∧
    arrived (setBits o 32 32 v) = v % 2 ^ 32 ∧ got (setBits o 32 32 v) = got o ∧
    phase (setBits o 32 32 v) = phase o ∧ fault (setBits o 32 32 v) = fault o :=
  ⟨bitsAt_setBits_other _ _ (by decide), bitsAt_setBits_other _ _ (by decide), bitsAt_setBits_same ..,
    bitsAt_setBits_other _ _ (by decide), bitAt_setBits_other _ _ (by decide), bitAt_setBits_other _ _ (by decide)⟩

/-- An object with its phase changed. -/
def flip : Nat := setBits o 192 1 (1 - bitsAt o 192 1)

theorem fields_flip : target (flip o) = target o ∧ expect (flip o) = expect o ∧ phase (flip o) = !phase o ∧
    fault (flip o) = fault o := by
  refine ⟨bitsAt_setBits_other _ _ (by decide), bitsAt_setBits_other _ _ (by decide), ?_, bitAt_setBits_other _ _ (by decide)⟩
  have hbit : bitsAt o 192 1 = if phase o then 1 else 0 := by
    unfold phase bitAt bitsAt
    rw [Nat.testBit_eq_decide_div_mod_eq, pow_one]
    obtain h | h := Nat.mod_two_eq_zero_or_one (o / 2 ^ 192) <;> rw [h] <;> rfl
  unfold flip
  rw [phase, bitAt, testBit_setBits, if_pos (by decide), hbit]
  cases phase o <;> rfl

/-- What the fields of an object read once its flag has been set. -/
theorem fields_setFault (c : Cause) : target (setFault o c) = target o ∧ expect (setFault o c) = expect o ∧
    arrived (setFault o c) = arrived o ∧ got (setFault o c) = got o ∧ phase (setFault o c) = phase o ∧
    fault (setFault o c) = true ∧ cause (setFault o c) = c := by
  refine ⟨bitsAt_setBits_other _ _ (by decide), bitsAt_setBits_other _ _ (by decide), bitsAt_setBits_other _ _ (by decide),
    bitsAt_setBits_other _ _ (by decide), bitAt_setBits_other _ _ (by decide), ?_, ?_⟩
  · have hflag : (128 + c.toNat) / 2 ^ 7 % 2 = 1 := by omega
    unfold fault bitAt setFault
    rw [testBit_setBits, if_pos (by decide), Nat.testBit_mod_two_pow, Nat.testBit_eq_decide_div_mod_eq, hflag]
    rfl
  · have hfield : bitsAt (setFault o c) 200 7 = c.toNat := by
      have hsame := bitsAt_setBits_same o 200 8 (128 + c.toNat)
      have hsub := field_of_field (setFault o c) 200 (show 0 + 7 ≤ 8 by decide)
      rw [pow_zero, Nat.div_one, Nat.add_zero] at hsub
      unfold bitsAt setFault at *
      rw [← hsub, hsame]
      omega
    rw [cause, hfield, BitVec.ofNat_toNat, BitVec.setWidth_eq]
end

/-! ## A counting event applied (R240) -/

section
variable {o a n : Nat}

theorem apply_fault (h : fault o = true) : apply o a n = o := if_pos h

variable (h : fault o = false)
include h

theorem apply_overflow (hover : target o < arrived o + a ∨ expect o < got o + n) : apply o a n = setFault o Cause.barovf :=
  (if_neg (by simp [h])).trans (if_pos hover)

theorem apply_full (hfull : arrived o + a = target o ∧ got o + n = expect o) :
    apply o a n = setBits (setBits (flip o) 32 32 0) 128 64 0 :=
  (if_neg (by simp [h])).trans ((if_neg (by omega)).trans (if_pos hfull))

theorem apply_counts (ha : arrived o + a ≤ target o) (hn : got o + n ≤ expect o)
    (hfull : ¬ (arrived o + a = target o ∧ got o + n = expect o)) :
    apply o a n = setBits (setBits o 32 32 (arrived o + a)) 128 64 (got o + n) :=
  (if_neg (by simp [h])).trans ((if_neg (by omega)).trans (if_neg hfull))
end

theorem target_lt (o : Nat) : target o < 2 ^ 32 := bitsAt_lt ..
theorem expect_lt (o : Nat) : expect o < 2 ^ 64 := bitsAt_lt ..

/-- What the fields of an object read with both counts replaced. -/
theorem fields_setCounts (o x y : Nat) : target (setBits (setBits o 32 32 x) 128 64 y) = target o ∧
    expect (setBits (setBits o 32 32 x) 128 64 y) = expect o ∧
    fault (setBits (setBits o 32 32 x) 128 64 y) = fault o ∧ phase (setBits (setBits o 32 32 x) 128 64 y) = phase o ∧
    arrived (setBits (setBits o 32 32 x) 128 64 y) = x % 2 ^ 32 ∧ got (setBits (setBits o 32 32 x) 128 64 y) = y % 2 ^ 64 := by
  obtain ⟨gtarget, gexpect, garrived, ggot, gphase, gfault⟩ := fields_setGot (setBits o 32 32 x) y
  obtain ⟨atarget, aexpect, aarrived, -, aphase, afault⟩ := fields_setArrived o x
  exact ⟨gtarget.trans atarget, gexpect.trans aexpect, gfault.trans afault, gphase.trans aphase, garrived.trans aarrived, ggot⟩

/-- No counting event changes what an object waits for. -/
theorem apply_bounds (o a n : Nat) : target (apply o a n) = target o ∧ expect (apply o a n) = expect o := by
  cases h : fault o with
  | true => rw [apply_fault h]; exact ⟨rfl, rfl⟩
  | false =>
    by_cases hover : target o < arrived o + a ∨ expect o < got o + n
    · rw [apply_overflow h hover]
      obtain ⟨htarget, hexpect, -⟩ := fields_setFault o Cause.barovf
      exact ⟨htarget, hexpect⟩
    · obtain ⟨ha, hn⟩ := not_or.1 hover
      by_cases hfull : arrived o + a = target o ∧ got o + n = expect o
      · rw [apply_full h hfull]
        obtain ⟨htarget, hexpect, -⟩ := fields_setCounts (flip o) 0 0
        obtain ⟨ftarget, fexpect, -⟩ := fields_flip o
        exact ⟨htarget.trans ftarget, hexpect.trans fexpect⟩
      · rw [apply_counts h (Nat.not_lt.1 ha) (Nat.not_lt.1 hn) hfull]
        obtain ⟨htarget, hexpect, -⟩ := fields_setCounts o (arrived o + a) (got o + n)
        exact ⟨htarget, hexpect⟩

end Bar

end Sys2Proof.Machine
end

section
/-! SUPPORT. The bank of a core: bytes of its scratchpad after a write, the objects in it, and what recording and crediting an event
leave as it was (spec/11_completion.md R240, R245, R246; spec/13_preemption.md R285, R290). -/

namespace Sys2Proof.Machine

/-! ## Bytes written -/

theorem Memory.read_writeN (m : Memory) (a : Nat) (bs : List Byte) (x : Nat) :
    (m.writeN a bs).read x = if a ≤ x ∧ x < a + bs.length then bs[x - a]?.getD 0 else m.read x := by
  induction bs generalizing m a with
  | nil =>
    rw [if_neg (by simp), Memory.writeN]
  | cons b bs ih =>
    rw [Memory.writeN, ih, Memory.read_write, List.length_cons]
    by_cases hx : a = x
    · subst hx
      rw [if_neg (by omega), if_pos rfl, if_pos (by omega), Nat.sub_self]
      rfl
    · rw [if_neg hx]
      by_cases hin : a + 1 ≤ x ∧ x < a + 1 + bs.length
      · rw [if_pos hin, if_pos (by omega), show x - a = x - (a + 1) + 1 by omega, List.getElem?_cons_succ]
      · rw [if_neg hin, if_neg (by omega)]

theorem Memory.readN_writeN (m : Memory) (a : Nat) (bs : List Byte) : (m.writeN a bs).readN a bs.length = bs := by
  rw [Memory.readN_eq_map]
  refine List.ext_getElem (by simp) fun i hi hb => ?_
  rw [List.getElem_map, List.getElem_range, Memory.read_writeN, if_pos (by omega), Nat.add_sub_cancel_left,
    List.getElem?_eq_getElem hb, Option.getD_some]

/-! ## Objects of a window in the bank (R239) -/

section
variable {b : Block} (hw : b.window = none)
include hw

theorem State.object_eq (s : State) (f off : Nat) :
    s.object f b off = ofBytes ((s.core b.core).sp.readN (padAddr b off) 32) := by
  unfold State.object
  rw [hw]

theorem State.setObject_eq (s : State) (f off x : Nat) : s.setObject f b off x = s.setCore b.core
    { s.core b.core with sp := (s.core b.core).sp.writeN (padAddr b off) (toBytes 32 x) } := by
  unfold State.setObject
  rw [hw]

theorem State.object_setObject (s : State) (f off x : Nat) : (s.setObject f b off x).object f b off = x % 2 ^ 256 := by
  have hread := Memory.readN_writeN (s.core b.core).sp (padAddr b off) (toBytes 32 x)
  rw [length_toBytes] at hread
  rw [State.setObject_eq hw, State.object_eq hw, State.core_setCore, hread, ofBytes_toBytes]
end

/-! ## What recording and crediting leave as it was -/

/-- Every block, scratchpad and queue of counting events is as it was. -/
structure KeepsBanks (s u : State) : Prop where
  blocks : u.blocks = s.blocks
  pads : ∀ k, (u.core k).sp = (s.core k).sp
  queues : ∀ k, (u.core k).bankq = (s.core k).bankq

theorem KeepsBanks.refl (s : State) : KeepsBanks s s := ⟨rfl, fun _ => rfl, fun _ => rfl⟩

theorem KeepsBanks.trans {s u v : State} (h : KeepsBanks s u) (g : KeepsBanks u v) : KeepsBanks s v :=
  ⟨g.blocks.trans h.blocks, fun k => (g.pads k).trans (h.pads k), fun k => (g.queues k).trans (h.queues k)⟩

theorem KeepsBanks.of_onlyCopies {s u : State} (h : OnlyCopies s u) : KeepsBanks s u :=
  ⟨h.blocks, fun k => by rw [h.cores], fun k => by rw [h.cores]⟩

theorem KeepsBanks.setCore {s : State} {k : Nat} {x : Core} (hpad : x.sp = (s.core k).sp) (hqueue : x.bankq = (s.core k).bankq) :
    KeepsBanks s (s.setCore k x) := by
  refine ⟨rfl, fun c => ?_, fun c => ?_⟩ <;> by_cases hc : c = k
  · rw [hc, State.core_setCore, hpad]
  · rw [State.core_setCore_other s x hc]
  · rw [hc, State.core_setCore, hqueue]
  · rw [State.core_setCore_other s x hc]

theorem KeepsBanks.credit (s : State) (ctx ent id lane : Nat) (got : List (Nat × Byte)) :
    KeepsBanks s (s.credit ctx ent id lane got) := by
  obtain h | ⟨t, -, hc⟩ := s.credit_eq ctx ent id lane got
  · rw [h]
    exact .refl s
  · exact KeepsBanks.trans (u := s.setTeam ctx (t.credit ent id lane got)) ⟨rfl, fun _ => rfl, fun _ => rfl⟩ (.of_onlyCopies hc)

theorem KeepsBanks.onSupp_pad (s : State) (k : Nat) (f : List Supp → List Supp) : KeepsBanks s (s.onSupp (.pad k) f) :=
  .setCore rfl rfl

theorem KeepsBanks.freeSupp_pad (s : State) (k ctx tag low : Nat) : KeepsBanks s (s.freeSupp (.pad k) ctx tag low) := by
  unfold State.freeSupp
  split_ifs
  · exact .refl s
  · exact .onSupp_pad s k _

theorem KeepsBanks.record_pad (s : State) (k ctx tag low elem : Nat) (val : Option (BitVec 512)) :
    KeepsBanks s (s.record (.pad k) ctx tag low elem val) := by
  unfold State.record
  split_ifs
  · exact .refl s
  · exact .onSupp_pad s k _

theorem KeepsBanks.object {s u : State} (h : KeepsBanks s u) {b : Block} (hw : b.window = none) (f off : Nat) :
    u.object f b off = s.object f b off := by
  rw [State.object_eq hw, State.object_eq hw, h.pads]

/-! ## Duplicates (R246, R285) -/

section
variable {α : Type} {t : Tab α} {x : Nat} {d : α} {p : α → Bool} (hd : p d = false)
include hd

/-- What is not the default stands in the table. -/
theorem Tab.any_of_getD (h : p (Tab.getD t x d) = true) : (t.any fun e => p e.2) = true := by
  unfold Tab.getD at h
  induction t with
  | nil => exact absurd (hd.symm.trans h) Bool.false_ne_true
  | cons e t ih =>
    obtain ⟨k, b⟩ := e
    rw [Tab.get?] at h
    rw [List.any_cons, Bool.or_eq_true]
    split_ifs at h with hk
    · exact .inl h
    · exact .inr (ih h)

/-- Whether some entry passes a test does not change with an entry written that passes it as what stood in its place did. -/
theorem Tab.any_put {a : α} (ha : p a = p (Tab.getD t x d)) : ((Tab.put t x a).any fun e => p e.2) = t.any fun e => p e.2 := by
  have hsome (h : p a = true) : (t.any fun e => p e.2) = true := Tab.any_of_getD hd (ha.symm.trans h)
  induction t with
  | nil =>
    have h : p a = false := ha.trans hd
    rw [Tab.put, List.any_cons, h]
    rfl
  | cons e t ih =>
    obtain ⟨k, b⟩ := e
    unfold Tab.put
    unfold Tab.getD at ha
    rw [Tab.get?] at ha
    split_ifs with hlt hk
    · rw [List.any_cons]
      cases h : p a with
      | true => exact (hsome h).symm
      | false => rfl
    · rw [if_pos hk.symm] at ha
      rw [List.any_cons, List.any_cons, ha]
      rfl
    · rw [if_neg (Ne.symm hk)] at ha
      rw [List.any_cons, List.any_cons, ih ha (fun h => Tab.any_of_getD hd (ha.symm.trans h))]
end

/-- Whether a table records an element of a request. -/
def suppHolds (ctx tag elem : Nat) (l : List Supp) : Bool :=
  match suppFind l ctx tag with
  | some e => e.elems.contains elem
  | none => false

section
variable (s : State) (ctx tag elem : Nat)

theorem State.isDup_eq : s.isDup ctx tag elem = (decide (0 < tag) &&
    (decide (tag < (s.team ctx).lowWater) || s.suppTables.any (suppHolds ctx tag elem))) := by
  rfl

theorem State.any_suppTables (p : List Supp → Bool) : s.suppTables.any p =
    ((s.dies.any fun d => p d.2.supp || (d.2.hsupp.map (·.2)).any p) || s.cores.any fun c => p c.2.supp || p c.2.l1supp) := by
  simp [State.suppTables, List.any_flatten, List.any_map, Function.comp_def]

/-- A core written with its tables as they were makes nothing a duplicate that was none, and the other way round. -/
theorem State.isDup_setCore {k : Nat} {x : Core} (hsupp : x.supp = (s.core k).supp) (hl1 : x.l1supp = (s.core k).l1supp) :
    (s.setCore k x).isDup ctx tag elem = s.isDup ctx tag elem := by
  let p := suppHolds ctx tag elem
  have hcores : ((s.setCore k x).cores.any fun c => p c.2.supp || p c.2.l1supp) = s.cores.any fun c => p c.2.supp || p c.2.l1supp :=
    Tab.any_put (d := {}) (p := fun c : Core => p c.supp || p c.l1supp) rfl (by
      rw [hsupp, hl1]
      rfl)
  rw [State.isDup_eq, State.isDup_eq, State.any_suppTables, State.any_suppTables, hcores, State.setCore_team, State.setCore_dies]
end

end Sys2Proof.Machine
end

section
/-! PROOF of O46. Counting events at the bank, event records that enter the cluster's queue, and releases of held blocks
(spec/11_completion.md R239, R240, R250, R253, R254). -/

namespace Sys2Proof.Machine

/-! ## COUNTING_EVENT (R240, R246) -/

/-- A core with its oldest counting event taken out of its bank's queue. -/
def State.withBankq (s : State) (core : Nat) (rest : List CountEvt) : State :=
  s.setCore core { s.core core with bankq := rest }

/-- An event applied to its object in the bank and its tag recorded, or passed over as one that has been (R246). -/
def State.eventApplied (s : State) (b : Block) (e : CountEvt) : State :=
  if s.isDup e.ctx e.tag e.id = true then s.freeSupp (.pad b.core) e.ctx e.tag e.low
  else (s.setObject e.frame b e.off (Bar.apply (s.object e.frame b e.off) e.a e.n)).record (.pad b.core) e.ctx e.tag e.low e.id none

section
variable {s : State} {core : Nat} {e : CountEvt} {rest : List CountEvt} (hq : (s.core core).bankq = e :: rest)
include hq

/-- An event whose block has gone is over. -/
theorem exec_countingEvent_gone (hb : s.block? e.frame = none) :
    exec (.countingEvent core) s = .next (s.withBankq core rest) := by
  change execCountingEvent core s = _
  unfold execCountingEvent
  dsimp only
  rw [hq]
  dsimp only
  rw [hb]
  rfl

/-- An event of a sealed window waits for its image (R288). -/
theorem exec_countingEvent_sealed {b : Block} (hb : s.block? e.frame = some b) (hw : b.window.isSome = true)
    (hi : b.imaged = false) : exec (.countingEvent core) s = .next s := by
  change execCountingEvent core s = _
  unfold execCountingEvent
  dsimp only
  rw [hq]
  dsimp only
  rw [hb]
  exact if_pos (by simp [hw, hi])

theorem exec_countingEvent_placed {b : Block} (hb : s.block? e.frame = some b) (hw : b.window = none) :
    exec (.countingEvent core) s =
      .next ((((s.withBankq core rest).eventApplied b e).credit e.ctx e.ent e.id 0 []).examBlock e.frame) := by
  change execCountingEvent core s = _
  unfold execCountingEvent
  dsimp only
  rw [hq]
  dsimp only
  rw [hb]
  exact if_neg (by simp [hw])
end

section
variable {s : State} {b : Block} {e : CountEvt} (hw : b.window = none)
include hw

/-- The object after an event at the bank. -/
theorem State.eventApplied_object : (s.eventApplied b e).object e.frame b e.off =
    if s.isDup e.ctx e.tag e.id = true then s.object e.frame b e.off
    else Bar.apply (s.object e.frame b e.off) e.a e.n % 2 ^ 256 := by
  unfold State.eventApplied
  split_ifs
  · exact (KeepsBanks.freeSupp_pad s ..).object hw _ _
  · rw [(KeepsBanks.record_pad _ ..).object hw, State.object_setObject hw]

/-- An event at the bank leaves every block, every queue of events, and every other byte of the scratchpads as it was. -/
theorem State.eventApplied_banks :
    let u := s.eventApplied b e
    u.blocks = s.blocks ∧ (∀ k, (u.core k).bankq = (s.core k).bankq) ∧
      (∀ a, (a < padAddr b e.off ∨ padAddr b e.off + 32 ≤ a) → (u.core b.core).sp.read a = (s.core b.core).sp.read a) ∧
      ∀ k, k ≠ b.core → (u.core k).sp = (s.core k).sp := by
  dsimp only
  unfold State.eventApplied
  split_ifs
  · have hkeep := KeepsBanks.freeSupp_pad s b.core e.ctx e.tag e.low
    exact ⟨hkeep.blocks, hkeep.queues, fun a _ => by rw [hkeep.pads], fun k _ => hkeep.pads k⟩
  · rw [State.setObject_eq hw]
    generalize Bar.apply (s.object e.frame b e.off) e.a e.n = o
    generalize hu : s.setCore b.core _ = u
    have hkeep := KeepsBanks.record_pad u b.core e.ctx e.tag e.low e.id none
    have hcore := congrArg (fun u => State.core u b.core) hu
    rw [State.core_setCore] at hcore
    have hother {k : Nat} (hk : k ≠ b.core) : u.core k = s.core k := by rw [← hu, State.core_setCore_other _ _ hk]
    refine ⟨hkeep.blocks.trans (by rw [← hu]; rfl), fun k => (hkeep.queues k).trans ?_, fun a ha => ?_, fun k hk => ?_⟩
    · by_cases hk : k = b.core
      · rw [hk, ← hcore]
      · rw [hother hk]
    · rw [hkeep.pads, ← hcore, Memory.read_writeN, length_toBytes, if_neg (by omega)]
    · rw [hkeep.pads, hother hk]
end

/-- The oldest event of a bank whose block's window lies in it: the event is over and applied to its object, no other byte of any
scratchpad changes, and the block's waiting teams then examine the object. -/
theorem countingEvent_applies {s : State} {e : CountEvt} {rest : List CountEvt} {b : Block}
    (hq : (s.core b.core).bankq = e :: rest) (hb : s.block? e.frame = some b) (hw : b.window = none) :
    ∃ w : State, exec (.countingEvent b.core) s = .next (w.examBlock e.frame) ∧ (w.core b.core).bankq = rest ∧
      w.blocks = s.blocks ∧
      w.object e.frame b e.off = (if s.isDup e.ctx e.tag e.id = true then s.object e.frame b e.off
        else Bar.apply (s.object e.frame b e.off) e.a e.n % 2 ^ 256) ∧
      (∀ a, (a < padAddr b e.off ∨ padAddr b e.off + 32 ≤ a) → (w.core b.core).sp.read a = (s.core b.core).sp.read a) ∧
      ∀ c, c ≠ b.core → (w.core c).sp = (s.core c).sp := by
  have htaken (k : Nat) : ((s.withBankq b.core rest).core k).sp = (s.core k).sp := by
    unfold State.withBankq
    by_cases hk : k = b.core
    · rw [hk, State.core_setCore]
    · rw [State.core_setCore_other _ _ hk]
  have hobject : (s.withBankq b.core rest).object e.frame b e.off = s.object e.frame b e.off := by
    rw [State.object_eq hw, State.object_eq hw, htaken]
  have hdup : (s.withBankq b.core rest).isDup e.ctx e.tag e.id = s.isDup e.ctx e.tag e.id :=
    s.isDup_setCore _ _ _ (x := { s.core b.core with bankq := rest }) rfl rfl
  have hqueue : ((s.withBankq b.core rest).core b.core).bankq = rest := by rw [State.withBankq, State.core_setCore]
  obtain ⟨hblocks, hqueues, hbytes, hpads⟩ := State.eventApplied_banks (s := s.withBankq b.core rest) (e := e) hw
  have hkeep := KeepsBanks.credit ((s.withBankq b.core rest).eventApplied b e) e.ctx e.ent e.id 0 []
  refine ⟨_, exec_countingEvent_placed hq hb hw, ?_, hkeep.blocks.trans hblocks, ?_, fun a ha => ?_, fun c hc => ?_⟩
  · rw [hkeep.queues, hqueues, hqueue]
  · rw [hkeep.object hw, State.eventApplied_object hw, hdup, hobject]
  · rw [hkeep.pads, hbytes a ha, htaken]
  · rw [hkeep.pads, hpads c hc, htaken]

/-! ## EVENT_RECORD_ENTER (R250, R253) -/

/-- A copy with its event posted, where it is the one named. -/
def Copy.post (k : Nat) (c : Copy) : Copy := if c.uid = k then { c with posted := true } else c

/-- The completion of a copy goes on: its event has been posted, in the engine and in the entries that keep it. -/
def State.withPosted (s : State) (k : Nat) : State :=
  { s with
    copies := s.copies.map (Copy.post k)
    teams := Tab.mapVal s.teams fun _ t => { t with inflight := t.inflight.map fun e => { e with copy := e.copy.map (Copy.post k) } } }

theorem State.withPosted_team (s : State) (k ctx : Nat) : (s.withPosted k).team ctx =
    { s.team ctx with inflight := ((s.withPosted k).team ctx).inflight } := by
  simp only [State.withPosted, State.team, Tab.getD, Tab.get?_mapVal]
  cases Tab.get? s.teams ctx <;> rfl

@[simp] theorem State.setCluster_controlTeam (s : State) (c : Nat) (x : Cluster) (col : Nat) :
    (s.setCluster c x).controlTeam? col = s.controlTeam? col := rfl

theorem State.setCluster_setCluster (s : State) (c : Nat) (x y : Cluster) :
    (s.setCluster c x).setCluster c y = s.setCluster c y := by
  simp only [State.setCluster, Tab.put_put]

/-- A cluster's queue with a record more, the first of those that waited for room. -/
def State.withRecord (s : State) (col : Nat) (r : EvRec) (rest : List EvRec) : State :=
  s.setCluster col { s.cluster col with evwait := rest, evq := (s.cluster col).evq ++ [(r.w0, r.w1)] }

section
variable {s : State} {col : Nat} (w0 w1 : Word64)

/-- A record enters the queue of a cluster without a control team. -/
theorem State.enterEvent_alone (h : s.controlTeam? col = none) :
    s.enterEvent col w0 w1 = s.setCluster col { s.cluster col with evq := (s.cluster col).evq ++ [(w0, w1)] } := by
  unfold State.enterEvent
  dsimp only
  rw [State.setCluster_controlTeam, h]

/-- A record enters the queue, and the control team that waits for one goes on (R253). -/
theorem State.enterEvent_wakes {ctx : Nat} {b : Block} (h : s.controlTeam? col = some ctx)
    (hs : (s.team ctx).sched = .waiting .events) (hf : (s.team ctx).fatal = []) (hb : s.blockOf? ctx = some b)
    (hp : b.place = .running) : s.enterEvent col w0 w1 =
      (s.setCluster col { s.cluster col with evq := (s.cluster col).evq ++ [(w0, w1)] }).setTeam ctx (s.team ctx).released := by
  unfold State.enterEvent
  dsimp only
  rw [State.setCluster_controlTeam, h]
  exact (if_pos hs).trans (State.endWait_running hb hp hf)
end

theorem Team.released_pc (t : Team) : t.released.pc = nextPc t.pc := by
  unfold Team.released
  rw [Team.mark_eq]

section
variable {s : State} {col : Nat} {r : EvRec} {rest : List EvRec} (hq : (s.cluster col).evwait = r :: rest)
include hq

/-- A full queue takes no record (R250). -/
theorem exec_eventRecordEnter_full (h : 256 ≤ (s.cluster col).evq.length) : exec (.eventRecordEnter col) s = .next s := by
  change execEventRecordEnter col s = _
  unfold execEventRecordEnter
  dsimp only
  rw [hq]
  exact if_pos h

variable (h : (s.cluster col).evq.length < 256)
include h

theorem exec_eventRecordEnter : exec (.eventRecordEnter col) s =
    .next (((s.setCluster col { s.cluster col with evwait := rest }).enterEvent col r.w0 r.w1).withPosted r.copy) := by
  change execEventRecordEnter col s = _
  unfold execEventRecordEnter
  dsimp only
  rw [hq]
  exact if_neg (Nat.not_le.2 h)
end

section
variable {s : State} {col : Nat} {r : EvRec} {rest : List EvRec} (hq : (s.cluster col).evwait = r :: rest)
  (hl : (s.cluster col).evq.length < 256)
include hq hl

/-- Where no control team is resident, the record enters and its copy goes on. -/
theorem eventRecordEnter_alone (h : s.controlTeam? col = none) :
    exec (.eventRecordEnter col) s = .next ((s.withRecord col r rest).withPosted r.copy) := by
  have henter := State.enterEvent_alone (s := s.setCluster col { s.cluster col with evwait := rest }) r.w0 r.w1 h
  rw [State.cluster_setCluster, State.setCluster_setCluster] at henter
  rw [exec_eventRecordEnter hq hl, henter]
  rfl

/-- A control team that waits for a record goes on too. -/
theorem eventRecordEnter_wakes {ctx : Nat} {b : Block} (h : s.controlTeam? col = some ctx)
    (hs : (s.team ctx).sched = .waiting .events) (hf : (s.team ctx).fatal = []) (hb : s.blockOf? ctx = some b)
    (hp : b.place = .running) : exec (.eventRecordEnter col) s =
      .next (((s.withRecord col r rest).setTeam ctx (s.team ctx).released).withPosted r.copy) := by
  have henter := State.enterEvent_wakes (s := s.setCluster col { s.cluster col with evwait := rest }) r.w0 r.w1 h hs hf hb hp
  rw [State.cluster_setCluster, State.setCluster_setCluster] at henter
  rw [exec_eventRecordEnter hq hl, henter]
  rfl
end

/-! ## TREL_RELEASE (R254) -/

section
variable {s : State} {col h asid : Nat} {rest : List (Nat × Nat)} (hq : (s.cluster col).relq = (h, asid) :: rest)
include hq

/-- A release that names no held block is over. -/
theorem exec_trelRelease_none (hno : s.heldBlock col h asid = none) :
    exec (.trelRelease col) s = .next (s.setCluster col { s.cluster col with relq := rest }) := by
  change execTrelRelease col s = _
  unfold execTrelRelease
  dsimp only
  rw [hq]
  dsimp only
  rw [hno]

/-- A release starts the held block that it names, once that block's HELD record has entered its queue. -/
theorem exec_trelRelease_held {f : Nat} {b : Block} (hb : s.heldBlock col h asid = some (f, b))
    (hrec : ∀ r ∈ (s.cluster col).evwait, r.start ≠ f + 1) : exec (.trelRelease col) s =
      .next ((s.setCluster col { s.cluster col with relq := rest }).setBlock f { b with place := .running }) := by
  change execTrelRelease col s = _
  unfold execTrelRelease
  dsimp only
  rw [hq]
  dsimp only
  rw [hb]
  exact if_neg (by simpa using hrec)
end

/-- A block that a handle and an ASID name is held, in that address space, and has that handle. -/
theorem State.heldBlock_names {s : State} {col h asid f : Nat} {b : Block} (hb : s.heldBlock col h asid = some (f, b)) :
    b.place = .held ∧ b.asid = asid ∧ b.core % 8 * 32 + b.slots[0]?.getD 0 = h := by
  have hfound := List.find?_some hb
  simp only [Bool.and_eq_true, beq_iff_eq] at hfound
  obtain ⟨⟨⟨⟨hplace, hasid⟩, -⟩, -⟩, hhandle⟩ := hfound
  exact ⟨hplace, hasid, hhandle⟩

/-- Settles O46: the fields of an object by the case of a counting event that it meets; the bank's, the queue's and the distributor's
oldest entry each by what its move comes to. -/
theorem countsEventsAndReleases : Obligations.CountsEventsAndReleases := by
  unfold Obligations.CountsEventsAndReleases
  refine ⟨fun o a n => ?_, fun s core e rest hq => ⟨exec_countingEvent_gone hq, fun b => exec_countingEvent_sealed hq, ?_⟩,
    fun s col r rest hq => ⟨exec_eventRecordEnter_full hq, fun hl h => ?_, fun ctx b hl h hs hf hb hp => ?_⟩,
    fun s col h asid rest hq => ⟨exec_trelRelease_none hq, fun f b hb hrec => ⟨exec_trelRelease_held hq hb hrec, ?_⟩⟩⟩
  · obtain ⟨htarget, hexpect⟩ := Bar.apply_bounds o a n
    have hta := Bar.target_lt o
    have hex := Bar.expect_lt o
    refine ⟨htarget, hexpect, Bar.apply_fault, fun h hover => ?_, fun h ha hn => ?_, fun h ha hn hfull => ?_⟩
    · obtain ⟨-, -, harrived, hgot, hphase, hfault, hcause⟩ := Bar.fields_setFault o Cause.barovf
      rw [Bar.apply_overflow h hover]
      exact ⟨hfault, hcause, hphase, harrived, hgot⟩
    · obtain ⟨-, -, hfault, hphase, harrived, hgot⟩ := Bar.fields_setCounts (Bar.flip o) 0 0
      obtain ⟨-, -, fphase, ffault⟩ := Bar.fields_flip o
      rw [Bar.apply_full h ⟨ha, hn⟩]
      exact ⟨hfault.trans (ffault.trans h), hphase.trans fphase, harrived, hgot⟩
    · obtain ⟨-, -, hfault, hphase, harrived, hgot⟩ := Bar.fields_setCounts o (Bar.arrived o + a) (Bar.got o + n)
      rw [Bar.apply_counts h ha hn hfull]
      exact ⟨hfault.trans h, hphase, harrived.trans (Nat.mod_eq_of_lt (ha.trans_lt hta)),
        hgot.trans (Nat.mod_eq_of_lt (hn.trans_lt hex))⟩
  · rintro b hb hw rfl
    exact countingEvent_applies hq hb hw
  · exact ⟨_, eventRecordEnter_alone hq hl h, State.cluster_setCluster ..,
      fun c hc => State.cluster_setCluster_other s _ hc, rfl, rfl⟩
  · refine ⟨_, eventRecordEnter_wakes hq hl h hs hf hb hp, ?_, fun w => ?_, ?_⟩
    · rw [State.withPosted_team, State.team_setTeam]
      exact Team.released_pc _
    · rw [State.withPosted_team, State.team_setTeam]
      obtain hsched | hsched := (s.team ctx).released_sched <;> rw [hsched] <;> exact Sched.noConfusion
    · exact congrArg Cluster.evq (State.cluster_setCluster s col _)
  · exact State.heldBlock_names hb

end Sys2Proof.Machine
end

section
/-! PROOF of O54. Queues and their mappers, the packet that is read next, the lottery with the block that it starts, and the end of a
block (spec/03_execution.md R39 to R42; spec/12_launch.md R255 to R266). -/
namespace Sys2Proof.Machine

/-! ## The slots of a mapper (R259) -/

/-- What a table's entries show is as before where an entry is written that shows what its key showed. -/
theorem Tab.mem_filterMap_put {α β : Type} {g : Nat × α → Option β} {k : Nat} {a : α} {t : Tab α} {v : β}
    (h : g (k, a) = (Tab.get? t k).bind fun b => g (k, b)) : v ∈ (Tab.put t k a).filterMap g ↔ v ∈ t.filterMap g := by
  induction t with
  | nil =>
    have hnone : g (k, a) = none := h
    simp [Tab.put, hnone]
  | cons e t ih =>
    obtain ⟨j, b⟩ := e
    unfold Tab.put
    by_cases hkj : k = j
    · subst hkj
      have hsame : g (k, a) = g (k, b) := by simpa [Tab.get?] using h
      simp [List.mem_filterMap, hsame]
    · have hrest : Tab.get? ((j, b) :: t) k = Tab.get? t k := if_neg (Ne.symm hkj)
      have hold : g (k, a) = some v → v ∈ ((j, b) :: t).filterMap g := fun hv => by
        obtain ⟨c, hc, hg⟩ := Option.bind_eq_some_iff.1 (h.symm.trans hv)
        exact List.mem_filterMap.2 ⟨(k, c), Tab.mem_of_get? hc, hg⟩
      rw [hrest] at h
      split_ifs with hlt
      · simp only [List.mem_filterMap, List.mem_cons (a := (_ : Nat × α)), or_and_right, exists_or, exists_eq_left] at hold ⊢
        exact or_iff_right_of_imp hold
      · simp only [List.mem_filterMap, List.mem_cons (a := (_ : Nat × α)), or_and_right, exists_or, exists_eq_left] at ih ⊢
        rw [ih h]

section
variable {s : State} {q : Nat} {x : Queue}

theorem State.freeSlot_setQueue (h : x.slot = (s.queue q).slot) (m : Nat) : (s.setQueue q x).freeSlot m = s.freeSlot m := by
  have hused (i : Nat) : i ∈ (s.setQueue q x).slotsUsed m ↔ i ∈ s.slotsUsed m := by
    refine Tab.mem_filterMap_put ?_
    dsimp only
    rw [h, State.queue, Tab.getD]
    cases Tab.get? s.queues q with
    | none => simp
    | some y => rfl
  have hcontains (i : Nat) : ((s.setQueue q x).slotsUsed m).contains i = (s.slotsUsed m).contains i := by
    rw [Bool.eq_iff_iff, List.contains_iff_mem, List.contains_iff_mem, hused]
  unfold State.freeSlot
  simp only [hcontains]

variable (s q)

/-- A queue that seeks a slot changes in nothing else. -/
theorem State.seekSlot_queue : (s.seekSlot q).queue q = { s.queue q with
    slot := ((s.seekSlot q).queue q).slot, fifo := ((s.seekSlot q).queue q).fifo, idleAt := ((s.seekSlot q).queue q).idleAt } := by
  unfold State.seekSlot
  dsimp only
  split
  · rfl
  · split
    · rw [State.queue_setQueue]
    · split
      · rfl
      · simp only [State.queue, State.setQueue, Tab.getD_put_same]

theorem State.seekSlot_rest : s.seekSlot q = { s with queues := (s.seekSlot q).queues, fifos := (s.seekSlot q).fifos } := by
  unfold State.seekSlot
  dsimp only
  split
  · rfl
  · split
    · rfl
    · split <;> rfl

variable {s q}

theorem State.seekSlot_takes {i : Nat} (he : (s.queue q).enabled = true) (hp : (s.queue q).toPlace = true)
    (hs : (s.queue q).slot = none) (hi : s.freeSlot (mapperOf q) = some i) :
    s.seekSlot q = s.setQueue q { s.queue q with slot := some i, idleAt := s.time } := by
  unfold State.seekSlot
  dsimp only
  rw [if_neg (by simp [he, hp, hs]), hi]

/-- A slot that frees is the queue's no more; the head of its mapper's FIFO has it, if there is one. -/
theorem State.freeSlotOf_queue (hq : ∀ h rest, Tab.getD s.fifos (mapperOf q) [] = h :: rest → h ≠ q) :
    (s.freeSlotOf q).queue q = { s.queue q with slot := none } := by
  unfold State.freeSlotOf
  dsimp only
  cases hs : (s.queue q).slot with
  | none =>
    change s.queue q = { s.queue q with slot := none }
    rw [← hs]
  | some i =>
    dsimp only
    cases hl : Tab.getD s.fifos (mapperOf q) [] with
    | nil => rw [State.setQueue_fifos, hl]; exact State.queue_setQueue ..
    | cons h rest =>
      rw [State.setQueue_fifos, hl]
      exact (State.queue_setQueue_other _ _ (hq h rest hl).symm).trans (State.queue_setQueue ..)

theorem State.freeSlotOf_head {h i : Nat} {rest : List Nat} (hs : (s.queue q).slot = some i)
    (hl : Tab.getD s.fifos (mapperOf q) [] = h :: rest) : ((s.freeSlotOf q).queue h).slot = some i := by
  unfold State.freeSlotOf
  dsimp only
  rw [hs]
  dsimp only
  rw [State.setQueue_fifos, hl]
  exact congrArg Queue.slot (State.queue_setQueue _ h _)

variable (s q)

theorem State.leaveFifo_queue : (s.leaveFifo q).queue q = { s.queue q with fifo := false } := State.queue_setQueue ..

theorem State.noteIdle_queue : (s.noteIdle q).queue q = { s.queue q with idleAt := ((s.noteIdle q).queue q).idleAt } := by
  unfold State.noteIdle
  dsimp only
  split
  · rfl
  · rw [State.queue_setQueue]

theorem State.noteIdle_other {p : Nat} (h : p ≠ q) : (s.noteIdle q).queue p = s.queue p := by
  unfold State.noteIdle
  dsimp only
  split
  · rfl
  · exact State.queue_setQueue_other _ _ h

theorem State.noteIdle_rest : s.noteIdle q = { s with queues := (s.noteIdle q).queues } := by
  unfold State.noteIdle
  dsimp only
  split <;> rfl

/-! ## Notify pages and queue commands (R257, R258) -/

variable {s q}

theorem State.notifyOk_known (h : (s.queue q).known = true) (v : Nat) :
    s.notifyOk q v = true ↔ (s.queue q).tail ≤ v ∧ v ≤ (s.queue q).head + 2 ^ (s.queue q).sizelog := by
  unfold State.notifyOk
  dsimp only
  rw [if_pos h, Bool.and_eq_true, decide_eq_true_eq, decide_eq_true_eq]

theorem exec_notifyWrite_ignored {off : Nat} {v : Word64}
    (h : off ≠ 0 ∨ 131072 ≤ q ∨ s.up = false ∨ s.notifyOk q v.toNat = false) :
    exec (.notifyWrite q off v) s = .next s := by
  change execNotifyWrite q off v s = _
  unfold execNotifyWrite
  split_ifs with hpage hok
  · rfl
  · rfl
  · simp only [not_or, Bool.not_eq_true', Bool.not_eq_false] at hpage hok
    obtain ⟨hoff, hq, hup⟩ := hpage
    simp [hoff, hq, hup, hok] at h

theorem exec_notifyWrite {v : Word64} (hq : q < 131072) (hup : s.up = true) (hok : s.notifyOk q v.toNat = true) :
    exec (.notifyWrite q 0 v) s = .next ((s.setQueue q { s.queue q with tail := v.toNat, idleAt := s.time }).seekSlot q) := by
  change execNotifyWrite q 0 v s = _
  unfold execNotifyWrite
  rw [if_neg (by simp [hq, hup]), if_neg (by simp [hok])]

/-- A descriptor that enables its queue (R258). -/
def Desc.valid (d : Desc) : Bool := d.v && d.tickets != 0 && d.clean && sizeOk d.sizelog

theorem Desc.valid_iff {d : Desc} :
    d.valid = true ↔ d.v = true ∧ d.tickets ≠ 0 ∧ d.clean = true ∧ sizeOk d.sizelog = true := by
  simp [Desc.valid, and_assoc]

theorem exec_qcmdEnable (hq : q < 131072) (hup : s.up = true) : exec (.qcmdEnable q) s =
    .next (if (s.desc q).valid then
      (s.setQueue q { s.queue q with
        energy := 0, enabled := true, known := true, ring := (s.desc q).ring, asid := (s.desc q).asid
        tickets := (s.desc q).tickets, sizelog := (s.desc q).sizelog }).seekSlot q
    else ((s.setQueue q { s.queue q with energy := 0, enabled := false }).freeSlotOf q).leaveFifo q) := by
  change execQcmdEnable q s = _
  unfold execQcmdEnable
  rw [if_neg (by simp [hq, hup])]
  exact (apply_ite Host.Outcome.next _ _ _).symm

theorem exec_qcmdDisable (hq : q < 131072) (hup : s.up = true) : exec (.qcmdDisable q) s =
    .next (((s.setQueue q { s.queue q with enabled := false }).freeSlotOf q).leaveFifo q) := by
  change execQcmdDisable q s = _
  unfold execQcmdDisable
  rw [if_neg (by simp [hq, hup])]

/-- A queue written and put out of its slot and its mapper's FIFO, at whose head it does not stand. -/
theorem State.putOut_queue (hq : ∀ h rest, Tab.getD s.fifos (mapperOf q) [] = h :: rest → h ≠ q) :
    (((s.setQueue q x).freeSlotOf q).leaveFifo q).queue q = { x with slot := none, fifo := false } := by
  rw [State.leaveFifo_queue, State.freeSlotOf_queue (s := s.setQueue q x) hq, State.queue_setQueue]

theorem exec_queueIdleExpiry {i : Nat} (hs : (s.queue q).slot = some i) (hp : (s.queue q).toPlace = false)
    (ht : (s.queue q).idleAt + 10000 < s.time) : exec (.queueIdleExpiry q) s = .next (s.freeSlotOf q) := by
  change execQueueIdleExpiry q s = _
  unfold execQueueIdleExpiry
  exact if_neg (by simp [hs, hp, ht])

/-! ## Launch packets (R256, R261, R262) -/

/-- The sixteen words of a queue's next packet. -/
def State.nextPacket (s : State) (q : Nat) : List Nat :=
  (bytesWords 16 (s.physRead ((s.queue q).ring + (s.queue q).nread % 2 ^ (s.queue q).sizelog * 128) 128)).map (·.toNat)

/-- The launch of a queue's next packet, as the read judges it. -/
def State.nextLaunch (s : State) (q : Nat) : Launch :=
  { seq := (s.queue q).nread, pkt := parsePacket (s.nextPacket q), refused := s.refusal (s.queue q).asid (s.nextPacket q) }

/-- The queue once its next packet has been read, with the launch and the time at which one that is over completed. -/
def State.packetRead (s : State) (q : Nat) : State :=
  (s.setQueue q { s.queue q with
    nread := (s.queue q).nread + 1
    launches := (s.queue q).launches ++
      [{ s.nextLaunch q with doneAt := if (s.nextLaunch q).isOver then some s.time else none }] }).noteIdle q

section
variable (he : (s.queue q).enabled = true) (hs : (s.queue q).slot.isSome = true) (hn : (s.queue q).nread < (s.queue q).tail)
  (hl : ∀ l ∈ (s.queue q).launches, l.refused ≠ 0 ∨ l.pkt.blocks ≤ l.placed)
include he hs hn hl

theorem State.packetDue : ¬ (!(s.queue q).enabled ∨ (s.queue q).slot.isNone ∨ (s.queue q).tail ≤ (s.queue q).nread ∨
    (s.queue q).launches.any (fun l => l.refused == 0 && decide (l.placed < l.pkt.blocks))) := by
  have hplaced : (s.queue q).launches.any (fun l => l.refused == 0 && decide (l.placed < l.pkt.blocks)) = false := by
    refine List.any_eq_false.2 fun l hmem => ?_
    simpa [imp_iff_not_or] using hl l hmem
  have hactive : (s.queue q).slot.isNone = false := by simpa using hs
  simp [he, hactive, hn, hplaced]

theorem exec_launchPacketRead_waits {pl : Nat} {op : HomeOp} (hw : s.packetWaits q = some (pl, op)) :
    exec (.launchPacketRead q) s = .next (s.homeAsk pl op) := by
  change execLaunchPacketRead q s = _
  unfold execLaunchPacketRead
  refine (if_neg (State.packetDue he hs hn hl)).trans ?_
  rw [hw]
  rfl

theorem exec_launchPacketRead (hw : s.packetWaits q = none) : exec (.launchPacketRead q) s = .next (s.packetRead q) := by
  change execLaunchPacketRead q s = _
  unfold execLaunchPacketRead
  refine (if_neg (State.packetDue he hs hn hl)).trans ?_
  rw [hw]
  rfl
end

end

/-! ## The lottery (R263 to R266) -/

theorem Queue.previousOver_of_serial {s : State} {d q : Nat} {x : Queue} {l h : Launch} (he : s.eligible d q x = true)
    (hl : x.placing = some l) (hserial : l.pkt.serial = true) (hh : h ∈ x.launches) (hseq : h.seq + 1 = l.seq) :
    h.isOver = true := by
  unfold State.eligible at he
  rw [hl] at he
  simp only [hserial, Bool.and_eq_true, Bool.not_true, Bool.false_or] at he
  obtain ⟨-, ⟨hover, -⟩, -⟩ := he
  simpa [hseq] using List.all_eq_true.1 hover h hh

section
variable {s : State} {die : Nat} {es : List (Nat × Nat × Nat)} {rest : List (Nat × List (Nat × Nat × Nat))} {p : Nat}

/-- The draw's number among the tickets of a die's slots, from its advanced generator (R264). -/
def State.winner (s : State) (die : Nat) (es : List (Nat × Nat × Nat)) : Option (Nat × Nat) :=
  winnerOf es (drawOf (xorshift (s.die die).seed) % (es.map (·.2.2)).sum)

/-- The state in which a die's generator has advanced (R264). -/
def State.advance (s : State) (die : Nat) : State := s.setDie die { s.die die with seed := xorshift (s.die die).seed }

theorem State.draw_none (hw : s.winner die es = none) : s.draw die es = s.advance die := by
  unfold State.winner at hw
  unfold State.draw
  dsimp only
  rw [hw]
  rfl

theorem State.draw_won {n : Nat} (hw : s.winner die es = some (p, n)) : s.draw die es =
    if (s.advance die).eligible die p (s.queue p) ∧ (s.queue p).placing.any (·.seq == n) then (s.advance die).placeNext die p
    else s.advance die := by
  unfold State.winner at hw
  unfold State.draw
  dsimp only
  rw [hw]
  rfl

/-- The state of a draw: the cycle owes it no more, and the die's generator has advanced (R264). -/
def State.drawn (s : State) (die : Nat) (rest : List (Nat × List (Nat × Nat × Nat))) : State :=
  ({ s with draws := some rest } : State).advance die

theorem State.drawn_seed : ((s.drawn die rest).die die).seed = xorshift (s.die die).seed := congrArg Die.seed (State.die_setDie ..)

section
variable (h : s.drawsNow = (die, es) :: rest)
include h

theorem exec_lotteryDraw_other {e : Nat} (he : e ≠ die) : exec (.lotteryDraw e) s = .next s := by
  change execLotteryDraw e s = _
  unfold execLotteryDraw
  rw [h]
  exact congrArg _ (if_neg he.symm)

theorem exec_lotteryDraw : exec (.lotteryDraw die) s = .next (({ s with draws := some rest } : State).draw die es) := by
  change execLotteryDraw die s = _
  unfold execLotteryDraw
  rw [h]
  exact congrArg _ (if_pos rfl)

theorem exec_lotteryDraw_none (hw : s.winner die es = none) : exec (.lotteryDraw die) s = .next (s.drawn die rest) :=
  (exec_lotteryDraw h).trans (congrArg _ (State.draw_none (s := { s with draws := some rest }) hw))

theorem exec_lotteryDraw_won {n : Nat} (hw : s.winner die es = some (p, n)) : exec (.lotteryDraw die) s =
    .next (if (s.drawn die rest).eligible die p (s.queue p) ∧ (s.queue p).placing.any (·.seq == n) then
      (s.drawn die rest).placeNext die p else s.drawn die rest) :=
  (exec_lotteryDraw h).trans (congrArg _ (State.draw_won (s := { s with draws := some rest }) hw))
end

/-! ## The start of a block (R39, R42, R266) -/

theorem State.setTeams_team (l : List Nat) (x : Team) (s : State) (c : Nat) :
    (l.foldl (fun s c => s.setTeam c x) s).team c = if c ∈ l then x else s.team c := by
  induction l generalizing s with
  | nil => rfl
  | cons k l ih =>
    rw [List.foldl_cons, ih]
    by_cases hk : c = k
    · subst hk; simp
    · rw [State.team_setTeam_other _ _ hk]
      simp [hk]

theorem State.setTeams_rest (l : List Nat) (x : Team) (s : State) :
    l.foldl (fun s c => s.setTeam c x) s = { s with teams := (l.foldl (fun s c => s.setTeam c x) s).teams } := by
  induction l generalizing s with
  | nil => rfl
  | cons k l ih => rw [List.foldl_cons, ih]; rfl

theorem State.wake_rest (s : State) (core : Nat) : s.wake core = { s with clusters := (s.wake core).clusters } := by
  unfold State.wake
  dsimp only
  split <;> rfl

/-- What the start of a block leaves: the block with its teams at the entry; the lottery and the queues as they were. -/
structure State.Started (s u : State) (f : Nat) (b : Block) (entry : Word64) : Prop where
  block : u.block? f = some b
  teams : ∀ c ∈ ctxsOf f b, u.team c = Team.start entry b.width
  seeds : ∀ d, (u.die d).seed = (s.die d).seed
  lastClusters : ∀ d, (u.die d).lastCluster = (s.die d).lastCluster
  queues : u.queues = s.queues
  draws : u.draws = s.draws

/-- A block and its teams as they are placed, before the frame's header is written. -/
def State.withTeams (s : State) (f : Nat) (b : Block) (entry : Word64) : State :=
  (ctxsOf f b).foldl (fun s c => s.setTeam c (Team.start entry b.width))
    ((s.setBlock f b).setCore b.core ((s.core b.core).dropAsid b.asid))

theorem State.startBlock_started {f : Nat} (hf : s.frameOk f = true) (b : Block) (entry : Word64) :
    s.Started (s.startBlock f b entry) f b entry := by
  have hrest : s.withTeams f b entry = { s.setBlock f b with
      cores := (s.withTeams f b entry).cores, teams := (s.withTeams f b entry).teams } := by
    unfold State.withTeams
    rw [State.setTeams_rest]
    rfl
  have hteam (c : Nat) (hc : c ∈ ctxsOf f b) : (s.withTeams f b entry).team c = Team.start entry b.width :=
    (State.setTeams_team ..).trans (if_pos hc)
  have hstart : s.startBlock f b entry = ((s.withTeams f b entry).saveHeader f).wake b.core := by
    have hok : (s.withTeams f b entry).frameOk f = true := (congrArg (State.frameOk · f) hrest).trans hf
    exact congrArg (State.wake · b.core) (if_pos (.inr hok))
  rw [hstart, State.wake_rest]
  generalize s.withTeams f b entry = t at hrest hteam ⊢
  have hcopies := OnlyCopies.saveHeader t f
  refine ⟨(hcopies.blockQ f).trans ?_, fun c hc => (hcopies.team c).trans (hteam c hc),
    fun d => (congrArg Die.seed (hcopies.dies d)).trans ?_, fun d => (congrArg Die.lastCluster (hcopies.dies d)).trans ?_, ?_, ?_⟩
  · rw [hrest]
    exact State.block_setBlock s f b
  · rw [hrest]
    rfl
  · rw [hrest]
    rfl
  · change (t.saveHeader f).queues = _
    rw [hcopies.rest, hrest]
    rfl
  · change (t.saveHeader f).draws = _
    rw [hcopies.rest, hrest]
    rfl

/-- A queue's launch with one more block placed, as the die whose draw it won notes its cluster (R266). -/
def State.withPlaced (s : State) (die p : Nat) (l : Launch) (core : Nat) : State :=
  (s.setQueue p { s.queue p with
    launches := (s.queue p).launches.map fun m => if m.seq = l.seq then { m with placed := m.placed + 1 } else m }).setDie die
      { s.die die with lastCluster := some (colOf core % 24) }

theorem State.withPlaced_die {l : Launch} {core : Nat} :
    (s.withPlaced die p l core).die die = { s.die die with lastCluster := some (colOf core % 24) } := State.die_setDie ..

/-- A winner's next block starts where its die's distributor has found room (R266). -/
theorem State.placeNext_started {l : Launch} {f : Nat} {r : Resv} (hl : (s.queue p).placing = some l)
    (hspot : s.spotFor die p (s.queue p) l = some (f, r)) (hhold : l.pkt.hold = false) (hf : s.frameOk f = true) :
    ∃ v, s.placeNext die p = v.noteIdle p ∧ (s.withPlaced die p l r.core).Started v f
      { protoBlock p (s.queue p) l with core := r.core, lcore := r.core, slots := r.slots, spbase := r.base } l.pkt.entry := by
  refine ⟨_, ?_, State.startBlock_started (s := s.withPlaced die p l r.core) hf _ _⟩
  unfold State.placeNext
  dsimp only
  rw [hl]
  dsimp only
  rw [hspot]
  refine if_neg ?_
  simp [protoBlock, hhold]

end

/-! ## The end of a block (R42) -/

theorem Tab.get?_filter {α : Type} (t : Tab α) (keep : Nat → Bool) (k : Nat) :
    Tab.get? (t.filter fun e => keep e.1) k = if keep k = true then Tab.get? t k else none := by
  induction t with
  | nil => simp [Tab.get?]
  | cons e t ih =>
    obtain ⟨j, a⟩ := e
    by_cases hj : keep j = true
    · rw [List.filter_cons_of_pos (by exact hj)]
      unfold Tab.get?
      by_cases hjk : j = k
      · rw [if_pos hjk, if_pos hjk, if_pos (hjk ▸ hj)]
      · rw [if_neg hjk, if_neg hjk]
        exact ih
    · rw [List.filter_cons_of_neg (by exact hj), ih]
      by_cases hjk : j = k
      · rw [if_neg (hjk ▸ hj), if_neg (hjk ▸ hj)]
      · conv_rhs => rw [Tab.get?, if_neg hjk]

section
variable {s : State} {f : Nat} {b : Block}

theorem State.onLaunch_rest (g : Launch → Launch) : s.onLaunch b g = { s with queues := (s.onLaunch b g).queues } := by
  unfold State.onLaunch
  dsimp only
  split <;> rfl

theorem State.onLaunch_queue (h : b.monitor = false) (g : Launch → Launch) : (s.onLaunch b g).queue b.queue =
    { s.queue b.queue with launches := (s.queue b.queue).launches.map fun l => if l.seq = b.seq then g l else l } := by
  unfold State.onLaunch
  dsimp only
  rw [if_neg (by simp [h]), State.queue_setQueue]

theorem State.noteEnd_rest (s : State) (d : Nat) (q : Option Nat) : s.noteEnd d q = { s with dies := (s.noteEnd d q).dies } := by
  unfold State.noteEnd
  dsimp only
  split <;> rfl

theorem State.dropLines_fabric (s : State) (d tile : Nat) (waits : List (Nat × Nat)) :
    OnlyFabric s (s.dropLines d tile waits).1 := by
  have hfold (l : List Nat) (u : State × Nat) : OnlyFabric u.1
      (l.foldl (fun (u : State × Nat) k => let r := u.1.dropLine d k waits; (r.1, u.2 + b2n r.2)) u).1 := by
    induction l generalizing u with
    | nil => exact .refl _
    | cons k l ih => exact (u.1.dropLine_fabric d k waits).trans (ih _)
  exact hfold _ (s, 0)

theorem State.forgetTile_fabric (s : State) (d tile : Nat) : OnlyFabric s (s.forgetTile d tile) := rfl

theorem State.dropPins_fabric (s : State) (asid : Nat) : OnlyFabric s (s.dropPins asid) := by
  unfold State.dropPins
  split
  · exact .refl s
  · refine .foldl (fun s (d : Nat × Die) => .foldl (fun s (t : Nat × Tile) => ?_) _ s) _ s
    exact (s.dropLines_fabric d.1 t.1 []).trans (State.forgetTile_fabric _ _ _)

/-- What is left once a block has gone: no team of its frame, and the other blocks and teams. -/
theorem State.dropFrame_eq (s : State) (f : Nat) : ∃ dies cores, s.dropFrame f =
    { s with dies, cores, teams := s.teams.filter (fun e => frameOf e.1 != f), blocks := Tab.del s.blocks f } := ⟨_, _, rfl⟩

/-- A block's end as its launch, its die and its cluster note it (R42, R268). -/
def State.notedEnd (s : State) (b : Block) : State :=
  let u := (s.onLaunch b fun l => l.blockEnds s.time).noteEnd (dieOf b.core) b.queue?
  if b.migTarget.isSome then u.withdrawn (colOf b.core) else u

theorem State.notedEnd_rest : (s.notedEnd b).teams = s.teams ∧ (s.notedEnd b).blocks = s.blocks ∧
    (s.notedEnd b).queues = (s.onLaunch b fun l => l.blockEnds s.time).queues := by
  have hnoted : s.notedEnd b = { s with
      queues := (s.onLaunch b fun l => l.blockEnds s.time).queues, dies := (s.notedEnd b).dies
      clusters := (s.notedEnd b).clusters } := by
    unfold State.notedEnd
    dsimp only
    rw [State.noteEnd_rest, State.onLaunch_rest]
    split <;> rfl
  rw [hnoted]
  exact ⟨rfl, rfl, rfl⟩

/-- A block that is done, and posts no record, ends: its frame is free once its end has been noted. -/
theorem exec_blockEnd (hb : s.block? f = some b) (hd : s.blockDone f b = true) (he : b.event = false) :
    exec (.blockEnd f) s = .next ((((s.notedEnd b).saveState f 0).dropFrame f).dropPins b.asid) := by
  change execBlockEnd f s = _
  unfold execBlockEnd
  rw [hb]
  dsimp only
  rw [if_neg (by simp [hd]), if_neg (by simp [he])]
  simp only [he, Bool.false_eq_true, if_false]
  rfl

/-- What a block's end leaves of teams, blocks and queues (R42, R291). -/
theorem State.ended_rest : ∃ u : State, ((((s.notedEnd b).saveState f 0).dropFrame f).dropPins b.asid) = u ∧
    u.teams = s.teams.filter (fun e => frameOf e.1 != f) ∧ u.blocks = Tab.del s.blocks f ∧
    u.queues = (s.onLaunch b fun l => l.blockEnds s.time).queues := by
  obtain ⟨hteams, hblocks, hqueues⟩ := s.notedEnd_rest (b := b)
  have hsaved := (OnlyCopies.saveState (s.notedEnd b) f 0).rest
  obtain ⟨dies, cores, hdrop⟩ := ((s.notedEnd b).saveState f 0).dropFrame_eq f
  refine ⟨_, rfl, ?_⟩
  rw [State.dropPins_fabric, hdrop, hsaved]
  exact ⟨congrArg _ hteams, congrArg (Tab.del · f) hblocks, hqueues⟩

theorem exec_blockEnd_busy (hb : s.block? f = some b) (hd : s.blockDone f b = false) : exec (.blockEnd f) s = .next s := by
  change execBlockEnd f s = _
  unfold execBlockEnd
  rw [hb]
  exact if_pos (by simp [hd])

end

/-- Settles O54: each command and move by what it comes to, and the queue, block and teams that this leaves by the lemma about the
operation that changes them. -/
theorem queuesAndBlocks : Obligations.QueuesAndBlocks := by
  unfold Obligations.QueuesAndBlocks
  intro s q x d
  refine ⟨fun off v => ⟨exec_notifyWrite_ignored, ?notify⟩, ⟨rfl, rfl, fun off n hread => ?page⟩, State.notifyOk_known,
    fun hq hup hfifo => ?command, ?idle, ?packet,
    fun d l h he hl hserial hh hseq => Queue.previousOver_of_serial he hl hserial hh hseq,
    ?draw, fun f b hb hd he hm => ?ended, fun f b hb hd => exec_blockEnd_busy hb hd⟩
  case notify =>
    rintro rfl hq hup hok
    refine ⟨_, exec_notifyWrite hq hup hok, ?_, ?_, ?_, fun i hs he hn hi => ?_, ?_, ?_⟩
    · rw [State.seekSlot_queue, State.queue_setQueue]
    · rw [State.seekSlot_queue, State.queue_setQueue]
    · rw [State.seekSlot_queue, State.queue_setQueue]
    · rw [State.seekSlot_takes, State.queue_setQueue]
      · rw [State.queue_setQueue]; exact he
      · rw [State.queue_setQueue]; exact Bool.or_eq_true_iff.2 (.inl (decide_eq_true hn))
      · rw [State.queue_setQueue]; exact hs
      · exact (State.freeSlot_setQueue (by rfl) _).trans hi
    · rw [State.seekSlot_rest]; rfl
    · rw [State.seekSlot_rest]; rfl
  case page =>
    unfold State.notifyRead
    split_ifs with hn h0 h8
    · rfl
    · omega
    · omega
    · rfl
  case command =>
    have hnil (h : Nat) (rest : List Nat) (hl : Tab.getD s.fifos (mapperOf q) [] = h :: rest) : h ≠ q := by
      rw [hfifo] at hl
      cases hl
    refine ⟨fun hv ht hc hs => ⟨_, (exec_qcmdEnable hq hup).trans (congrArg _ (if_pos ?_)), ?_⟩,
      fun hbad => ⟨_, (exec_qcmdEnable hq hup).trans (congrArg _ (if_neg ?_)), ?_⟩, _, exec_qcmdDisable hq hup, ?_⟩
    · exact Desc.valid_iff.2 ⟨hv, ht, hc, hs⟩
    · rw [State.seekSlot_queue, State.queue_setQueue]
      exact ⟨rfl, rfl, rfl, rfl, rfl, rfl, rfl, rfl⟩
    · intro hvalid
      obtain ⟨hv, ht, hc, hs⟩ := Desc.valid_iff.1 hvalid
      obtain h | h | h | h := hbad
      · exact Bool.false_ne_true (h.symm.trans hv)
      · exact ht h
      · exact Bool.false_ne_true (h.symm.trans hc)
      · exact Bool.false_ne_true (h.symm.trans hs)
    · rw [State.putOut_queue hnil]
    · rw [State.putOut_queue hnil]
      exact ⟨rfl, rfl, rfl, rfl, rfl⟩
  case idle =>
    intro i hs hp ht
    refine ⟨_, exec_queueIdleExpiry hs hp ht, ?_⟩
    rintro l rfl
    refine ⟨fun hnil => ?_, fun h rest hl hne => ⟨?_, State.freeSlotOf_head hs hl⟩⟩
    · rw [State.freeSlotOf_queue (by rw [hnil]; exact fun h rest hne => nomatch hne)]
    · rw [State.freeSlotOf_queue (by rw [hl]; rintro k r ⟨⟩; exact hne)]
  case packet =>
    intro he hs hn hl w l
    refine ⟨fun pl op => exec_launchPacketRead_waits he hs hn hl, fun hw => ⟨_, exec_launchPacketRead he hs hn hl hw, ?_⟩⟩
    unfold State.packetRead
    rw [State.noteIdle_queue, State.queue_setQueue]
    refine ⟨rfl, rfl, rfl, fun p hp => ?_, ?_, ?_⟩
    · rw [State.noteIdle_other _ _ hp, State.queue_setQueue_other _ _ hp]
    · rw [State.noteIdle_rest]; rfl
    · rw [State.noteIdle_rest]; rfl
  case draw =>
    intro die es rest hdraws seed w s1
    refine ⟨fun e => exec_lotteryDraw_other hdraws,
      fun hw => ⟨_, exec_lotteryDraw_none hdraws hw, congrArg Die.seed (State.die_setDie ..), rfl, rfl⟩,
      fun p n hw hno => ?_, fun p l f r hw hyes hl hhold hf hspot => ?_⟩
    · rw [exec_lotteryDraw_won hdraws hw]
      exact congrArg _ (if_neg fun h => Bool.false_ne_true (hno.symm.trans h.1))
    · obtain ⟨v, hplace, hstart⟩ := State.placeNext_started (s := s.drawn die rest) hl hspot hhold hf
      have hqueue : v.queue p = ((s.drawn die rest).withPlaced die p l r.core).queue p :=
        congrArg (fun t : Tab Queue => Tab.getD t p {}) hstart.queues
      refine ⟨v.noteIdle p, ?_, ?_, ?_, ?_, ?_, ?_, ?_⟩
      · rw [exec_lotteryDraw_won hdraws hw, ← hplace]
        exact congrArg _ (if_pos ⟨hyes, by simp [hl]⟩)
      · rw [State.noteIdle_rest]
        exact (hstart.seeds die).trans ((congrArg Die.seed State.withPlaced_die).trans State.drawn_seed)
      · rw [State.noteIdle_rest]
        exact hstart.draws
      · rw [State.noteIdle_rest]
        exact hstart.block
      · rw [State.noteIdle_rest]
        exact hstart.teams
      · rw [State.noteIdle_rest]
        exact (hstart.lastClusters die).trans (congrArg Die.lastCluster State.withPlaced_die)
      · rw [State.noteIdle_queue, hqueue]
        exact congrArg Queue.launches (State.queue_setQueue _ p _)
  case ended =>
    obtain ⟨u, hu, hteams, hblocks, hqueues⟩ := s.ended_rest (f := f) (b := b)
    refine ⟨u, (exec_blockEnd hb hd he).trans (congrArg _ hu), ?_, fun c hc => ?_, fun c hc => ?_, fun g hg => ?_, ?_⟩
    · rw [State.block?, hblocks, Tab.get?_del, if_pos rfl]
    · rw [hteams, Tab.get?_filter s.teams (fun k => frameOf k != f), if_neg (by simp [hc])]
    · rw [hteams, Tab.get?_filter s.teams (fun k => frameOf k != f), if_pos (by simp [hc])]
    · rw [State.block?, hblocks, Tab.get?_del, if_neg hg.symm]
      rfl
    · rw [State.queue, hqueues]
      exact congrArg Queue.launches (State.onLaunch_queue hm _)

end Sys2Proof.Machine
end

section
/-! PROOF of O55's negation, and the clauses of it that hold (spec/12_launch.md R214, R267 to R272). -/
namespace Sys2Proof.Machine

/-! ## A table of dies in order -/

/-- A table written where the entry shows what its key showed: with rising keys, its entries show the same, one after the other. -/
theorem Tab.flatMap_put {α β : Type} {g : α → List β} {t : Tab α} {k : Nat} {a : α} (ht : (t.map (·.1)).Pairwise (· < ·))
    (h : g a = (Tab.get? t k).elim [] g) : (Tab.put t k a).flatMap (fun e => g e.2) = t.flatMap fun e => g e.2 := by
  induction t with
  | nil =>
    have hnil : g a = [] := h
    simp [Tab.put, hnil]
  | cons e t ih =>
    obtain ⟨j, b⟩ := e
    obtain ⟨hfirst, hrest⟩ := List.pairwise_cons.1 ht
    unfold Tab.put
    split_ifs with hlt heq
    · have hnone : Tab.get? ((j, b) :: t) k = none := by
        rw [Tab.get?, if_neg (Nat.ne_of_gt hlt)]
        cases hk : Tab.get? t k with
        | none => rfl
        | some c => exact absurd (hfirst k (List.mem_map_of_mem (f := Prod.fst) (Tab.mem_of_get? hk))) (Nat.lt_asymm hlt)
      rw [hnone] at h
      rw [List.flatMap_cons, h]
      rfl
    · rw [Tab.get?, if_pos heq.symm] at h
      rw [List.flatMap_cons, List.flatMap_cons, h]
      rfl
    · rw [Tab.get?, if_neg (Ne.symm heq)] at h
      rw [List.flatMap_cons, List.flatMap_cons, ih hrest h]

/-- The dies' table has its keys rising. -/
def State.DiesRise (s : State) : Prop := (s.dies.map (·.1)).Pairwise (· < ·)

theorem State.lineNow_setDie {s : State} (hs : s.DiesRise) {d : Nat} {x : Die} (hx : x.lines = (s.die d).lines) (pl : Nat) :
    (s.setDie d x).lineNow pl = s.lineNow pl := by
  have hlines : ((s.setDie d x).dies.map fun d => d.2.lines).flatten = (s.dies.map fun d => d.2.lines).flatten := by
    simp only [← List.flatMap_def]
    refine Tab.flatMap_put hs ?_
    rw [hx, State.die, Tab.getD]
    cases Tab.get? s.dies d <;> rfl
  have hdirty : (s.setDie d x).dirtyCopies pl = s.dirtyCopies pl := by
    unfold State.dirtyCopies
    rw [hlines]
  rw [State.lineNow_eq, hdirty]
  exact (State.lineNow_eq s pl).symm

theorem State.translate_lineNow {s : State} (hs : s.DiesRise) (d asid va : Nat) (n : Need) (pl : Nat) :
    (s.translate d asid va n).1.lineNow pl = s.lineNow pl := by
  unfold State.translate
  dsimp only
  split
  · rfl
  · split
    · exact State.lineNow_setDie hs (by rfl) pl
    · split <;> exact State.lineNow_setDie hs (by rfl) pl

/-! ## Entries of the ring (R270, R271) -/

/-- Where the next entry of the ring lies. -/
def State.ringSlot (s : State) : Nat := s.launchRegs.evBase + s.launchRegs.evHead % s.launchRegs.size * 64

/-- The ring has taken an entry. -/
structure State.RingTook (s u : State) (e : RingEnt) : Prop where
  head : u.launchRegs.evHead = s.launchRegs.evHead + 1
  tail : u.launchRegs.evTail = s.launchRegs.evTail
  out : ∃ m, u.out = m ++ s.out
  bytes : u.physRead s.ringSlot e.bytes.length = e.bytes
  others : ∀ q, q < 2 ^ 52 → (q < s.ringSlot ∨ s.ringSlot + e.bytes.length ≤ q) → u.physRead q 1 = s.physRead q 1

/-- An entry written changes memory as a write of its bytes does, the ring's registers, and what has been sent (R271, R272). -/
theorem State.ringWrite_rest (s : State) (e : RingEnt) : s.ringWrite e =
    { s.physWrite s.ringSlot e.bytes with launchRegs := (s.ringWrite e).launchRegs, out := (s.ringWrite e).out } := by
  unfold State.ringWrite State.reportIfDue
  dsimp only
  change (if _ then _ else _) = _
  generalize hw : s.physWrite _ _ = t
  rw [show s.physWrite s.ringSlot e.bytes = t from hw]
  split_ifs <;> rfl

/-- Interrupts change what has been sent, and what of the ring is reported (R272). -/
theorem State.reportIfDue_rest (s : State) : ∃ m reported, s.reportIfDue =
    { s with launchRegs := { s.launchRegs with reported }, out := m ++ s.out } := by
  unfold State.reportIfDue
  split
  · exact ⟨[.msix 0], _, rfl⟩
  · exact ⟨[], _, rfl⟩

theorem State.ringWrite_regs (s : State) (e : RingEnt) : (s.ringWrite e).launchRegs.evHead = s.launchRegs.evHead + 1 ∧
    (s.ringWrite e).launchRegs.evTail = s.launchRegs.evTail ∧ (s.ringWrite e).launchRegs.held = s.launchRegs.held ∧
    ∃ m, (s.ringWrite e).out = m ++ s.out := by
  have hrest := (OnlyCopies.physWrite s (s.launchRegs.evBase + s.launchRegs.evHead % s.launchRegs.size * 64) e.bytes).rest
  unfold State.ringWrite
  dsimp only
  generalize s.physWrite _ _ = t at hrest ⊢
  rw [show s.launchRegs = t.launchRegs by rw [hrest], show s.out = t.out by rw [hrest]]
  by_cases h3 : e.type = 3
  · rw [if_pos h3]
    obtain ⟨m, reported, hreport⟩ := State.reportIfDue_rest (State.emit _ (.msix 1))
    rw [hreport]
    exact ⟨rfl, rfl, rfl, m ++ [.msix 1], by simp [State.emit]⟩
  · rw [if_neg h3]
    obtain ⟨m, reported, hreport⟩ := State.reportIfDue_rest _
    rw [hreport]
    exact ⟨rfl, rfl, rfl, m, rfl⟩

/-- An entry whose bytes lie in device or host memory is in the ring as it was written. -/
theorem State.ringWrite_took {s : State} {e : RingEnt} (h : s.ringSlot + e.bytes.length ≤ 2 ^ 52) :
    s.RingTook (s.ringWrite e) e := by
  obtain ⟨hhead, htail, -, hout⟩ := s.ringWrite_regs e
  obtain ⟨hbytes, hothers⟩ := s.physRead_physWrite h
  have hread (q n : Nat) : (s.ringWrite e).physRead q n = (s.physWrite s.ringSlot e.bytes).physRead q n := by
    refine State.physRead_congr (fun pl => ?_) q n
    rw [State.ringWrite_rest]
    generalize s.physWrite _ _ = t
    rfl
  exact ⟨hhead, htail, hout, (hread _ _).trans hbytes, fun q hq hout => (hread q 1).trans (hothers q hq hout)⟩

theorem State.ringWrite_work (s : State) (e : RingEnt) : (s.ringWrite e).teams = s.teams ∧ (s.ringWrite e).blocks = s.blocks := by
  have hcopies := OnlyCopies.physWrite s s.ringSlot e.bytes
  rw [State.ringWrite_rest]
  exact ⟨hcopies.teams, hcopies.blocks⟩

theorem State.RingTook.setQueue {s u : State} {e : RingEnt} (h : s.RingTook u e) (q : Nat) (x : Queue) :
    s.RingTook (u.setQueue q x) e := by
  have hread := State.physRead_congr (s := u) (u := u.setQueue q x) fun _ => rfl
  exact ⟨h.head, h.tail, h.out, (hread _ _).trans h.bytes, fun p hp hout => (hread p 1).trans (h.others p hp hout)⟩

/-! ## Completion records (R268, R269) -/

/-- The store of a launch's completion record, and whether it was made: a launch without COMPLETE has none. -/
def State.recorded (s : State) (q : Nat) (l : Launch) : State × Bool :=
  if l.pkt.complete = 0 then (s, true)
  else s.storeRecord (s.queue q).asid l.pkt.complete (wordsBytes (completionWords q (l.doneAt.getD s.time) l))

/-- Nothing of teams, blocks, queues, the ring or what has been sent differs. -/
structure State.SameWork (s t : State) : Prop where
  teams : t.teams = s.teams
  blocks : t.blocks = s.blocks
  queues : t.queues = s.queues
  launchRegs : t.launchRegs = s.launchRegs
  out : t.out = s.out

theorem OnlyFetch.sameWork {s t : State} (h : OnlyFetch s t) : s.SameWork t := by
  rw [h.rest]
  exact ⟨rfl, rfl, rfl, rfl, rfl⟩

theorem OnlyCopies.sameWork {s t : State} (h : OnlyCopies s t) : s.SameWork t := by
  rw [h.rest]
  exact ⟨rfl, rfl, rfl, rfl, rfl⟩

theorem State.SameWork.trans {s t u : State} (h : s.SameWork t) (g : t.SameWork u) : s.SameWork u :=
  ⟨g.teams.trans h.teams, g.blocks.trans h.blocks, g.queues.trans h.queues, g.launchRegs.trans h.launchRegs, g.out.trans h.out⟩

theorem State.recorded_sameWork (s : State) (q : Nat) (l : Launch) : s.SameWork (s.recorded q l).1 := by
  unfold State.recorded State.storeRecord
  split
  · exact (OnlyFetch.refl s).sameWork
  · split
    · exact (OnlyFetch.refl s).sameWork
    · have hfetch := s.translate_only 0 (s.queue q).asid l.pkt.complete.toNat { write := true }
      generalize s.translate 0 _ _ _ = r at hfetch ⊢
      obtain ⟨t, e | e⟩ := r
      · exact hfetch.sameWork
      · dsimp only at hfetch ⊢
        split
        · exact hfetch.sameWork.trans (OnlyCopies.homeWrite t _ _ _).sameWork
        · dsimp only
          exact hfetch.sameWork.trans (OnlyCopies.physWrite t _ _).sameWork

section
variable {s : State} {q : Nat} {l : Launch} {rest : List Launch}

theorem exec_launchComplete (hl : (s.queue q).launches = l :: rest) (hp : l.posted = false) (hover : l.isOver = true)
    (hheld : s.launchRegs.held = []) (hroom : s.launchRegs.room = true) (hw : s.completionWaits q = none) :
    exec (.launchComplete q) s = .next (s.completes q
      { type := 1, body := completionWords q (l.doneAt.getD s.time) l, comp := some q }) := by
  change execLaunchComplete q s = _
  unfold execLaunchComplete
  dsimp only
  rw [hl, List.find?_cons_of_pos (by simp [hp])]
  dsimp only
  rw [if_neg (by simp [hover]), if_pos (by simp [hheld, hroom]), hw]
  rfl

theorem State.completes_eq (hl : (s.queue q).launches = l :: rest) : s.completes q
      { type := 1, body := completionWords q (l.doneAt.getD s.time) l, comp := some q } =
    let w := s.recorded q l
    let u := w.1.ringWrite { type := 1, body := completionWords q (l.doneAt.getD s.time) l, comp := some q, nowrite := !w.2 }
    u.setQueue q { u.queue q with launches := rest, head := (s.queue q).head + 1 } := by
  unfold State.completes State.recorded
  dsimp only
  rw [hl]

/-- A store that fails a check is not made, and no line differs (R269). -/
theorem State.recorded_refused (hs : s.DiesRise) (hc : l.pkt.complete ≠ 0) (h : canonical l.pkt.complete = false ∨
    ∃ x, (s.translate 0 (s.queue q).asid l.pkt.complete.toNat { write := true }).2 = .error x) :
    (s.recorded q l).2 = false ∧ ∀ pl, (s.recorded q l).1.lineNow pl = s.lineNow pl := by
  unfold State.recorded State.storeRecord
  rw [if_neg hc]
  split
  · exact ⟨rfl, fun _ => rfl⟩
  · next hcanon =>
    obtain ⟨x, hx⟩ := h.resolve_left (by simpa using hcanon)
    have hline := State.translate_lineNow hs 0 (s.queue q).asid l.pkt.complete.toNat { write := true }
    generalize s.translate 0 _ _ _ = r at hx hline ⊢
    obtain ⟨t, e | e⟩ := r
    · exact ⟨rfl, hline⟩
    · cases hx

/-- A store that passes its checks, of a page in order, writes the record where its address leads (R269). -/
theorem State.recorded_stored (hs : s.DiesRise) {e : TlbEnt} (hc : l.pkt.complete ≠ 0) (hcanon : canonical l.pkt.complete = true)
    (he : (s.translate 0 (s.queue q).asid l.pkt.complete.toNat { write := true }).2 = .ok e) (hswm : e.attr.swm = false) :
    ∃ t : State, (∀ pl, t.lineNow pl = s.lineNow pl) ∧ s.recorded q l =
      (t.physWrite (e.paOf l.pkt.complete.toNat) (wordsBytes (completionWords q (l.doneAt.getD s.time) l)), true) := by
  unfold State.recorded State.storeRecord
  rw [if_neg hc, if_neg (by simp [hcanon])]
  have hline := State.translate_lineNow hs 0 (s.queue q).asid l.pkt.complete.toNat { write := true }
  generalize s.translate 0 _ _ _ = r at he hline ⊢
  obtain ⟨t, x⟩ := r
  cases he
  exact ⟨t, hline, if_neg (by simp [hswm])⟩

theorem length_bytes_completion {q time : Nat} {nowrite : Bool} :
    (RingEnt.bytes { type := 1, body := completionWords q time l, comp := some q, nowrite }).length = 64 := by
  simp [RingEnt.bytes, wordsBytes, completionWords]

/-- A launch that is over completes: HEAD rises, and the ring takes its entry as it stood once its record was stored, or was not. -/
theorem launchComplete_completes (hl : (s.queue q).launches = l :: rest) (hp : l.posted = false) (hover : l.isOver = true)
    (hheld : s.launchRegs.held = []) (hroom : s.launchRegs.room = true) (hw : s.completionWaits q = none)
    (hslot : s.ringSlot + 64 ≤ 2 ^ 52) : ∃ u, exec (.launchComplete q) s = .next u ∧
      (u.queue q).head = (s.queue q).head + 1 ∧ (u.queue q).launches = rest ∧ u.teams = s.teams ∧ u.blocks = s.blocks ∧
      (s.recorded q l).1.RingTook u { type := 1, body := completionWords q (l.doneAt.getD s.time) l, comp := some q
                                      nowrite := !(s.recorded q l).2 } := by
  refine ⟨_, (exec_launchComplete hl hp hover hheld hroom hw).trans (congrArg _ (State.completes_eq hl)), ?_⟩
  dsimp only
  have hsame := s.recorded_sameWork q l
  generalize s.recorded q l = w at hsame ⊢
  have htook : w.1.RingTook _ _ := State.ringWrite_took (s := w.1)
    (e := { type := 1, body := completionWords q (l.doneAt.getD s.time) l, comp := some q, nowrite := !w.2 })
    (by rwa [length_bytes_completion, State.ringSlot, hsame.launchRegs])
  obtain ⟨hteams, hblocks⟩ := State.ringWrite_work w.1
    { type := 1, body := completionWords q (l.doneAt.getD s.time) l, comp := some q, nowrite := !w.2 }
  generalize w.1.ringWrite _ = v at htook hteams hblocks ⊢
  refine ⟨?_, ?_, hteams.trans hsame.teams, hblocks.trans hsame.blocks, htook.setQueue _ _⟩
  · rw [State.queue_setQueue]
  · rw [State.queue_setQueue]

/-- A held entry that is no completion's is written where the ring has room, once the host holds its line no more (R271). -/
theorem hostRingEntryWrite_took {e : RingEnt} {held : List RingEnt} (hheld : s.launchRegs.held = e :: held)
    (hroom : s.launchRegs.room = true) (hcomp : e.comp = none) (hw : s.ringWaits = none)
    (hslot : s.ringSlot + e.bytes.length ≤ 2 ^ 52) :
    ∃ u, exec .hostRingEntryWrite s = .next u ∧ u.launchRegs.held = held ∧ s.RingTook u e := by
  have hexec : exec .hostRingEntryWrite s =
      .next (({ s with launchRegs := { s.launchRegs with held } } : State).ringWrite e) := by
    change execHostRingEntryWrite s = _
    unfold execHostRingEntryWrite
    rw [hheld]
    dsimp only
    rw [if_neg (by simp [hroom]), hcomp]
    dsimp only
    rw [hw]
    rfl
  have htook := State.ringWrite_took (s := { s with launchRegs := { s.launchRegs with held } }) hslot
  obtain ⟨-, -, hrest, -⟩ := State.ringWrite_regs { s with launchRegs := { s.launchRegs with held } } e
  exact ⟨_, hexec, hrest, htook.head, htook.tail, htook.out, htook.bytes, htook.others⟩

end

/-! ## Gating (R214, R267) -/

theorem State.forgetLine_dies (s : State) (d k : Nat) : ∃ dies, s.forgetLine d k = { s with dies } := by
  unfold State.forgetLine
  split
  · exact ⟨_, rfl⟩
  · split
    · exact ⟨_, rfl⟩
    · exact ⟨_, rfl⟩

theorem State.forgetLines_dies (d : Nat) (l : List (Nat × L1Line)) (s : State) :
    ∃ dies, l.foldl (fun s e => s.forgetLine d e.1) s = { s with dies } := by
  induction l generalizing s with
  | nil => exact ⟨_, rfl⟩
  | cons e l ih =>
    obtain ⟨dies, hfirst⟩ := s.forgetLine_dies d e.1
    rw [List.foldl_cons, hfirst]
    exact ih { s with dies }

/-- A core's L1 empties, and nothing changes but what its die keeps of lines (R214). -/
theorem State.emptyL1_eq (s : State) (c : Nat) : ∃ dies, s.emptyL1 c = { s.setCore c { s.core c with l1 := [] } with dies } := by
  unfold State.emptyL1
  exact State.forgetLines_dies _ _ ((s.setCore c { s.core c with l1 := [] }).spoilFills (dieOf c) fun f => f.core == c)

theorem State.emptyL1s (l : List Nat) (s : State) : ∃ dies cores, l.foldl (fun s c => s.emptyL1 c) s = { s with dies, cores } ∧
    ∀ k, (l.foldl (fun s c => s.emptyL1 c) s).core k = if k ∈ l then { s.core k with l1 := [] } else s.core k := by
  induction l generalizing s with
  | nil => exact ⟨_, _, rfl, fun _ => rfl⟩
  | cons c l ih =>
    obtain ⟨dies, hfirst⟩ := s.emptyL1_eq c
    obtain ⟨dies', cores, hrest, hcore⟩ := ih (s.emptyL1 c)
    refine ⟨dies', cores, ?_, fun k => ?_⟩
    · rw [List.foldl_cons, hrest, hfirst]
      rfl
    · have hk : (s.emptyL1 c).core k = (s.setCore c { s.core c with l1 := [] }).core k := by
        rw [hfirst]
        rfl
      rw [List.foldl_cons, hcore, hk]
      by_cases hkc : k = c
      · subst hkc
        simp
      · rw [State.core_setCore_other _ _ hkc]
        simp [hkc]

/-- The cores of a cluster and its control core. -/
def coresOf (col : Nat) : List Nat := (List.range 8).map (fun i => col * 8 + i) ++ [768 + col]

theorem mem_coresOf {col k : Nat} (h : col < 96) : k ∈ coresOf col ↔ colOf k = col := by
  unfold coresOf colOf
  simp only [List.mem_append, List.mem_map, List.mem_range, List.mem_singleton]
  split_ifs with hk
  · refine ⟨?_, fun hcol => .inl ⟨k % 8, by omega, by omega⟩⟩
    rintro (⟨i, hi, rfl⟩ | rfl) <;> omega
  · refine ⟨?_, fun hcol => .inr (by omega)⟩
    rintro (⟨i, hi, rfl⟩ | rfl) <;> omega

/-- A cluster with nothing to run is gated with its L1s empty, once its die owes the cycle no draw (R214, R267). -/
theorem clusterGatingCommit_gates {s : State} {col : Nat} (hcol : col < 96) (hfree : s.dispatchFree col = true)
    (hg : (s.cluster col).gated = false) (hr : s.ramped col = false) (hd : ∀ e ∈ s.drawsNow, e.1 ≠ col / 24) :
    ∃ u, exec (.clusterGatingCommit col) s = .next u ∧ u.cluster col = { s.cluster col with gated := true } ∧
      (∀ k, colOf k = col → (u.core k).l1 = []) ∧ (∀ k, colOf k ≠ col → u.core k = s.core k) ∧ u.mem = s.mem ∧
      u.teams = s.teams := by
  have hexec : exec (.clusterGatingCommit col) s = .next ((((coresOf col).foldl (fun s c => s.emptyL1 c) s).setCluster col
      { ((coresOf col).foldl (fun s c => s.emptyL1 c) s).cluster col with gated := true }).noteEnd (col / 24) none) := by
    change execClusterGatingCommit col s = _
    unfold execClusterGatingCommit
    have hcores : (coresOf col).foldl (fun s c => s.emptyL1 c) s =
        ((List.range 8).foldl (fun s i => s.emptyL1 (col * 8 + i)) s).emptyL1 (768 + col) := by
      rw [coresOf, List.foldl_append, List.foldl_map, List.foldl_cons, List.foldl_nil]
    rw [hcores, if_neg ?_]
    · have hdraws : s.drawsNow.any (fun e => e.1 == col / 24) = false := List.any_eq_false.2 fun e he => by simpa using hd e he
      simp [hfree, hg, hr, hdraws, hcol]
  obtain ⟨dies, cores, hrest, hcore⟩ := State.emptyL1s (coresOf col) s
  generalize (coresOf col).foldl (fun s c => s.emptyL1 c) s = t at hexec hrest hcore
  refine ⟨_, hexec, ?_⟩
  rw [State.noteEnd_rest]
  refine ⟨(State.cluster_setCluster t col _).trans (by rw [hrest]; rfl), fun k hk => ?_, fun k hk => ?_, by rw [hrest]; rfl,
    by rw [hrest]; rfl⟩
  · exact congrArg Core.l1 ((hcore k).trans (if_pos ((mem_coresOf hcol).2 hk)))
  · exact (hcore k).trans (if_neg (mt (mem_coresOf hcol).1 hk))

/-! ## A table of dies out of order -/

/-- A refused launch is over, and its record is to go to an address under ASID 0, which has no entry.  Dies 1 and 0 stand in the
table in that order, each with line 0x100 dirty: its first byte is 1 on die 1, and 2 on die 0. -/
def outOfOrder : State :=
  { dies := [(1, { lines := [(0, { line := 0x100, st := .m, data := 1 })] }),
             (0, { lines := [(0, { line := 0x100, st := .m, data := 2 })] })]
    queues := [(0, { launches := [{ seq := 0, pkt := { complete := 0x20 }, refused := 1 }] })]
    launchRegs := { evEn := true, evBase := 0x1000 } }

/-- The byte that a step leaves at a physical address. -/
def byteAfter (i : Instr) (s : State) (pa : Nat) : Option (List Byte) :=
  match exec i s with
  | .next u => some (u.physRead pa 1)
  | _ => none

/-- Refutes O55: a record that may not be stored changes a byte outside the ring.  Its translation writes die 0 back into the table
of dies, and where the table is out of order it is written in front of die 1, so that the copy of die 0 answers for a line that both
hold dirty.  `Tab` means keys to rise, but the statement is about every state.  Where they rise, and the ring's entries (of any
length, in the statement) lie in device or host memory, its clauses are `launchComplete_completes` with `State.recorded_refused` and
`State.recorded_stored`, `hostRingEntryWrite_took` and `clusterGatingCommit_gates`. -/
theorem not_completionsAndGating : ¬ Obligations.CompletionsAndGating := by
  unfold Obligations.CompletionsAndGating
  intro h
  have hroom : outOfOrder.launchRegs.room = true := by decide +kernel
  have hwaits : outOfOrder.completionWaits 0 = none := by decide +kernel
  have hfails : (outOfOrder.translate 0 0 0x20 { write := true }).2 = .error (4, 4) := by decide +kernel
  have hbefore : outOfOrder.physRead 0x8000 1 = [1] := by decide +kernel
  have hafter : byteAfter (.launchComplete 0) outOfOrder 0x8000 = some [2] := by decide +kernel
  obtain ⟨hcomplete, -⟩ := h outOfOrder
  obtain ⟨-, hover, -⟩ := hcomplete 0 _ [] rfl rfl
  obtain ⟨-, hstore⟩ := hover rfl rfl hroom
  obtain ⟨-, hnowrite, -⟩ := hstore hwaits
  obtain ⟨u, hu, -, hrest⟩ := hnowrite (by decide) (.inr ⟨_, hfails⟩)
  have hsame := hrest 0x8000 (by decide) (by decide) (by decide)
  rw [byteAfter, hu, Option.some.injEq, hsame, hbefore] at hafter
  exact absurd hafter (by decide)

end Sys2Proof.Machine
end

section
/-! SUPPORT. Traps on their way to the handler, and the ends that a trap without one comes to (spec/13_preemption.md R275 to R280;
spec/12_launch.md R269). -/
namespace Sys2Proof.Machine

/-! ## The program counter after an instruction (R62) -/

/-- The slot after a slot is another one: the same line's next, or slot 0 of the next line. -/
theorem nextPc_ne (pc : Word64) : nextPc pc ≠ pc := by
  unfold nextPc
  split_ifs with hslot
  · intro h
    simp at h
  · intro h
    have hmod : (pcLine pc + 64).toNat % 8 = 0 := by
      have hline : (pcLine pc).toNat % 2 ^ 3 = 0 := by
        rw [pcLine, BitVec.toNat_and, Nat.and_mod_two_pow]
        exact Nat.and_zero _
      rw [BitVec.toNat_add, show ((64 : Word64).toNat) = 64 from rfl]
      omega
    have hpc : pcSlot pc = pc.toNat % 8 := by
      rw [pcSlot, BitVec.extractLsb'_toNat]
      rfl
    rw [h] at hmod
    omega

section
variable {s : State} {ctx : Nat} {b : Block} {i : TrapInfo} {h : Word64}

/-- Taking a trap changes no block, so that in a block that runs nothing follows it (R276). -/
theorem State.raise_taken (hb : s.blockOf? ctx = some b) (hp : b.place = .running) (hs : b.stepping = none)
    (hpend : (s.team ctx).pend = []) (hn : (s.team ctx).handler = false) (hh : s.handlerFor ctx i = some h)
    (hf : s.frameOk (frameOf ctx) = true) (hpool : s.framePA (frameOf ctx) 0x3FFFFF < 0x18000000000) :
    s.TookTrap (s.raise ctx i) ctx ((s.team ctx).keepWait i) (s.team ctx).exec ∧ (s.raise ctx i).blocks = s.blocks ∧
      (s.raise ctx i).team ctx = (s.team ctx).inHandler i b.width h := by
  have hblock : (s.raise ctx i).blockOf? ctx = some b := by
    obtain ⟨w, hw, -, hdeliver⟩ := State.deliver_handler hn hh hf
    have hraise : s.raise ctx i = s.deliver ctx i := if_pos (by rw [hpend]; rfl)
    rw [hraise, hdeliver]
    exact (hw.blockOf ctx).trans hb
  have htook := State.raise_running hb hp hs hpend hn hh hf hpool
  rwa [State.afterEvent_running hblock hp hs] at htook

/-- TRAP of a team that has a handler and owes no result: the record names the next slot, and the rest is what taking a trap
comes to (R276, R403). -/
theorem State.trap_taken {f : YF} (hr : s.Runs ctx) (hpass : s.Passes ctx (.trap f)) (hb : s.blockOf? ctx = some b)
    (hpend : (s.team ctx).pend = []) (hn : (s.team ctx).handler = false) (hh : b.handler ≠ 0)
    (hf : s.frameOk (frameOf ctx) = true) (hpool : s.framePA (frameOf ctx) 0x3FFFFF < 0x18000000000) :
    let record : TrapInfo :=
      { cause := Cause.trap0 + f.code, pc := (s.team ctx).pc, resume := nextPc (s.team ctx).pc, word := wordOf (.trap f), addr := 0 }
    ∃ u, exec (.trap f) s = .next u ∧ s.TookTrap u ctx record (s.team ctx).exec ∧ u.blocks = s.blocks ∧
      u.team ctx = (s.team ctx).inHandler record b.width b.handler := by
  intro record
  have hexec : exec (.trap f) s = .next (s.conclude ctx (.trap f) (.stay (s.raise ctx record))) := State.atIssue_next _ hr hpass
  obtain ⟨_, _, b', hb', hplace, hstep⟩ := hr
  obtain rfl : b' = b := Option.some.inj (hb'.symm.trans hb)
  have hkeep : (s.team ctx).keepWait record = record := by
    simp [Team.keepWait, record, nextPc_ne]
  obtain ⟨htook, hblocks, hteam⟩ := State.raise_taken (i := record) hb hplace hstep hpend hn
    (State.handlerFor_trap hb (show (0 : Nat) ≠ 2 by decide) hh) hf hpool
  rw [hkeep] at htook
  have hblock : ({ s.raise ctx record with pairSecond := none, pairMark := false } : State).blockOf? ctx = some b' :=
    (congrArg (Tab.get? · (frameOf ctx)) hblocks).trans hb
  refine ⟨_, hexec, ?_⟩
  change s.TookTrap (State.afterIssue { s.raise ctx record with pairSecond := none, pairMark := false } ctx) ctx record _ ∧
    (State.afterIssue { s.raise ctx record with pairSecond := none, pairMark := false } ctx).blocks = _ ∧
    (State.afterIssue { s.raise ctx record with pairSecond := none, pairMark := false } ctx).team ctx = _
  rw [State.afterIssue_running hblock hplace hstep]
  obtain ⟨hrec, hrest, hothers⟩ := htook
  exact ⟨⟨(State.physRead_congr (fun _ => rfl) _ _).trans hrec,
    fun q hq hout => (State.physRead_congr (fun _ => rfl) _ _).trans (hrest q hq hout), hothers⟩, hblocks, hteam⟩

/-- An end with a cause is counted in the launch of the team's block (R269). -/
theorem State.endTeam_counts {c : Cause} {addr : Word64} (hc : c ≠ Cause.none) (hb : s.blockOf? ctx = some b)
    (hm : b.monitor = false) :
    ((s.endTeam ctx c addr).queue b.queue).launches =
      (s.queue b.queue).launches.map fun l => if l.seq = b.seq then l.count c addr else l := by
  unfold State.endTeam
  dsimp only
  rw [if_neg hc]
  unfold State.countFault
  rw [State.setTeam_blockOfQ, (s.departs_eq ctx).1]
  change ((match s.blockOf? ctx with | none => _ | some b => _ : State).queue b.queue).launches = _
  rw [hb]
  dsimp only
  unfold State.onLaunch
  rw [if_neg (ne_true_of_eq_false hm), State.queue_setQueue]
  rfl

/-- TRAP_DELIVERY takes the trap that the team parks for, its results being back (R276). -/
theorem exec_trapDelivery (ht : (s.team ctx).trap = some i) (hs : (s.team ctx).sched = .trapping) (hpend : (s.team ctx).pend = []) :
    exec (.trapDelivery ctx) s =
      .next ((((s.setTeam ctx { s.team ctx with trap := none }).deliver ctx i).flagObjects i.cause i.objs).afterEvent ctx) := by
  change execTrapDelivery ctx s = _
  unfold execTrapDelivery
  dsimp only
  rw [ht]
  exact if_pos ⟨hs, by rw [hpend]; rfl⟩

theorem State.deliver_of_no_handler (hn : (s.team ctx).handler = false) (hh : s.handlerFor ctx i = none) (hd : i.deliv ≠ 2) :
    s.deliver ctx i = s.endTeam ctx i.cause i.addr := by
  unfold State.deliver
  dsimp only
  rw [if_neg (ne_true_of_eq_false hn), hh]
  exact if_neg hd

end
end Sys2Proof.Machine
end

section
/-! PROOF of O27. -/
namespace Sys2Proof.Machine

/-- Settles O27: a TRAP that is taken leaves what every taken trap leaves, with the next slot in its record; the other clauses are
the branches of raising, delivering and ending. -/
theorem takingTraps : Obligations.TakingTraps := by
  unfold Obligations.TakingTraps
  refine ⟨fun s ctx f b hr hpass hb => ?taken, fun s ctx i => ?raised⟩
  case taken =>
    intro t hpend hn hh hf hpool area record
    obtain ⟨u, hu, ⟨hrec, hrest, hothers⟩, hblocks, hteam⟩ := State.trap_taken hr hpass hb hpend hn hh hf hpool
    have harea : u.physRead area 320 =
        trapRecord record s.time ++ toBytes 128 (record.lanes.getD 0).toNat ++ toBytes 128 t.exec.toNat := hrec
    have hlanes : (record.lanes.getD 0).toNat = 0 := by simp [record]
    rw [hlanes] at harea
    exact ⟨u, hu, hteam, harea, hrest, hothers, hblocks⟩
  case raised =>
    intro t
    refine ⟨fun hpend => if_neg (by simpa using hpend), fun hpend => if_pos (by rw [hpend]; rfl), fun hn => if_pos hn,
      State.deliver_of_no_handler, fun hc b hb hm => ⟨?_, ?_, State.endTeam_counts hc hb hm⟩, exec_trapDelivery⟩
    · rw [State.endTeam_team]
    · rw [State.endTeam_team]

end Sys2Proof.Machine
end

section
/-! SUPPORT. The return from a trap, and the wait that it resumes (spec/13_preemption.md R278; spec/18_ref_trap_vmul.md R406). -/
namespace Sys2Proof.Machine

section
variable {s : State} {ctx : Nat} {b : Block}

theorem State.setTeam_setTeam (s : State) (ctx : Nat) (t u : Team) : (s.setTeam ctx t).setTeam ctx u = s.setTeam ctx u := by
  simp only [State.setTeam, Tab.put_put]

/-- The team that leaves its handler, as the trap area holds its mask and its program counter (R278). -/
def State.returned (s : State) (ctx : Nat) (b : Block) : Team :=
  { s.team ctx with
    handler := false, fatalRun := false
    pc := BitVec.ofNat 64 (s.physWord (s.framePA (frameOf ctx) (trapArea (teamIx ctx)) + 16))
    fresh := true, entryTgt := false, suspWait := none, suspWord := 0, sched := .ready, rewait := false
    exec := BitVec.ofNat 1024 (ofBytes (s.physRead (s.framePA (frameOf ctx) (trapArea (teamIx ctx)) + 192) 128)) &&&
      lanesBelow b.width }

/-- The same team with the wait of the instruction at RESUME still to be resumed (R406). -/
def State.returnedToWait (s : State) (ctx : Nat) (b : Block) : Team :=
  { s.returned ctx b with rewait := true, suspWait := (s.team ctx).suspWait, suspWord := (s.team ctx).suspWord }

/-- What the return with a wait to resume leaves of the team, marker passed. -/
theorem State.returnedToWait_keeps (s : State) (ctx : Nat) (b : Block) (m : Bool) :
    let t := (s.returnedToWait ctx b).mark m
    t.rewait = true ∧ t.entryTgt = false ∧ t.lsq = (s.team ctx).lsq ∧ t.suspWait = (s.team ctx).suspWait ∧
      t.ldcnt = (s.team ctx).ldcnt ∧ t.stcnt = (s.team ctx).stcnt ∧ t.cpcnt = (s.team ctx).cpcnt := by
  dsimp only
  rw [Team.mark_eq]
  unfold State.returnedToWait State.returned
  exact ⟨rfl, rfl, rfl, rfl, rfl, rfl, rfl⟩

theorem State.leaveHandler_eq (hb : s.blockOf? ctx = some b) (hf : s.frameOk (frameOf ctx) = true) :
    s.leaveHandler ctx = s.setTeam ctx
      (if bitAt (s.physWord (s.framePA (frameOf ctx) (trapArea (teamIx ctx)))) 25 = true then s.returnedToWait ctx b
        else s.returned ctx b) := by
  have hwidth : s.widthOf ctx = b.width := by rw [State.widthOf, hb]; rfl
  unfold State.leaveHandler
  dsimp only
  rw [if_neg (by simp [hf]), hwidth]
  unfold State.returnedToWait State.returned
  cases bitAt (s.physWord (s.framePA (frameOf ctx) (trapArea (teamIx ctx)))) 25 <;> simp only [if_true, Bool.false_eq_true, if_false]

/-! ## The wait resumed (R406) -/

/-- A team whose wait is resumed, at the instruction of word `w`. -/
def Team.rewaits (t : Team) (c : WaitFor) (w : Word96) : Team :=
  { t with
    rewait := false, suspWait := none, suspWord := 0, sched := .waiting c, waitWord := w, fresh := false, fetchRep := false }

/-- The machine in which a team's wait is resumed. -/
def State.rewaiting (s : State) (ctx : Nat) (c : WaitFor) (w : Word96) : State :=
  (s.setTeam ctx { s.team ctx with rewait := false, suspWait := none, suspWord := 0, fresh := false, fetchRep := false }).waitAt ctx c w

theorem State.rewaiting_only (c : WaitFor) (w : Word96) : OnlyTeam s (s.rewaiting ctx c w) ctx :=
  (OnlyTeam.setTeam s ctx _).trans (OnlyTeam.setTeam _ ctx _)

theorem State.rewaiting_team (he : (s.team ctx).entryTgt = false) (c : WaitFor) (w : Word96) :
    (s.rewaiting ctx c w).team ctx = (s.team ctx).rewaits c w := by
  unfold State.rewaiting State.waitAt
  rw [State.team_setTeam, State.team_setTeam]
  unfold Team.rewaits
  rw [← he]

section
variable {w : Word96}

theorem State.resumeWait_gbar {h : XF} {g : Nat} (hd : decode w = .gbar h) (hg : (s.team ctx).suspWait = some g) :
    s.resumeWait ctx w = s.rewaiting ctx (.gbar g ((s.team ctx).lsq.all fun i => i.work != .gbar g)) w := by
  unfold State.resumeWait
  dsimp only
  rw [hd]
  dsimp only
  rw [hg]
  rfl

theorem State.resumeWait_waitcnt {h : MF} (hd : decode w = .waitcnt h)
    (hm : (s.team ctx).countersMet (waitBounds h.disp.toNat) = false) :
    s.resumeWait ctx w = s.rewaiting ctx (waitBounds h.disp.toNat) w := by
  unfold State.resumeWait
  dsimp only
  rw [hd]
  exact if_neg (ne_true_of_eq_false hm)

theorem State.resumeWait_evwait {h : YF} (hd : decode w = .evwait h) (hq : (s.cluster (s.colOfCtx ctx)).evq = []) :
    s.resumeWait ctx w = s.rewaiting ctx .events w := by
  unfold State.resumeWait
  dsimp only
  rw [hd]
  refine if_pos ?_
  change (s.cluster (s.colOfCtx ctx)).evq.isEmpty = true
  rw [hq]
  rfl
end

/-- Whether bounds are met is a matter of the three counters. -/
theorem Team.countersMet_congr {t u : Team} (hld : t.ldcnt = u.ldcnt) (hst : t.stcnt = u.stcnt) (hcp : t.cpcnt = u.cpcnt)
    (w : WaitFor) : t.countersMet w = u.countersMet w := by
  cases w with
  | counters => simp only [Team.countersMet, hld, hst, hcp]
  | bar | gbar | events | gangChange | fetchHold => rfl

theorem State.resumeNow_of_not_rewait (h : (s.team ctx).rewait = false) : s.resumeNow ctx = s :=
  if_neg fun hw => Bool.false_ne_true (h.symm.trans hw.1)

/-- Where the team may not issue or its line is not there, the wait is left for its next issue. -/
theorem State.resumeNow_later (h : s.canIssue ctx = false ∨ ∀ s' w x, s.fetch ctx ≠ .words s' w x) : s.resumeNow ctx = s := by
  unfold State.resumeNow
  split_ifs with hw
  · obtain hi | hf := h
    · exact absurd hw.2 (ne_true_of_eq_false hi)
    · split
      · next s' w x hwords => exact absurd hwords (hf s' w x)
      · rfl
  · rfl

theorem State.resumeNow_words {s' : State} {w : Word96} {x : Option Word96} (hr : (s.team ctx).rewait = true)
    (hi : s.canIssue ctx = true) (hf : s.fetch ctx = .words s' w x) : s.resumeNow ctx = s'.resumeWait ctx w := by
  unfold State.resumeNow
  rw [if_pos ⟨hr, hi⟩, hf]

/-! ## TRET (R406) -/

section
variable {f : YF} (hr : s.Runs ctx) (hp : s.Passes ctx (.tret f))
include hr hp

theorem State.tret_traps (hh : (s.team ctx).handler = false) : s.TrapsWith ctx (.tret f) Cause.badtret 0 := by
  refine State.trapsWith_of_body (i := .tret f) rfl hr hp (if_pos ?_)
  rw [hh]
  rfl

variable (hb : s.blockOf? ctx = some b) (hm : b.monitor = false) (hh : (s.team ctx).handler = true)
include hb hm hh

theorem State.tret_holds (hst : s.trapStores ctx = true) : s.Holds (.tret f) := by
  have hexec : exec (.tret f) s = execTret f s := rfl
  rw [State.Holds, hexec, execTret, State.atIssue_next _ hr hp, hb, Option.elim_some, hm, hh, hst]
  rfl

variable (hst : s.trapStores ctx = false) (hf : s.frameOk (frameOf ctx) = true)
include hst hf

/-- TRET in a handler whose stores to the trap area are performed: the team `t` that it returns as resumes a wait if it may at
once, and stands in `s'` as that leaves it. -/
theorem State.tret_stays {t : Team} {s' v : State}
    (ht : (if bitAt (s.physWord (s.framePA (frameOf ctx) (trapArea (teamIx ctx)))) 25 = true then s.returnedToWait ctx b
      else s.returned ctx b) = t)
    (hv : (s.setTeam ctx (t.mark f.sw)).resumeNow ctx = v) (ho : OnlyTeam s' v ctx) (hs : s'.blockOf? ctx = s.blockOf? ctx) :
    s.Stays ctx (.tret f) s' (v.team ctx) := by
  refine State.stays_of_body (i := .tret f) rfl hr hp ?_ ho hs
  dsimp only
  rw [hb, Option.elim_some, hm, hh, hst, State.leaveHandler_eq hb hf, ht, State.team_setTeam, State.setTeam_setTeam, hv]
  rfl

theorem State.tret_returns (hbit : bitAt (s.physWord (s.framePA (frameOf ctx) (trapArea (teamIx ctx)))) 25 = false) :
    s.Stays ctx (.tret f) s ((s.returned ctx b).mark f.sw) := by
  have hnow : (s.setTeam ctx ((s.returned ctx b).mark f.sw)).resumeNow ctx = s.setTeam ctx ((s.returned ctx b).mark f.sw) :=
    State.resumeNow_of_not_rewait (by rw [State.team_setTeam, Team.mark_eq]; rfl)
  have hstays := State.tret_stays hr hp hb hm hh hst hf (if_neg (ne_true_of_eq_false hbit)) hnow (OnlyTeam.setTeam s ctx _) rfl
  rwa [State.team_setTeam] at hstays

variable (hbit : bitAt (s.physWord (s.framePA (frameOf ctx) (trapArea (teamIx ctx)))) 25 = true)
include hbit

/-- With REWAIT set, a team that may not issue at once keeps the wait for its next issue. -/
theorem State.tret_returnsToWait
    (hlater : (s.setTeam ctx ((s.returnedToWait ctx b).mark f.sw)).canIssue ctx = false ∨
      ∀ s' w x, (s.setTeam ctx ((s.returnedToWait ctx b).mark f.sw)).fetch ctx ≠ .words s' w x) :
    s.Stays ctx (.tret f) s ((s.returnedToWait ctx b).mark f.sw) := by
  have hstays := State.tret_stays hr hp hb hm hh hst hf (if_pos hbit) (State.resumeNow_later hlater) (OnlyTeam.setTeam s ctx _) rfl
  rwa [State.team_setTeam] at hstays

section
variable {s' : State} {w : Word96} {x : Option Word96}
  (hi : (s.setTeam ctx ((s.returnedToWait ctx b).mark f.sw)).canIssue ctx = true)
  (hw : (s.setTeam ctx ((s.returnedToWait ctx b).mark f.sw)).fetch ctx = .words s' w x)
include hi hw

/-- With REWAIT set and the line at RESUME there, the team waits on as its resumed wait says. -/
theorem State.tret_rewaits {c : WaitFor}
    (hc : s'.team ctx = (s.returnedToWait ctx b).mark f.sw → s'.colOfCtx ctx = s.colOfCtx ctx → s'.clusters = s.clusters →
      s'.resumeWait ctx w = s'.rewaiting ctx c w) :
    s.Stays ctx (.tret f) s' (((s.returnedToWait ctx b).mark f.sw).rewaits c w) := by
  have ho : OnlyFetch (s.setTeam ctx ((s.returnedToWait ctx b).mark f.sw)) s' := by
    simpa only [hw] using State.fetch_only (s.setTeam ctx ((s.returnedToWait ctx b).mark f.sw)) ctx
  have hteam : s'.team ctx = (s.returnedToWait ctx b).mark f.sw := (ho.team ctx).trans (State.team_setTeam ..)
  obtain ⟨hrewait, hentry, -⟩ := s.returnedToWait_keeps ctx b f.sw
  have hnow := (State.resumeNow_words (by rw [State.team_setTeam]; exact hrewait) hi hw).trans
    (hc hteam (congrArg colOf (ho.coreOf ctx)) (by rw [ho.rest]; rfl))
  have hstays := State.tret_stays hr hp hb hm hh hst hf (if_pos hbit) hnow (State.rewaiting_only c w) (ho.blockOf ctx)
  rwa [State.rewaiting_team (by rw [hteam]; exact hentry), hteam] at hstays
end
end
end
end Sys2Proof.Machine
end

section
/-! PROOF of O28. -/
namespace Sys2Proof.Machine

/-- Settles O28: the team that the trap area gives back, and with REWAIT what resuming its wait comes to in the machine that the
fetch of its line leaves. -/
theorem trapReturn : Obligations.TrapReturn := by
  unfold Obligations.TrapReturn
  intro s ctx f b hr hp hb hm
  refine ⟨State.tret_traps hr hp, State.tret_holds hr hp hb hm, fun hh hst hf =>
    ⟨State.tret_returns hr hp hb hm hh hst hf, fun hbit => ⟨State.tret_returnsToWait hr hp hb hm hh hst hf hbit,
      fun hi s' w x hw => ?rewaits⟩⟩⟩
  case rewaits =>
    obtain ⟨-, -, hlsq, hsusp, hld, hst', hcp⟩ := s.returnedToWait_keeps ctx b f.sw
    refine ⟨fun g h hd hg => ?_, fun h hd hcount => ?_, fun h hd hq => ?_⟩ <;>
      refine State.tret_rewaits hr hp hb hm hh hst hf hbit hi hw fun hteam hcol hclusters => ?_
    · rw [← hteam] at hlsq hsusp
      rw [State.resumeWait_gbar hd (hsusp.trans hg), hlsq]
    · rw [← hteam] at hld hst' hcp
      exact State.resumeWait_waitcnt hd ((Team.countersMet_congr hld hst' hcp _).trans hcount)
    · refine State.resumeWait_evwait hd ?_
      rw [hcol, State.cluster, hclusters]
      exact hq

end Sys2Proof.Machine
end

section
/-! SUPPORT. The debug monitor's start and end, and the commands on a cluster's debug registers (spec/13_preemption.md R296). -/
namespace Sys2Proof.Machine

section
variable {s : State} {col : Nat}

/-! ## Commands of a cluster (R296; spec/15_platform.md R328) -/

theorem State.onDebug_here {f : State → State} (hc : col < 96) (hup : s.up = true) : s.onDebug col f = f s :=
  (if_neg (Nat.not_le.2 hc)).trans (State.onBar_up hup)

theorem State.onDebug_elsewhere {f : State → State} (h : ¬ (col < 96 ∧ s.up = true)) : s.onDebug col f = s := by
  unfold State.onDebug
  split_ifs with hc
  · rfl
  · exact State.onBar_down (Bool.eq_false_iff.2 fun hup => h ⟨Nat.lt_of_not_le hc, hup⟩)

/-- A handle names a block only while debugging is on. -/
theorem State.en_of_dbgTarget {h : Nat} {x : Nat × Block × Nat} (ht : s.dbgTarget col h = some x) :
    (s.cluster col).dbg.en = true := by
  unfold State.dbgTarget at ht
  by_contra hen
  rw [if_pos (by simpa using hen)] at ht
  cases ht

section
variable {h g ix : Nat} {b : Block}

theorem exec_dbgrunStop (hc : col < 96) (hup : s.up = true) (ht : s.dbgTarget col h = some (g, b, ix)) :
    exec (.dbgrunStop col h) s = .next (s.requestFreeze g .debug) := by
  change execDbgrunStop col h s = _
  rw [execDbgrunStop, State.onDebug_here hc hup, ht]
  rfl

theorem exec_dbgrunResume (hc : col < 96) (hup : s.up = true) (ht : s.dbgTarget col h = some (g, b, ix)) :
    exec (.dbgrunResume col h) s = .next (if s.dbgStopped g b = true then s.due g else s) := by
  change execDbgrunResume col h s = _
  rw [execDbgrunResume, State.onDebug_here hc hup, ht]
  rfl

theorem exec_dbgrunStep (hc : col < 96) (hup : s.up = true) (ht : s.dbgTarget col h = some (g, b, ix)) :
    exec (.dbgrunStep col h) s = .next
      (if s.dbgStopped g b ∧ !b.heldAt ∧ (s.team (g * 32 + ix)).sched = .frozen ∧ !(s.team (g * 32 + ix)).gone then
        (s.setBlock g { b with stepping := some ix, stepped := false }).due g
      else s) := by
  change execDbgrunStep col h s = _
  rw [execDbgrunStep, State.onDebug_here hc hup, ht]
end

/-- A handle that names no block leaves the three commands nothing to do. -/
theorem exec_dbgrun_none {h : Nat} (ht : s.dbgTarget col h = none) :
    ∀ i ∈ [Instr.dbgrunStop col h, .dbgrunStep col h, .dbgrunResume col h], exec i s = .next s := by
  have hid {f : State → State} (hf : f s = s) : s.onDebug col f = s := by
    unfold State.onDebug State.onBar
    split_ifs
    · rfl
    · exact hf
    · rfl
  simp only [List.forall_mem_cons, List.not_mem_nil, false_imp_iff, implies_true, and_true]
  refine ⟨?_, ?_, ?_⟩
  · exact congrArg _ (hid (by rw [ht]; rfl))
  · exact congrArg _ (hid (by rw [ht]))
  · exact congrArg _ (hid (by rw [ht]; rfl))

/-! ## The monitor (R296) -/

/-- The wake of a gated cluster leaves the debug registers as they are. -/
theorem State.wake_dbg (s : State) (core k : Nat) : ((s.wake core).cluster k).dbg = (s.cluster k).dbg := by
  unfold State.wake
  dsimp only
  split_ifs
  · by_cases hk : k = colOf core
    · subst hk; rw [State.cluster_setCluster]
    · rw [State.cluster_setCluster_other _ _ hk]
  · rfl

/-- A monitor's block has no frame in memory: its start places its teams and writes no header. -/
theorem State.startBlock_monitor {b : Block} (hm : b.monitor = true) (f : Nat) (entry : Word64) :
    s.startBlock f b entry = (s.withTeams f b entry).wake b.core := by
  have hblock : (s.withTeams f b entry).block? f = some b := by
    unfold State.withTeams
    rw [State.setTeams_rest]
    exact State.block_setBlock s f b
  have hheader : (s.withTeams f b entry).saveHeader f = s.withTeams f b entry := by
    unfold State.saveHeader
    rw [hblock]
    exact if_pos (.inl hm)
  have hstart : s.startBlock f b entry = ((s.withTeams f b entry).saveHeader f).wake b.core :=
    congrArg (State.wake · b.core) (if_pos (.inl hm))
  rw [hstart, hheader]

theorem State.startMonitor_waits (hfit : s.monitorFits col = false) : s.startMonitor col = s :=
  if_neg fun h => Bool.false_ne_true (hfit.symm.trans h.2.2)

/-- The monitor in its slot: its block, its team in handler mode at DBGENTRY, and the registers that show it started. -/
theorem State.startMonitor_starts (hen : (s.cluster col).dbg.en = true) (hst : (s.cluster col).dbg.started = false)
    (hfit : s.monitorFits col = true) :
    (s.startMonitor col).block? (monitorFrame col) = some (monitorBlock col (s.cluster col).dbg.asid) ∧
      (s.startMonitor col).team (monitorFrame col * 32) =
        { Team.start (s.cluster col).dbg.entry 16 with handler := true } ∧
      ((s.startMonitor col).cluster col).dbg = { (s.cluster col).dbg with started := true } := by
  have hgo : (s.cluster col).dbg.en ∧ !(s.cluster col).dbg.started ∧ s.monitorFits col := by simp [hen, hst, hfit]
  have hctx : monitorFrame col * 32 ∈ ctxsOf (monitorFrame col) (monitorBlock col (s.cluster col).dbg.asid) :=
    List.mem_singleton.2 rfl
  unfold State.startMonitor
  dsimp only
  rw [if_pos hgo, State.startBlock_monitor rfl]
  refine ⟨?_, ?_, ?_⟩
  · rw [State.setTeam_blockQ, State.wake_rest]
    unfold State.withTeams
    rw [State.setTeams_rest]
    exact State.block_setBlock ..
  · rw [State.team_setTeam, State.wake_rest]
    exact congrArg (fun t : Team => { t with handler := true }) ((State.setTeams_team ..).trans (if_pos hctx))
  · rw [State.setTeam_cluster, State.wake_dbg]
    unfold State.withTeams
    rw [State.setTeams_rest]
    exact congrArg Cluster.dbg (State.cluster_setCluster ..)

/-- The monitor's team has ended, if it was there, and the registers show it gone. -/
theorem State.stopMonitor_stops :
    ((s.stopMonitor col).cluster col).dbg = { (s.cluster col).dbg with started := false } ∧
      ((Tab.get? s.teams (monitorFrame col * 32)).isSome = true →
        ((s.stopMonitor col).team (monitorFrame col * 32)).sched = .exited) := by
  have hdbg : ((s.setDbg col fun d => { d with started := false }).cluster col).dbg = { (s.cluster col).dbg with started := false } :=
    congrArg Cluster.dbg (State.cluster_setCluster ..)
  unfold State.stopMonitor
  dsimp only
  split_ifs with h
  · refine ⟨hdbg, fun hsome => ?_⟩
    obtain hnone | hexit := h
    · exact absurd hsome (Option.isSome_eq_false_iff.2 hnone ▸ Bool.false_ne_true)
    · exact hexit
  · refine ⟨?_, fun _ => ?_⟩
    · rw [(State.endTeam_rest ..).1]
      exact hdbg
    · rw [State.endTeam_team]

end
end Sys2Proof.Machine
end

section
/-! PROOF of O57. -/
namespace Sys2Proof.Machine

/-- Settles O57: each command is what it does on a cluster that is there, and the monitor's start and end are read off the state
that they build. -/
theorem debugCommands : Obligations.DebugCommands := by
  unfold Obligations.DebugCommands
  intro s col c f here
  refine ⟨fun hno h v => ?elsewhere, fun v hh hv hst => ?starts, fun v hh hv => ?stops, fun h => exec_dbgrun_none,
    fun h g b ix hh ht => ?target, fun v hh => ?response⟩
  case elsewhere =>
    simp only [List.forall_mem_cons, List.not_mem_nil, false_imp_iff, implies_true, and_true]
    have hid (g : State → State) : Host.Outcome.next (s.onDebug col g) = (.next s : Host.Outcome State Fault Refusal) :=
      congrArg _ (State.onDebug_elsewhere hno)
    exact ⟨hid _, hid _, hid _, hid _, hid _⟩
  case starts =>
    intro s1
    have hexec : exec (.dbgEnable col v) s = .next (s.writeDbgEn col v) := congrArg _ (State.onDebug_here hh.1 hh.2)
    have hset : s.writeDbgEn col v = s1.startMonitor col := by
      unfold State.writeDbgEn
      rw [if_pos hv, hv]
      rfl
    have hdbg : (s1.cluster col).dbg = { c.dbg with en := true, asid := bitsAt v.toNat 0 16 } :=
      congrArg Cluster.dbg (State.cluster_setCluster ..)
    rw [hset] at hexec
    refine ⟨fun hfit => by rw [hexec, State.startMonitor_waits hfit], fun hfit => ?_⟩
    obtain ⟨hblock, hteam, hregs⟩ := State.startMonitor_starts (by rw [hdbg]) (by rw [hdbg]; exact hst) hfit
    rw [hdbg] at hblock hteam hregs
    exact ⟨_, hexec, hblock, by rw [hteam], by rw [hteam]; simp only [Team.start], by rw [hteam]; simp only [Team.start],
      congrArg Dbg.en hregs, congrArg Dbg.started hregs⟩
  case stops =>
    have hexec : exec (.dbgEnable col v) s = .next (s.writeDbgEn col v) := congrArg _ (State.onDebug_here hh.1 hh.2)
    unfold State.writeDbgEn at hexec
    rw [if_neg (ne_true_of_eq_false hv), hv] at hexec
    obtain ⟨hregs, hteam⟩ := State.stopMonitor_stops (col := col)
      (s := s.setDbg col fun d => { d with en := false, asid := bitsAt v.toNat 0 16 })
    refine ⟨_, hexec, ?_, congrArg Dbg.started hregs, hteam⟩
    rw [hregs]
    exact congrArg (fun x : Cluster => x.dbg.en) (State.cluster_setCluster ..)
  case target =>
    have hstep := exec_dbgrunStep hh.1 hh.2 ht
    have hresume := exec_dbgrunResume hh.1 hh.2 ht
    refine ⟨State.en_of_dbgTarget ht, exec_dbgrunStop hh.1 hh.2 ht, fun hs => ?_, fun hs hheld hfrozen hgone => ?_, fun hs => ?_⟩
    · rw [hresume, if_pos hs]
    · rw [hstep, if_pos (by simp [hs, hheld, hfrozen, hgone])]
    · rw [hresume, hstep]
      simp [hs]
  case response => exact congrArg _ (State.onDebug_here hh.1 hh.2)

end Sys2Proof.Machine
end

section
/-! SUPPORT. The host's freeze, resume and termination of a block, and the stops of its teams (spec/13_preemption.md R286 to R289,
R292, R445). -/
namespace Sys2Proof.Machine

section
variable {s : State} {f : Nat} {b : Block}

/-- A fold whose steps change nothing. -/
theorem foldl_unchanged {α β : Type} {g : β → α → β} {x : β} {l : List α} (h : ∀ a ∈ l, g x a = x) : l.foldl g x = x := by
  induction l with
  | nil => rfl
  | cons a l ih =>
    rw [List.foldl_cons, h a List.mem_cons_self]
    exact ih fun c hc => h c (List.mem_cons_of_mem a hc)

/-! ## The host's freeze (R286) -/

/-- A block none of whose teams has stopped does not finish its freeze. -/
theorem State.finishFreeze_running (hb : s.block? f = some b) (ht : ∀ c ∈ ctxsOf f b, (s.team c).sched ≠ .frozen) :
    s.finishFreeze f = s := by
  unfold State.finishFreeze
  rw [hb]
  refine if_neg fun h => ?_
  obtain ⟨x, hx, hfrozen⟩ := List.any_eq_true.1 h.2.2
  obtain ⟨c, hc, rfl⟩ := List.mem_map.1 hx
  exact ht c hc (eq_of_beq hfrozen)

/-- A host freeze stops no team before its deadline (R286). -/
theorem Block.takes_host (hf : b.freeze = some .host) (hforced : b.forced = false) (w : Sched) : b.takes false w = false := by
  simp [Block.takes, Block.stopsAt, hf, hforced]

/-- The block as the host has asked it to freeze: its teams are to stop, and its deadline runs. -/
def Block.freezeAsked (b : Block) (time : Nat) : Block :=
  { b with place := .freezing, freeze := some .host, freezeAt := time, deadlineLeft := b.deadline, forced := false, hit := false }

theorem State.requestFreeze_host (hb : s.block? f = some b) (hp : b.place = .running)
    (ht : ∀ c ∈ ctxsOf f b, (s.team c).sched ≠ .frozen) :
    (s.requestFreeze f .host).teams = s.teams ∧ (s.requestFreeze f .host).block? f = some (b.freezeAsked s.time) := by
  have hcopies := OnlyCopies.saveHeader (s.setBlock f (b.freezeAsked s.time)) f
  have hblock : ((s.setBlock f (b.freezeAsked s.time)).saveHeader f).block? f = some (b.freezeAsked s.time) :=
    (hcopies.blockQ f).trans (State.block_setBlock ..)
  have hstop : ((s.setBlock f (b.freezeAsked s.time)).saveHeader f).stopDue f = (s.setBlock f (b.freezeAsked s.time)).saveHeader f := by
    unfold State.stopDue
    rw [hblock]
    dsimp only
    rw [if_neg (show ¬ (b.freezeAsked s.time).place ≠ .freezing from not_not.2 rfl), foldl_unchanged fun c _ =>
      if_neg (ne_true_of_eq_false (Block.takes_host (b := b.freezeAsked s.time) rfl rfl _))]
    refine State.finishFreeze_running hblock fun c hc => ?_
    rw [hcopies.team]
    exact ht c hc
  have hreq : s.requestFreeze f .host = (s.setBlock f (b.freezeAsked s.time)).saveHeader f := by
    unfold State.requestFreeze
    rw [hb]
    dsimp only
    rw [hp]
    exact hstop
  rw [hreq]
  exact ⟨hcopies.teams, hblock⟩

/-- The host's freeze of a block, and of a queue that has this block alone (R286): O56's second clause. -/
theorem exec_hostFreeze (hb : s.block? f = some b) {i : Instr}
    (hi : i = .frzcmdFreezeBlock f ∨ ∃ q, i = .frzcmdFreezeQueue q ∧ s.blocksOf q = [f]) (hup : s.up = true)
    (hm : b.monitor = false) : exec i s = .next (s.requestFreeze f .host) := by
  have hfreeze : s.hostFreeze f = s.requestFreeze f .host := by
    unfold State.hostFreeze
    rw [hb]
    exact if_neg (ne_true_of_eq_false hm)
  obtain rfl | ⟨q, rfl, hq⟩ := hi
  · exact congrArg _ ((State.onBar_up hup).trans hfreeze)
  · refine congrArg _ ((State.onBar_up hup).trans ?_)
    rw [hq]
    exact hfreeze

/-! ## A termination leaves the other teams, and no resume of its block (R289) -/

/-- A fold whose steps each change one team leaves those that it does not name. -/
theorem State.teams_foldl_others {g : State → Nat → State}
    (hg : ∀ u a x, x ≠ a → Tab.get? (g u a).teams x = Tab.get? u.teams x) {l : List Nat} {x : Nat} (hx : x ∉ l) (s : State) :
    Tab.get? (l.foldl g s).teams x = Tab.get? s.teams x := by
  induction l generalizing s with
  | nil => rfl
  | cons a l ih =>
    rw [List.foldl_cons, ih (fun h => hx (List.mem_cons_of_mem a h))]
    exact hg s a x fun h => hx (h ▸ List.mem_cons_self)

theorem State.endUnlessGone_others (c : Cause) (u : State) (a x : Nat) (hx : x ≠ a) :
    Tab.get? (u.endUnlessGone c a).teams x = Tab.get? u.teams x := by
  unfold State.endUnlessGone
  split_ifs
  · exact Tab.get?_put_other _ _ _ hx
  · exact (u.endTeam_rest a c 0).2 x hx

theorem State.discards_dies (l : List Nat) (s : State) : (l.foldl (fun s ctx => s.discard ctx) s).dies = s.dies := by
  induction l generalizing s with
  | nil => rfl
  | cons a l ih => rw [List.foldl_cons, ih]; rfl

/-- The host's termination of a block: every team of it has ended, with HOSTKILL where it had not before; no other team changes, and
no resume of the block is due (R289): O56's clause. -/
theorem State.terminate_ends (hb : s.block? f = some b) (c : Cause) :
    (∀ x ∈ ctxsOf f b, ((s.terminate f c).team x).sched = .exited ∧
      ((s.team x).gone = false → ((s.terminate f c).team x).endCause = c)) ∧
    (∀ x, x ∉ ctxsOf f b → Tab.get? (s.terminate f c).teams x = Tab.get? s.teams x) ∧
    ∀ d, f ∉ ((s.terminate f c).die d).resumeq := by
  have hexited {x : Nat} (hx : x ∈ ctxsOf f b) := State.terminate_exited hb c hx
  refine ⟨fun x hx => ⟨hexited hx, fun hg => ((s.terminate_endsOnly c f).teams x).ended hg (Team.gone_of_exited (hexited hx))⟩,
    fun x hx => ?_, fun d => ?_⟩ <;>
    unfold State.terminate <;> rw [hb] <;> dsimp only <;> rw [State.terminateTeams_eq hb]
  · rw [State.teams_foldl_others (fun u a x hxa => Tab.get?_put_other _ _ _ hxa) fun h => hx (List.mem_of_mem_filter h)]
    exact State.teams_foldl_others (State.endUnlessGone_others c) hx s
  · unfold State.die Tab.getD
    rw [State.discards_dies, Tab.get?_mapVal]
    cases Tab.get? ((ctxsOf f b).foldl (State.endUnlessGone c) s).dies d <;> simp

/-! ## Migrations withdrawn (R310) -/

/-- MIGWAIT's end before any team has stopped: the block runs on, and its column steps down (R310, R311): O56's clause. -/
theorem exec_migwaitExpiry (hb : s.block? f = some b) (hp : b.place = .freezing) (hf : b.freeze = some .migration)
    (ht : b.freezeAt + s.power.migNs ≤ s.time)
    (hteams : ∀ c ∈ ctxsOf f b, (s.team c).sched ≠ .frozen ∧ (s.team c).atBarrier = false) :
    ∃ u, exec (.migwaitExpiry f) s = .next u ∧ u.block? f = some { b with place := .running, freeze := none, migTarget := none } ∧
      u.teams = s.teams ∧ (u.cluster (colOf b.core)).noTarget = true := by
  have hcopies := OnlyCopies.saveState (s.setBlock f { b with place := .running, freeze := none, migTarget := none }) f 1
  have hexec : exec (.migwaitExpiry f) s = .next ((((s.setBlock f
      { b with place := .running, freeze := none, migTarget := none }).saveState f 1).withdrawn (colOf b.core)).resumeTeams f b) := by
    change execMigwaitExpiry f s = _
    unfold execMigwaitExpiry
    rw [hb]
    exact if_pos ⟨hp, hf, ht⟩
  generalize (s.setBlock f { b with place := .running, freeze := none, migTarget := none }).saveState f 1 = v at hcopies hexec
  have hteam (c : Nat) : (v.withdrawn (colOf b.core)).team c = s.team c := hcopies.team c
  have hresume : (v.withdrawn (colOf b.core)).resumeTeams f b = v.withdrawn (colOf b.core) := by
    unfold State.resumeTeams
    dsimp only
    rw [foldl_unchanged (g := fun (s : State) c => if b.stepping.elim true (· == teamIx c) then s.resumeTeam c else s) fun c hc => ?_,
      foldl_unchanged fun c hc => ?_]
    · exact if_neg fun h => Bool.false_ne_true ((hteams c hc).2.symm.trans (by rw [← hteam]; exact h.1))
    · split_ifs
      · exact if_pos (by rw [hteam]; exact (hteams c hc).1)
      · rfl
  rw [hresume] at hexec
  refine ⟨_, hexec, (hcopies.blockQ f).trans (State.block_setBlock ..), hcopies.teams, ?_⟩
  unfold State.withdrawn
  rw [State.cluster_setCluster]

/-! ## The stop of a team (R287) -/

theorem State.passHold_teams (d c k : Nat) (p : Fill → Bool) : (s.passHold d c k p).teams = s.teams := by
  unfold State.passHold State.releaseHold
  dsimp only
  split
  · rfl
  · split
    · rfl
    · split
      · rfl
      · split_ifs <;> rfl

theorem State.releaseHolds_teams (ctx : Nat) : (s.releaseHolds ctx).teams = s.teams := by
  unfold State.releaseHolds
  dsimp only
  generalize (s.core (s.coreOf ctx)).l1.filter _ = l
  generalize s.coreOf ctx = k
  induction l generalizing s with
  | nil => rfl
  | cons e l ih => rw [List.foldl_cons, ih, State.passHold_teams]

/-- The work that the engines give up goes to the team's in-flight record. -/
theorem State.holdEngines_teams (s : State) (ctx : Nat) :
    ∃ inflight, (s.holdEngines ctx).teams = (s.setTeam ctx { s.team ctx with inflight }).teams := ⟨_, rfl⟩

/-- A v-register of a team whose YIELD has named the registers that it keeps (R286). -/
theorem Team.keepLive_vreg (t : Team) {n l : Nat} (hl : l < 1024) :
    t.keepLive.vreg n l = if n < t.live ∨ 768 ≤ t.live then t.vreg n l else 0 := by
  unfold Team.keepLive
  by_cases hlive : t.live < 768
  · rw [if_pos hlive]
    unfold Team.vreg Tab.getD
    dsimp only
    rw [Tab.get?_filter t.v (fun k => decide (k / 1024 < t.live))]
    by_cases hn : n < t.live
    · rw [if_pos (by rw [decide_eq_true_eq]; omega), if_pos (.inl hn)]
    · rw [if_neg (by rw [decide_eq_true_eq]; omega), if_neg (by omega)]
      rfl
  · rw [if_neg hlive, if_pos (.inr (Nat.not_lt.1 hlive))]

theorem Team.flush_idle {t : Team} (hp : t.pend = []) : t.flush = t.keepLive := by
  unfold Team.flush Team.keepLive
  simp only [hp, List.filter_nil, List.foldl_nil]
  split_ifs <;> rw [← hp]

/-- A team that stops with no result outstanding keeps every register, but for what its YIELD gave up; what it has in flight is
kept in its record (R287): O56's clause reads each register off this. -/
theorem State.capture_team {ctx : Nat} (saved : Sched) (hp : (s.team ctx).pend = []) :
    ∃ lsq inflight, (s.capture ctx saved).team ctx =
      { s.team ctx with v := (s.team ctx).keepLive.v, saved, sched := .frozen, lsq, fhold := [], inflight } := by
  unfold State.capture
  dsimp only
  rw [State.team_setTeam]
  have hteam : ∃ inflight, (((s.detach ctx).holdEngines ctx).releaseHolds ctx).team ctx = { s.team ctx with inflight } := by
    obtain ⟨inflight, hengines⟩ := (s.detach ctx).holdEngines_teams ctx
    refine ⟨inflight, ?_⟩
    rw [State.team, State.releaseHolds_teams, hengines]
    exact State.team_setTeam (s.detach ctx) ctx _
  obtain ⟨inflight, hteam⟩ := hteam
  rw [hteam]
  have hlive : ({ s.team ctx with inflight } : Team).keepLive = { s.team ctx with inflight, v := (s.team ctx).keepLive.v } := by
    unfold Team.keepLive
    split_ifs <;> rfl
  rw [Team.flush_idle (t := { s.team ctx with inflight }) hp, hlive]
  exact ⟨_, _, rfl⟩

end
end Sys2Proof.Machine
end

section
/-! SUPPORT. A frozen block restored: its teams as the frame holds them, going on where they stood (spec/13_preemption.md R292). -/
namespace Sys2Proof.Machine

section
variable {s : State} {f : Nat} {b : Block}

/-! ## A team goes on (R292) -/

theorem Team.dropDone_eq (t : Team) : t.dropDone = { t with
    inflight := t.dropDone.inflight, ldcnt := t.dropDone.ldcnt, stcnt := t.dropDone.stcnt, cpcnt := t.dropDone.cpcnt
    fhold := t.dropDone.fhold } := by
  unfold Team.dropDone
  generalize t.inflight.filter _ = l
  induction l generalizing t with
  | nil => rfl
  | cons e l ih =>
    rw [List.foldl_cons, ih]
    rfl

/-- How a team stands that stops at an instruction boundary or within a GBAR. -/
def Team.StopsPlain (t : Team) : Prop := t.saved = .ready ∨ ∃ g acted, t.saved = .waiting (.gbar g acted)

/-- The team that goes on is the one that stopped, with its entries and queue made ready for their replay. -/
def Team.GoesOnAs (t u : Team) : Prop :=
  u = { t with
    sched := t.saved, saved := u.saved, live := u.live, fresh := u.fresh, resumeHold := u.resumeHold, inflight := u.inflight
    lsq := u.lsq, ldcnt := u.ldcnt, stcnt := u.stcnt, cpcnt := u.cpcnt, fhold := u.fhold }

/-- Of blocks, power and teams, nothing differs but some teams. -/
structure State.OnlyTeams (s u : State) (ctxs : List Nat) : Prop where
  blocks : u.blocks = s.blocks
  power : u.power = s.power
  others : ∀ c, c ∉ ctxs → u.team c = s.team c

theorem Team.goesOn_plain {t : Team} (h : t.StopsPlain) : t.goesOn = t.saved ∧ t.saved ≠ .parked := by
  unfold Team.goesOn
  obtain h | ⟨g, acted, h⟩ := h <;> rw [h] <;> exact ⟨rfl, nofun⟩

theorem Team.settle_of_not_parked {t : Team} (h : t.sched ≠ .parked) : t.settle = t := if_neg fun hp => h hp.1

/-- A team that is ready, or waits in a GBAR, has no wait that is met already. -/
theorem State.recheck_plain {ctx : Nat} (h : (s.team ctx).sched = .ready ∨ ∃ g acted, (s.team ctx).sched = .waiting (.gbar g acted)) :
    s.recheck ctx = s := by
  unfold State.recheck State.wakeCounters
  dsimp only
  obtain h | ⟨g, acted, h⟩ := h <;> simp only [h, Team.countersMet, Bool.false_eq_true, if_false]

/-- A stopped team is made ready to go on, as `u`, and its wait is then examined. -/
theorem State.resumeTeam_eq {ctx : Nat} (hs : (s.team ctx).sched = .frozen) :
    ∃ w u, s.resumeTeam ctx = w.recheck ctx ∧ s.OnlyTeams w [ctx] ∧ w.team ctx = Team.settle u ∧
      u = { s.team ctx with
        sched := (s.team ctx).dropDone.goesOn, saved := u.saved, live := u.live, fresh := u.fresh, resumeHold := u.resumeHold
        inflight := u.inflight, lsq := u.lsq, ldcnt := u.ldcnt, stcnt := u.stcnt, cpcnt := u.cpcnt, fhold := u.fhold } := by
  unfold State.resumeTeam
  dsimp only
  rw [if_neg (not_not.2 hs)]
  refine ⟨_, _, rfl, ⟨rfl, rfl, fun c hc => State.team_setTeam_other s _ fun h => hc (h ▸ List.mem_singleton_self c)⟩,
    State.team_setTeam s ctx _, ?_⟩
  rw [Team.dropDone_eq]

theorem State.resumeTeam_goesOn {ctx : Nat} (hs : (s.team ctx).sched = .frozen) (hp : (s.team ctx).StopsPlain) :
    s.OnlyTeams (s.resumeTeam ctx) [ctx] ∧ (s.team ctx).GoesOnAs ((s.resumeTeam ctx).team ctx) := by
  obtain ⟨hgoes, hpark⟩ := Team.goesOn_plain hp
  obtain ⟨w, u, hresume, honly, hteam, hu⟩ := State.resumeTeam_eq hs
  have hdone : (s.team ctx).dropDone.goesOn = (s.team ctx).saved := by
    rw [Team.dropDone_eq]
    exact hgoes
  rw [hdone] at hu
  have hsched : u.sched = (s.team ctx).saved := by rw [hu]
  rw [Team.settle_of_not_parked (by rwa [hsched])] at hteam
  rw [hresume, State.recheck_plain (by rw [hteam, hsched]; exact hp), hteam]
  exact ⟨honly, hu⟩

/-- Stopped teams go on one after the other, each as if alone. -/
theorem State.resumeTeam_foldl {l : List Nat} (hn : l.Nodup)
    (hp : ∀ c ∈ l, (s.team c).sched = .frozen → (s.team c).StopsPlain) :
    s.OnlyTeams (l.foldl State.resumeTeam s) l ∧ ∀ c ∈ l,
      ((s.team c).sched = .frozen → (s.team c).GoesOnAs ((l.foldl State.resumeTeam s).team c)) ∧
      ((s.team c).sched ≠ .frozen → (l.foldl State.resumeTeam s).team c = s.team c) := by
  induction l generalizing s with
  | nil => exact ⟨⟨rfl, rfl, fun _ _ => rfl⟩, nofun⟩
  | cons a l ih =>
    obtain ⟨ha, hn⟩ := List.nodup_cons.1 hn
    have hfirst : s.OnlyTeams (s.resumeTeam a) [a] ∧
        ((s.team a).sched = .frozen → (s.team a).GoesOnAs ((s.resumeTeam a).team a)) ∧
        ((s.team a).sched ≠ .frozen → (s.resumeTeam a).team a = s.team a) := by
      by_cases hs : (s.team a).sched = .frozen
      · obtain ⟨honly, hgoes⟩ := State.resumeTeam_goesOn hs (hp a List.mem_cons_self hs)
        exact ⟨honly, fun _ => hgoes, fun h => absurd hs h⟩
      · have hskip : s.resumeTeam a = s := if_pos hs
        rw [hskip]
        exact ⟨⟨rfl, rfl, fun _ _ => rfl⟩, fun h => absurd h hs, fun _ => rfl⟩
    obtain ⟨hfirst, hteam⟩ := hfirst
    have hsame (c : Nat) (hc : c ∈ l) : (s.resumeTeam a).team c = s.team c :=
      hfirst.others c (by rw [List.mem_singleton]; rintro rfl; exact ha hc)
    obtain ⟨hrest, hteams⟩ := ih (s := s.resumeTeam a) hn fun c hc => by
      rw [hsame c hc]
      exact hp c (List.mem_cons_of_mem a hc)
    rw [List.foldl_cons]
    refine ⟨⟨hrest.blocks.trans hfirst.blocks, hrest.power.trans hfirst.power, fun c hc => ?_⟩, fun c hc => ?_⟩
    · obtain ⟨hca, hcl⟩ := not_or.1 (mt List.mem_cons.2 hc)
      exact (hrest.others c hcl).trans (hfirst.others c (by simpa using hca))
    · obtain rfl | hc := List.mem_cons.1 hc
      · rwa [hrest.others c ha]
      · have := hteams c hc
        rwa [hsame c hc] at this

theorem ctxsOf_nodup (f : Nat) (b : Block) : (ctxsOf f b).Nodup :=
  List.nodup_range.map fun _ _ h => Nat.add_left_cancel h

/-- The teams of a block go on where they stood; no team has a barrier boundary before it. -/
theorem State.resumeTeams_goOn (hstep : b.stepping = none) (hp : ∀ c ∈ ctxsOf f b, (s.team c).sched = .frozen → (s.team c).StopsPlain)
    (hbar : ∀ c ∈ ctxsOf f b, (s.team c).atBarrier = false) :
    s.OnlyTeams (s.resumeTeams f b) (ctxsOf f b) ∧ ∀ c ∈ ctxsOf f b,
      ((s.team c).sched = .frozen → (s.team c).GoesOnAs ((s.resumeTeams f b).team c)) ∧
      ((s.team c).sched ≠ .frozen → (s.resumeTeams f b).team c = s.team c) := by
  obtain ⟨honly, hteams⟩ := State.resumeTeam_foldl (ctxsOf_nodup f b) hp
  have hresume : s.resumeTeams f b = (ctxsOf f b).foldl State.resumeTeam s := by
    unfold State.resumeTeams
    simp only [hstep, Option.elim_none, if_true]
    refine foldl_unchanged fun c hc => if_neg fun h => Bool.false_ne_true (Eq.trans ?_ h.1)
    obtain ⟨hgoes, hstays⟩ := hteams c hc
    rw [← hbar c hc]
    by_cases hs : (s.team c).sched = .frozen
    · exact (congrArg Team.atBarrier (hgoes hs)).symm
    · exact (congrArg Team.atBarrier (hstays hs)).symm
  rw [hresume]
  exact ⟨honly, hteams⟩

/-! ## The frame read back (R292) -/

/-- What a frame gives is a matter of the lines of memory alone. -/
theorem State.loadTeam_congr {u : State} (hl : ∀ pl, u.lineNow pl = s.lineNow pl) (hpool : u.pool = s.pool) (f : Nat) (b : Block)
    (ix : Nat) (t : Team) : u.loadTeam f b ix t = s.loadTeam f b ix t := by
  have hframe (off n : Nat) : u.getFrame f off n = s.getFrame f off n := by
    unfold State.getFrame State.framePA
    rw [hpool]
    exact State.physRead_congr hl _ _
  unfold State.loadTeam
  simp only [hframe]

/-- The team that a restore takes from the frame: an entry slot that it had not issued from is still checked if its PC stands (log
entry 108). -/
def State.reloaded (s : State) (f : Nat) (b : Block) (ix : Nat) (t : Team) : Team :=
  { s.loadTeam f b ix t with entryTgt := t.entryTgt && (s.loadTeam f b ix t).pc == t.pc }

/-- A restore's own step for each team of the block: one that has ended stays as it is. -/
def State.reloadTeam (f : Nat) (b : Block) (s : State) (ix : Nat) : State :=
  if (s.team (f * 32 + ix)).sched = .exited then s
  else s.setTeam (f * 32 + ix) (s.reloaded f b ix (s.team (f * 32 + ix)))

theorem State.reloadTeams_eq (f : Nat) (b : Block) (n : Nat) (s : State) :
    let u := (List.range n).foldl (State.reloadTeam f b) s
    u = { s with teams := u.teams } ∧ ∀ ix,
      u.team (f * 32 + ix) = if ix < n ∧ (s.team (f * 32 + ix)).sched ≠ .exited then s.reloaded f b ix (s.team (f * 32 + ix))
        else s.team (f * 32 + ix) := by
  induction n with
  | zero => exact ⟨rfl, fun ix => (if_neg fun h => absurd h.1 (Nat.not_lt_zero ix)).symm⟩
  | succ n ih =>
    obtain ⟨hrest, hteams⟩ := ih
    rw [List.range_succ, List.foldl_append, List.foldl_cons, List.foldl_nil]
    generalize (List.range n).foldl (State.reloadTeam f b) s = v at hrest hteams ⊢
    have hload (ix : Nat) (t : Team) : v.reloaded f b ix t = s.reloaded f b ix t := by
      unfold State.reloaded
      rw [State.loadTeam_congr (s := s) (fun pl => by rw [hrest]; rfl) (by rw [hrest])]
    have hn : v.team (f * 32 + n) = s.team (f * 32 + n) := (hteams n).trans (if_neg fun h => absurd h.1 (Nat.lt_irrefl n))
    unfold State.reloadTeam
    rw [hn, hload]
    by_cases hexit : (s.team (f * 32 + n)).sched = .exited
    · rw [if_pos hexit]
      refine ⟨hrest, fun ix => (hteams ix).trans (if_congr ?_ rfl rfl)⟩
      refine and_congr_left fun hlive => ⟨Nat.lt_succ_of_lt, fun h => lt_of_le_of_ne (Nat.le_of_lt_succ h) ?_⟩
      rintro rfl
      exact hlive hexit
    · rw [if_neg hexit]
      refine ⟨?_, fun ix => ?_⟩
      · conv_lhs => rw [hrest]
        rfl
      · by_cases hix : ix = n
        · subst hix
          rw [State.team_setTeam, if_pos ⟨Nat.lt_succ_self ix, hexit⟩]
        · rw [State.team_setTeam_other _ _ (by omega), hteams ix]
          exact if_congr (and_congr_left' ⟨Nat.lt_succ_of_lt, fun h => by omega⟩) rfl rfl

end
end Sys2Proof.Machine
end

section
/-! SUPPORT. A frozen block restored on a core (spec/13_preemption.md R292). -/
namespace Sys2Proof.Machine

section
variable {s : State} {f : Nat} {b : Block}

/-- A move of gangs changes clusters alone. -/
theorem State.moveGangs_rest (s : State) (f : Nat) (b : Block) (col : Nat) :
    s.moveGangs f b col = { s with clusters := (s.moveGangs f b col).clusters } := by
  unfold State.moveGangs
  dsimp only
  split_ifs
  · rfl
  · generalize s.gangsOf f b = l
    induction l using List.reverseRecOn with
    | nil => rfl
    | append_singleton l a ih =>
      rw [List.foldl_append, List.foldl_cons, List.foldl_nil]
      generalize l.foldl _ s = u at ih ⊢
      split
      · exact ih
      · conv_lhs => rw [ih]
        rfl

/-- A block that runs again where it has been restored. -/
def Block.runningOn (b : Block) (r : Resv) : Block :=
  { b with
    core := r.core, slots := r.slots, spbase := r.base, window := none, imaged := false, migTarget := none, resumeAsked := false
    deadlineLeft := b.deadline, heldAt := false, place := .running, freeze := none, forced := false, hit := false, stepping := none }

/-- A restore sets the block and its core up, reads its teams from the frame, and has them go on. -/
theorem State.restore_eq (r : Resv) (hstep : b.stepping = none) (hheld : b.heldAt = false) :
    ∃ v, v = { s with clusters := v.clusters, blocks := v.blocks, cores := v.cores } ∧ v.block? f = some (b.runningOn r) ∧
      let u := ((((List.range b.teams).foldl (State.reloadTeam f b) v).saveState f 1).resumeTeams f b).wake r.core
      s.restore f b r = if u.isShed (b.runningOn r) then u.requestFreeze f .shedding else u := by
  let bytes (s : State) := match b.window with
    | some w => s.windowRead f b w 0 b.scratch
    | none => []
  let set (s : State) := (s.setBlock f (b.runningOn r)).setCore r.core
    { (((s.setBlock f (b.runningOn r)).core r.core).dropAsid b.asid) with
      sp := ((s.setBlock f (b.runningOn r)).core r.core).sp.writeN r.base (bytes s) }
  refine ⟨set (s.moveGangs f b (colOf r.core)), ?_, State.block_setBlock (s.moveGangs f b (colOf r.core)) .., ?_⟩
  · exact congrArg (fun m : State => { m with
      clusters := (set (s.moveGangs f b (colOf r.core))).clusters, blocks := (set (s.moveGangs f b (colOf r.core))).blocks
      cores := (set (s.moveGangs f b (colOf r.core))).cores }) (s.moveGangs_rest f b (colOf r.core))
  · unfold State.restore
    simp only [hstep, hheld, Option.isSome_none, Option.isNone_none, Bool.false_eq_true, if_false, true_and]
    rfl
/-- Once restored a block runs, with its deadline afresh; a team of it that has ended is as it was, and a stopped one has what the
frame holds and goes on where it stood (R292): O56's last clause, where no team has a barrier boundary before it. -/
theorem State.restore_goesOn (r : Resv) (hstep : b.stepping = none) (hheld : b.heldAt = false) (hshed : s.isShed b = false)
    (hp : ∀ c ∈ ctxsOf f b, (s.team c).sched = .frozen → (s.team c).StopsPlain)
    (hbar : ∀ c ∈ ctxsOf f b, (s.team c).atBarrier = false) :
    (s.restore f b r).block? f = some (b.runningOn r) ∧ ∀ ix < b.teams,
      ((s.team (f * 32 + ix)).sched = .exited → (s.restore f b r).team (f * 32 + ix) = s.team (f * 32 + ix)) ∧
      ((s.team (f * 32 + ix)).sched = .frozen →
        (s.reloaded f b ix (s.team (f * 32 + ix))).GoesOnAs ((s.restore f b r).team (f * 32 + ix))) := by
  obtain ⟨v, hv, hblock, hrestore⟩ := s.restore_eq (f := f) r hstep hheld
  obtain ⟨hrest, hload⟩ := State.reloadTeams_eq f b b.teams v
  dsimp only at hrestore
  generalize (List.range b.teams).foldl (State.reloadTeam f b) v = w at hrest hload hrestore
  have hcopies := OnlyCopies.saveState w f 1
  generalize w.saveState f 1 = x at hcopies hrestore
  have hteam (ix : Nat) (hix : ix < b.teams) : x.team (f * 32 + ix) =
      if (s.team (f * 32 + ix)).sched = .exited then s.team (f * 32 + ix) else s.reloaded f b ix (s.team (f * 32 + ix)) := by
    have hvs : v.team (f * 32 + ix) = s.team (f * 32 + ix) := by rw [hv]; rfl
    have hloads (t : Team) : v.reloaded f b ix t = s.reloaded f b ix t := by
      unfold State.reloaded
      rw [State.loadTeam_congr (s := s) (fun pl => by rw [hv]; rfl) (by rw [hv])]
    rw [hcopies.team, hload, hvs, hloads]
    by_cases hexit : (s.team (f * 32 + ix)).sched = .exited
    · rw [if_pos hexit, if_neg fun h => h.2 hexit]
    · rw [if_neg hexit, if_pos ⟨hix, hexit⟩]
  have hctx (c : Nat) (hc : c ∈ ctxsOf f b) : (x.team c).sched = (s.team c).sched ∧ (x.team c).saved = (s.team c).saved ∧
      (x.team c).atBarrier = (s.team c).atBarrier := by
    obtain ⟨ix, hix, rfl⟩ := List.mem_map.1 hc
    rw [hteam ix (List.mem_range.1 hix)]
    split_ifs <;> exact ⟨rfl, rfl, rfl⟩
  obtain ⟨honly, hgoes⟩ := State.resumeTeams_goOn (s := x) hstep
    (fun c hc hs => by
      obtain ⟨hsched, hsaved, -⟩ := hctx c hc
      have := hp c hc (hsched ▸ hs)
      rwa [Team.StopsPlain, ← hsaved] at this)
    (fun c hc => (hctx c hc).2.2.trans (hbar c hc))
  have hrun : s.restore f b r = (x.resumeTeams f b).wake r.core := by
    refine hrestore.trans (if_neg ?_)
    rw [State.wake_rest]
    unfold State.isShed
    dsimp only
    rw [honly.power, hcopies.rest, hrest, hv]
    exact ne_true_of_eq_false hshed
  have hblocks : (x.resumeTeams f b).blocks = v.blocks := by rw [honly.blocks, hcopies.blocks, hrest]
  rw [hrun, State.wake_rest]
  refine ⟨(congrArg (Tab.get? · f) hblocks).trans hblock, fun ix hix => ?_⟩
  have hc : f * 32 + ix ∈ ctxsOf f b := List.mem_map.2 ⟨ix, List.mem_range.2 hix, rfl⟩
  obtain ⟨hfrozen, hother⟩ := hgoes _ hc
  obtain ⟨hsched, -⟩ := hctx _ hc
  refine ⟨fun hs => (hother ?_).trans ((hteam ix hix).trans (if_pos hs)), fun hs => ?_⟩
  · rw [hsched, hs]
    nofun
  · have := hfrozen (hsched.trans hs)
    rwa [hteam ix hix, if_neg (by rw [hs]; nofun)] at this

end
end Sys2Proof.Machine
end

section
/-! PROOF of O56's negation. -/
namespace Sys2Proof.Machine

/-! ## A team that ended while a barrier boundary was still before it -/

/-- A block of one team that the host has frozen, its window imaged. -/
def stoppedBlock : Block := { coreBlock 1 with place := .frozen, cause := Cause.hostfrz, window := some [], imaged := true }

/-- The place on core 0 that it takes again. -/
def oldSpot : Resv := { core := 0, slots := [0], base := 0 }

/-- The team of that block was released from a GBAR while it was frozen (R247), and then ended by the host's termination (R289), which leaves the
mark of that release. -/
def endedAtBarrier : State :=
  { teams := [(0, { sched := .exited, endCause := Cause.hostkill, atBarrier := true })], blocks := [(0, stoppedBlock)] }

/-- Refutes O56: its last clause has a restore leave a team that has ended as it was, and a restore clears the mark of a release from
a GBAR that the team may still have.  Such a team comes about when a frozen team is released and its block then terminated; the host
can have the block resumed before BLOCK_END.  `State.restore_goesOn` is the clause where no team has that mark.  Of the others, those
of the host's freeze, its termination, MIGWAIT's end and the stop of a team are `exec_hostFreeze` with `State.requestFreeze_host`,
`State.terminate_ends`, `exec_migwaitExpiry` and `State.capture_team` with `Team.keepLive_vreg`. -/
theorem not_freezesAndResumes : ¬ Obligations.FreezesAndResumes := by
  unfold Obligations.FreezesAndResumes
  intro h
  have hclears : ((endedAtBarrier.restore 0 stoppedBlock oldSpot).team 0).atBarrier = false := by decide +kernel
  have hended : ∀ c ∈ ctxsOf 0 stoppedBlock, (endedAtBarrier.team c).sched ≠ .frozen := by decide
  obtain ⟨-, -, -, -, -, -, -, -, -, -, -, -, -, hrestore⟩ := h endedAtBarrier 0 stoppedBlock rfl
  obtain ⟨-, hteams⟩ := hrestore oldSpot rfl rfl rfl rfl rfl fun c hc hfrozen => absurd hfrozen (hended c hc)
  obtain ⟨hexited, -⟩ := hteams 0 (by decide)
  have hkeeps : (endedAtBarrier.restore 0 stoppedBlock oldSpot).team 0 = endedAtBarrier.team 0 := hexited rfl
  have hmark : (endedAtBarrier.team 0).atBarrier = true := rfl
  rw [hkeeps, hmark] at hclears
  exact Bool.noConfusion hclears

end Sys2Proof.Machine
end
